-- ==== Sys2Proof/Word.lean ====
section
/-! DEFINITION. The word types of the machine (spec/00 R5, R8). -/

namespace Sys2Proof

abbrev Byte := BitVec 8
/-- A general register. -/
abbrev Word := BitVec 64
/-- A pointer register, an address (R85). -/
abbrev Addr := BitVec 80
/-- A vector register (R228). -/
abbrev VReg := BitVec 2048
/-- One 64-byte line. -/
abbrev Line := BitVec 512

end Sys2Proof
end

