-- ==== Sys2Proof/Machine/Bits.lean ====
section
/-! DEFINITION. Bit fields, sign extension and byte order (spec/00 R5, R7; spec/10 R172, R174). -/

namespace Sys2Proof.Machine

/-- The bits `hi` to `lo` of a natural number. -/
def field (n hi lo : Nat) : Nat := n / 2 ^ lo % 2 ^ (hi + 1 - lo)

def bit (n i : Nat) : Bool := n.testBit i

/-- A `w`-bit two's complement number. -/
def toSigned (w n : Nat) : Int := if n < 2 ^ (w - 1) then (n : Int) else (n : Int) - (2 ^ w : Nat)

/-- A `w`-bit immediate, sign-extended to 64 bits; no bits give 0 (R174). -/
def sext64 (w n : Nat) : Word :=
  if w = 0 then 0 else if n < 2 ^ (w - 1) then BitVec.ofNat 64 n else BitVec.ofNat 64 (n + (2 ^ 64 - 2 ^ w))

/-- The low `n` bytes of `v`, lowest address first (R5). -/
def toBytes : Nat → Nat → List Byte
  | 0, _ => []
  | n + 1, v => BitVec.ofNat 8 v :: toBytes n (v / 256)

/-- The number whose little-endian bytes are given (R5). -/
def ofBytes : List Byte → Nat
  | [] => 0
  | b :: bs => b.toNat + 256 * ofBytes bs

/-- popc(x) (R10). -/
def popcount : Nat → Nat → Nat
  | 0, _ => 0
  | w + 1, n => n % 2 + popcount w (n / 2)

/-- Ceiling division. -/
def ceilDiv (a b : Nat) : Nat := (a + b - 1) / b

/-- Bytes of two 16-bit words and back: the memory order of R172. -/
def wordsOfBytes : List Byte → List (BitVec 16)
  | lo :: hi :: bs => (hi ++ lo) :: wordsOfBytes bs
  | _ => []

def bytesOfWords : List (BitVec 16) → List Byte
  | [] => []
  | w :: ws => w.truncate 8 :: (w >>> 8).truncate 8 :: bytesOfWords ws

/-- `set` on an association list, keeping the first place of a key. -/
def aset {α β : Type} [DecidableEq α] (k : α) (v : β) : List (α × β) → List (α × β)
  | [] => [(k, v)]
  | (k', v') :: l => if k' = k then (k, v) :: l else (k', v') :: aset k v l

def aget {α β : Type} [DecidableEq α] (k : α) : List (α × β) → Option β
  | [] => none
  | (k', v) :: l => if k' = k then some v else aget k l

/-- Insert into a strictly rising list of numbers. -/
def insertNat (n : Nat) : List Nat → List Nat
  | [] => [n]
  | m :: l => if n < m then n :: m :: l else if n = m then m :: l else m :: insertNat n l

def removeNat (n : Nat) : List Nat → List Nat
  | [] => []
  | m :: l => if n = m then l else m :: removeNat n l

end Sys2Proof.Machine
end

