-- ==== Sys2Proof/Machine/Num.lean ====
section
/-! DEFINITION. Number formats, rounding and sums (spec/05 R109 to R126). -/

namespace Sys2Proof.Machine

/-- A floating-point format (R110): exponent and fraction bits, bias, whether it has infinities, its largest
finite value `maxM` × 2^`maxE`, its canonical NaN. -/
structure Fmt where
  w : Nat
  f : Nat
  bias : Nat
  infs : Bool
  maxM : Nat
  maxE : Int
  nan : Nat
  deriving DecidableEq, Repr

def Fmt.bits (t : Fmt) : Nat := t.w + t.f + 1
def Fmt.emin (t : Fmt) : Int := 1 - (t.bias : Int)

def f64 : Fmt := { w := 11, f := 52, bias := 1023, infs := true, maxM := 2 ^ 53 - 1, maxE := 971, nan := 0x7FF8000000000000 }
def f32 : Fmt := { w := 8, f := 23, bias := 127, infs := true, maxM := 2 ^ 24 - 1, maxE := 104, nan := 0x7FC00000 }
def f16 : Fmt := { w := 5, f := 10, bias := 15, infs := true, maxM := 2 ^ 11 - 1, maxE := 5, nan := 0x7E00 }
def bf16 : Fmt := { w := 8, f := 7, bias := 127, infs := true, maxM := 255, maxE := 120, nan := 0x7FC0 }
def e4m3 : Fmt := { w := 4, f := 3, bias := 7, infs := false, maxM := 14, maxE := 5, nan := 0x7F }
def e5m2 : Fmt := { w := 5, f := 2, bias := 15, infs := true, maxM := 7, maxE := 13, nan := 0x7E }

/-- The floating-point formats by code (R109). -/
def fmtOf : Nat → Option Fmt
  | 0 => some f64 | 1 => some f32 | 2 => some f16 | 3 => some bf16 | 4 => some e4m3 | 5 => some e5m2
  | _ => none

/-- Bits per element of a format code (R109). -/
def codeBits : Nat → Nat
  | 0 => 64 | 1 => 32 | 2 => 16 | 3 => 16 | 8 => 4
  | _ => 8

/-- An exact value: a number (−1)^neg × m × 2^e, an infinity or a NaN. A quotient or a root that is no such number
stands as one with 128 bits and more and a last bit 1 that no rounding mistakes for an exact value. -/
inductive Val where
  | nan
  | inf (neg : Bool)
  | fin (neg : Bool) (m : Nat) (e : Int)
  deriving DecidableEq, Repr

def Val.zero (neg : Bool) : Val := .fin neg 0 0
def Val.ofInt (i : Int) : Val := .fin (decide (i < 0)) i.natAbs 0

/-- decode(fmt, bits) (R111). -/
def decodeF (t : Fmt) (n : Nat) : Val :=
  let s := bit n (t.w + t.f)
  let e := field n (t.w + t.f - 1) t.f
  let fr := n % 2 ^ t.f
  let emax := 2 ^ t.w - 1
  if e = 0 then .fin s fr (t.emin - t.f)
  else if e < emax ∨ (!t.infs ∧ fr ≠ 2 ^ t.f - 1) then .fin s (2 ^ t.f + fr) ((e : Int) - t.bias - t.f)
  else if t.infs ∧ fr = 0 then .inf s
  else .nan

/-- m × 2^e as a pair at the smaller of two exponents. -/
def atExp (m : Nat) (e lo : Int) : Nat := m * 2 ^ (e - lo).toNat

/-- The signed mantissa at exponent `lo`. -/
def sgnAt (neg : Bool) (m : Nat) (e lo : Int) : Int :=
  if neg then -(atExp m e lo : Int) else (atExp m e lo : Int)

/-- Order of two numbers: −1, 0 or 1; zeros compare equal. Not for NaN. -/
def Val.cmp : Val → Val → Int
  | .inf a, .inf b => if a = b then 0 else if a then -1 else 1
  | .inf a, _ => if a then -1 else 1
  | _, .inf b => if b then 1 else -1
  | .fin a m e, .fin b n h =>
    let lo := min e h
    let x := sgnAt a m e lo
    let y := sgnAt b n h lo
    if x < y then -1 else if x = y then 0 else 1
  | _, _ => 0

def Val.isNan : Val → Bool
  | .nan => true
  | _ => false

def Val.neg : Val → Bool
  | .inf a => a
  | .fin a _ _ => a
  | .nan => false

def Val.negate : Val → Val
  | .nan => .nan
  | .inf a => .inf (!a)
  | .fin a m e => .fin (!a) m e

/-- The exact sum; an exact zero of opposite signs is +0, and −0 under RDN (R112, R122). -/
def Val.add (rdn : Bool) : Val → Val → Val
  | .nan, _ | _, .nan => .nan
  | .inf a, .inf b => if a = b then .inf a else .nan
  | .inf a, _ => .inf a
  | _, .inf b => .inf b
  | .fin a m e, .fin b n h =>
    let lo := min e h
    let s := sgnAt a m e lo + sgnAt b n h lo
    if s = 0 then .zero (if a = b then a else rdn) else .fin (decide (s < 0)) s.natAbs lo

def Val.mul : Val → Val → Val
  | .nan, _ | _, .nan => .nan
  | .inf a, .inf b => .inf (a != b)
  | .inf a, .fin b n _ => if n = 0 then .nan else .inf (a != b)
  | .fin a m _, .inf b => if m = 0 then .nan else .inf (a != b)
  | .fin a m e, .fin b n h => .fin (a != b) (m * n) (e + h)

/-- A whole quotient or root with its last bit marking what was cut off. -/
def sticky (q : Nat) (rest : Bool) : Nat := 2 * q + (if rest then 1 else 0)

def Val.div : Val → Val → Val
  | .nan, _ | _, .nan => .nan
  | .inf _, .inf _ => .nan
  | .inf a, .fin b _ _ => .inf (a != b)
  | .fin a _ _, .inf b => .zero (a != b)
  | .fin a m e, .fin b n h =>
    if n = 0 then (if m = 0 then .nan else .inf (a != b))
    else
      let k := 160 + Nat.log2 n
      .fin (a != b) (sticky (m * 2 ^ k / n) (m * 2 ^ k % n ≠ 0)) (e - h - k - 1)

/-- The largest r with r² ≤ n, bit by bit from 2^(k − 1) down. -/
def isqrt : Nat → Nat → Nat → Nat
  | 0, _, r => r
  | k + 1, n, r => if (r + 2 ^ k) * (r + 2 ^ k) ≤ n then isqrt k n (r + 2 ^ k) else isqrt k n r

def Val.sqrt : Val → Val
  | .nan => .nan
  | .inf a => if a then .nan else .inf false
  | .fin a m e =>
    if m = 0 then .zero a
    else if a then .nan
    else
      let odd := e % 2 ≠ 0
      let n := m * 2 ^ (if odd then 321 else 320)
      let r := isqrt (Nat.log2 n / 2 + 1) n 0
      .fin false (sticky r (r * r ≠ n)) ((e - (if odd then 321 else 320)) / 2 - 1)

/-- Rounding modes (R118). -/
abbrev RMode := BitVec 3

/-- mix (R121). -/
def mix (z : Word) : Word :=
  let z := (z ^^^ (z >>> 30)) * 0xBF58476D1CE4E5B9
  let z := (z ^^^ (z >>> 27)) * 0x94D049BB133111EB
  z ^^^ (z >>> 31)

/-- The key part of the stream of next_z, and its n-th draw (R121). -/
def srBase (rkey : Word) (lcore sq : Nat) : Word :=
  rkey ^^^ (BitVec.ofNat 64 lcore <<< 40) ^^^ (BitVec.ofNat 64 sq <<< 38)
def drawZ (base n : Word) : Word := mix (base + n * 0x9E3779B97F4A7C15)

/-- Whether round_to rounds |x| = lo + fr up, for fr = r / d (R119). -/
def roundsUp (mode : RMode) (neg : Bool) (lo r d : Nat) (z : Word) : Bool :=
  match mode.toNat with
  | 0 => decide (d < 2 * r) || (decide (2 * r = d) && decide (lo % 2 = 1))
  | 1 => false
  | 2 => decide (0 < r) && !neg
  | 3 => decide (0 < r) && neg
  | 4 => decide (d ≤ 2 * r)
  | _ => decide (2 ^ 32 ≤ r * 2 ^ 32 / d + (z >>> 32).toNat)

/-- |x| rounded to a multiple of 2^k: the multiple. -/
def roundAt (mode : RMode) (neg : Bool) (m : Nat) (e k : Int) (z : Word) : Nat :=
  if k ≤ e then atExp m e k
  else
    let d := 2 ^ (k - e).toNat
    let lo := m / d
    if roundsUp mode neg lo (m % d) d z then lo + 1 else lo

/-- A call of round_to with SR takes one count: x is finite and not zero (R119). -/
def takesCount (mode : RMode) : Val → Bool
  | .fin _ m _ => mode = 5#3 && m ≠ 0
  | _ => false

/-- round_to(int, x, mode), which has no range limit (R116, R119). -/
def roundInt (mode : RMode) (z : Word) : Val → Val
  | .fin s m e => .fin s (roundAt mode s m e 0 z) 0
  | x => x

/-- overflow(fmt, x, mode) (R119). -/
def overflow (t : Fmt) (neg : Bool) (mode : RMode) : Val :=
  let large := Val.fin neg t.maxM t.maxE
  match mode.toNat with
  | 1 => large
  | 2 => if neg then large else .inf false
  | 3 => if neg then .inf true else large
  | _ => .inf neg

/-- round_to(fmt, x, mode) (R119). -/
def roundTo (t : Fmt) (mode : RMode) (z : Word) : Val → Val
  | .fin s m e =>
    if m = 0 then .fin s m e
    else
      let k := max ((Nat.log2 m : Int) + e) t.emin - t.f
      let y := roundAt mode s m e k z
      if Val.cmp (.fin false t.maxM t.maxE) (.fin false y k) < 0 then overflow t s mode else .fin s y k
  | x => x

/-- The encoding of a member of the value set (R111). -/
def bitsOf (t : Fmt) : Val → Nat
  | .nan => t.nan
  | .inf s => (if s then 2 ^ (t.w + t.f) else 0) + (2 ^ t.w - 1) * 2 ^ t.f
  | .fin s m e =>
    let sg := if s then 2 ^ (t.w + t.f) else 0
    if m = 0 then sg
    else
      let top := (Nat.log2 m : Int) + e
      let k := max top t.emin - t.f
      let fr := if k ≤ e then m * 2 ^ (e - k).toNat else m / 2 ^ (k - e).toNat
      if top < t.emin then sg + fr else sg + (top + t.bias).toNat * 2 ^ t.f + (fr - 2 ^ t.f)

/-- encode(fmt, x, mode, sat) of a floating-point format (R120). -/
def encodeF (t : Fmt) (x : Val) (mode : RMode) (sat : Bool) (z : Word) : Nat :=
  let y := roundTo t mode z x
  match y with
  | .inf s => if sat then bitsOf t (.fin s t.maxM t.maxE) else if t.infs then bitsOf t y else t.nan
  | y => bitsOf t y

/-- The value clamped to a range of integers; 0 for NaN (R120, R218). -/
def clampInt (lo hi : Int) : Val → Int
  | .nan => 0
  | .inf s => if s then lo else hi
  | .fin s m e => max lo (min hi (sgnAt s m e 0))

def encodeInt (lo hi : Int) (x : Val) (mode : RMode) (z : Word) : Int := clampInt lo hi (roundInt mode z x)

/-- An integer as the low `w` bits. -/
def intBits (w : Nat) (i : Int) : Nat := (i % (2 ^ w : Nat)).toNat

/-- decode of one element by format code; I4X elements are decoded by block (R111, R113). -/
def decodeCode (c n : Nat) : Val :=
  match fmtOf c with
  | some t => decodeF t n
  | none => if c = 6 then .ofInt (toSigned 8 (n % 256)) else .ofInt (n % 256 : Nat)

/-- encode of one element by format code (R120). -/
def encodeCode (c : Nat) (x : Val) (mode : RMode) (sat : Bool) (z : Word) : Nat :=
  match fmtOf c with
  | some t => encodeF t x mode sat z
  | none => if c = 6 then intBits 8 (encodeInt (-128) 127 x mode z) else intBits 8 (encodeInt 0 255 x mode z)

/-- A stream of SR draws: base and the next count. -/
structure Draws where
  base : Word
  n : Word
  deriving DecidableEq, Repr

def Draws.z (d : Draws) : Word := drawZ d.base d.n
/-- The stream after a round_to of `x`. -/
def Draws.after (d : Draws) (mode : RMode) (x : Val) : Draws :=
  if takesCount mode x then { d with n := d.n + 1 } else d

/-- Elements encoded in ascending order (R121). -/
def encodeAll (c : Nat) (mode : RMode) (sat : Bool) (d : Draws) : List Val → List Nat × Draws
  | [] => ([], d)
  | x :: xs =>
    let r := encodeAll c mode sat (d.after mode x) xs
    (encodeCode c x mode sat d.z :: r.1, r.2)

/-- A block scale (R114). -/
def scaleOf (c : Byte) : Val := if c = 0xFF#8 then .nan else .fin false 1 (c.toNat - 127)

/-- x × 2^k exactly; NaN and infinities stay. -/
def Val.scale : Val → Val → Val
  | .fin a m e, .fin _ n h => .fin a (m * n) (e + h)
  | .inf a, .fin _ _ _ => .inf a
  | _, _ => .nan

/-- The I4X decoder from slot `i` on (R115): the values, and whether ESC_EDGE is set. -/
def decodeI4x : Nat → Nat → List Nat → List Val × Bool
  | 0, _, _ => ([], false)
  | n + 1, i, slots =>
    match slots with
    | [] => ([], false)
    | c :: rest =>
      if c = 8 then
        match rest with
        | a :: b :: rest' =>
          if i ≤ 29 then
            let r := decodeI4x n (i + 3) rest'
            (decodeF e4m3 (a * 16 + b) :: .zero false :: .zero false :: r.1, r.2)
          else
            let r := decodeI4x n (i + 1) rest
            (.zero false :: r.1, true)
        | _ =>
          let r := decodeI4x n (i + 1) rest
          (.zero false :: r.1, true)
      else
        let r := decodeI4x n (i + 1) rest
        (.ofInt (toSigned 4 c) :: r.1, r.2)

/-- The I4X encoder from slot `i` on over the values already divided by S (R116). -/
def encodeI4x : Nat → Nat → RMode → Bool → Draws → List Val → List Nat × Bool × Draws
  | 0, _, _, _, d, _ => ([], false, d)
  | n + 1, i, mode, sat, d, ys =>
    match ys with
    | [] => ([], false, d)
    | y :: rest =>
      let r := roundInt mode d.z y
      let d1 := d.after mode y
      let small := match r with
        | .fin _ m e => decide (atExp m e 0 ≤ 7)
        | _ => false
      if small then
        let k := match r with
          | .fin s m e => intBits 4 (sgnAt s m e 0)
          | _ => 0
        let t := encodeI4x n (i + 1) mode sat d1 rest
        (k :: t.1, t.2.1, t.2.2)
      else if i ≤ 29 then
        let b := encodeF e4m3 y mode sat d1.z
        let t := encodeI4x n (i + 3) mode sat (d1.after mode y) (rest.drop 2)
        (8 :: b / 16 :: b % 16 :: t.1, t.2.1, t.2.2)
      else if y.isNan then
        let t := encodeI4x n (i + 1) mode sat d1 rest
        (0 :: t.1, true, t.2.2)
      else
        let t := encodeI4x n (i + 1) mode sat d1 rest
        ((if y.neg then 9 else 7) :: t.1, t.2.1, t.2.2)

/-- The nibbles of bytes, low first, and back (R115). -/
def nibbles : List Byte → List Nat
  | [] => []
  | b :: bs => b.toNat % 16 :: b.toNat / 16 :: nibbles bs

def ofNibbles : List Nat → List Byte
  | a :: b :: l => BitVec.ofNat 8 (a + 16 * b) :: ofNibbles l
  | [a] => [BitVec.ofNat 8 a]
  | [] => []

/-- One step of the sum of R123 over a k-group: infinities and NaN as R123 states. -/
def exactSum (xs : List Val) : Val :=
  if xs.all (fun x => match x with | .fin s m _ => s && m = 0 | _ => false) && !xs.isEmpty then .zero true
  else
    xs.foldl (fun acc x => match Val.add false acc x with
      | .fin s m e => if m = 0 then .zero false else .fin s m e
      | v => v) (.zero false)

/-- The pairwise tree of R125 and R126: an odd last element passes up unchanged. `n` bounds the levels. -/
def pairLevel {α : Type} (f : α → α → α) : List α → List α
  | a :: b :: l => f a b :: pairLevel f l
  | l => l

def tree {α : Type} (f : α → α → α) : Nat → List α → Option α
  | 0, l => l.head?
  | _ + 1, [] => none
  | _ + 1, [a] => some a
  | n + 1, l => tree f n (pairLevel f l)

end Sys2Proof.Machine
end

