-- ==== Sys2Proof/Machine/Flags.lean ====
section
/-! DEFINITION. Conditions and classes: what a predicate or a flag receives (spec/11 R211, R212, R217, R219;
spec/12 R237; spec/05 R117). -/

namespace Sys2Proof.Machine

/-- The conditions of CMP and CMPI (R211). -/
def cmpHolds (cc : BitVec 3) (b y : Word) : Bool :=
  match cc.toNat with
  | 0 => b == y
  | 1 => b != y
  | 2 => b.slt y
  | 3 => !b.slt y
  | 4 => b.ult y
  | 5 => !b.ult y
  | 6 => (b &&& y) != 0
  | _ => (b &&& y) == 0

/-- The conditions of PCMP (R212). -/
def pcmpHolds (cc : BitVec 2) (b y : Addr) : Bool :=
  match cc.toNat with
  | 0 => b == y
  | 1 => b != y
  | 2 => b.ult y
  | _ => !b.ult y

/-- The conditions of FCMP (R217): .eq, .lt and .le are false, and .un true, where an operand is NaN. -/
def fcmpHolds (cc : BitVec 2) (b y : Val) : Bool :=
  let un := b.isNan || y.isNan
  match cc.toNat with
  | 0 => !un && b.cmp y == 0
  | 1 => !un && decide (b.cmp y < 0)
  | 2 => !un && decide (b.cmp y ≤ 0)
  | _ => un

/-- FCLASS (R219): the one bit that is set. -/
def classBit (t : Fmt) (v : Val) : Nat :=
  match v with
  | .nan => 8
  | .inf s => if s then 0 else 7
  | .fin s m e =>
    if m = 0 then (if s then 3 else 4)
    else
      let sub := decide ((Nat.log2 m : Int) + e < t.emin)
      if s then (if sub then 2 else 1) else (if sub then 5 else 6)

/-- FMT_ANOMALY (R117): bit 0 ESC_EDGE, bit 1 SCALE_NAN. -/
def escEdge : Word := 1
def scaleNan : Word := 2

end Sys2Proof.Machine
end

