-- ==== Sys2Proof/Syntax.lean ====
section
/-! DEFINITION. The instructions and events of Seluri, one constructor for each row of spec/opcode_table.json.
Operand forms follow spec/10 R173 to R188. -/

namespace Sys2Proof

/-- A sequencer (R21); `s` is the supervisor context (R349). -/
inductive Seq where
  | x | a | m | s
  deriving DecidableEq, Repr

/-- A neighbour port (R107). -/
inductive Dir where
  | north | east | south | west
  deriving DecidableEq, Repr

/-- A g register number. -/
abbrev GReg := BitVec 6

/-- A g operand: a register, or a port named by the operand-source word (R177). -/
inductive GOp where
  | reg (n : GReg)
  | port (d : Dir)
  deriving DecidableEq, Repr

/-- A heartbeat of the arbiter of a span partition, and whether the standby misses it (R156). -/
structure Heartbeat where
  part : Nat
  lost : Bool
  deriving DecidableEq, Repr

/-- The register of CRRD and CRWR: a g or a p register, as the control register asks, or a port in place of a g (R177,
R192). -/
inductive CrOp where
  | reg (n : BitVec 4)
  | port (d : Dir)
  deriving DecidableEq, Repr

/-- A predicate destination: a register, or the branch-outcome queue of a sequencer (R177). -/
inductive QDst where
  | q (n : BitVec 3)
  | bq (dest : Seq)
  deriving DecidableEq, Repr

/-- The base of a memory operand: a pointer, or a handle with its wait count less one (R104, R177). -/
inductive PBase where
  | ptr (n : BitVec 4)
  | handle (h : BitVec 3) (arg : Byte)
  deriving DecidableEq, Repr

/-- A level code (R180). -/
inductive Lvl where
  | l (k : BitVec 3)
  | inner
  deriving DecidableEq, Repr

/-- A signal operand (R186). -/
structure SigOp where
  lvl : Lvl
  idx : BitVec 6
  deriving DecidableEq, Repr

/-- Formats RR and F (R181): two-address, three-address, or three-address with an amount in C. -/
inductive RR where
  | two (a : BitVec 4) (b : GOp)
  | three (d x : GOp) (c : GReg)
  | imm (d x : GOp) (c : BitVec 6)
  deriving DecidableEq, Repr

/-- Format RU (R181): the source in B, or in c. -/
inductive RU where
  | two (d s : GOp)
  | ext (d : GOp) (c : GReg)
  deriving DecidableEq, Repr

/-- PADD (R212). -/
inductive PaddArgs where
  | two (a : BitVec 4) (g : GOp)
  | three (a b : BitVec 4) (c : GReg)
  deriving DecidableEq, Repr

/-- Vector operands v, v, v (R183). -/
inductive VV where
  | two (a b : BitVec 4)
  | three (a b c : BitVec 5)
  | imm (a b : BitVec 5) (c : BitVec 6)
  deriving DecidableEq, Repr

/-- Mask operands m, m, m (R249). -/
inductive MM where
  | two (a b : BitVec 3)
  | three (a b c : BitVec 3)
  deriving DecidableEq, Repr

/-- A float format of the scalar unit, as MINOR codes it (R219). -/
inductive FFmt where
  | f64 | f32 | f16 | bf16
  deriving DecidableEq, Repr

/-- A size of majors 0x15 to 0x19 (R182). -/
abbrev Size := BitVec 2

/-- The destination of COPY (R185). -/
inductive WDst where
  | ptr (n : BitVec 4)
  | handle (h : BitVec 3)
  deriving DecidableEq, Repr

/-- What a management failure hits (R369). -/
inductive FailedUnit where
  | cluster (n : Nat)
  | stack (n : Nat)
  | link (n : Nat)
  deriving DecidableEq, Repr

/-- Where in the host function's BARs an access goes (R366, R370): to an address of the global space, through BAR 4, or to an
offset in the capability window at the start of BAR 2. -/
inductive HostBar where
  | global (va : Addr)
  | capability (off : Addr)
  deriving DecidableEq, Repr

/-- One constructor for each row of spec/opcode_table.json: first the instructions, then the events. -/
inductive Instr where
  /-- NOP (R203). -/
  | nop
  /-- RET (R203). -/
  | ret
  /-- YIELD (R205). -/
  | yield
  /-- RTU (R202). -/
  | rtu
  /-- FOLLOW (R27). -/
  | follow
  /-- TRAP (R201). -/
  | trap (code : Byte)
  /-- CHUNK (R203). -/
  | chunk
  /-- B (R204). -/
  | b (off : Word)
  /-- CALL (R203). -/
  | call (off : Word)
  /-- J (R203). -/
  | j (p : BitVec 4)
  /-- CALL_P (R203). -/
  | callP (p : BitVec 4)
  /-- LOOP (R204). -/
  | loop (g : GReg) (off : Word)
  /-- BC (R203). -/
  | bc (q : BitVec 3) (off : Word)
  /-- BC_N (R203). -/
  | bcN (q : BitVec 3) (off : Word)
  /-- BQ (R24). -/
  | bq (off : Word)
  /-- BQP (R24). -/
  | bqp (q : QDst)
  /-- SLEEP (R98). -/
  | sleep (d : BitVec 3)
  /-- WAITC (R102). -/
  | waitc (k : BitVec 4) (g : GOp)
  /-- WAITC_SUB (R206). -/
  | waitcSub (k : BitVec 4) (g : GOp)
  /-- FENCE_ACQ (R135). -/
  | fenceAcq
  /-- FENCE_REL (R136). -/
  | fenceRel
  /-- FENCE_FULL (R136). -/
  | fenceFull
  /-- FLUSH (R136). -/
  | flush
  /-- ADD (R207). -/
  | add (r : RR)
  /-- SUB (R207). -/
  | sub (r : RR)
  /-- AND (R207). -/
  | and (r : RR)
  /-- OR (R207). -/
  | or (r : RR)
  /-- XOR (R207). -/
  | xor (r : RR)
  /-- ANDN (R207). -/
  | andn (r : RR)
  /-- MIN (R207). -/
  | min (r : RR)
  /-- MAX (R207). -/
  | max (r : RR)
  /-- MINU (R207). -/
  | minu (r : RR)
  /-- MAXU (R207). -/
  | maxu (r : RR)
  /-- MUL (R207). -/
  | mul (r : RR)
  /-- MULH (R207). -/
  | mulh (r : RR)
  /-- MULHU (R207). -/
  | mulhu (r : RR)
  /-- CLMUL (R207). -/
  | clmul (r : RR)
  /-- CLMULH (R207). -/
  | clmulh (r : RR)
  /-- INSR (R209). -/
  | insr (a : GReg) (b : GOp) (pos len1 : BitVec 6)
  /-- DIV (R208). -/
  | div (r : RR)
  /-- DIVU (R208). -/
  | divu (r : RR)
  /-- REM (R208). -/
  | rem (r : RR)
  /-- REMU (R208). -/
  | remu (r : RR)
  /-- SHL (R207). -/
  | shl (r : RR)
  /-- SHR (R207). -/
  | shr (r : RR)
  /-- SAR (R207). -/
  | sar (r : RR)
  /-- ROL (R207). -/
  | rol (r : RR)
  /-- MOV (R209). -/
  | mov (r : RU)
  /-- NEG (R209). -/
  | neg (r : RU)
  /-- ABS (R209). -/
  | abs (r : RU)
  /-- POPC (R209). -/
  | popc (r : RU)
  /-- CLZ (R209). -/
  | clz (r : RU)
  /-- CTZ (R209). -/
  | ctz (r : RU)
  /-- BSWAP (R209). -/
  | bswap (r : RU)
  /-- EXTR (R209). -/
  | extr (d b : GOp) (pos len1 : BitVec 6)
  /-- SEL (R209). -/
  | sel (k : BitVec 3) (d b : GOp) (c : GReg)
  /-- ADDI (R210). -/
  | addi (g : GReg) (imm : Word)
  /-- LDI (R210). -/
  | ldi (g : GOp) (imm : Word)
  /-- LDIH (R210). -/
  | ldih (g : GReg) (imm : BitVec 32)
  /-- SHL_IMM (R210). -/
  | shlImm (g : GReg) (n : BitVec 6)
  /-- SHR_IMM (R210). -/
  | shrImm (g : GReg) (n : BitVec 6)
  /-- SAR_IMM (R210). -/
  | sarImm (g : GReg) (n : BitVec 6)
  /-- ROL_IMM (R210). -/
  | rolImm (g : GReg) (n : BitVec 6)
  /-- PADDI (R210). -/
  | paddi (p : BitVec 4) (imm : Word)
  /-- CMP (R211). -/
  | cmp (cc : BitVec 3) (q : QDst) (b : GOp) (c : Option GReg)
  /-- CMPI (R211). -/
  | cmpi (cc : BitVec 3) (q : QDst) (b : GOp) (imm : Word)
  /-- PADD (R212). -/
  | padd (r : PaddArgs)
  /-- PSET (R212). -/
  | pset (p : BitVec 4) (g : GOp) (c : Option GReg)
  /-- PGET (R212). -/
  | pget (g : GOp) (p : BitVec 4)
  /-- PGET_HI (R212). -/
  | pgetHi (g : GOp) (p : BitVec 4)
  /-- PMAKE (R213). -/
  | pmake (p : BitVec 4) (g : GOp) (c : Option GReg)
  /-- QAND (R212). -/
  | qand (a b : BitVec 3)
  /-- QOR (R212). -/
  | qor (a b : BitVec 3)
  /-- QNOT (R212). -/
  | qnot (a : QDst) (b : BitVec 3)
  /-- PCMP (R212). -/
  | pcmp (cc : BitVec 2) (q : QDst) (b : BitVec 4) (c : Option (BitVec 4))
  /-- QSET (R212). -/
  | qset (q : QDst) (v : Bool)
  /-- FADD_F64 (R215). -/
  | faddF64 (r : RR)
  /-- FSUB_F64 (R215). -/
  | fsubF64 (r : RR)
  /-- FMUL_F64 (R215). -/
  | fmulF64 (r : RR)
  /-- FFMA_F64 (R215). -/
  | ffmaF64 (a : GReg) (b : GOp) (c : GReg)
  /-- FDIV_F64 (R215). -/
  | fdivF64 (r : RR)
  /-- FSQRT_F64 (R215). -/
  | fsqrtF64 (r : RU)
  /-- FMIN_F64 (R216). -/
  | fminF64 (r : RR)
  /-- FMAX_F64 (R216). -/
  | fmaxF64 (r : RR)
  /-- FADD_F32 (R215). -/
  | faddF32 (r : RR)
  /-- FSUB_F32 (R215). -/
  | fsubF32 (r : RR)
  /-- FMUL_F32 (R215). -/
  | fmulF32 (r : RR)
  /-- FFMA_F32 (R215). -/
  | ffmaF32 (a : GReg) (b : GOp) (c : GReg)
  /-- FDIV_F32 (R215). -/
  | fdivF32 (r : RR)
  /-- FSQRT_F32 (R215). -/
  | fsqrtF32 (r : RU)
  /-- FMIN_F32 (R216). -/
  | fminF32 (r : RR)
  /-- FMAX_F32 (R216). -/
  | fmaxF32 (r : RR)
  /-- FADD_F16 (R215). -/
  | faddF16 (r : RR)
  /-- FSUB_F16 (R215). -/
  | fsubF16 (r : RR)
  /-- FMUL_F16 (R215). -/
  | fmulF16 (r : RR)
  /-- FFMA_F16 (R215). -/
  | ffmaF16 (a : GReg) (b : GOp) (c : GReg)
  /-- FDIV_F16 (R215). -/
  | fdivF16 (r : RR)
  /-- FSQRT_F16 (R215). -/
  | fsqrtF16 (r : RU)
  /-- FMIN_F16 (R216). -/
  | fminF16 (r : RR)
  /-- FMAX_F16 (R216). -/
  | fmaxF16 (r : RR)
  /-- FADD_BF16 (R215). -/
  | faddBf16 (r : RR)
  /-- FSUB_BF16 (R215). -/
  | fsubBf16 (r : RR)
  /-- FMUL_BF16 (R215). -/
  | fmulBf16 (r : RR)
  /-- FFMA_BF16 (R215). -/
  | ffmaBf16 (a : GReg) (b : GOp) (c : GReg)
  /-- FDIV_BF16 (R215). -/
  | fdivBf16 (r : RR)
  /-- FSQRT_BF16 (R215). -/
  | fsqrtBf16 (r : RU)
  /-- FMIN_BF16 (R216). -/
  | fminBf16 (r : RR)
  /-- FMAX_BF16 (R216). -/
  | fmaxBf16 (r : RR)
  /-- FCMP_F64 (R217). -/
  | fcmpF64 (cc : BitVec 2) (q : QDst) (b : GOp) (c : Option GReg)
  /-- FCMP_F32 (R217). -/
  | fcmpF32 (cc : BitVec 2) (q : QDst) (b : GOp) (c : Option GReg)
  /-- FCMP_F16 (R217). -/
  | fcmpF16 (cc : BitVec 2) (q : QDst) (b : GOp) (c : Option GReg)
  /-- FCMP_BF16 (R217). -/
  | fcmpBf16 (cc : BitVec 2) (q : QDst) (b : GOp) (c : Option GReg)
  /-- FCVT (R218). -/
  | fcvt (dst src : BitVec 3) (sat : Bool) (d b : GOp)
  /-- FCLASS (R219). -/
  | fclass (f : FFmt) (r : RU)
  /-- FMOV (R219). -/
  | fmov (f : FFmt) (r : RU)
  /-- LD (R220). -/
  | ld (sz : Size) (g : GOp) (base : PBase) (disp : Word)
  /-- LD_WR (R91). -/
  | ldWr (sz : Size) (g : GOp) (base : PBase) (disp : Word)
  /-- LDS (R220). -/
  | lds (sz : Size) (g : GOp) (base : PBase) (disp : Word)
  /-- LDS_WR (R220). -/
  | ldsWr (sz : Size) (g : GOp) (base : PBase) (disp : Word)
  /-- ST (R220). -/
  | st (sz : Size) (g : GOp) (base : PBase) (disp : Word)
  /-- ST_REL (R136). -/
  | stRel (sz : Size) (g : GOp) (base : PBase) (disp : Word)
  /-- LD_ACQ (R135). -/
  | ldAcq (sz : Size) (g : GOp) (base : PBase) (disp : Word)
  /-- LDQ (R222). -/
  | ldq (g : GReg) (base : PBase) (disp : Word)
  /-- LDQ_WR (R222). -/
  | ldqWr (g : GReg) (base : PBase) (disp : Word)
  /-- LDQ_ACQ (R222). -/
  | ldqAcq (g : GReg) (base : PBase) (disp : Word)
  /-- LDSYNC (R95). -/
  | ldsync (sz : Size) (g : GOp) (base : PBase) (disp : Word)
  /-- CLRE (R95). -/
  | clre (p : BitVec 4) (g : GOp)
  /-- PREF (R223). -/
  | pref (p : BitVec 4) (disp : Word)
  /-- PIN (R108). -/
  | pin (st : GOp) (p : BitVec 4) (len : GReg)
  /-- UNPIN (R108). -/
  | unpin (p : BitVec 4) (g : GOp)
  /-- LDP (R222). -/
  | ldp (p : BitVec 4) (base : PBase) (disp : Word)
  /-- LDP_WR (R222). -/
  | ldpWr (p : BitVec 4) (base : PBase) (disp : Word)
  /-- LDP_ACQ (R222). -/
  | ldpAcq (p : BitVec 4) (base : PBase) (disp : Word)
  /-- STP (R222). -/
  | stp (p : BitVec 4) (base : PBase) (disp : Word)
  /-- STP_REL (R222). -/
  | stpRel (p : BitVec 4) (base : PBase) (disp : Word)
  /-- AADD (R224). -/
  | aAdd (a : GOp) (base : PBase) (c : GReg)
  /-- AAND (R224). -/
  | aAnd (a : GOp) (base : PBase) (c : GReg)
  /-- AOR (R224). -/
  | aOr (a : GOp) (base : PBase) (c : GReg)
  /-- AXOR (R224). -/
  | aXor (a : GOp) (base : PBase) (c : GReg)
  /-- AMIN (R224). -/
  | aMin (a : GOp) (base : PBase) (c : GReg)
  /-- AMAX (R224). -/
  | aMax (a : GOp) (base : PBase) (c : GReg)
  /-- ASWAP (R224). -/
  | aSwap (a : GOp) (base : PBase) (c : GReg)
  /-- ACAS (R224). -/
  | aCas (a : GReg) (base : PBase) (c : GReg)
  /-- AADD_ACQ (R224). -/
  | aAddAcq (a : GOp) (base : PBase) (c : GReg)
  /-- AAND_ACQ (R224). -/
  | aAndAcq (a : GOp) (base : PBase) (c : GReg)
  /-- AOR_ACQ (R224). -/
  | aOrAcq (a : GOp) (base : PBase) (c : GReg)
  /-- AXOR_ACQ (R224). -/
  | aXorAcq (a : GOp) (base : PBase) (c : GReg)
  /-- AMIN_ACQ (R224). -/
  | aMinAcq (a : GOp) (base : PBase) (c : GReg)
  /-- AMAX_ACQ (R224). -/
  | aMaxAcq (a : GOp) (base : PBase) (c : GReg)
  /-- ASWAP_ACQ (R224). -/
  | aSwapAcq (a : GOp) (base : PBase) (c : GReg)
  /-- ACAS_ACQ (R224). -/
  | aCasAcq (a : GReg) (base : PBase) (c : GReg)
  /-- AADD_REL (R224). -/
  | aAddRel (a : GOp) (base : PBase) (c : GReg)
  /-- AAND_REL (R224). -/
  | aAndRel (a : GOp) (base : PBase) (c : GReg)
  /-- AOR_REL (R224). -/
  | aOrRel (a : GOp) (base : PBase) (c : GReg)
  /-- AXOR_REL (R224). -/
  | aXorRel (a : GOp) (base : PBase) (c : GReg)
  /-- AMIN_REL (R224). -/
  | aMinRel (a : GOp) (base : PBase) (c : GReg)
  /-- AMAX_REL (R224). -/
  | aMaxRel (a : GOp) (base : PBase) (c : GReg)
  /-- ASWAP_REL (R224). -/
  | aSwapRel (a : GOp) (base : PBase) (c : GReg)
  /-- ACAS_REL (R224). -/
  | aCasRel (a : GReg) (base : PBase) (c : GReg)
  /-- RADD (R225). -/
  | rAdd (a : GOp) (base : PBase) (disp : Word)
  /-- RMIN (R225). -/
  | rMin (a : GOp) (base : PBase) (disp : Word)
  /-- RMAX (R225). -/
  | rMax (a : GOp) (base : PBase) (disp : Word)
  /-- RAND (R225). -/
  | rAnd (a : GOp) (base : PBase) (disp : Word)
  /-- ROR (R225). -/
  | rOr (a : GOp) (base : PBase) (disp : Word)
  /-- RXOR (R225). -/
  | rXor (a : GOp) (base : PBase) (disp : Word)
  /-- RADD_F64 (R225). -/
  | rAddF64 (a : GOp) (base : PBase) (disp : Word)
  /-- RADD_F32 (R225). -/
  | rAddF32 (a : GOp) (base : PBase) (disp : Word)
  /-- VSETT (R229). -/
  | vsett (g : GOp)
  /-- MAND (R249). -/
  | mand (r : MM)
  /-- MOR (R249). -/
  | mor (r : MM)
  /-- MNOT (R249). -/
  | mnot (a b : BitVec 3)
  /-- MPOP (R249). -/
  | mpop (g : GOp) (m : BitVec 3)
  /-- COMPRESS (R248). -/
  | compress (a b : BitVec 5)
  /-- VADD (R235). -/
  | vadd (gm : BitVec 3) (r : VV)
  /-- VSUB (R235). -/
  | vsub (gm : BitVec 3) (r : VV)
  /-- VMUL (R235). -/
  | vmul (gm : BitVec 3) (r : VV)
  /-- VFMA (R235). -/
  | vfma (gm : BitVec 3) (a b c : BitVec 5)
  /-- VDIV (R235). -/
  | vdiv (gm : BitVec 3) (r : VV)
  /-- VSQRT (R235). -/
  | vsqrt (gm : BitVec 3) (a b : BitVec 5)
  /-- VMIN (R235). -/
  | vmin (gm : BitVec 3) (r : VV)
  /-- VMAX (R235). -/
  | vmax (gm : BitVec 3) (r : VV)
  /-- VAND (R236). -/
  | vand (gm : BitVec 3) (r : VV)
  /-- VOR (R236). -/
  | vor (gm : BitVec 3) (r : VV)
  /-- VXOR (R236). -/
  | vxor (gm : BitVec 3) (r : VV)
  /-- VSHL (R236). -/
  | vshl (gm : BitVec 3) (r : VV)
  /-- VSHR (R236). -/
  | vshr (gm : BitVec 3) (r : VV)
  /-- VSAR (R236). -/
  | vsar (gm : BitVec 3) (r : VV)
  /-- VCMP (R237). -/
  | vcmp (gm : BitVec 3) (cc : BitVec 3) (md : BitVec 3) (b c : BitVec 5)
  /-- VSEL (R238). -/
  | vsel (gm : BitVec 3) (a b c : BitVec 5)
  /-- VMOV (R238). -/
  | vmov (gm : BitVec 3) (a b : BitVec 5)
  /-- VBCAST (R238). -/
  | vbcast (gm : BitVec 3) (a : BitVec 5) (g : GOp)
  /-- VLD (R239). -/
  | vld (gm : BitVec 3) (a : BitVec 5) (base : PBase) (disp : Word)
  /-- VST (R239). -/
  | vst (gm : BitVec 3) (a : BitVec 5) (base : PBase) (disp : Word)
  /-- VLDS (R239). -/
  | vlds (gm : BitVec 3) (a : BitVec 5) (base : PBase) (c : GReg)
  /-- VSTS (R240). -/
  | vsts (gm : BitVec 3) (a : BitVec 5) (base : PBase) (c : GReg)
  /-- VGATHER (R239). -/
  | vgather (gm : BitVec 3) (a : BitVec 5) (base : PBase) (c : BitVec 5)
  /-- VSCATTER (R240). -/
  | vscatter (gm : BitVec 3) (a : BitVec 5) (base : PBase) (c : BitVec 5)
  /-- VRED (R243). -/
  | vred (gm : BitVec 3) (op : BitVec 3) (g : GOp) (b : BitVec 5)
  /-- VSCAN (R244). -/
  | vscan (gm : BitVec 3) (op : BitVec 3) (a b : BitVec 5)
  /-- VPERM (R245). -/
  | vperm (gm : BitVec 3) (a b c : BitVec 5)
  /-- VSHUF (R245). -/
  | vshuf (gm : BitVec 3) (a b c : BitVec 5)
  /-- VCVT (R246). -/
  | vcvt (gm : BitVec 3) (f : BitVec 4) (sat : Bool) (a b : BitVec 5)
  /-- VQNT (R247). -/
  | vqnt (gm : BitVec 3) (f : BitVec 4) (sat : Bool) (a b : BitVec 5)
  /-- MMA (R257). -/
  | mma (t : BitVec 2) (p : BitVec 4) (c : GReg)
  /-- MMAS (R258). -/
  | mmas (t : BitVec 2) (p : BitVec 4) (c : GReg)
  /-- MZERO (R259). -/
  | mzero (t : BitVec 2)
  /-- MCOMMIT (R254). -/
  | mcommit
  /-- MWAITB (R254). -/
  | mwaitb (n : Byte)
  /-- MTRN (R259). -/
  | mtrn (t u : BitVec 2)
  /-- ACCRD (R263). -/
  | accrd (t : BitVec 2) (p : BitVec 4) (c : GReg)
  /-- ACCWR (R263). -/
  | accwr (t : BitVec 2) (p : BitVec 4) (c : GReg)
  /-- WLOAD (R264). -/
  | wload (p : BitVec 4) (g : GOp)
  /-- DICT (R265). -/
  | dict (p : BitVec 4)
  /-- COPY (R268). -/
  | copy (d : BitVec 3) (cnt : Option (BitVec 4)) (dst : WDst) (src : BitVec 4) (g : GReg)
  /-- COPYM (R272). -/
  | copym (d : BitVec 3) (cnt : Option (BitVec 4)) (dst src desc : BitVec 4)
  /-- TILE (R269). -/
  | tile (d : BitVec 3) (cnt : Option (BitVec 4)) (dst src desc : BitVec 4)
  /-- GATHER (R270). -/
  | gather (d : BitVec 3) (cnt : Option (BitVec 4)) (dst src desc : BitVec 4)
  /-- MCAST (R271). -/
  | mcast (d : BitVec 3) (cnt : Option (BitVec 4)) (dst src desc : BitVec 4)
  /-- HITCH (R275). -/
  | hitch (aoff moff : BitVec 9) (mask : Byte)
  /-- HITCH_P (R275). -/
  | hitchP (pa pm : BitVec 4) (mask : Byte)
  /-- UNHITCH (R277). -/
  | unhitch
  /-- REST (R276). -/
  | rest
  /-- HCFG (R103). -/
  | hcfg (h : BitVec 3) (g : GOp)
  /-- ADVP_G (R104). -/
  | advpG (h : BitVec 3) (g : GOp)
  /-- ADVP_N (R104). -/
  | advpN (h : BitVec 3) (n : BitVec 31)
  /-- ADVC_G (R226). -/
  | advcG (h : BitVec 3) (g : GOp)
  /-- ADVC_N (R226). -/
  | advcN (h : BitVec 3) (n : BitVec 31)
  /-- TKT (R106). -/
  | tkt (g : GOp) (h : BitVec 3) (c : Option GReg)
  /-- RFILL (R106). -/
  | rfill (g : GOp) (h : BitVec 3) (c : Option GReg)
  /-- RTAKE (R106). -/
  | rtake (g : GOp) (h : BitVec 3)
  /-- PAUSE (R278). -/
  | pause
  /-- PAUSE_UP (R38). -/
  | pauseUp
  /-- EMIT (R43). -/
  | emit (s : SigOp)
  /-- EMITV (R43). -/
  | emitv (s : SigOp) (g : GOp)
  /-- TEST (R44). -/
  | test (q : QDst) (s : SigOp)
  /-- TESTV (R44). -/
  | testv (q : QDst) (g : GOp) (s : SigOp)
  /-- RENOUNCE (R287). -/
  | renounce (k : BitVec 3) (g : GOp)
  /-- RESOLVE (R57). -/
  | resolve (q : QDst) (s : SigOp)
  /-- ABORTW (R59). -/
  | abortw (s : SigOp) (off : Word)
  /-- SUSPW (R59). -/
  | suspw (s : SigOp)
  /-- ENDW (R289). -/
  | endw
  /-- INSTN (R279). -/
  | instn (g : GOp) (l : Lvl)
  /-- TEAMJ (R281). -/
  | teamj (g : GOp)
  /-- TEAML (R282). -/
  | teaml
  /-- TEAMH (R283). -/
  | teamh (p : BitVec 4) (l : Lvl)
  /-- CAUSE (R280). -/
  | cause (g : GOp)
  /-- FORKW (R66). -/
  | forkw (g : BitVec 2) (n1 : BitVec 4)
  /-- WIDX (R67). -/
  | widx (g : GOp)
  /-- CLAIMW (R75). -/
  | claimw
  /-- JOINW (R76). -/
  | joinw (g : GOp)
  /-- CHOOSEW (R76). -/
  | choosew (q : QDst) (g : GOp)
  /-- ABANDW (R74). -/
  | abandw
  /-- WSTAT (R76). -/
  | wstat (g h : GOp)
  /-- DEMAND (R292). -/
  | demand (p : BitVec 4) (h : BitVec 3) (l : Option Lvl)
  /-- XGO (R292). -/
  | xgo (p : BitVec 4)
  /-- XWAIT (R293). -/
  | xwait
  /-- XSTAT (R155). -/
  | xstat (g h : GOp)
  /-- PROFQ (R169). -/
  | profq (g : GOp)
  /-- PREDW (R32). -/
  | predw (g : GOp)
  /-- HINTS (R296). -/
  | hints
  /-- SPAWN (R158). -/
  | spawn (gd : GOp) (gk : GReg) (p : BitVec 4)
  /-- SPAWNB (R162). -/
  | spawnb (gd : GOp) (gk : GReg) (p : BitVec 4)
  /-- TAKE (R159). -/
  | take (gd : GOp) (p : BitVec 4)
  /-- DEAL (R163). -/
  | deal (gd : GOp) (p : BitVec 4)
  /-- DONE (R295). -/
  | done
  /-- SVC (R350). -/
  | svc (n : Byte)
  /-- CRRD (R351). -/
  | crrd (r : CrOp) (cr : BitVec 31)
  /-- CRWR (R351). -/
  | crwr (r : CrOp) (cr : BitVec 31)
  /-- PLBINV (R352). -/
  | plbinv (p : BitVec 4) (g : GOp)
  /-- HUSK (R353). -/
  | husk (g : GOp) (p : BitVec 4)
  /-- UNHUSK (R355). -/
  | unhusk (g : GOp) (p : BitVec 4)
  /-- TRET (R350). -/
  | tret
  /-- HALTG (R358). -/
  | haltg (g : GOp)
  /-- IDLE (R350). -/
  | idle
  /-- TAKE_SEED (R17). -/
  | takeSeed (core : Nat) (slot : Nat)
  /-- FOLLOW_ATTACH (R27). -/
  | followAttach (tid : Nat)
  /-- CHUNK_LIMIT (R127). -/
  | chunkLimit
  /-- USER_TRAP_ENTRY (R200). -/
  | userTrapEntry (tid : Nat)
  /-- VECTOR_QUEUE_EXECUTE (R231). -/
  | vectorQueueExecute (core : Nat)
  /-- LANE_GROUP_GRANT (R323). -/
  | laneGroupGrant (cluster : Nat)
  /-- TILE_OPERATION_START (R260). -/
  | tileOperationStart (core : Nat)
  /-- TILE_OPERATION_FINISH (R253). -/
  | tileOperationFinish (core : Nat)
  /-- ENGINE_LINE_LANDING (R94). -/
  | engineLineLanding (core : Nat) (k : Nat)
  /-- WALKER_COMMAND_COMPLETE (R97). -/
  | walkerCommandComplete (core : Nat) (cmd : Nat)
  /-- PROMISE_DUE (R98). -/
  | promiseDue (tid : Nat) (d : Nat)
  /-- NEIGHBOUR_PORT_DELIVERY (R107). -/
  | neighbourPortDelivery (k : Nat)
  /-- POSTED_REQUEST_ARRIVAL (R145). -/
  | postedRequestArrival (k : Nat)
  /-- POSTED_ACK_ARRIVAL (R132). -/
  | postedAckArrival (k : Nat)
  /-- POSTED_RESEND_TIMEOUT (R145). -/
  | postedResendTimeout (core : Nat) (place : Nat) (entry : Nat)
  /-- FLUSH_MARKER_ARRIVAL (R136). -/
  | flushMarkerArrival (k : Nat)
  /-- FLUSH_MARKER_ANSWER (R136). -/
  | flushMarkerAnswer (k : Nat)
  /-- REMOTE_ACCESS_ARRIVAL (R142). -/
  | remoteAccessArrival (tid : Nat) (id : Nat)
  /-- REMOTE_LOAD_RETURN (R134). -/
  | remoteLoadReturn (tid : Nat) (id : Nat)
  /-- REMOTE_REFUSED (R146). -/
  | remoteRefused (k : Nat)
  /-- FLIT_HOP (R143). -/
  | flitHop (pkg : Nat) (node : Nat)
  /-- SPAN_LINK_FLIT_RECEIVE (R143). -/
  | spanLinkFlitReceive (link : Nat) (good : Bool)
  /-- SPAN_LINK_RETRAIN (R365). -/
  | spanLinkRetrain (link : Nat) (ok : Bool)
  /-- BULK_PACKET_ARRIVAL (R144). -/
  | bulkPacketArrival (k : Nat) (room : Bool)
  /-- DROP_NOTICE_ARRIVAL (R144). -/
  | dropNoticeArrival (k : Nat)
  /-- RESERVATION_REQUEST_ARRIVAL (R144). -/
  | reservationRequestArrival (k : Nat)
  /-- GRANT_ARRIVAL (R144). -/
  | grantArrival (k : Nat)
  /-- GRANT_EXPIRY (R144). -/
  | grantExpiry (k : Nat)
  /-- INCARNATION_CHANGE (R147). -/
  | incarnationChange (pkg : Nat)
  /-- SIGNAL_EMIT_ARRIVAL (R42). -/
  | signalEmitArrival
  /-- MASK_CLEAR_ARRIVAL (R47). -/
  | maskClearArrival
  /-- RESOLVE_ARRIVAL (R57). -/
  | resolveArrival
  /-- HANDLER_REGISTRATION_ARRIVAL (R283). -/
  | handlerRegistrationArrival
  /-- CAUSALITY_TRAP (R54). -/
  | causalityTrap (team : Nat)
  /-- COMPUTE_PHASE_END (R36). -/
  | computePhaseEnd (team : Nat)
  /-- INSTANT_START (R36). -/
  | instantStart (team : Nat)
  /-- CLAIM_ARRIVAL (R75). -/
  | claimArrival (k : Nat)
  /-- RIVAL_KILL (R75). -/
  | rivalKill (tid : Nat)
  /-- VIEW_COMMIT_COMPLETE (R77). -/
  | viewCommitComplete (wid : Nat) (idx : Nat)
  /-- VIEW_TAG_FREE (R68). -/
  | viewTagFree (pkg : Nat) (tag : Nat)
  /-- CALENDAR_COMPUTE (R151). -/
  | calendarCompute (team : Nat)
  /-- CALENDAR_ARRIVAL (R150). -/
  | calendarArrival (team : Nat) (rank : Nat)
  /-- EXCHANGE_PHASE_START (R152). -/
  | exchangePhaseStart (team : Nat) (rank : Nat)
  /-- EXCHANGE_UNIT_LANDING (R154). -/
  | exchangeUnitLanding (team : Nat) (k : Nat)
  /-- EXCHANGE_SEGMENT_END (R153). -/
  | exchangeSegmentEnd (team : Nat) (rank : Nat)
  /-- RESIDUAL_PHASE_START (R153). -/
  | residualPhaseStart (team : Nat)
  /-- ARBITER_HEARTBEAT (R156). -/
  | arbiterHeartbeat (beat : Heartbeat)
  /-- ARBITER_FAILOVER (R156). -/
  | arbiterFailover
  /-- SPILL_REFILL (R160). -/
  | spillRefill (die : Nat)
  /-- SPILL_RESUME (R160). -/
  | spillResume (die : Nat)
  /-- QUEUE_BALANCE (R161). -/
  | queueBalance (a : Nat) (b : Nat)
  /-- HANDLER_SEED_STEAL (R320). -/
  | handlerSeedSteal (core : Nat) (slot : Nat)
  /-- REPLAY_DIVERGED (R166). -/
  | replayDiverged
  /-- QUANTUM_END (R167). -/
  | quantumEnd
  /-- QUEUE_NOTIFY (R312). -/
  | queueNotify (pkg : Nat) (off : Nat)
  /-- PACKET_DISPATCH (R316). -/
  | packetDispatch
  /-- LAUNCH_ADMIT (R316). -/
  | launchAdmit
  /-- LAUNCH_CAPACITY_RESERVE (R316). -/
  | launchCapacityReserve
  /-- LAUNCH_START (R316). -/
  | launchStart
  /-- LAUNCH_FAULT_STOP (R348). -/
  | launchFaultStop
  /-- LAUNCH_ITEM_ACCOUNTING (R348). -/
  | launchItemAccounting
  /-- CREC_FINAL_WRITE (R346). -/
  | crecFinalWrite
  /-- TRANSLATION_REQUEST (R335). -/
  | translationRequest (core : Nat) (va : Addr)
  /-- TRANSLATION_REPLY (R328). -/
  | translationReply (core : Nat)
  /-- PADDOCK_APPLY (R338). -/
  | paddockApply (page : Nat)
  /-- TRAP_RECORD_RETRY (R345). -/
  | trapRecordRetry
  /-- SUPERVISOR_ENTRY (R349). -/
  | supervisorEntry (core : Nat)
  /-- HUSK_STREAM_COMPLETE (R353). -/
  | huskStreamComplete (core : Nat)
  /-- HALT_GROUP_MEMBER_HALT (R357). -/
  | haltGroupMemberHalt (core : Nat)
  /-- HOST_DEBUG_HALT (R357). -/
  | hostDebugHalt (core : Nat)
  /-- CORE_RESUME (R358). -/
  | coreResume (core : Nat)
  /-- PACKAGE_RESET (R359). -/
  | packageReset (pkg : Nat)
  /-- FIRMWARE_VERIFY (R360). -/
  | firmwareVerify (pkg : Nat) (image : List Byte)
  /-- FIRMWARE_RETRY (R359). -/
  | firmwareRetry (pkg : Nat)
  /-- ATTESTATION_REQUEST (R362). -/
  | attestationRequest (pkg : Nat) (nonce : List Byte)
  /-- IDENTITY_CERT_REQUEST (R362). -/
  | identityCertRequest (pkg : Nat)
  /-- PARTITION_CHANGE (R325). -/
  | partitionChange (pkg : Nat) (plan : List (BitVec 4 × Byte))
  /-- ERRCNT_CLEAR (R365). -/
  | errcntClear (pkg : Nat) (k : Nat)
  /-- CLUSTER_FAILURE (R369). -/
  | clusterFailure (pkg : Nat) (u : FailedUnit)
  /-- CHECKPOINT_STREAM (R371). -/
  | checkpointStream (part : Nat)
  /-- CHECKPOINT_RESTORE (R371). -/
  | checkpointRestore (part : Nat)
  /-- THERMAL_THROTTLE (R372). -/
  | thermalThrottle (pkg : Nat) (mhz : Nat)
  /-- THERMAL_HALT (R372). -/
  | thermalHalt (die : Nat)
  /-- ILLEGAL_INSN (R189). -/
  | illegalInsn (cause : Byte) (addr : Addr)
  /-- POSTED_STORE_SEND (R132). -/
  | postedStoreSend (core : Nat) (place : Nat) (entry : Nat)
  /-- WALKER_COMMAND_START (R267). -/
  | walkerCommandStart (core : Nat)
  /-- HOST_WINDOW_ACCESS (R370). -/
  | hostWindowAccess (pkg : Nat) (place : HostBar) (data : Option (List Byte)) (len : Nat)
  deriving DecidableEq, Repr

end Sys2Proof
end

