-- ==== Sys2Proof/Config.lean ====
section
/-! DEFINITION. What an implementation fixes, and the free values: constants with no body, of which no proof
can learn a value (notes/assumptions/4.md, 6.md). -/

namespace Sys2Proof.Config

/-- What the package cycle counter reads at the model's step `n` (R98, R169): times are not the model's. -/
opaque cycleAt : Nat → Word
/-- Whether a plain load that finds a copy in the L1 returns it, at the `n`-th such choice (R90): the copy may
have been evicted. -/
opaque l1Hit : Nat → Bool
/-- A package's device identity key (R362): what its modulus of 3,072 bits has below the top bit, and the private exponent,
which never leaves the package. That the two are a key pair is an assumption (notes/assumptions/9.md). -/
opaque deviceKey : Nat → BitVec 3071 × BitVec 3072
/-- The random salt of a package's signature at the `n`-th such choice (R362). -/
opaque deviceSalt : Nat → Nat → BitVec 256
/-- A package's device identity certificate (R362). -/
opaque deviceCert : Nat → List Byte
/-- The digests of the management ROM, of the fuse map with its minimum security version, and of a partition plan, as
the measurement log holds them (R361). -/
opaque romDigest : Nat → BitVec 256
opaque fuseDigest : Nat → BitVec 32 → BitVec 256
opaque planDigest : List (BitVec 4 × Byte) → BitVec 256
/-- The minimum security version that an image asks the fuses to hold (R360). -/
opaque imageMinSvn : List Byte → BitVec 32
/-- What the management cores of a package apply at bring-up (R359): the first page table and aliases, as cells of
memory; its base in MiB with a number that gives LOGB; the paddock's base in GiB; the address of a span partition's trap queue, divided by 64. -/
opaque bootCells : Nat → List (Nat × Byte)
opaque bootTable : Nat → BitVec 32 × Nat
opaque bootPaddock : Nat → BitVec 22
opaque bootTrapq : Nat → BitVec 72
/-- The domain that the management cores of a package give the host's window (R370). -/
opaque hostDomain : Nat → BitVec 16
/-- Whether a unit's event that may happen now does, at a step (R98, R142 to R145): times are not the model's
(DESIGN CHOICE, notes/assumptions/4.md). -/
opaque happens : Nat → Instr → Bool
/-- Whether a choice that the environment makes falls out badly, at a step: a lost flit or packet, a link that does not
retrain, a heartbeat missed, a grant that expires, an acknowledgement that is late (R143 to R145, R156, R365). -/
opaque mishap : Nat → Nat → Bool
/-- Which of several things that may happen next comes first, at a step: of messages of different threads, of requests to
different lines (R52, R132, R134): times are not the model's (DESIGN CHOICE, notes/assumptions/4.md). -/
opaque pick : Nat → Nat
/-- Which of the parts a package is, the D9-576, the D9-544 or the D9-512 (R1, R2). -/
opaque part : Nat → Fin 3
/-- The units of a package that passed the part's test before any others: clusters, links and stacks (R1). -/
opaque passed : Nat → BitVec 144 × BitVec 12 × BitVec 8
/-- A mask of `n` bits with `d` of them off: those that are off in `m`, as far as that many are wanted. -/
def maskOff (n d m : Nat) : Nat :=
  let off := ((List.range n).filter fun i => !m.testBit i) ++ (List.range n).filter fun i => m.testBit i
  2 ^ n - 1 - ((off.take d).map (2 ^ ·)).foldl (· + ·) 0
/-- The fuse map of a package: the enabled clusters, links and stacks, as many as its part has, in any pattern (R1, R2, R359,
R368). -/
def fuses (pkg : Nat) : BitVec 144 × BitVec 12 × BitVec 8 :=
  let (c, l, s) := passed pkg
  let few := if part pkg = 2 then 1 else 0
  (BitVec.ofNat 144 (maskOff 144 (8 * (part pkg).val) c.toNat), BitVec.ofNat 12 (maskOff 12 few l.toNat),
    BitVec.ofNat 8 (maskOff 8 few s.toNat))
/-- The key hash burnt in fuses (R360). -/
opaque fusedKeyHash : Nat → List Byte

/-- The cause of the record of an entry that finds HANDLER 0 (R349), of those of R341: the spec names none. -/
opaque noHandlerCause : Byte
/-- The bytes of a husk to which R353 gives no layout: the byte of an offset at the `n`-th such save. -/
opaque huskByte : Nat → Nat → Byte

/-- The router of a package at which a span link stands, by the link's number (R143). -/
opaque exitNode : Nat → Nat → Nat
/-- One less than the flits for which a span link has credits (R143). -/
opaque linkCredits : Nat

/-- The rights domain, and the order log area with its size, that the packet processor gives the launches of a queue
(R309, R326): the spec gives neither the packet nor the template a field for them. -/
opaque queueDomain : Nat → Nat → BitVec 16
opaque queueLog : Nat → Nat → Addr
opaque queueLogSize : Nat → Nat → Word

/-- Which of the vectors 256 to 263 stands for a trap queue (0 to 3), for halts (4) and for management (5) (R370). -/
opaque vector : Nat → Nat → BitVec 3
/-- What comes from outside at the model's step `n`: a corrected error in a package, of its HBM or of its SRAM; an
uncorrectable error in a word of memory, by its key; a supervisor interrupt at a core, of the management cores or of the host
(R349, R363) (DESIGN CHOICE, notes/assumptions/4.md). -/
opaque corrected : Nat → Option (Nat × Bool)
opaque uncorrectable : Nat → Option Nat
opaque interrupt : Nat → Option (Nat × Bool)

/-- Records that a profiling queue holds (R169). -/
opaque profqSize : Nat

/-- Journal entries of an agent (R132). -/
def journalSize : Nat := 32
/-- Outstanding remote loads of an agent (R134). -/
def maxRemoteLoads : Nat := 64
/-- Instructions and distinct written lines of a chunk (R127). -/
def chunkInstrs : Nat := 512
def chunkLines : Nat := 48
/-- Entries of a branch-outcome queue (R24). -/
def bqSize : Nat := 32
/-- Entries of the vector queue (R231), of M's format queue (R251), of the walker (R267), of the PLB (R328). -/
def vqSize : Nat := 16
def fmtqSize : Nat := 8
def walkerSize : Nat := 16
def plbSize : Nat := 64
/-- Operations of an open batch, outstanding batches, operand-range registers (R253, R261). -/
def batchOps : Nat := 64
def maxBatches : Nat := 4
def rangeRegs : Nat := 8
/-- Die queue, its refill mark and its holding buffer (R158, R160). -/
def dieQueueSize : Nat := 16384
def dieRefillMark : Nat := 12288
def holdingSize : Nat := 4
/-- Saddlebag limits (R78). -/
def sbEntries : Nat := 64
def sbBytes : Nat := 16384
/-- Boards of a resolution unit (R51). -/
def boardsPerUnit : Nat := 1024
/-- Participants of an exchange (R148). -/
def maxParticipants : Nat := 1024
/-- L2 lines of a cluster: 4 MiB (R2, R4). -/
def clusterLines : Nat := 65536
/-- Bytes of one HBM stack: 64 GB (R4, R6). -/
def stackBytes : Nat := 64000000000
/-- Requests remembered at a home for each agent (R145). -/
def windowSize : Nat := 64

end Sys2Proof.Config
end

