-- ==== Sys2Proof/Machine/State.lean ====
section
/-! DEFINITION. The state of the machine as plain data: everything spec/ gives it (INVENTORY.md, State).
The agent whose turn it is, its core, its logical core and its launch stand in focus; the others are parked. -/

namespace Sys2Proof.Machine

/-- Why the machine stops. -/
inductive Fault where
  /-- Raised by `physKey` (Ops): a physical address beyond the installed memory (R2, R334).
  Safe: the spec gives such an access no effect, and the model goes no further. -/
  | noMemory (pa : Nat)
  deriving DecidableEq, Repr

/-- Why an instruction has no meaning here. -/
inductive Refusal where
  /-- Raised by an arm of `exec` that has no meaning yet. Safe: the model goes no further. -/
  | notModelled (mnemonic : String)
  deriving DecidableEq, Repr

/-- Seed states (R14). -/
inductive SeedState where
  | ready | held | paused | frozen | done | failed
  deriving DecidableEq, Repr

/-- A promise (R98): already due, or that of a walker command, with whether its time has fallen due. -/
inductive Promise where
  | due
  | cmd (core id : Nat) (fallen : Bool)
  deriving DecidableEq, Repr

/-- What a blocked thread waits for (R19). -/
inductive BlockedOn where
  | counter | promise | emptyWord | handle | ring | port | bq | hitch | unhitch | world | exchange | boundary
  | predecessor | spill | answer | release | loads | vector | walker | journal | batch | fmtq | replay | halt
  | pageRemoval | interrupt | quantum | reservation
  deriving DecidableEq, Repr

/-- Why an agent does not issue. `resource` is a wait at issue for a resource of its own core, which R19 does
not call blocked (R54 counts it as runnable). -/
inductive Wait where
  | test (uid lvl sig : Nat) (tv : Bool)
  | blocked (on : BlockedOn)
  | resource (on : BlockedOn)
  deriving DecidableEq, Repr

/-- The registers of a thread or of a sequencer (R8, R17, R192, R200). -/
structure Regs where
  pc : Addr
  g : Vector Word 64
  p : Vector Addr 16
  q : BitVec 8
  d : Vector Promise 8
  round : Word
  fmtA : Word
  fmtB : Word
  fmtC : Word
  sclA : Addr
  sclB : Addr
  utrapv : Addr
  utcause : Word
  utpc : Addr
  anomaly : Word
  vtype : Word
  srn : Word
  handlerActive : Bool
  xret : Addr
  /-- g registers that VRED or MPOP wrote from poisoned data (R364). -/
  gpois : BitVec 64
  /-- Open frames (R59). -/
  depth : Nat
  deriving DecidableEq, Repr

/-- What taking a seed sets before it loads the seed's fields (R17). -/
def Regs.zero : Regs :=
  { pc := 0, g := Vector.replicate 64 0, p := Vector.replicate 16 0, q := 1, d := Vector.replicate 8 .due,
    round := 0, fmtA := 0, fmtB := 0, fmtC := 0, sclA := 0, sclB := 0, utrapv := 0, utcause := 0, utpc := 0,
    anomaly := 0, vtype := 0, srn := 0, handlerActive := false, xret := 0, gpois := 0, depth := 0 }

/-- The privileged registers of a core (R309). -/
structure Priv where
  dom : Word
  vshare : Word
  quantum : Word
  qtab : Addr
  handler : Addr
  trapq : Addr
  haltgrp : Word
  olog : Addr
  ologn : Word
  ptbase : Addr
  shadow : Word
  spillr : Addr
  rquota : Word
  paddock : Addr
  huskp : Addr
  lease : Vector Addr 8
  leasen : Vector Word 8
  deriving DecidableEq, Repr

/-- Reset values: R322 (SHARE 1), R324 (COUNT 1,024), R333 (LOGB 21); the others 0. -/
def Priv.reset : Priv :=
  { dom := 0, vshare := 1, quantum := 1024, qtab := 0, handler := 0, trapq := 0, haltgrp := 0, olog := 0, ologn := 0, ptbase := 21, shadow := 0, spillr := 0, rquota := 0, paddock := 0, huskp := 0,
    lease := Vector.replicate 8 0, leasen := Vector.replicate 8 0 }

/-- A pinned line: launch, view, line, the core whose slice is its home, count (R108); lines under no view have `pkg` 0. -/
structure Pin where
  launch : Nat
  pkg : Nat
  tag : Nat
  line : Nat
  home : Nat
  count : Nat
  deriving DecidableEq, Repr

/-- Where a remote load puts its value (R134). -/
inductive LDst where
  | g (n : GReg)
  | p (n : BitVec 4)
  | pair (n : GReg)
  /-- The upper half of a 16-byte access, where the lower register of its pair has been written since. -/
  | hi (n : GReg)
  | port (d : Dir)
  /-- LDSYNC, which waits for its answer: whether that has come. -/
  | sync (back : Bool)
  /-- A line for a queued vector load. -/
  | vec (op : Nat)
  deriving DecidableEq, Repr

/-- The open chunk of an agent (R127, R128): instruction count, write buffer (newest first), words that CLRE
empties at the commit, lines written, lines read by home reads, the registers at its start, and the L1 copies
that a plain load may return (R90). -/
structure Chunk where
  count : Nat
  wbuf : List (Nat × Byte)
  clre : List Nat
  wlines : List Nat
  rlines : List Nat
  conflict : Bool
  squashes : Nat
  reserved : Bool
  start : Regs
  /-- The destinations of the remote accesses that were out at its start, to which a squash returns (R128). -/
  outs : List (Nat × LDst)
  l1 : List (Nat × Line)
  /-- Pins raised (true) and lowered in the chunk, newest first, to be undone by a squash. -/
  pinned : List (Pin × Bool)
  /-- Words that a vector store writes from poisoned elements (R364). -/
  wpois : List Nat
  /-- Words that a store of the chunk has written whole since (R364). -/
  wclean : List Nat
  /-- The homes that its stores and CLREs write (R357), and the granules of the addresses at which they were checked (R331). -/
  homes : List Nat
  grans : List Nat
  /-- The first vector instruction of the chunk in its core's queue; what its instructions overwrote in the vector
  file, newest first (32 and up: masks); and whether a VSETT of the chunk releases the file. -/
  vfirst : Option Nat
  vundo : List (Nat × VReg × BitVec 256)
  vrel : Bool
  /-- The privileged registers that the chunk has written, newest first, with what they held before. -/
  privs : List (Nat × Addr)
  /-- The writes of the format registers that the chunk has placed in M's queue (R251). -/
  fmts : Nat
  /-- What WAITC.sub took from the message counters (R102). -/
  subs : List (BitVec 4 × BitVec 32)
  /-- The instruction at issue closes the chunk. -/
  closed : Bool
  deriving DecidableEq, Repr

def Chunk.empty (r : Regs) : Chunk :=
  { count := 0, wbuf := [], clre := [], wlines := [], rlines := [], conflict := false, squashes := 0,
    reserved := false, start := r, outs := [], l1 := [], pinned := [], wpois := [], wclean := [], homes := [], grans := [], vfirst := none, vundo := [],
    vrel := false, privs := [], fmts := 0, subs := [], closed := false }

/-- Atomic operations (R224) and memory-side reductions (R225). -/
inductive AOp where
  | add | and | or | xor | min | max | swap | cas | addF64 | addF32
  deriving DecidableEq, Repr

/-- An outstanding remote load or atomic (R134, R137). -/
structure RLoad where
  id : Nat
  dst : LDst
  addr : Addr
  key : Nat
  size : Nat
  signed : Bool
  atomic : Option (AOp × Word × Word)
  value : Option Nat
  pkg : Nat
  /-- Poisoned words of a line, or bit 0 of a single access. -/
  pois : BitVec 8
  pc : Addr
  /-- An atomic with `.rel` (R312). -/
  rel : Bool
  /-- TKT or RFILL of a ring in another package: logical core, handle, and the ticket that RFILL names (R227). -/
  ring : Option (Nat × BitVec 3 × Option Nat)
  /-- The cause of a fault that it met at its home. -/
  fault : Byte
  /-- A plain load, which R130 leaves out of its order. -/
  plain : Bool
  /-- The incarnation of the home's package that it carries (R147). -/
  inc : Byte
  deriving DecidableEq, Repr

/-- One line of a vector store on its way to the journal: package and home, address, key, bytes, words written whole and
poisoned. -/
structure OutLine where
  pkg : Nat
  home : Nat
  va : Addr
  key : Nat
  cells : List (Nat × Byte)
  clean : List Nat
  pois : List Nat
  deriving DecidableEq, Repr

/-- What a vector instruction at issue has still to send to other packages: a journal, or the bound on outstanding loads,
holds it there (R132, R134, R240). A store has its own package's elements with it: address, home and key, bytes, poison; a load
has the lines that it reads: address, key, home and package. -/
inductive Staged where
  | store (lines : List OutLine) (own : List (Addr × (Nat × Nat) × List Byte × Bool)) (active : Nat)
  | load (op : Nat) (lines : List (Addr × Nat × Nat × Nat))
  deriving DecidableEq, Repr

/-- A recoverable trap that waits for an instruction boundary of X (R25, R153); `behind`: it was raised while an earlier
one waited, and is entered after RTU of that one. -/
structure HeldTrap where
  cause : Byte
  seq : Seq
  pc : Addr
  behind : Bool
  deriving DecidableEq, Repr

/-- FOLLOW mode (R27): attached to a leader, the thread of that number. -/
inductive Follow where
  | off | waiting | attached (leader : Nat)
  deriving DecidableEq, Repr

/-- A thread, A, M or the supervisor context (R12 to R19). -/
structure Agent where
  tid : Nat
  launch : Nat
  seq : Seq
  core : Nat
  slot : Option Nat
  lcore : Nat
  regs : Regs
  /-- Address of the base word and of the next instruction, of the instruction at issue (R179). -/
  base : Addr
  npc : Addr
  state : SeedState
  hndl : Bool
  up : Bool
  rival : Bool
  key : Word
  team : Option Nat
  teamVal : BitVec 32
  tag : Nat
  me : Vector Word 5
  mei : Vector Word 5
  cause : Word
  /-- The cause of the fault it met, 0 before (R347). -/
  failCause : Byte
  wait : Option Wait
  /-- An acquire is in flight: nothing later issues (R135). -/
  gate : Bool
  traps : List HeldTrap
  /-- A or M stands at a recoverable trap (R25). -/
  stopped : Bool
  rested : Bool
  hcfged : Bool
  /-- It has yielded its turn (R205): the slots that have issued since. -/
  skip : Option (List Nat)
  follow : Follow
  /-- Attached: branch outcomes of the leader that it has not come to yet, and its own that the leader has not come to,
  oldest first (R27). -/
  led : List Addr
  ran : List Addr
  /-- A and M: the hitched thread (R22). -/
  host : Option Nat
  /-- Its seed's record, where a die queue took one that R14 does not let a core run. -/
  badSeed : Option Nat
  chunk : Chunk
  /-- Under QUANTUM, chunks that have ended and commit at the quantum's end, oldest first (R167). -/
  ended : List Chunk
  loads : List RLoad
  /-- The number of its next remote access. -/
  nextLoad : Nat
  staged : Option Staged
  /-- A release under way: the remote loads that it waits for (R136). -/
  rel : Option (List Nat)
  /-- The own store of that release, to an address in the own package, once step 3 has ended (R136). -/
  relStore : List (Nat × Byte)
  joining : Option Nat
  leaving : Bool
  /-- The husk that holds it (R353). -/
  husked : Option Addr
  /-- A rival's world and index (R67); `promoted` after R79. -/
  world : Option Nat
  ridx : Nat
  promoted : Bool
  /-- The forker's current or last-resolved world (R76). -/
  own : Option Nat
  killed : Bool
  /-- SPAWNB worker: its card's address and number, and whether DEAL gave it a count of 0 (R295). -/
  card : Option (Addr × Nat)
  dealt0 : Bool
  /-- Handler seed: the trapped team and how many RESOLVEs wrote 1 (R57, R58). -/
  serves : Option Nat
  resolved : Nat
  /-- A question to a unit is on its way (R57, R75), and the answer that has come. -/
  asking : Bool
  answer : Option Bool
  /-- Workers that a SPAWNB under way has spawned, and the number of its card (R162). -/
  spawned : Nat
  posting : Nat
  /-- Its spawner and spawn count, as the order log writes them: all ones where no SPAWN made it (R165). -/
  origin : Nat
  /-- The seed waits in a die queue (R158). -/
  queued : Bool
  retired : Nat
  /-- Under QUANTUM, what it had retired when the quantum began (R167). -/
  qstart : Nat
  walks : Nat
  deriving DecidableEq, Repr

def Agent.new (tid : Nat) : Agent :=
  { tid := tid, launch := 0, seq := .x, core := 0, slot := none, lcore := 0, regs := Regs.zero, base := 0, npc := 0,
    state := .done, hndl := false, up := false, rival := false, key := 0, team := none,
    teamVal := 0x00FFFFFF#32, tag := 0, me := Vector.replicate 5 0, mei := Vector.replicate 5 0,
    cause := 0, failCause := 0, wait := none, gate := false, traps := [], stopped := false, rested := false, hcfged := false,
    skip := none, follow := .off, led := [], ran := [], host := none, badSeed := none, chunk := Chunk.empty Regs.zero, ended := [], loads := [], nextLoad := 0, staged := none, rel := none, relStore := [], joining := none,
    leaving := false, husked := none, world := none, ridx := 0, promoted := false, own := none, killed := false, card := none,
    dealt0 := false, serves := none, resolved := 0, asking := false, answer := none, spawned := 0, posting := 0, origin := 2 ^ 60 - 1, queued := false,
    retired := 0, qstart := 0, walks := 0 }

/-- A posted request (R145): the bytes of a store, with the words that it writes whole and those that it poisons (R364), or a
reduction with its operand and its SR draw (R225). -/
inductive PReq where
  | store (cells : List (Nat × Byte)) (clean pois : List Nat)
  | red (op : AOp) (key : Nat) (val : Word) (mode : BitVec 3) (z : Word)
  deriving DecidableEq, Repr

/-- The identifier of a posted request (R145). -/
structure PostId where
  core : Nat
  place : Nat
  lcore : Nat
  entry : Nat
  seqn : BitVec 32
  deriving DecidableEq, Repr

/-- Where an operation released from a saddlebag came from (R78): the rival, the entry and the sequencer. -/
structure Released where
  lcore : Nat
  ridx : Nat
  sub : Nat
  seq : Seq
  deriving DecidableEq, Repr

/-- A journal entry (R132): unsent ones stand in the combining buffer. -/
structure JEntry where
  id : PostId
  tid : Nat
  launch : Nat
  seq : Seq
  pkg : Nat
  /-- The home logical core (R92). -/
  home : Nat
  va : Addr
  key : Nat
  req : PReq
  sent : Bool
  /-- The store of a release, which leaves once the release's step 3 has ended (R136). -/
  hold : Bool
  released : Option Released
  deriving DecidableEq, Repr

/-- The journal of an agent place, its sequence count, the stores posted to each package since the last
release, and the flush markers out (R132, R136). -/
structure Place where
  entries : List JEntry
  seqn : BitVec 32
  posted : List (Nat × Nat)
  markers : List (Nat × Bool)
  deriving DecidableEq, Repr

def Place.empty : Place := { entries := [], seqn := 0, posted := [], markers := [] }

/-- A queue handle (R103 to R106). `p` is the producer cursor of a plain ring. -/
structure Handle where
  mode : BitVec 2
  logn : Nat
  logs : Nat
  base : Nat
  p : Nat
  c : Nat
  k : Nat
  t : Nat
  marks : List Nat
  /-- Walker commands that have reached the ring, in order: core and command (R105). -/
  waiting : List (Nat × Nat)
  deriving DecidableEq, Repr

def Handle.off : Handle :=
  { mode := 0, logn := 0, logs := 0, base := 0, p := 0, c := 0, k := 0, t := 0, marks := [], waiting := [] }

/-- Participant states (R150). -/
inductive XState where
  | idle | posted | ready | sending | residual | done
  deriving DecidableEq, Repr

/-- The exchange participant of a logical core (R148 to R155). -/
structure XPart where
  state : XState
  team : Nat
  demand : List Nat
  ring : Option Nat
  table : List (Addr × Nat)
  /-- The generation of the calendar that it goes by (R156). -/
  gen : Nat
  /-- Next phase of the calendar, bytes and units sent to each rank, calendar segments ended, residual ended. -/
  phase : Nat
  bytes : List Nat
  units : List Nat
  segEnded : Bool
  resEnded : Bool
  overran : Bool
  /-- The thread that issued its XGO. -/
  by_ : Nat
  /-- Tickets of the ring taken for the exchange: each with its source rank and unit (R154). -/
  tickets : List (Nat × Nat × Nat)
  last : List Word
  deriving DecidableEq, Repr

def XPart.idle : XPart :=
  { state := .idle, team := 0, demand := [], ring := none, table := [], gen := 0, phase := 0, bytes := [], units := [],
    segEnded := false, resEnded := false, overran := false, by_ := 0, tickets := [], last := [] }

/-- A logical core (R28, R101, R103, R107). -/
structure LCore where
  id : Nat
  core : Nat
  away : Bool
  mc : Vector (BitVec 32) 16
  handles : Vector Handle 8
  ports : Vector (List Word) 4
  /-- Under QUANTUM, the words taken from each FIFO in the quantum (R167). -/
  portPops : Vector Nat 4
  xp : XPart
  srnA : Word
  srnM : Word
  /-- Under RECORD and REPLAY, the thread that runs on X for it (R164). -/
  runner : Option Nat
  deriving DecidableEq, Repr

def LCore.new (id : Nat) : LCore :=
  { id := id, core := 0, away := false, mc := Vector.replicate 16 0, handles := Vector.replicate 8 Handle.off,
    ports := Vector.replicate 4 [], portPops := Vector.replicate 4 0, xp := XPart.idle, srnA := 0, srnM := 0, runner := none }

/-- A queued vector instruction: the operands, mode and type it sampled at issue (R231). -/
structure VOp where
  id : Nat
  tid : Nat
  /-- The thread on whose behalf it was issued (R117). -/
  owner : Nat
  seq : Seq
  instr : Instr
  vtype : Word
  mode : BitVec 3
  /-- The stream of its stochastic-rounding counts (R121). -/
  base : Word
  srn : Word
  g : Word
  /-- A load: the elements with their keys, the bytes that have come (with their poison), the lines still out. -/
  elems : List (Nat × Nat)
  data : List (Nat × Byte × Bool)
  lines : Nat
  /-- Quarter-slots still to be granted (R232). -/
  need : Nat
  deriving DecidableEq, Repr

/-- A tile multiply-accumulate with everything it sampled (R255 to R258). -/
structure MmaOp where
  sparse : Bool
  tile : Nat
  aptr : Addr
  scla : Addr
  sclb : Addr
  desc : Word
  fa : BitVec 4
  fb : BitVec 4
  pal : Bool
  buf : Bool
  deriving DecidableEq, Repr

/-- Tile operations (R253). -/
inductive TileOp where
  | mma (o : MmaOp)
  | mzero (t : Nat)
  | mtrn (t u : Nat)
  | wload (src : Addr) (desc : Word)
  deriving DecidableEq, Repr

/-- `seq` gives the issue order among all operations of the core; `tid` the thread for which it runs. -/
structure OpRun where
  seq : Nat
  tid : Nat
  op : TileOp
  started : Bool
  finished : Bool
  deriving DecidableEq, Repr

/-- A batch (R253); `handed` names the COPYM command it came from (R272). -/
structure Batch where
  id : Nat
  ops : List OpRun
  handed : Option (Nat × Nat)
  poisoned : Bool
  deriving DecidableEq, Repr

/-- An operand-range register (R261): bytes lo to hi − 1 of the local space, and the batch that reads them. -/
structure RangeReg where
  num : Nat
  lo : Nat
  hi : Nat
  batch : Nat
  deriving DecidableEq, Repr

/-- The matrix state (R89, R250, R253, R261, R265). `acc` and `wbuf` list what is not zero. -/
structure Matrix where
  acc : List (Nat × BitVec 32)
  wbuf : List (Nat × Byte)
  /-- Elements of the accumulator store and bytes of the weight buffer that carry poison (R364). -/
  accPois : List Nat
  wPois : List Nat
  dict0 : Vector (BitVec 16) 16
  dict1 : Vector (BitVec 16) 16
  cur : Bool
  opened : List OpRun
  openId : Nat
  openPoisoned : Bool
  batches : List Batch
  nextOp : Nat
  /-- A batch that read poison has retired and no MWAITB has counted it yet (R364). -/
  retPois : Bool
  ranges : List RangeReg
  deriving DecidableEq, Repr

def Matrix.zero : Matrix :=
  { acc := [], wbuf := [], accPois := [], wPois := [], dict0 := Vector.replicate 16 0, dict1 := Vector.replicate 16 0, cur := false,
    opened := [], openId := 0, openPoisoned := false, batches := [], nextOp := 0, retPois := false, ranges := [] }

/-- Bytes an engine writes within one 64-byte line: address, byte and poison mark of each (R94, R364). In a line for
a ring, the addresses count from the command's first slot. -/
structure LineWrite where
  cells : List (Addr × Byte × Bool)
  deriving DecidableEq, Repr

/-- Walker command kinds (R97). -/
inductive WKind where
  | copy | copym | tile | gather | mcast
  deriving DecidableEq, Repr

/-- One run of bytes a command copies. -/
structure Move where
  dst : Addr
  src : Addr
  len : Nat
  deriving DecidableEq, Repr

/-- An accepted walker command (R97, R267 to R272). -/
structure WCmd where
  id : Nat
  kind : WKind
  launch : Nat
  tid : Nat
  /-- The thread on whose behalf it was issued: A's may have gone (R276). -/
  owner : Nat
  seq : Seq
  lcore : Nat
  tag : Nat
  d : Nat
  seqn : Nat
  moves : List Move
  /-- GATHER: index array, element size, bases and count (R270). -/
  gather : Option (Addr × Nat × Addr × Addr × Nat)
  /-- Handle destination: logical core, handle, bytes (R105). -/
  ring : Option (Nat × Nat × Nat)
  /-- Slots of the ring that have landed. -/
  ringDone : Nat
  cnt : Option Nat
  targets : List Nat
  tile : Option MmaOp
  started : Bool
  /-- Lines that have reached their homes and are still to land; those on their way stand in packets. -/
  landing : List LineWrite
  handed : Bool
  /-- The cause of the fault that it met (R347). -/
  cause : Byte
  released : Option Released
  deriving DecidableEq, Repr

/-- Where a bulk packet stands (R144). -/
inductive PkState where
  | sent | dropped | requested | granted
  /-- Dropped by a receiver whose package has another incarnation (R147). -/
  | lost
  deriving DecidableEq, Repr

/-- A unit of an exchange under way: source and destination rank, unit index in its ticket run, data, residual, and the
generation of the calendar under which it was sent (R156). -/
structure XUnit where
  src : Nat
  dst : Nat
  idx : Nat
  /-- Bytes from the start of its slot. -/
  data : List (Byte × Bool)
  residual : Bool
  gen : Nat
  deriving DecidableEq, Repr

/-- A bulk packet (R144): one to four lines of one command, or a unit of the exchange of a team of a launch, which is four
lines. It carries the incarnation of its destination's package (R147). -/
structure Packet where
  id : Nat
  core : Nat
  cmd : Nat
  dstPkg : Nat
  dstLc : Nat
  dstCore : Nat
  lines : List LineWrite
  unit : Option (Nat × Nat × XUnit)
  st : PkState
  reserved : Bool
  inc : Byte
  deriving DecidableEq, Repr

/-- A PLB entry (R328). -/
structure PlbEntry where
  granule : Nat
  /-- The domain it was made for; none: for supervisor code, which no domain binds (R349). -/
  did : Option (BitVec 16)
  rights : BitVec 5
  home : Bool
  hidx : Nat
  hbase : Nat
  deriving DecidableEq, Repr

/-- What was under way when a PLBINV removed its granules: posted requests, loads, walker commands, and open chunks
(R331). -/
structure Inval where
  posts : List PostId
  loads : List (Nat × Nat)
  cmds : List (Nat × Nat)
  chunks : List (Nat × Nat)
  /-- Agents with stores or lines still to send, entries of saddlebags, cores that stream to a husk, and participants of
  exchanges, by launch and logical core. -/
  unsent : List Nat
  held : List Released
  husks : List Nat
  xgos : List (Nat × Nat)
  deriving DecidableEq, Repr

/-- A physical core (R20 to R24, R228, R261, R267, R309, R349, R357). -/
structure Core where
  id : Nat
  hitch : Option Nat
  hitchQ : List Nat
  shared : Byte
  bqX : List Bool
  bqA : List Bool
  bqM : List Bool
  /-- Under QUANTUM, the bits pushed in the quantum, oldest first, with the queue of each, and the queues popped (R167). -/
  bqSent : List (Seq × Bool)
  bqPops : List Seq
  fmtq : List (BitVec 31 × Addr)
  vregs : Vector VReg 32
  vmask : Vector Word 8
  /-- Bytes of the vector registers that carry poison (R364). -/
  vpois : Vector (BitVec 256) 32
  /-- Masks computed from poisoned elements. -/
  mpois : Byte
  vholder : Option Nat
  /-- The slot from which X issued last (R20). -/
  lastSlot : Nat
  vqueue : List VOp
  vnext : Nat
  vfree : Bool
  credit : Int
  mx : Matrix
  walker : List WCmd
  nextCmd : Nat
  places : Vector Place 7
  plb : List PlbEntry
  priv : Priv
  sup : Bool
  caller : Option Nat
  irqs : List (BitVec 8)
  /-- Groups that halted the core and are not yet resumed; a halt of its own or of the host (R357, R358). -/
  halted : Bool
  haltedBy : BitVec 16
  /-- Halts triggered and not yet taken (R357). -/
  haltDue : BitVec 16
  husking : Option Addr
  /-- An outstanding question to the translation unit (R328, R330). -/
  asked : Option Addr
  /-- What a PLBINV of the core still waits for (R331). -/
  inval : Option Inval
  deriving DecidableEq, Repr

def Core.new (id : Nat) : Core :=
  { id := id, hitch := none, hitchQ := [], shared := 0, bqX := [], bqA := [], bqM := [], bqSent := [], bqPops := [], fmtq := [],
    vregs := Vector.replicate 32 0, vmask := Vector.replicate 8 0, vpois := Vector.replicate 32 0, mpois := 0, vholder := none, lastSlot := 3, vqueue := [], vnext := 0,
    vfree := false, credit := 0, mx := Matrix.zero, walker := [], nextCmd := 0,
    places := Vector.replicate 7 Place.empty, plb := [], priv := Priv.reset, sup := false,
    caller := none, irqs := [], halted := false, haltedBy := 0, haltDue := 0, husking := none, asked := none,
    inval := none }

/-- Signal statuses (R42). -/
inductive SigStatus where
  | unresolved | present | absent | forced
  deriving DecidableEq, Repr

structure SigCell where
  emitted : Bool
  value : BitVec 32
  count : Nat
  status : SigStatus
  deriving DecidableEq, Repr

/-- A signal at an instant's start with no potential emitter (R42). -/
def SigCell.quiet : SigCell := { emitted := false, value := 0, count := 0, status := .absent }

/-- A TEAMH registration (R55, R283). -/
structure Registration where
  entry : Addr
  hfp : Addr
  rbuf : Addr
  rsize : Nat
  pcore : Nat
  deriving DecidableEq, Repr

structure XPhase where
  pairs : List (Nat × Nat)
  len : Nat
  deriving DecidableEq, Repr

/-- The exchange of a team in the current instant (R148, R151, R156). `gen` is the calendar's generation number; `units`
have reached their receivers and are still to land. -/
structure Exchange where
  ranks : List Nat
  calendar : Option (List XPhase)
  gen : Nat
  units : List XUnit
  /-- Next source of the residual phase, once every calendar segment has ended (R153). -/
  residual : Option Nat
  deriving DecidableEq, Repr

/-- A team's board (R36, R42, R55). -/
structure Board where
  uid : Nat
  val : BitVec 32
  level : Nat
  /-- The die whose resolution unit holds it (R51). -/
  unit : Nat
  parent : Option Nat
  world : Option Nat
  inst : Word
  /-- In the communication phase: statuses are frozen (R36). -/
  comm : Bool
  sigs : Vector SigCell 64
  handler : Option Registration
  seqn : Nat
  serving : Bool
  /-- Signals of the current trap record: level and index (R57). -/
  cycle : List (Nat × Nat)
  /-- The instant in which the trap that its handler serves was raised (R58). -/
  trapInst : Word
  /-- Paused in its parent (R38). -/
  paused : Bool
  ended : Bool
  xch : Option Exchange
  deriving DecidableEq, Repr

/-- End codes of rivals (R73). -/
inductive EndCode where
  | live | done | claimed | killed | abandoned | failed | promoted
  deriving DecidableEq, Repr

/-- What a saddlebag entry holds (R78). -/
inductive SbOp where
  | posted (va : Addr) (key : Nat) (req : PReq) (rel : Bool)
  | walker (c : WCmd)
  | emit (uid sig : Nat) (val : BitVec 32)
  /-- With the instant in which it was issued (R157). -/
  | demand (lcore team : Nat) (vec : List Nat) (ring : Nat) (inst : Word)
  | xgo (lcore team : Nat) (table : List (Addr × Nat)) (inst : Word)
  | notify (part queue : Nat)
  deriving DecidableEq, Repr

structure SbEntry where
  op : SbOp
  bytes : Nat
  seq : Seq
  lcore : Nat
  ridx : Nat
  sub : Nat
  /-- The rival's thread. -/
  tid : Nat
  deriving DecidableEq, Repr

structure Rival where
  idx : Nat
  tid : Nat
  tag : Nat
  code : EndCode
  cause : Byte
  lines : Nat
  sb : List SbEntry
  /-- Saddlebag counts kept once it has ended (R76). -/
  sbEnt : Nat
  sbLen : Nat
  deriving DecidableEq, Repr

/-- World states (R83). -/
inductive WState where
  | opened | claimed | promoted | ended | resolved
  deriving DecidableEq, Repr

structure World where
  wid : Nat
  forker : Nat
  lcore : Nat
  pkg : Nat
  n : Nat
  depth : Nat
  ptag : Nat
  state : WState
  rivals : List Rival
  winner : Option Nat
  /-- A commit under way (R77), and whether it was by CHOOSEW. -/
  committing : Option Nat
  /-- The lines of the view under commit are in the parent view; its saddlebag is being released. -/
  linesDone : Bool
  claims : List Nat
  team : Option Nat
  /-- The forker and its FORKW count, as the order log writes them (R165). -/
  origin : Nat
  deriving DecidableEq, Repr

/-- A copied line of a view (R69): its line key, its bytes, its EMPTY words and its poisoned ones. -/
structure VLine where
  line : Nat
  data : Line
  empty : BitVec 8
  pois : BitVec 8
  deriving DecidableEq, Repr

/-- A live view tag with its tag-table entry (R68, R81). -/
structure View where
  pkg : Nat
  tag : Nat
  ptag : Nat
  idx : Nat
  n1 : Nat
  depth : Nat
  /-- Discarded, and kept while walker commands that were issued in it finish (R275). -/
  gone : Bool
  lines : List VLine
  deriving DecidableEq, Repr

/-- Determinism modes (R164). -/
inductive Mode where
  | free | record | replay | quantum
  deriving DecidableEq, Repr

/-- Where a quantum stands (R167): agents run; the named agents' requests are served in turn; what was sent is
completed. -/
inductive QPhase where
  | run
  | serve (tids : List Nat)
  | drain
  deriving DecidableEq, Repr

/-- Where a launch stands (R316, R348). -/
inductive LPhase where
  | none | dispatched | admitted | reserved | running | stopping | accounting | final | ended
  deriving DecidableEq, Repr

/-- Board messages in flight (R42, R47, R52, R57, R283); `tid` is the thread that sent it. -/
inductive BoardMsg where
  | emit (uid sig : Nat) (val : BitVec 32) (tid : Nat) (pc : Addr) (released : Option Released)
  | clear (uid : Nat) (mask : Word) (tid : Nat)
  | resolve (uid lvl sig : Nat) (tid : Nat)
  | register (uid : Nat) (reg : Option Registration) (tid : Nat)
  deriving DecidableEq, Repr

/-- A trap record (R344). -/
structure TrapRec where
  queue : Nat
  lseq : Nat
  pc : Addr
  addr : Addr
  lcore : Nat
  core : Nat
  name : Nat
  rv : Bool
  ridx : Nat
  seq : Nat
  kind : Nat
  cause : Byte
  deriving DecidableEq, Repr

/-- An item of a completion record (R347). -/
structure Item where
  seqn : BitVec 32
  lcore : Nat
  sub : Nat
  ridx : Nat
  kind : Nat
  fate : Bool
  cause : Byte
  deriving DecidableEq, Repr

/-- What an item still in flight at the launch's end waits for: a walker command, a journal entry, an exchange unit; or it has
met its fate already. -/
inductive InFlight where
  | met
  | cmd (core id : Nat)
  | entry (core place entry : Nat)
  | unit (uid src dst idx : Nat)
  deriving DecidableEq, Repr

/-- A launch (R28, R313 to R315). `image` holds the physical bytes from which its code is fetched,
as they stood at the start, and `frames` the frame that each granule of its leases had then (R191); `lmem`, `lempty` and
`lpoison` are the local spaces of its logical cores with their bits (R88, R93, R363). -/
structure Launch where
  id : Nat
  queue : Nat
  lseq : Nat
  phase : LPhase
  l : Nat
  w : Nat
  lsize : Nat
  jkey : Word
  mode : Mode
  matrix : Bool
  place : Nat
  entry : Addr
  args : Addr
  crec : Addr
  tmpl : Addr
  af : Bool
  rf : Bool
  /-- A fence-only packet (R313). -/
  fence : Bool
  /-- Instructions per quantum, of the template (R314). -/
  count : Nat
  widths : List Nat
  leases : List (Nat × Nat × BitVec 5)
  /-- Its span partition (R325). -/
  part : Nat
  image : List Host.Cell
  frames : List (Nat × Nat)
  lmem : List Host.Cell
  lempty : List Nat
  lpoison : List Nat
  lcores : List LCore
  boards : List Board
  /-- Boards reserved for its launch tasks until it starts, by their dies (R51, R316). -/
  reserved : List Nat
  boardq : List BoardMsg
  worlds : List World
  views : List View
  items : List Item
  /-- Items that were in flight when the launch ended, and those that failed before on their own (R348). -/
  pending : List (Item × InFlight)
  fatal : Option TrapRec
  status : Byte
  /-- The status word of its completion record, once that is final (R346). -/
  word : Option Word
  logTrunc : Bool
  hinted : Bool
  /-- Status word of the predecessor, once it is final; none while it runs (R32). -/
  pred : Option Word
  logN : Nat
  /-- Last event at each order-log site (R165). -/
  sites : List (Nat × Nat × Nat × Nat)
  /-- Events of each kind of each logical core and sequencer (R165). -/
  ords : List (Nat × Nat)
  /-- The cards posted, by number, with how many workers have still to end after a count of 0 (R163). -/
  cards : List (Nat × Nat)
  /-- Words on their way to a neighbour's FIFO: logical core, direction, word (R107). -/
  portq : List (Nat × Nat × Word)
  quantum : QPhase
  nextUid : Nat
  nextWid : Nat
  deriving DecidableEq, Repr

def Launch.none : Launch :=
  { id := 0, queue := 0, lseq := 0, phase := .none, l := 0, w := 0, lsize := 0, jkey := 0, mode := .free,
    matrix := false, place := 0, entry := 0, args := 0, crec := 0, tmpl := 0, af := false, rf := false,
    fence := false, count := 1024, widths := [0, 0, 0, 0, 0], leases := [], part := 0, image := [], frames := [], lmem := [], lempty := [], lpoison := [], lcores := [],
    boards := [], reserved := [], boardq := [], worlds := [], views := [], items := [], pending := [], fatal := .none, status := 0, word := .none,
    logTrunc := false, hinted := false, pred := some 0, logN := 0, sites := [], ords := [], cards := [], portq := [], quantum := .run, nextUid := 0, nextWid := 0 }

/-- A seed waiting in a die queue (R158, R159). -/
structure QEntry where
  tid : Nat
  key : Word
  pass : Nat
  cluster : Nat
  pkg : Nat
  tagged : Bool
  /-- The spawner and its spawn count as the order log writes them; all ones where no SPAWN made it (R165). -/
  origin : Nat
  deriving DecidableEq, Repr

/-- A die's queue; the seeds in its overflow ring, head first, whose records stand in memory; its holding buffer, each
seed with the thread whose SPAWN stalls; room kept for SPAWNBs under way; whether a refill waits for a page; the granule for
which the holding buffer has raised SPILL_UNMAPPED; and the occupancy that it showed at the last exchange (R158 to R162). -/
structure DieQ where
  die : Nat
  entries : List QEntry
  ring : List QEntry
  holding : List (QEntry × Nat)
  reserved : Nat
  stalled : Bool
  raised : Option Nat
  shown : Option Nat
  deriving DecidableEq, Repr

/-- A posted request on its way (R145). -/
structure Posted where
  id : PostId
  tid : Nat
  launch : Nat
  seq : Seq
  pkg : Nat
  home : Nat
  va : Addr
  key : Nat
  req : PReq
  released : Option Released
  deriving DecidableEq, Repr

/-- Messages between packages (R132, R136, R145, R146), each with the incarnation that its sender holds for the package
it goes to (R147). -/
inductive Msg where
  | posted (m : Posted) (inc : Byte)
  /-- A request that a halted home has acknowledged and not yet applied, with the core of that home (R146). -/
  | queued (m : Posted) (core : Nat)
  | ack (id : PostId) (inc : Byte)
  | refusal (m : Posted) (cause : Byte) (inc : Byte)
  | marker (core place pkg count : Nat) (inc : Byte)
  | answer (core place pkg : Nat) (inc : Byte)
  deriving DecidableEq, Repr

/-- The window of applied requests that a home, a logical core of a launch on a package, keeps for an agent, newest first,
each with its response: 0 an acknowledgement, else the cause of a refusal (R145); and how many it has performed that no
flush marker has counted (R136). -/
structure Window where
  core : Nat
  place : Nat
  pkg : Nat
  launch : Nat
  home : Nat
  applied : List (PostId × Byte)
  count : Nat
  deriving DecidableEq, Repr

/-- What a flit stands for, by the names that its sender gave it (R142 to R145). -/
inductive Cargo where
  | posted (id : PostId)
  | ack (id : PostId)
  | refusal (id : PostId)
  | marker (core place pkg : Nat)
  | answer (core place pkg : Nat)
  /-- A remote load or atomic on its way to its home, and its answer on the way back. -/
  | load (tid id : Nat)
  | reply (tid id : Nat)
  /-- A bulk packet, its drop notice, its reservation request or its grant. -/
  | packet (id : Nat)
  deriving DecidableEq, Repr

/-- A flit (R143): what it carries, the package and the router at which it stands, the core that it goes to, its age, the core that sent it,
whether it has entered the torus, and whether it has taken its hop of the torus cycle under way. -/
structure Flit where
  cargo : Cargo
  pkg : Nat
  node : Nat
  dst : Nat
  age : BitVec 7
  src : Nat
  entered : Bool
  hopped : Bool
  deriving DecidableEq, Repr

/-- A span link (R143, R365): the flits that it holds, oldest first, and the failed sends of the oldest. -/
structure Link where
  id : Nat
  pkgA : Nat
  pkgB : Nat
  held : List Flit
  failed : Nat
  retrains : Nat
  disabled : Bool
  deriving DecidableEq, Repr

/-- The package next to a package in a direction of the span, a torus of 4 × 4 × 8: direction 0 and 1 along x, 2 and 3 along
y, 4 and 5 along z (R4, R143) (PRESUMED, notes/assumptions/44.md). -/
def spanNext (p d : Nat) : Nat :=
  let x := p % 4
  let y := p / 4 % 4
  let z := p / 16 % 8
  let up := d % 2 = 0
  if d / 2 = 0 then (if up then (x + 1) % 4 else (x + 3) % 4) + 4 * y + 16 * z
  else if d / 2 = 1 then x + 4 * (if up then (y + 1) % 4 else (y + 3) % 4) + 16 * z
  else x + 4 * y + 16 * (if up then (z + 1) % 8 else (z + 7) % 8)
/-- The direction and number of a package's span link: two links run in each direction. A link has its number at the end
from which it runs up, and that number with the direction turned at the other. -/
def linkDir (n : Nat) : Nat := n / 2 % 6
def linkBack (n : Nat) : Nat := if linkDir n % 2 = 0 then n + 2 else n - 2
/-- The 12 span links of a package (R4). -/
def linksOf (p : Nat) : List Link :=
  (List.range 12).map fun n =>
    let q := spanNext p (linkDir n)
    if linkDir n % 2 = 0 then { id := 12 * p + n, pkgA := p, pkgB := q, held := [], failed := 0, retrains := 0, disabled := false }
    else { id := 12 * q + linkBack n, pkgA := q, pkgB := p, held := [], failed := 0, retrains := 0, disabled := false }

/-- The management cores of a package (R359 to R362, R372). -/
structure Mgmt where
  verified : Bool
  fetching : Bool
  minSvn : BitVec 32
  fuseSvn : BitVec 32
  /-- Measurement log: digest and event type of each entry (R361). -/
  log : List (List Byte × Nat)
  mreg : List Byte
  /-- Replies to requests, newest first (R362). -/
  replies : List (List Byte)
  /-- Dies that the mailbox reports as halted for heat, newest first (R372). -/
  reports : List Nat
  mhz : Nat
  deriving DecidableEq, Repr

def Mgmt.reset : Mgmt :=
  { verified := false, fetching := true, minSvn := 0, fuseSvn := 0, log := [], mreg := List.replicate 32 0,
    replies := [], reports := [], mhz := 3600 }

/-- What a package holds (R1, R68, R147, R368). -/
structure Package where
  id : Nat
  inc : Byte
  freeTags : List Nat
  /-- Tags whose lines are still to be reclaimed (R68). -/
  dirtyTags : List Nat
  /-- New lines the L2 and the shadow pool can still take (R71, R339): below 0 where what is left of them has too many. -/
  tagLines : Int
  cmask : BitVec 144
  lmask : BitVec 12
  smask : BitVec 8
  /-- The fuse map: the clusters, links and stacks that passed the part's test (R1, R359, R368). -/
  fuses : BitVec 144 × BitVec 12 × BitVec 8
  gen : Byte
  /-- Held in reset by the management cores (R359). -/
  inReset : Bool
  /-- The partitions of the package in the order of their numbers: their dies and span partition (R325, R326). -/
  plan : List (BitVec 4 × Byte)
  mgmt : Mgmt
  /-- ERRCNT, CSRAM first (R365). -/
  errcnt : Vector Word 8
  /-- It has been reset and has not yet rejoined the span (R147). -/
  rejoin : Bool
  deriving DecidableEq, Repr

/-- Lines of the L2, whose slices are those of the enabled clusters (R2, R4). -/
def l2Lines (cmask : BitVec 144) : Nat :=
  Config.clusterLines * (List.range 144).foldl (fun n i => if cmask.getLsbD i then n + 1 else n) 0

/-- A package at reset. The masks of R368 come from fuses: bring-up applies those, and until then, with its compute dies
held, they hold all ones (DESIGN CHOICE, notes/assumptions/65.md). -/
def Package.new (id : Nat) : Package :=
  { id := id, inc := 0, freeTags := (List.range 255).map (· + 1), dirtyTags := [],
    tagLines := 9437184, cmask := BitVec.allOnes 144, lmask := BitVec.allOnes 12, smask := BitVec.allOnes 8,
    fuses := Config.fuses id, gen := 0, inReset := true, plan := [(0xF, 0)], mgmt := Mgmt.reset,
    errcnt := Vector.replicate 8 0, rejoin := false }

/-- A profiling record (R169): time, logical core, tag. -/
structure ProfRec where
  part : Option Nat
  time : Word
  lcore : Nat
  tag : BitVec 32
  deriving DecidableEq, Repr

/-- The packet processor of a span partition (R310 to R316, R325): the queue whose turn it is, and WIDX of each queue
as it was last read. -/
structure PktProc where
  part : Nat
  turn : Nat
  widx : List (Nat × BitVec 32)
  deriving DecidableEq, Repr

/-- The exchange arbiter of a span partition (R156): the die and the unit of its primary copy and of its standby, while they
stand; heartbeats missed; the generation number. -/
structure Arbiter where
  part : Nat
  primary : Option (Nat × Nat)
  standby : Option (Nat × Nat)
  missed : Nat
  gen : Nat
  deriving DecidableEq, Repr

/-- What a husk holds beside the bytes that R353 gives a place: the core, its logical cores with the slots of their
threads, and their launch with its place in its queue; and the requests that its arrival buffer holds. -/
structure Husk where
  at_ : Addr
  core : Core
  slots : List (Nat × Option Nat)
  lcs : List Nat
  launch : Nat
  lseq : Nat
  queue : Nat
  arrivals : List Posted
  deriving DecidableEq, Repr

/-- A record in the paddock of its core's package: its place in paddock order, its page, and whose line it is (R338). -/
structure PadRec where
  core : Nat
  index : Nat
  page : Nat
  launch : Nat
  lcore : Nat
  seq : Seq
  tag : Nat
  deriving DecidableEq, Repr

/-- What a checkpoint of a span partition holds (R371): the frames of its resident pages, their bytes, their EMPTY words and
their poisoned ones, and what belongs to the husks in them. -/
structure Checkpoint where
  part : Nat
  frames : List Nat
  cells : List Host.Cell
  empty : List Nat
  poison : List Nat
  husks : List Husk
  deriving DecidableEq, Repr

/-- The machine. -/
structure State where
  /-- Events that have fallen due, oldest first (MODEL). -/
  agenda : List Instr
  /-- Which agent issues next, by its place in the line; empty is round robin (MODEL). -/
  plan : List Nat
  /-- What the outside world will do, oldest first: host and management requests, images, failures (MODEL). -/
  inputs : List Instr
  /-- Names the next fresh free value (MODEL). -/
  choice : Nat
  cycle : Nat
  cur : Agent
  agents : List Agent
  core : Core
  cores : List Core
  lc : LCore
  launch : Launch
  launches : List Launch
  nextTid : Nat
  /-- The number of the next bulk packet. -/
  nextPkt : Nat
  mem : List Host.Cell
  empty : List Nat
  poison : List Nat
  /-- The caches of the translation units, by unit: the granules that each holds, newest first (R332). -/
  tuc : List (Nat × List (Nat × Word × Word))
  pins : List Pin
  dieqs : List DieQ
  /-- The core of each cluster that the lane-group arbiter served last with share 0 (R323). -/
  laneTurn : List (Nat × Nat)
  profq : List ProfRec
  packages : List Package
  net : List Msg
  packets : List Packet
  flits : List Flit
  links : List Link
  windows : List Window
  /-- Granules for which PAGE_ABSENT stands in the trap queue (R336). -/
  absent : List Nat
  /-- The records that stand in the paddocks, oldest first (R338). -/
  paddocked : List PadRec
  trapWait : List TrapRec
  pkts : List PktProc
  husks : List Husk
  /-- The exchange arbiters that are not as at reset (R156). -/
  arbiters : List Arbiter
  /-- MSI-X vectors raised, newest first: package and vector (R370). -/
  vectors : List (Nat × Nat)
  /-- The checkpoint that was streamed last (R371). -/
  checkpoint : Option Checkpoint
  deriving DecidableEq, Repr

/-- The machine right after package reset: the compute dies are held in reset, and no launch runs (R359)
(DESIGN CHOICE, notes/assumptions/2.md). -/
def State.reset : State :=
  { agenda := [], plan := [], inputs := [], choice := 0, cycle := 0, cur := Agent.new 0, agents := [], core := Core.new 0,
    cores := [], lc := LCore.new 0, launch := Launch.none, launches := [], nextTid := 1, nextPkt := 0, mem := [], empty := [],
    poison := [], tuc := [], pins := [], dieqs := [], laneTurn := [], profq := [], packages := [Package.new 0],
    net := [], packets := [], flits := [], links := linksOf 0, windows := [], absent := [], paddocked := [],
    trapWait := [], pkts := [], husks := [], arbiters := [],
    vectors := [], checkpoint := none }

end Sys2Proof.Machine
end

