-- ==== Sys2Proof/Machine/Ops.lean ====
section
/-! DEFINITION. The shared operations: looking things up, registers, memory and translation, chunks, taking an
exception and returning from one. -/

namespace Sys2Proof.Machine

/-- How the body of a meaning ends short of its effect. `wait`, `fault`, `utrap`, `rivalFail` undo what the body
did; `keep` and `utrapKeep` keep it; `start` undoes it and starts what the instruction then waits for; `commit` asks that the chunk end and commit first, and the body then run again. -/
inductive Stop where
  | wait (w : Wait)
  | keep (s : State) (w : Wait)
  | start (f : State → State) (w : Wait)
  | fault (cause : Byte) (addr : Addr)
  | utrap (cause : Byte)
  | utrapKeep (s : State) (cause : Byte)
  | rivalFail (cause : Byte)
  | commit
  | noMemory (pa : Nat)
  /-- A fault for a missing page right, with what asking the unit again leaves (R330). -/
  | refused (f : State → State) (cause : Byte) (addr : Addr)
  /-- No page entry covers the address: the access waits for one (R336). -/
  | absent (va : Addr)

/-- The body of a meaning. -/
abbrev Run := StateT State (Except Stop)

abbrev Res := Host.Outcome State Fault Refusal

def blocked {α : Type} (on : BlockedOn) : Run α := throw (.wait (.blocked on))
def stalled {α : Type} (on : BlockedOn) : Run α := throw (.wait (.resource on))
def fault {α : Type} (cause : Byte) (addr : Addr) : Run α := throw (.fault cause addr)
def startWaiting {α : Type} (f : State → State) (w : Wait) : Run α := throw (.start f w)
/-- Waits with what the body has done so far kept. -/
def keepWaiting {α : Type} (on : BlockedOn) : Run α := do throw (.keep (← get) (.blocked on))

/-! Cause codes (R341). -/
def cIllegal : Byte := 0x01
def cPrivilege : Byte := 0x02
def cAlign : Byte := 0x03
def cRights : Byte := 0x04
def cLease : Byte := 0x05
def cPageAbsent : Byte := 0x06
def cDivZero : Byte := 0x07
def cHazard : Byte := 0x08
def cPromise : Byte := 0x09
def cCausality : Byte := 0x0A
def cContradiction : Byte := 0x0B
def cEscape : Byte := 0x0C
def cExhausted : Byte := 0x0D
def cOverrun : Byte := 0x0E
def cRefused : Byte := 0x0F
def cRestarted : Byte := 0x10
def cSpill : Byte := 0x11
def cUncorrectable : Byte := 0x12
def cHandle : Byte := 0x13
def cOverflow : Byte := 0x14

def illegal {α : Type} : Run α := fault cIllegal 0
def require (b : Bool) (cause : Byte) (addr : Addr := 0) : Run Unit := if b then pure () else fault cause addr

/-! Looking up and changing the parts of the state. -/

/-- The first element that meets `p`, changed by `f`; nothing changes where none does. -/
def modFirst {α : Type} (p : α → Bool) (f : α → α) : List α → List α
  | [] => []
  | a :: l => if p a then f a :: l else a :: modFirst p f l

def State.allAgents (s : State) : List Agent := s.cur :: s.agents
def State.getAgent (s : State) (tid : Nat) : Option Agent := s.allAgents.find? (·.tid == tid)
def State.mapAgents (s : State) (f : Agent → Agent) : State := { s with cur := f s.cur, agents := s.agents.map f }
def State.modAgent (s : State) (tid : Nat) (f : Agent → Agent) : State :=
  s.mapAgents fun a => if a.tid = tid then f a else a
def State.modCur (s : State) (f : Agent → Agent) : State := { s with cur := f s.cur }

def State.getPkg (s : State) (id : Nat) : Package := (s.packages.find? (·.id == id)).getD (Package.new id)
/-- The partition of a core within its package, with its dies and its span partition (R325, R326). -/
def partOf (s : State) (core : Nat) : Option (Nat × BitVec 4 × Byte) :=
  let l := (s.getPkg (core / 576)).plan
  ((List.range l.length).zip l).find? fun p => p.2.1.getLsbD (core % 576 / 144)
/-- The span partition of a core. -/
def spanPart (s : State) (core : Nat) : Option Nat := (partOf s core).map fun p => p.2.2.toNat
/-- The span partitions of the machine. -/
def partsOf (s : State) : List Nat := (s.packages.flatMap fun p => p.plan.map fun x => x.2.toNat).eraseDups
/-- Its cluster is enabled (R368). -/
def coreEnabled (s : State) (core : Nat) : Bool := (s.getPkg (core / 576)).cmask.getLsbD (core % 576 / 4)
/-- PARTN (R326). -/
def partnWord (s : State) (core : Nat) : Word :=
  match partOf s core with
  | some (i, dies, set) => BitVec.ofNat 64 (set.toNat * 65536 + dies.toNat * 256 + i)
  | none => 0

/-- A core with no entry of its own: as at reset, with the registers that a CRWR writes in every core of the package or
of the partition as another core of it holds them (R333, R343) (DESIGN CHOICE, notes/assumptions/53.md). -/
def freshCore (s : State) (id : Nat) : Core :=
  let c := Core.new id
  let c := match (s.core :: s.cores).find? fun k => k.id / 576 == id / 576 with
    | some k => { c with priv := { c.priv with
        ptbase := k.priv.ptbase, shadow := k.priv.shadow, spillr := k.priv.spillr, paddock := k.priv.paddock } }
    | none => c
  match (s.core :: s.cores).find? fun k => spanPart s k.id == spanPart s id with
  | some k => { c with priv := { c.priv with trapq := k.priv.trapq } }
  | none => c
def State.getCore (s : State) (id : Nat) : Core :=
  if s.core.id = id then s.core else (s.cores.find? (·.id == id)).getD (freshCore s id)
def State.modCore (s : State) (id : Nat) (f : Core → Core) : State :=
  if s.core.id = id then { s with core := f s.core }
  else if s.cores.any (·.id == id) then { s with cores := modFirst (·.id == id) f s.cores }
  else { s with cores := f (freshCore s id) :: s.cores }
/-- The change on every core that differs from a core as it is at reset. -/
def State.mapCores (s : State) (f : Core → Core) : State := { s with core := f s.core, cores := s.cores.map f }
def State.allCores (s : State) : List Core := s.core :: s.cores

/-- Cores, clusters, dies and packages by number (R1, R4). -/
def pkgOf (core : Nat) : Nat := core / 576
def dieOf (core : Nat) : Nat := core / 144
def clusterOf (core : Nat) : Nat := core / 4

/-- A logical core without an entry of its own stands where packed placement puts it (R319). -/
def placeOf (s : State) (n : Nat) : Nat := n % (576 * s.packages.length)
def freshLc (s : State) (n : Nat) : LCore := { LCore.new n with core := placeOf s n }
def State.getLc (s : State) (n : Nat) : LCore :=
  if s.lc.id = n then s.lc else (s.launch.lcores.find? (·.id == n)).getD (freshLc s n)
def State.modLaunch (s : State) (f : Launch → Launch) : State := { s with launch := f s.launch }
def State.modLc (s : State) (n : Nat) (f : LCore → LCore) : State :=
  if s.lc.id = n then { s with lc := f s.lc }
  else if s.launch.lcores.any (·.id == n) then
    s.modLaunch fun l => { l with lcores := modFirst (·.id == n) f l.lcores }
  else s.modLaunch fun l => { l with lcores := f (freshLc s n) :: l.lcores }
/-- The entries of logical cores that differ from a fresh one. -/
def State.allLcs (s : State) : List LCore := s.lc :: s.launch.lcores

/-- A span has at most 128 packages (R4): there is no other to change. -/
def State.modPkg (s : State) (id : Nat) (f : Package → Package) : State :=
  if s.packages.any (·.id == id) then { s with packages := modFirst (·.id == id) f s.packages }
  else if id < 128 then { s with packages := s.packages ++ [f (Package.new id)] }
  else s

/-- A counter of ERRCNT goes up, and saturates (R365). -/
def countErr (pkg : Nat) (k : Fin 8) (s : State) : State :=
  s.modPkg pkg fun p => { p with errcnt := p.errcnt.set k (if p.errcnt[k] = BitVec.allOnes 64 then p.errcnt[k] else p.errcnt[k] + 1) }

/-- The package of the agent whose turn it is. -/
def State.pkg (s : State) : Nat := pkgOf s.cur.core

def State.getBoard (s : State) (uid : Nat) : Option Board := s.launch.boards.find? (·.uid == uid)
def State.modBoard (s : State) (uid : Nat) (f : Board → Board) : State :=
  s.modLaunch fun l => { l with boards := modFirst (·.uid == uid) f l.boards }
def State.getWorld (s : State) (wid : Nat) : Option World := s.launch.worlds.find? (·.wid == wid)
def State.modWorld (s : State) (wid : Nat) (f : World → World) : State :=
  s.modLaunch fun l => { l with worlds := modFirst (·.wid == wid) f l.worlds }
def State.modRival (s : State) (wid idx : Nat) (f : Rival → Rival) : State :=
  s.modWorld wid fun w => { w with rivals := modFirst (·.idx == idx) f w.rivals }
def State.getView (s : State) (pkg tag : Nat) : Option View :=
  s.launch.views.find? fun v => v.pkg == pkg && v.tag == tag

/-- The index of the agent's journal on its core (R132): its slot, or 4 for A; M has the sequence of its releases in 5, and
the supervisor context its journal in 6 (DESIGN CHOICE, notes/assumptions/18.md). -/
def Agent.place (a : Agent) : Fin 7 :=
  match a.seq with
  | .x => ⟨a.slot.getD 0 % 4, by omega⟩
  | .a => 4
  | .m => 5
  | .s => 6
def State.modPlace (s : State) (core : Nat) (i : Fin 7) (f : Place → Place) : State :=
  s.modCore core fun c => { c with places := c.places.set i (f c.places[i]) }

/-- The hitched thread of an A or M program; any other agent itself (R22, R25). -/
def ownerTid (a : Agent) : Nat := a.host.getD a.tid
def State.owner (s : State) (a : Agent) : Agent := (s.getAgent (ownerTid a)).getD a
/-- The A or M program of a core, or its supervisor context. -/
def State.seqOf (s : State) (core : Nat) (q : Seq) : Option Agent :=
  s.allAgents.find? fun a => a.core == core && a.seq == q && a.husked.isNone && (q == .s || a.host.isSome)

def seqCode : Seq → Nat
  | .x => 0 | .a => 1 | .m => 2 | .s => 3

/-! The focus: which agent, core, logical core and launch stand in front. -/

def focusCore (id : Nat) (s : State) : State :=
  if s.core.id = id then s
  else { s with core := s.getCore id, cores := s.core :: s.cores.filter (·.id != id) }
def focusLc (n : Nat) (s : State) : State :=
  if s.lc.id = n then s
  else { s with
    lc := s.getLc n
    launch := { s.launch with lcores := s.lc :: s.launch.lcores.filter (·.id != n) } }
/-- The launch `id` in front; the logical core in front becomes its logical core `n`. -/
def focusLaunch (id n : Nat) (s : State) : State :=
  if s.launch.id = id then focusLc n s
  else
    match s.launches.find? (·.id == id) with
    | none => s
    | some l =>
      let parked := { s.launch with lcores := s.lc :: s.launch.lcores }
      let s := { s with launch := l, launches := parked :: s.launches.filter (·.id != id) }
      { s with
        lc := (l.lcores.find? (·.id == n)).getD (freshLc s n)
        launch := { l with lcores := l.lcores.filter (·.id != n) } }
/-- Gives the turn to the agent `tid`. -/
def focusAgent (tid : Nat) (s : State) : State :=
  let s :=
    if s.cur.tid = tid then s
    else match s.agents.find? (·.tid == tid) with
      | none => s
      | some a => { s with cur := a, agents := s.agents.filter (·.tid != tid) ++ [s.cur] }
  focusCore s.cur.core (focusLaunch s.cur.launch s.cur.lcore s)

/-! Memory cells in canonical form: addresses rise, and no listed byte is 0 (notes/assumptions/3.md). -/

/-- DESIGN CHOICE, notes/assumptions/3.md. -/
def readCell (m : List Host.Cell) (a : Nat) : Byte := (aget a m).getD 0

def writeCell : List Host.Cell → Nat → Byte → List Host.Cell
  | [], a, b => if b = 0 then [] else [(a, b)]
  | (a', b') :: m, a, b =>
    if a < a' then (if b = 0 then (a', b') :: m else (a, b) :: (a', b') :: m)
    else if a = a' then (if b = 0 then m else (a, b) :: m)
    else (a', b') :: writeCell m a b

/-- The canonical form. -/
def Memory.wf : List Host.Cell → Bool
  | [] => true
  | [(_, b)] => b ≠ 0
  | (a, b) :: (a', b') :: m => b ≠ 0 && decide (a < a') && Memory.wf ((a', b') :: m)

/-! Keys: the physical address of a byte of the global space, or the place-window address of a byte of a local
space. Physical addresses lie below 2^52, place-window addresses from 2^79 on. -/

def placeBase : Nat := 2 ^ 79
/-- The address of a byte of a logical core's local space (R87, R213). -/
def placeAddr (n off : Nat) : Nat := placeBase + n / 1024 * 2 ^ 70 + n % 1024 * 2 ^ 60 + off
def isLocal (key : Nat) : Bool := placeBase ≤ key
def localCore (key : Nat) : Nat := field key 77 70 * 1024 + field key 69 60

/-- Bytes under no view: memory, or the local spaces of the launch. -/
def baseByte (s : State) (key : Nat) : Byte :=
  if isLocal key then readCell s.launch.lmem key else readCell s.mem key
def setBaseByte (s : State) (key : Nat) (b : Byte) : State :=
  if isLocal key then s.modLaunch fun l => { l with lmem := writeCell l.lmem key b }
  else { s with mem := writeCell s.mem key b }

def wordOf (key : Nat) : Nat := key / 8 * 8
def lineOf (key : Nat) : Nat := key / 64

def basePois (s : State) (key : Nat) : Bool :=
  if isLocal key then s.launch.lpoison.contains (wordOf key) else s.poison.contains (wordOf key)
def setBasePois (s : State) (key : Nat) (e : Bool) : State :=
  let f := if e then insertNat (wordOf key) else removeNat (wordOf key)
  if isLocal key then s.modLaunch fun l => { l with lpoison := f l.lpoison } else { s with poison := f s.poison }

/-- The bit of a word; a poisoned one reads FULL (R363). -/
def baseEmpty (s : State) (key : Nat) : Bool :=
  (if isLocal key then s.launch.lempty.contains (wordOf key) else s.empty.contains (wordOf key)) && !basePois s key
def setBaseEmpty (s : State) (key : Nat) (e : Bool) : State :=
  let f := if e then insertNat (wordOf key) else removeNat (wordOf key)
  if isLocal key then s.modLaunch fun l => { l with lempty := f l.lempty } else { s with empty := f s.empty }

/-! Views (R69). -/

def lineByte (l : Line) (i : Nat) : Byte := l.extractLsb' (8 * i) 8
def setLineByte (l : Line) (i : Nat) (b : Byte) : Line :=
  (l &&& ~~~(BitVec.ofNat 512 0xFF <<< (8 * i))) ||| (b.setWidth 512 <<< (8 * i))
def lineOfBytes (bs : List Byte) : Line := BitVec.ofNat 512 (ofBytes bs)

def View.line? (v : View) (key : Nat) : Option VLine := v.lines.find? (·.line == lineOf key)

/-- The copy in which a view sees a line: its own, else its parent's as it stands now; none where it sees memory. Local
memory has no versions. `fuel` bounds the nesting (R81: at most 4). -/
def viewLine : Nat → State → Nat → Nat → Nat → Option VLine
  | 0, _, _, _, _ => none
  | fuel + 1, s, pkg, tag, key =>
    if tag = 0 ∨ isLocal key then none
    else match s.getView pkg tag with
      | none => none
      | some v => (v.line? key).orElse fun _ => viewLine fuel s pkg v.ptag key

/-- A byte, the EMPTY bit of a word and its poison as a view sees them (R69, R364) (DEDUCED, notes/assumptions/57.md). -/
def readView (s : State) (pkg tag key : Nat) : Byte :=
  match viewLine 8 s pkg tag key with
  | some l => lineByte l.data (key % 64)
  | none => baseByte s key
def emptyView (s : State) (pkg tag key : Nat) : Bool :=
  match viewLine 8 s pkg tag key with
  | some l => l.empty.getLsbD (key % 64 / 8) && !l.pois.getLsbD (key % 64 / 8)
  | none => baseEmpty s key
def poisoned (s : State) (pkg tag key : Nat) : Bool :=
  match viewLine 8 s pkg tag key with
  | some l => l.pois.getLsbD (key % 64 / 8)
  | none => basePois s key
def readViewN (s : State) (pkg tag key n : Nat) : List Byte :=
  (List.range n).map fun i => readView s pkg tag (key + i)
def lineView (s : State) (pkg tag line : Nat) : Line := lineOfBytes (readViewN s pkg tag (64 * line) 64)
/-- A bit for each word of a line. -/
def wordBits (f : Nat → Bool) (line : Nat) : BitVec 8 :=
  BitVec.ofNat 8 ((List.range 8).foldl (fun n i => if f (64 * line + 8 * i) then n + 2 ^ i else n) 0)

def hasLine (s : State) (pkg tag key : Nat) : Bool :=
  match s.getView pkg tag with
  | some v => (v.line? key).isSome
  | none => true

def modView (s : State) (pkg tag : Nat) (f : View → View) : State :=
  s.modLaunch fun l => { l with views := modFirst (fun v => v.pkg == pkg && v.tag == tag) f l.views }

/-- Makes the view's copy of the line of `key`, taken from the parent now (R69)
(DESIGN CHOICE, notes/assumptions/58.md). -/
def copyLine (s : State) (pkg tag key : Nat) : State :=
  if tag = 0 ∨ isLocal key ∨ hasLine s pkg tag key then s
  else
    let n := lineOf key
    let l : VLine :=
      { line := n, data := lineView s pkg tag n, empty := wordBits (emptyView s pkg tag) n, pois := wordBits (poisoned s pkg tag) n }
    (modView s pkg tag fun v => { v with lines := l :: v.lines }).modPkg pkg
      fun p => { p with tagLines := p.tagLines - 1 }

def modLine (s : State) (pkg tag key : Nat) (f : VLine → VLine) : State :=
  modView s pkg tag fun v => { v with lines := modFirst (·.line == lineOf key) f v.lines }

def writeView (s : State) (pkg tag key : Nat) (b : Byte) : State :=
  if tag = 0 ∨ isLocal key ∨ (s.getView pkg tag).isNone then setBaseByte s key b
  else modLine (copyLine s pkg tag key) pkg tag key
    fun l => { l with data := setLineByte l.data (key % 64) b }

/-- The bit of a word of its line. -/
def setWordBit (b : BitVec 8) (key : Nat) (e : Bool) : BitVec 8 :=
  let m : BitVec 8 := 1#8 <<< (key % 64 / 8)
  if e then b ||| m else b &&& ~~~m
def setEmptyView (s : State) (pkg tag key : Nat) (e : Bool) : State :=
  if tag = 0 ∨ isLocal key ∨ (s.getView pkg tag).isNone then setBaseEmpty s key e
  else modLine (copyLine s pkg tag key) pkg tag key fun l => { l with empty := setWordBit l.empty key e }
def setPoison (s : State) (pkg tag key : Nat) (e : Bool) : State :=
  if tag = 0 ∨ isLocal key ∨ (s.getView pkg tag).isNone then setBasePois s key e
  else modLine (copyLine s pkg tag key) pkg tag key fun l => { l with pois := setWordBit l.pois key e }

/-- A chunk whose signatures hold the line conflicts (R128). -/
def Chunk.meet (line : Nat) (c : Chunk) : Chunk :=
  if c.rlines.contains line ∨ c.wlines.contains line then { c with conflict := true } else c

/-- A chunk not yet committed whose signatures meet a line that another party writes in its package and view (R84, R128). -/
def noteLine (s : State) (pkg tag who line : Nat) : State :=
  s.mapAgents fun a =>
    if a.tid ≠ who ∧ pkgOf a.core = pkg ∧ a.tag = tag then
      { a with chunk := a.chunk.meet line, ended := a.ended.map (·.meet line) } else a

/-- The view sees the line where the view `ptag` does: no copy stands between (R69). -/
def seesThrough : Nat → State → Nat → Nat → Nat → Nat → Bool
  | 0, _, _, _, _, _ => false
  | fuel + 1, s, pkg, tag, ptag, key =>
    tag == ptag || (tag != 0 && match s.getView pkg tag with
      | none => false
      | some v => (v.line? key).isNone && seesThrough fuel s pkg v.ptag ptag key)
/-- A line of a view under commit meets every open chunk that has read it through the parent view (R77). -/
def noteCommit (s : State) (pkg ptag line : Nat) : State :=
  s.mapAgents fun a =>
    if pkgOf a.core = pkg ∧ seesThrough 8 s pkg a.tag ptag (64 * line) then
      { a with chunk := a.chunk.meet line, ended := a.ended.map (·.meet line) } else a

/-- The words of which one write holds every byte. -/
def wholeWords (cells : List (Nat × Byte)) : List Nat :=
  ((cells.map fun c => wordOf c.1).eraseDups).filter fun k => (List.range 8).all fun i => cells.any fun c => c.1 == k + i

/-- Bytes written at their home as one event: they are written, a word that a store wrote whole loses its poison (R364), and
open chunks that met the lines are marked. -/
def writeBytes (s : State) (pkg tag who : Nat) (cells : List (Nat × Byte)) (clean : List Nat := wholeWords cells) : State :=
  let s := cells.foldl (fun s c => writeView s pkg tag c.1 c.2) s
  let s := clean.foldl (fun s k => if poisoned s pkg tag k then setPoison s pkg tag k false else s) s
  ((cells.map (·.1)).map lineOf).eraseDups.foldl (fun s l => noteLine s pkg tag who l) s

/-! Translation (R328 to R336). -/

/-- The page table's base and LOGB as the core's PTBASE gives them (R333). -/
def ptBase (c : Core) : Nat := c.priv.ptbase.toNat / 2 ^ 20 * 2 ^ 20
def ptLogb (c : Core) : Nat := c.priv.ptbase.toNat % 64
def readPhys (s : State) (pa n : Nat) : Nat := ofBytes ((List.range n).map fun i => readCell s.mem (pa + i))

/-- The lookup of R335 in the page table in memory: the entry as one number. -/
def pageWalk (s : State) (c : Core) (va : Nat) : Option Nat :=
  let lb := ptLogb c
  let tryEntry (sz tag b e : Nat) : Option Nat :=
    let n := readPhys s (ptBase c + 64 * b + 16 * e) 16
    if field n 85 84 = sz ∧ field n 127 86 = tag then some n else none
  let trySize (sz : Nat) : Option Nat :=
    let sh := if sz = 1 then 16 else if sz = 2 then 25 else 34
    let vpn := va % 2 ^ 79 / 2 ^ sh
    let tag := vpn / 2 ^ lb
    let i := (vpn % 2 ^ lb) ^^^ ((mix (BitVec.ofNat 64 (tag ^^^ (sz * 2 ^ 62)))).toNat % 2 ^ lb)
    ([i, i ^^^ 1].flatMap fun b => (List.range 4).map fun e => (b, e)).findSome? fun be => tryEntry sz tag be.1 be.2
  (trySize 1).orElse fun _ => (trySize 2).orElse fun _ => trySize 3

/-- The translation unit that serves an address: by its granule, one of those of the enabled stacks of the package that asks
(R332) (DEDUCED, notes/assumptions/14.md). -/
def unitFor (s : State) (core va : Nat) : Nat :=
  let p := core / 576
  8 * p + va % 2 ^ 79 / 65536 % max 1 (popcount 8 (s.getPkg p).smask.toNat)
/-- What the cache of a core's unit holds of a granule. -/
def cached (s : State) (core va : Nat) : Option (Word × Word) :=
  (aget (unitFor s core va) s.tuc).bind (aget (va / 65536))

/-- The cached entry of a granule, or that of the page table. -/
def pageEntry (s : State) (c : Core) (va : Nat) : Option Nat :=
  match cached s c.id va with
  | some (lo, hi) => some (lo.toNat + 2 ^ 64 * hi.toNat)
  | none => pageWalk s c va

def cacheEntry (s : State) (core va n : Nat) : State :=
  let u := unitFor s core va
  let rest := ((aget u s.tuc).getD []).filter (·.1 != va / 65536)
  { s with tuc := aset u (((va / 65536, BitVec.ofNat 64 n, BitVec.ofNat 64 (n / 2 ^ 64)) :: rest).take 4096) s.tuc }

/-- The physical address that an entry gives (R335). -/
def physOf (n va : Nat) : Nat :=
  let sh := if field n 85 84 = 1 then 16 else if field n 85 84 = 2 then 25 else 34
  field n 83 48 * 65536 / 2 ^ sh * 2 ^ sh + va % 2 ^ sh

/-- The memory of the packages below a number, which follow one another: their enabled stacks (R2, R368)
(DEDUCED, notes/assumptions/14.md). -/
def memBelow (s : State) (pkg : Nat) : Nat :=
  let off := ((s.packages.filter fun p => decide (p.id < pkg)).map fun p => 8 - popcount 8 p.smask.toNat).foldl (· + ·) 0
  (8 * pkg - off) * Config.stackBytes
/-- Installed memory: that of the span's 128 packages (R4). -/
def memLimit (s : State) : Nat := memBelow s 128

/-- Rights as bits: R, W, X, A, E from bit 0 (R315, R334). -/
abbrev Rights := BitVec 5
def rR : Rights := 1
def rW : Rights := 2
def rX : Rights := 4
def rA : Rights := 8
def rE : Rights := 16

def domDid (c : Core) : BitVec 16 := c.priv.dom.extractLsb' 0 16

/-- The PLB entry made of a page entry for a domain, or with no domain check (R328, R329, R349). -/
def plbOf (granule : Nat) (did : Option (BitVec 16)) (n : Nat) : PlbEntry :=
  let pd := field n 47 32
  { granule := granule, did := did,
    rights := if did.all (fun d => pd == d.toNat || pd == 0xFFFF) then BitVec.ofNat 5 (field n 31 27) else 0,
    home := bit n 26, hidx := field n 25 18, hbase := field n 17 0 }

def fillPlb (c : Core) (e : PlbEntry) : Core :=
  { c with plb := (e :: c.plb.filter fun x => !(x.granule == e.granule && x.did == e.did)).take Config.plbSize }

/-- Whether the core runs supervisor code now (R309). -/
def State.super (s : State) : Bool := s.cur.seq = .s

/-- The home logical core of a global address by its page attribute (R92). -/
def homeOf (s : State) (c : Core) (e : PlbEntry) (va : Nat) : Nat :=
  let l := max 1 s.launch.l
  if e.home then
    let m0 := readPhys s (ptBase c + 2 ^ ptLogb c * 64 + 8 * e.hidx) 8
    let m := if m0 = 0 then 1 else m0
    let x := va / 64
    let h := field x 15 0 ^^^ field x 31 16 ^^^ field x 47 32 ^^^ field x 63 48 ^^^ field x 73 64
    let i := (((List.range 64).filter (bit m)).drop (h % popcount 64 m)).headD 0
    (e.hbase / 64 * 64 + i) % l
  else e.hbase % l

def coreHalted (c : Core) : Bool := c.halted || c.haltedBy != 0
/-- The core of a logical core of the launch in front is halted, and is another than the one that asks: what is sent to it waits
until it runs again (R357). -/
def homeStands (s : State) (from_ home : Nat) : Bool :=
  let lc := s.getLc home
  lc.core != from_ && coreHalted (s.getCore lc.core)
/-- The home takes no access now: it is away (R354), or halted (R357). -/
def homeWaits (s : State) (from_ home : Nat) : Bool := (s.getLc home).away || homeStands s from_ home
/-- The same of an access of the agent in front; code of the supervisor belongs to no launch and asks for no logical core
(DESIGN CHOICE, notes/assumptions/14.md). -/
def homeShut (s : State) (from_ home : Nat) : Bool := (s.getLc home).away || (!s.super && homeStands s from_ home)

/-- A byte of memory that an access may reach: its key and the package of its home. -/
structure Acc where
  key : Nat
  home : Nat
  pkg : Nat
  deriving DecidableEq, Repr

/-- The domain against which the agent in front is checked: none in supervisor state (R349). -/
def State.did (s : State) : Option (BitVec 16) := if s.super then none else some (domDid s.core)

/-- A lease as LEASEk and LEASENk hold it (R315) (DEDUCED, notes/assumptions/41.md). -/
def leaseHolds (va : Nat) (l : Addr × Word) : Bool :=
  let g := l.1.toNat / 65536
  decide (g ≤ va / 65536) && decide (va / 65536 < g + l.2.toNat % 2 ^ 32)
/-- The union of the rights of the leases that contain the address (R329), from the core's lease registers. -/
def leaseRights (s : State) (va : Nat) : Option Rights :=
  let ls := (s.core.priv.lease.toList.zip s.core.priv.leasen.toList).filter (leaseHolds va)
  if ls.isEmpty then none else some (ls.foldl (fun r l => r ||| l.1.setWidth 5) 0)

/-- Asks the translation unit for a granule and fills the PLB; `fresh` reads the page table itself (R330). -/
def askUnit (s : State) (did : Option (BitVec 16)) (va : Nat) (fresh : Bool) : Option (PlbEntry × State) :=
  match (if fresh then pageWalk s s.core va else pageEntry s s.core va) with
  | none => none
  | some n =>
    let e := plbOf (va / 65536) did n
    some (e, { cacheEntry s s.core.id va n with core := fillPlb s.core e })

/-! The records in memory that hardware and software share and that a register names: the queue descriptors, the trap queue
and the spill headers (R7, R311, R340, R343, R344). A table at address 0 is none (DESIGN CHOICE, notes/assumptions/66.md). -/

/-- The bits of a byte of a record that a write sets, those that a 1 clears, and those that it leaves; reserved bits
read 0. -/
structure Access where
  rw : Byte
  w1c : Byte
  ro : Byte
  deriving DecidableEq, Repr

def rwAll : Access := { rw := 0xFF, w1c := 0, ro := 0 }
def resAll : Access := { rw := 0, w1c := 0, ro := 0 }
def roAll : Access := { rw := 0, w1c := 0, ro := 0xFF }
/-- A queue descriptor (R311). -/
def descAccess (o : Nat) : Access :=
  if o < 10 ∨ o = 16 ∨ (28 ≤ o ∧ o < 32) then rwAll
  else if o = 19 then { rw := 0x80, w1c := 0x40, ro := 0 }
  else if 24 ≤ o ∧ o < 28 then roAll
  else resAll
/-- The control block of a trap queue, and its records (R343, R344). -/
def trapqAccess (o : Nat) : Access :=
  if o = 0 then { rw := 0, w1c := 1, ro := 0 }
  else if (4 ≤ o ∧ o < 8) ∨ 64 ≤ o then roAll
  else if 8 ≤ o ∧ o < 12 then rwAll
  else resAll
/-- A spill header (R340). -/
def spillAccess (o : Nat) : Access :=
  if o < 10 ∨ o = 36 then rwAll
  else if 28 ≤ o ∧ o < 36 then roAll
  else resAll

/-- The offset of a physical byte in a record of `size` bytes at an address that a core's register names. -/
def recordOffset (s : State) (c : Core) (va : Addr) (size key : Nat) : Option Nat :=
  if va = 0 then none
  else match pageEntry s c va.toNat with
  | some n =>
    let b := physOf n va.toNat
    if b ≤ key ∧ key < b + size then some (key - b) else none
  | none => none
def recordAccess (s : State) (key : Nat) : Option Access :=
  if isLocal key then none
  else s.allCores.findSome? fun c =>
    ((recordOffset s c c.priv.qtab 4096 key).map fun o => descAccess (o % 64)).orElse fun _ =>
      ((recordOffset s c c.priv.trapq 16448 key).map trapqAccess).orElse fun _ =>
        (recordOffset s c c.priv.spillr 256 key).map fun o => spillAccess (o % 64)
/-- What a write of software makes of a byte. -/
def Access.write (a : Access) (old b : Byte) : Byte := (b &&& a.rw) ||| (old &&& ((~~~b &&& a.w1c) ||| a.ro))
/-- What the commit of a view makes of a byte: what the machine itself has written since stays (R77)
(DEDUCED, notes/assumptions/66.md). -/
def Access.commit (a : Access) (old b : Byte) : Byte := (b &&& a.rw) ||| (old &&& ((b &&& a.w1c) ||| a.ro))
/-- What a write of software leaves in a byte. -/
def softByte (s : State) (key : Nat) (b : Byte) : Byte :=
  match recordAccess s key with
  | none => b
  | some a => a.write (baseByte s key) b
/-- The same in a view. -/
def softIn (s : State) (pkg tag key : Nat) (b : Byte) : Byte :=
  if tag = 0 then softByte s key b
  else match recordAccess s key with
  | none => b
  | some a => a.write (readView s pkg tag key) b

/-- The entries of the two buckets of a core's page table that a byte of it belongs to: size, tag and frame of each. -/
def bucketPages (s : State) (c : Core) (key : Nat) : List (Nat × Nat × Nat) :=
  let b := (key - ptBase c) / 64
  [b, b ^^^ 1].flatMap fun b => (List.range 4).filterMap fun e =>
    let n := readPhys s (ptBase c + 64 * b + 16 * e) 16
    if field n 85 84 = 0 then none else some (field n 85 84, field n 127 86, field n 83 48)
/-- The words of a page's frame are FULL. -/
def fillFrame (x : Nat × Nat × Nat) (s : State) : State :=
  let sh := if x.1 = 1 then 16 else if x.1 = 2 then 25 else 34
  { s with empty := s.empty.filter fun w => w / 2 ^ sh != x.2.2 * 65536 / 2 ^ sh }
/-- A page becomes resident when its entry is written into a page table: the words of its frame are FULL then (R93)
(DEDUCED, notes/assumptions/14.md). -/
def madeResident (old new : State) (keys : List Nat) : State :=
  if new.empty.isEmpty then new
  else
    let tables := new.allCores.foldl (fun (l : List Core) c => if l.any (·.priv.ptbase == c.priv.ptbase) then l else c :: l) []
    let fresh (c : Core) (k : Nat) : List (Nat × Nat × Nat) :=
      if ptBase c ≤ 16 * k ∧ 16 * k < ptBase c + 64 * 2 ^ ptLogb c then
        let was := bucketPages old c (16 * k)
        (bucketPages new c (16 * k)).filter fun x => !was.contains x
      else []
    ((keys.map (· / 16)).eraseDups.flatMap fun k => tables.flatMap fun c => fresh c k).foldl (fun t x => fillFrame x t) new

/-- Bytes written at their home by a program, an engine or a message. -/
def writeHome (s : State) (pkg tag who : Nat) (cells : List (Nat × Byte)) (clean : List Nat := wholeWords cells) : State :=
  madeResident s (writeBytes s pkg tag who (cells.map fun c => (c.1, softIn s pkg tag c.1 c.2)) clean) (cells.map (·.1))

/-- The key of a global address with a valid entry. -/
def physKey (s : State) (va : Nat) : Run Nat := do
  match pageEntry s s.core va with
  | none => throw (.absent (BitVec.ofNat 80 va))
  | some n =>
    let pa := physOf n va
    if memLimit s ≤ pa then throw (.noMemory pa) else pure pa

/-- Steps 2 to 4 of R199 for one byte; in supervisor state only page rights are checked (R349). An address that
no entry covers is a page that the unit waits for (R336). -/
def reach (va : Addr) (need : Rights) : Run Acc := do
  let s ← get
  let a := va.toNat
  if a / 2 ^ 78 = 3 then fault cRights va
  else if a / 2 ^ 78 = 2 then
    let n := localCore a
    if n < s.launch.l ∧ a % 2 ^ 60 < s.launch.lsize then
      if homeShut s s.core.id n then stalled .answer
      else return { key := a, home := n, pkg := pkgOf (s.getLc n).core }
    else fault cRights va
  else
    let lease ← if s.super then pure (BitVec.allOnes 5)
      else match leaseRights s a with
        | some r => pure r
        | none => fault cLease va
    let did := s.did
    let grants (e : PlbEntry) : Bool := (e.rights &&& lease) &&& need == need
    let again : Run PlbEntry :=
      match askUnit s did a true with
      | none => throw (.absent va)
      | some (e, s') =>
        if grants e then do set s'; pure e
        else throw (.refused (fun s => ((askUnit s did a true).map (·.2)).getD s) cRights va)
    let e ← match s.core.plb.find? fun e => e.granule == a / 65536 && e.did == did with
      | some e =>
        if grants e then do
          modify fun s => { s with core := fillPlb s.core e }
          pure e
        else again
      | none =>
        match askUnit s did a false with
        | none => throw (.absent va)
        | some (e, s') => if grants e then do set s'; pure e else again
    let key ← physKey (← get) a
    let home := homeOf s s.core e a
    if homeShut s s.core.id home then stalled .answer else return { key := key, home := home, pkg := pkgOf (s.getLc home).core }

/-- R199 for an access of `size` bytes. -/
def reachAligned (va : Addr) (size : Nat) (need : Rights) : Run Acc := do
  require (va.toNat % size = 0) cAlign va
  reach va need

/-- Steps 1 and 2 of R199 alone, for an empty range. -/
def reachEmpty (va : Addr) (align : Nat) : Run Unit := do
  require (va.toNat % align = 0) cAlign va
  let s ← get
  let a := va.toNat
  require (a / 2 ^ 78 ≠ 3) cRights va
  require (a / 2 ^ 78 ≠ 2 || (localCore a < s.launch.l && a % 2 ^ 60 < s.launch.lsize)) cRights va

/-- Every byte of a range of `len` bytes, granule by granule at most `n` of them; the first byte that fails
decides. Answers the access of the first byte. -/
def reachRange : Nat → Addr → Nat → Rights → Run Unit
  | 0, _, _, _ => pure ()
  | n + 1, va, len, need => do
    if len = 0 then pure ()
    else
      let _ ← reach va need
      let step := min len (4096 - va.toNat % 4096)
      reachRange n (va + BitVec.ofNat 80 step) (len - step) need

def rangeFuel (len : Nat) : Nat := len / 4096 + 2

/-! Unchecked access by address, for records that a unit writes: no rights are asked. -/

def rawKey (s : State) (core : Nat) (va : Addr) : Option Nat :=
  let a := va.toNat
  if a / 2 ^ 78 = 2 then some a
  else if a / 2 ^ 78 = 3 then none
  else (pageEntry s (s.getCore core) a).map fun n => physOf n a

/-- Where a byte lives, with no rights asked: its key, its home logical core and that one's package (R92). -/
def rawAcc (s : State) (core : Nat) (va : Addr) : Option Acc :=
  let a := va.toNat
  if a / 2 ^ 78 = 2 then some { key := a, home := localCore a, pkg := pkgOf (s.getLc (localCore a)).core }
  else
    let c := s.getCore core
    match rawKey s core va, pageEntry s c a with
    | some k, some n =>
      let h := homeOf s c (plbOf (a / 65536) none n) a
      some { key := k, home := h, pkg := pkgOf (s.getLc h).core }
    | _, _ => none

/-- The bytes at an address in the committed view; none where a page is absent. -/
def rawRead (s : State) (core : Nat) (va : Addr) (n : Nat) : Option Nat :=
  (rawKey s core va).map fun _ => ofBytes ((List.range n).map fun i =>
    match rawKey s core (va + BitVec.ofNat 80 i) with
    | some k => baseByte s k
    | none => 0)

def rawWrite (s : State) (core : Nat) (va : Addr) (bs : List Byte) : State :=
  (List.range bs.length).zip bs |>.foldl (fun s ib =>
    match rawKey s core (va + BitVec.ofNat 80 ib.1) with
    | some k => writeBytes s (pkgOf core) 0 0 [(k, ib.2)]
    | none => s) s

/-! Engine writes (R94, R363, R364). -/

/-- One line of an engine write lands: its bytes, the full-empty bits of their words, their poison. -/
def landLine (pkg tag who : Nat) (cells : List (Nat × Byte × Bool)) (s : State) : State :=
  let s := writeHome s pkg tag who (cells.map fun c => (c.1, c.2.1))
  let s := (cells.map fun c => wordOf c.1).eraseDups.foldl (fun s k => setEmptyView s pkg tag k false) s
  ((cells.filter (·.2.2)).map fun c => wordOf c.1).eraseDups.foldl (fun s k => setPoison s pkg tag k true) s

/-! Held operand ranges (R262). -/

/-- A key range that an operand-range register of the core of its logical core holds. -/
def heldRange (s : State) (key n : Nat) : Bool :=
  isLocal key && ((s.getCore (s.getLc (localCore key)).core).mx.ranges.any fun r =>
    decide (key < r.hi) && decide (r.lo < key + n))

/-- Words emptied at their homes. -/
def emptyWords (pkg tag : Nat) (ks : List Nat) (s : State) : State := ks.foldl (fun s k => setEmptyView s pkg tag k true) s
/-- Words poisoned at their homes. -/
def poisonWords (pkg tag : Nat) (ks : List Nat) (s : State) : State := ks.foldl (fun s k => setPoison s pkg tag k true) s

/-- A byte that a unit reads in a view, with the poison of its word. -/
def dataByte (s : State) (pkg tag key : Nat) : Byte × Bool := (readView s pkg tag key, poisoned s pkg tag key)

/-! Running on another agent's launch. -/

/-- The change on a launch, with that launch and its logical core `n` in front; the turn's own focus afterwards. -/
def inLaunch (id n : Nat) (f : State → State) (s : State) : State :=
  let s := f (focusLaunch id n s)
  focusCore s.cur.core (focusLaunch s.cur.launch s.cur.lcore s)
/-- The change on the launch of an agent. -/
def onAgent (tid : Nat) (f : Agent → State → State) (s : State) : State :=
  match s.getAgent tid with
  | none => s
  | some a => inLaunch a.launch a.lcore (f a) s

/-! The order log (R165, R166). -/

def ordKey (lc sq kind : Nat) : Nat := lc * 32 + sq * 8 + kind
def ordCount (s : State) (lc sq kind : Nat) : Nat := (aget (ordKey lc sq kind) s.launch.ords).getD 0

/-- A core of the launch in front, whose OLOG and OLOGN give its log area (R309). -/
def logCore (s : State) : Core := s.getCore s.lc.core

/-- A record of the log area. -/
def logRecord (s : State) (i : Nat) : Option Nat :=
  let c := logCore s
  rawRead s c.id (c.priv.olog + BitVec.ofNat 80 (16 * i)) 16
/-- The record in the log for the next event of that kind of that agent, with its place. -/
def loggedAt (s : State) (lc sq kind : Nat) : Option (Nat × Nat) :=
  let want := kind * 2 ^ 60 + lc * 2 ^ 42 + sq * 2 ^ 40 + ordCount s lc sq kind % 2 ^ 40
  (List.range (logCore s).priv.ologn.toNat).findSome? fun i =>
    match logRecord s i with
    | some r => if r / 2 ^ 64 = want then some (i, field r 63 4) else none
    | none => none
def loggedPred (s : State) (lc sq kind : Nat) : Option Nat := (loggedAt s lc sq kind).map (·.2)
/-- The kind of a predecessor. A record does not name it, and at a ring it is that of an atomic or that of a walker completion:
the last record before that has the predecessor's names decides (DEDUCED, notes/assumptions/28.md). -/
def predKind (s : State) (at_ p kind : Nat) (ring : Bool) : Nat :=
  if !ring then kind
  else ((List.range at_).reverse.findSome? fun j =>
    match logRecord s j with
    | some r =>
      let k := field r 127 124
      if (k = 2 ∨ k = 5) ∧ field r 123 64 = field p 57 40 * 2 ^ 42 + field p 59 58 * 2 ^ 40 + p % 2 ^ 40 then some k else none
    | none => none).getD kind

/-- Under REPLAY an event that the log names waits until its logged predecessor has happened (R166). -/
def replayMay (s : State) (lc sq kind : Nat) (ring : Bool := false) : Bool :=
  if s.launch.mode = .replay then
    match loggedAt s lc sq kind with
    | none => true
    | some (i, p) =>
      p = 2 ^ 60 - 1 || decide (p % 2 ^ 40 < ordCount s (field p 57 40) (field p 59 58) (predKind s i p kind ring))
  else true

/-- The log area is full: the log may be truncated, and its replay goes on in FREE once it has forced every event that it
holds (R166). -/
def logFull (s : State) : Bool :=
  let c := logCore s
  let n := c.priv.ologn.toNat
  n != 0 && (rawRead s c.id (c.priv.olog + BitVec.ofNat 80 (16 * (n - 1))) 16).any fun r => field r 127 124 != 0

/-- An order-sensitive event has happened at a site: it is counted, and under RECORD logged; a full log goes on in
FREE (R165, R166). `pred` replaces the site's last event for takes and claims. -/
def logEvent (s : State) (lc sq kind site : Nat) (pred : Option Nat := none) : State :=
  let ord := ordCount s lc sq kind
  let before := (s.launch.sites.find? (·.1 == site)).map fun x => x.2.2.1 * 2 ^ 58 + x.2.1 * 2 ^ 40 + x.2.2.2 % 2 ^ 40
  let p := (pred.orElse fun _ => before).getD (2 ^ 60 - 1)
  let c := logCore s
  let s1 := s.modLaunch fun l => { l with
    ords := aset (ordKey lc sq kind) (ord + 1) l.ords
    sites := (site, lc, sq, ord) :: l.sites.filter (·.1 != site) }
  if s.launch.mode = .record then
    if c.priv.ologn.toNat ≤ s.launch.logN then s1.modLaunch fun l => { l with mode := .free, logTrunc := true }
    else
      let r := kind * 2 ^ 124 + lc * 2 ^ 106 + sq * 2 ^ 104 + ord % 2 ^ 40 * 2 ^ 64 + p * 16
      (rawWrite s1 c.id (c.priv.olog + BitVec.ofNat 80 (16 * s.launch.logN)) (toBytes 16 r)).modLaunch
        fun l => { l with logN := l.logN + 1 }
  else if s.launch.mode = .replay ∧ (loggedPred s lc sq kind).isSome then
    s1.modLaunch fun l => { l with
      logN := l.logN + 1, mode := if l.logN + 1 = c.priv.ologn.toNat then .free else l.mode }
  else s1

/-! Chunks (R127 to R129). -/

/-- What the commit of a chunk comes to: done, squashed, not yet (with what it waits for), or no room in the view for a
line that the chunk writes (R71). -/
inductive Commit where
  | done (s : State)
  | squashed (s : State)
  | held (w : Wait)
  | noRoom

/-! The privileged registers by number (R309): their cells, and in which cores a write changes them. -/

/-- LEASEk and LEASENk without their reserved bits (R315). -/
def Priv.setLease (p : Priv) (k : Nat) (v : Addr) : Priv :=
  if h : k < 8 then { p with lease := p.lease.set k (v &&& ~~~0xFFE0) } else p
def Priv.setLeasen (p : Priv) (k : Nat) (v : Word) : Priv :=
  if h : k < 8 then { p with leasen := p.leasen.set k (v &&& 0xFFFFFFFF) } else p
def Priv.put (n : Nat) (v : Addr) (p : Priv) : Priv :=
  match n with
  | 0x100 => { p with dom := v.setWidth 64 }
  | 0x101 => { p with vshare := v.setWidth 64 }
  | 0x102 => { p with quantum := v.setWidth 64 }
  | 0x103 => { p with qtab := v }
  | 0x104 => { p with handler := v }
  | 0x105 => { p with trapq := v }
  | 0x106 => { p with haltgrp := v.setWidth 64 }
  | 0x108 => { p with olog := v }
  | 0x109 => { p with ologn := v.setWidth 64 }
  | 0x10A => { p with ptbase := v }
  | 0x10B => { p with shadow := v.setWidth 64 }
  | 0x10C => { p with spillr := v }
  | 0x10D => { p with rquota := v.setWidth 64 }
  | 0x10E => { p with paddock := v }
  | 0x10F => { p with huskp := v }
  | n => if 0x110 ≤ n ∧ n < 0x118 then p.setLease (n - 0x110) v
    else if 0x118 ≤ n ∧ n < 0x120 then p.setLeasen (n - 0x118) (v.setWidth 64) else p
def Priv.get (n : Nat) (p : Priv) : Addr :=
  match n with
  | 0x100 => p.dom.setWidth 80
  | 0x101 => p.vshare.setWidth 80
  | 0x102 => p.quantum.setWidth 80
  | 0x103 => p.qtab
  | 0x104 => p.handler
  | 0x105 => p.trapq
  | 0x106 => p.haltgrp.setWidth 80
  | 0x108 => p.olog
  | 0x109 => p.ologn.setWidth 80
  | 0x10A => p.ptbase
  | 0x10B => p.shadow.setWidth 80
  | 0x10C => p.spillr
  | 0x10D => p.rquota.setWidth 80
  | 0x10E => p.paddock
  | 0x10F => p.huskp
  | n => if h : 0x110 ≤ n ∧ n < 0x118 then p.lease[n - 0x110]
    else if h : 0x118 ≤ n ∧ n < 0x120 then (p.leasen[n - 0x118]).setWidth 80 else 0

/-- Lines of a shadow pool (R339). -/
def poolLines (shadow : Word) : Nat := shadow.toNat % 64 * 15728640
/-- A new pool changes how many lines the views of the package can take. -/
def resizePool (old new : Word) (s : State) : State :=
  s.modPkg s.pkg fun p => { p with tagLines := p.tagLines + poolLines new - poolLines old }

/-- The cores in which a write of a privileged register by a core changes it: those of the package, or of the partition, or
that core alone (R333, R343). -/
def privCores (n : Nat) (s : State) (c : Core) : Bool :=
  if n = 0x10A ∨ n = 0x10B ∨ n = 0x10C ∨ n = 0x10E then pkgOf c.id == pkgOf s.core.id
  else if n = 0x105 then spanPart s c.id == spanPart s s.core.id
  else c.id == s.core.id
/-- A privileged register is written by the core in front. -/
def putPriv (n : Nat) (v : Addr) (s : State) : State :=
  let s := if n = 0x10B then resizePool s.core.priv.shadow (v.setWidth 64) s else s
  s.mapCores fun c => if privCores n s c then { c with priv := c.priv.put n v } else c

/-- The agent runs under a reservation of the arbiter (R128). -/
def Agent.reserved (a : Agent) : Bool := (a.chunk :: a.ended).any (·.reserved)
/-- The reservation holds others back: its agent is in its place and can go on. One that waits for another party gives way,
and is squashed again where that party meets it (DESIGN CHOICE, notes/assumptions/12.md). -/
def reserving (s : State) (b : Agent) : Bool :=
  let c := s.getCore b.core
  b.reserved && b.state == .held && (b.slot.isSome || b.seq != .x) && b.husked.isNone && !c.halted && c.haltedBy == 0 &&
    match b.wait with
    | none => true
    | some (.resource .quantum) => false
    | some (.resource _) => true
    | some _ => false
/-- A line meets a reservation of another agent of the package. -/
def reservedLine (s : State) (pkg tag who line : Nat) : Bool :=
  s.allAgents.any fun b => b.tid != who && pkgOf b.core == pkg && b.tag == tag && reserving s b &&
    (b.chunk :: b.ended).any fun c => c.rlines.contains line || c.wlines.contains line
def reservedKeys (s : State) (pkg tag who : Nat) (keys : List Nat) : Bool :=
  keys.any fun k => reservedLine s pkg tag who (lineOf k)

/-- The count of a pinned line raised or lowered by one; a count of 0 is no pin (R108). -/
def pinLine (p : Pin) (up : Bool) : List Pin → List Pin
  | [] => if up then [{ p with count := 1 }] else []
  | q :: l =>
    if q.launch = p.launch ∧ q.pkg = p.pkg ∧ q.tag = p.tag ∧ q.line = p.line then
      if up then { q with count := q.count + 1 } :: l
      else if q.count ≤ 1 then l else { q with count := q.count - 1 } :: l
    else q :: pinLine p up l

/-- Vector register `n` below 32, or mask `n − 32`. -/
def setVreg (c : Core) (n : Nat) (v : VReg) (p : BitVec 256) : Core :=
  if h : n < 32 then { c with vregs := c.vregs.set n v, vpois := c.vpois.set n p }
  else
    let k := (n - 32) % 8
    { c with
      vmask := c.vmask.set k (v.setWidth 64) (by omega)
      mpois := if p = 0 then c.mpois &&& ~~~(1#8 <<< k) else c.mpois ||| (1#8 <<< k) }

/-- What a chunk did beside its write buffer is undone: pins, the vector file, privileged registers, what WAITC.sub took, and
the format writes that M has not applied yet (DEDUCED, notes/assumptions/40.md). A profiling record stays (DESIGN CHOICE,
notes/assumptions/36.md). -/
def undoChunk (s : State) (c : Chunk) : State :=
  let s := { s with pins := c.pinned.foldl (fun ps x => pinLine x.1 (!x.2) ps) s.pins }
  let s := match c.vfirst with
    | some n =>
      let q := s.core.vqueue.filter fun o => !(o.tid == s.cur.tid && o.seq == s.cur.seq && decide (n ≤ o.id))
      { s with core := c.vundo.foldl (fun k u => setVreg k u.1 u.2.1 u.2.2) { s.core with vqueue := q } }
    | none => s
  let s := c.privs.foldl (fun s u => putPriv u.1 u.2 s) s
  let s := c.subs.foldl (fun s u => s.modLc s.cur.lcore fun lc =>
    { lc with mc := lc.mc.set u.1.toNat (lc.mc[u.1.toNat] + u.2) }) s
  { s with core := { s.core with fmtq := s.core.fmtq.take (s.core.fmtq.length - c.fmts) } }

/-- Follow mode ends for a thread, and for those that follow it (R27); at a squash too (DESIGN CHOICE,
notes/assumptions/59.md). -/
def endFollow (tid : Nat) (s : State) : State :=
  s.mapAgents fun a =>
    if a.tid = tid ∨ a.follow = .attached tid then { a with follow := .off, led := [], ran := [] } else a

/-- A chunk begins (R127). -/
def Agent.newChunk (a : Agent) : Agent :=
  { a with chunk := { Chunk.empty a.regs with outs := a.loads.map fun l => (l.id, l.dst) } }

/-- A change of registers apart from the program of the agent: a squash keeps it. -/
def Agent.modRegs (a : Agent) (f : Regs → Regs) : Agent :=
  let g (c : Chunk) : Chunk := { c with start := f c.start }
  { a with regs := f a.regs, chunk := g a.chunk, ended := a.ended.map g }

/-- The first of the given chunks, oldest first, runs again from its first instruction; the later ones are dropped with
it (R128). -/
def squashFrom (cs : List Chunk) (s : State) : State :=
  match cs with
  | [] => s
  | c :: _ => endFollow s.cur.tid ((cs.reverse.foldl undoChunk s).modCur fun a => { a with
      regs := c.start
      loads := a.loads.map fun l => { l with dst := (aget l.id c.outs).getD l.dst }
      wait := none
      ended := []
      chunk := { Chunk.empty c.start with outs := c.outs, squashes := c.squashes + 1 } })
def squash (s : State) : State :=
  { squashFrom [s.cur.chunk] s with cur := { (squashFrom [s.cur.chunk] s).cur with ended := s.cur.ended } }

/-- A file that VSETT released is free once the queue is empty (R228) (DEDUCED, notes/assumptions/21.md). -/
def freeVector (c : Core) : Core :=
  if c.vfree && c.vqueue.isEmpty then { c with vholder := none, vfree := false } else c

/-- What a chunk of the agent in front wrote takes effect, all together (R129). -/
def applyChunk (c : Chunk) (s : State) : State :=
  let s := writeHome s s.pkg s.cur.tag s.cur.tid c.wbuf.reverse c.wclean
  poisonWords s.pkg s.cur.tag c.wpois (emptyWords s.pkg s.cur.tag c.clre s)
/-- A chunk that writes into a held operand range: its commit waits until that is free (R262)
(DEDUCED, notes/assumptions/23.md). -/
def chunkHeld (c : Chunk) (s : State) : Bool :=
  c.wbuf.any (fun x => heldRange s x.1 1) || c.clre.any fun k => heldRange s k 8

/-- Sites of the order log (R165). -/
def siteCommit (pkg : Nat) : Nat := pkg * 8
def siteLine (key : Nat) : Nat := lineOf key * 8 + 1
def siteRing (lc h : Nat) : Nat := (lc * 8 + h) * 8 + 2
def siteWorld (wid : Nat) : Nat := wid * 8 + 3
def siteBoard (uid : Nat) : Nat := uid * 8 + 4
def siteCounter (lc k : Nat) : Nat := (lc * 16 + k) * 8 + 5
def siteTake (die : Nat) : Nat := die * 8 + 6

/-- How many of these lines the view of the agent in front has no copy of yet (R71). -/
def newLines (s : State) (ls : List Nat) : Nat :=
  if s.cur.tag = 0 then 0
  else (ls.eraseDups.filter fun l => !isLocal (64 * l) && !hasLine s s.pkg s.cur.tag (64 * l)).length

/-- The package of the agent in front has not as many lines free (R71). -/
def lacksRoom (s : State) (n : Nat) : Bool := n != 0 && decide ((s.getPkg s.pkg).tagLines < n)

/-- What the commit of a chunk of the agent in front waits for: a held operand range (R262), a halted home (R357), a reservation
(R128), its logged predecessor (R166). -/
def commitWait (c : Chunk) (s : State) : Option Wait :=
  let a := s.cur
  if chunkHeld c s then some (.resource .batch)
  else if !s.super && c.homes.any (homeStands s s.core.id) then some (.resource .answer)
  else if c.wlines.any (reservedLine s s.pkg a.tag a.tid) then some (.resource .reservation)
  else if a.seq != .s && !replayMay s a.lcore (seqCode a.seq) 1 then some (.blocked .replay)
  else none

/-- The commit of a chunk of the agent in front: its writes, its event in the order log, and the vector file that it gives
back. -/
def commitNow (c : Chunk) (s : State) : State :=
  let s := applyChunk c s
  let s := if s.cur.seq = .s then s else logEvent s s.cur.lcore (seqCode s.cur.seq) 1 (siteCommit s.pkg)
  if c.vrel then { s with core := freeVector { s.core with vfree := true } } else s

/-- A chunk that nothing of the machine outside its agent has met: no line read at its home, none to write. -/
def Chunk.alone (c : Chunk) : Bool := c.wbuf.isEmpty && c.clre.isEmpty && c.rlines.isEmpty

/-- The commit of the open chunk of the agent whose turn it is. Under QUANTUM a chunk that has met memory commits at the
quantum's end (R167), those after it too (DEDUCED, notes/assumptions/12.md). -/
def commitChunk (s : State) : Commit :=
  let a := s.cur
  let c := a.chunk
  if c.count = 0 ∧ c.wbuf = [] ∧ c.clre = [] then
    .done (s.modCur fun a => { a with chunk := { a.newChunk.chunk with squashes := c.squashes, reserved := c.reserved } })
  else if s.launch.mode = .quantum ∧ a.seq ≠ .s ∧ (!c.alone ∨ !a.ended.isEmpty) then
    .done (s.modCur fun a => { a with ended := a.ended ++ [c], chunk := a.newChunk.chunk })
  else if c.conflict then .squashed (squash s)
  else match commitWait c s with
  | some w => .held w
  | none =>
    if lacksRoom s (newLines s c.wlines) then .noRoom
    else .done ((commitNow c s).modCur Agent.newChunk)

/-- Ends the chunk before the instruction: the chunk commits first (R127), under QUANTUM at the quantum's end (R167)
(DEDUCED, notes/assumptions/12.md). -/
def endChunk : Run Unit := do
  let a := (← get).cur
  if !(a.chunk.count == 0 && a.chunk.wbuf.isEmpty && a.chunk.clre.isEmpty) then throw .commit
  if !a.ended.isEmpty then stalled .quantum

/-- The instruction at issue closes the chunk it stands in. -/
def closeAfter : Run Unit :=
  modify fun s => s.modCur fun a => { a with chunk := { a.chunk with closed := true } }

/-- A load runs between chunks (R127); it does not wait for a release under way (R136). -/
def loadBetween : Run Unit := do endChunk; closeAfter
/-- Nothing but loads goes before the end of a release under way (R136) (DEDUCED, notes/assumptions/13.md). -/
def releaseOver : Run Unit := do
  if (← get).cur.rel.isSome then stalled .release
/-- The instruction runs between chunks and is never squashed (R127). -/
def betweenChunks : Run Unit := do endChunk; releaseOver; closeAfter

/-- A byte as the agent's own stores leave it: the store of a release under way, and its chunks. -/
def ownByte (s : State) (key : Nat) : Option Byte :=
  ((aget key s.cur.relStore).orElse fun _ => aget key s.cur.chunk.wbuf).orElse fun _ => s.cur.ended.reverse.findSome? fun c => aget key c.wbuf

/-- Bytes written by a plain store in the agent's own package: they wait in the write buffer. A 49th line ends the
chunk first, and a rival that finds no room for a new line fails (R71, R127). -/
def bufferBytes (home : Nat) (va : Addr) (key : Nat) (bs : List Byte) : Run Unit := do
  let s ← get
  let line := lineOf key
  let c := s.cur.chunk
  if !c.wlines.contains line && decide (Config.chunkLines ≤ c.wlines.length) && c.count != 0 then throw .commit
  if lacksRoom s (newLines s (line :: (c :: s.cur.ended).flatMap (·.wlines))) then
    throw (.rivalFail cExhausted)
  let cells := (List.range bs.length).zip bs |>.map fun ib => (key + ib.1, ib.2)
  let whole := wholeWords cells
  modify fun s => s.modCur fun a => { a with chunk := { a.chunk with
    wbuf := cells.reverse ++ a.chunk.wbuf
    wpois := a.chunk.wpois.filter fun k => !whole.contains k
    wclean := whole.foldl (fun l k => insertNat k l) a.chunk.wclean
    homes := insertNat home a.chunk.homes
    grans := insertNat (va.toNat / 65536) a.chunk.grans
    wlines := if a.chunk.wlines.contains line then a.chunk.wlines else line :: a.chunk.wlines } }

/-- No store goes before the end of a release under way (R136). -/
def bufferStore (home : Nat) (va : Addr) (key : Nat) (bs : List Byte) : Run Unit := do
  releaseOver
  bufferBytes home va key bs

/-- A word carries poison as the agent sees it: the last of its own chunks that poisoned it, or wrote it whole, decides
(R364). -/
def wordPoison (s : State) (k : Nat) : Bool :=
  !(wholeWords s.cur.relStore).contains k &&
    match (s.cur.chunk :: s.cur.ended.reverse).find? fun c => c.wpois.contains k || c.wclean.contains k with
    | some c => c.wpois.contains k
    | none => poisoned s s.pkg s.cur.tag k
/-- Whether a range meets a poisoned word (R364). -/
def meetsPoison (s : State) (key n : Nat) : Bool := (List.range n).any fun i => wordPoison s (wordOf (key + i))

/-- The 8-byte words, or lines, of a range, every one reached with the rights asked; `n` of them. -/
def reachSteps : Nat → Nat → Addr → Rights → Run (List Acc)
  | 0, _, _, _ => return []
  | n + 1, step, va, need => do
    let a ← reach va need
    return a :: (← reachSteps n step (va + BitVec.ofNat 80 step) need)

/-- A read at the home: own buffered bytes, else the home's; the line joins the read signature (R91, R128). `va` is the
address that a poisoned word faults with (R344). -/
def homeRead (va : Addr) (key n : Nat) : Run Nat := do
  let s ← get
  if meetsPoison s key n then fault cUncorrectable va
  let v := ofBytes ((List.range n).map fun i =>
    (ownByte s (key + i)).getD (readView s s.pkg s.cur.tag (key + i)))
  let line := lineOf key
  modify fun s => s.modCur fun a => { a with chunk := { a.chunk with
    rlines := if a.chunk.rlines.contains line then a.chunk.rlines else line :: a.chunk.rlines } }
  return v

/-- A plain load (R90): own buffered bytes, else those of an L1 copy taken in this chunk, or of the home, whose
line is then copied. Where a copy stands, which of the two is a free choice (DESIGN CHOICE, notes/assumptions/5.md). -/
def plainFetch (key n : Nat) : Run Nat := do
  let s ← get
  let line := lineOf key
  let now := lineView s s.pkg s.cur.tag line
  let src := match aget line s.cur.chunk.l1 with
    | some l => if l = now then l else if Config.l1Hit s.choice then l else now
    | none => now
  let v := ofBytes ((List.range n).map fun i => (ownByte s (key + i)).getD (lineByte src ((key + i) % 64)))
  modify fun s => { s with
    choice := if (aget line s.cur.chunk.l1).isSome then s.choice + 1 else s.choice
    cur := { s.cur with chunk := { s.cur.chunk with l1 := aset line src s.cur.chunk.l1 } } }
  return v

def plainRead (va : Addr) (key n : Nat) : Run Nat := do
  if meetsPoison (← get) key n then fault cUncorrectable va
  plainFetch key n

/-- Under QUANTUM an order-sensitive request waits until the quantum's end serves its agent (R167). -/
def atQuantum : Run Unit := do
  let s ← get
  if s.launch.mode = .quantum ∧ s.cur.seq ≠ .s then
    match s.launch.quantum with
    | .serve (t :: _) => if t = s.cur.tid then pure () else stalled .quantum
    | _ => stalled .quantum

/-- An order-sensitive event of the agent whose turn it is: under REPLAY it waits for its logged predecessor, and
under RECORD it is logged (R165, R166). -/
def orderEvent (kind site : Nat) : Run Unit := do
  atQuantum
  let s ← get
  if s.cur.seq = .s then return ()
  if !replayMay s s.cur.lcore (seqCode s.cur.seq) kind (site % 8 == 2) then blocked .replay
  modify fun s => logEvent s s.cur.lcore (seqCode s.cur.seq) kind site

/-- Waits as `keepWaiting` does, for a resource of the own core. -/
def keepStalled {α : Type} (on : BlockedOn) : Run α := do throw (.keep (← get) (.resource on))

/-! Registers (R8). -/

def ldstMarks (d : LDst) (n : GReg) : Bool :=
  match d with
  | .g m => m == n
  | .pair m => m == n || m + 1 == n
  | .hi m => m == n
  | _ => false

/-- The g register that a queued vector instruction will write (R231). -/
def vopDest : Instr → Option GReg
  | .vred _ _ (.reg n) _ => some n
  | .mpop (.reg n) _ => some n
  | _ => none

def loadMarks (s : State) (n : GReg) : Bool := s.cur.loads.any fun l => ldstMarks l.dst n
def vectorMarks (s : State) (n : GReg) : Bool :=
  s.core.vqueue.any fun o => o.tid == s.cur.tid && o.seq == s.cur.seq && vopDest o.instr == some n

/-- g0 reads 0; a marked register makes the reader wait (R134, R231); a poisoned one faults (R364). -/
def readG (n : GReg) : Run Word := do
  let s ← get
  if n = 0 then return 0
  if loadMarks s n then stalled .loads
  if vectorMarks s n then stalled .vector
  if s.cur.regs.gpois.getLsbD n.toNat then fault cUncorrectable 0
  return s.cur.regs.g[n.toNat]

def Regs.setG (r : Regs) (n : GReg) (v : Word) : Regs :=
  if n = 0 then r else { r with g := r.g.set n.toNat v, gpois := r.gpois &&& ~~~(1#64 <<< n.toNat) }

/-- What is left of a destination once the register gn has been written after it in program order. -/
def LDst.overG (n : GReg) (d : LDst) : LDst :=
  match d with
  | .g m => if m = n then .g 0 else d
  | .hi m => if m = n then .g 0 else d
  | .pair m => if m = n then .hi (m + 1) else if m + 1 = n then .g m else d
  | _ => d
/-- A register that holds 80 bits. -/
def LDst.isP : LDst → Bool
  | .p _ => true
  | _ => false
/-- LDSYNC's. -/
def LDst.isSync : LDst → Bool
  | .sync _ => true
  | _ => false
/-- A destination at whose return poisoned data faults: not a queued vector load's, nor LDSYNC's, which looks itself. -/
def LDst.scalar : LDst → Bool
  | .vec _ => false
  | .sync _ => false
  | _ => true
/-- The same of pn. -/
def LDst.overP (n : BitVec 4) (d : LDst) : LDst := if d = .p n then .g 0 else d
/-- The same of the registers that a later access writes. -/
def LDst.over (later : LDst) (d : LDst) : LDst :=
  match later with
  | .g n => d.overG n
  | .hi n => d.overG n
  | .pair n => (d.overG n).overG (n + 1)
  | .p n => d.overP n
  | _ => d

/-- A write to g0 is dropped. A load still out for the register then writes nothing (R134: program order)
(DEDUCED, notes/assumptions/15.md). -/
def Agent.setG (a : Agent) (n : GReg) (v : Word) : Agent :=
  { a with regs := a.regs.setG n v, loads := a.loads.map fun l => { l with dst := l.dst.overG n } }

def writeG (n : GReg) (v : Word) : Run Unit := do
  if n ≠ 0 && vectorMarks (← get) n then stalled .vector
  modify fun s => s.modCur fun a => a.setG n v

def readP (n : BitVec 4) : Run Addr := do
  let s ← get
  if s.cur.loads.any (fun l => l.dst == .p n) then stalled .loads
  return s.cur.regs.p[n.toNat]

def Agent.setP (a : Agent) (n : BitVec 4) (v : Addr) : Agent :=
  { a with regs := { a.regs with p := a.regs.p.set n.toNat v }, loads := a.loads.map fun l => { l with dst := l.dst.overP n } }
def writeP (n : BitVec 4) (v : Addr) : Run Unit := modify fun s => s.modCur fun a => a.setP n v

/-- q0 reads 1 and ignores writes. -/
def Regs.getQ (r : Regs) (n : BitVec 3) : Bool := n = 0 || r.q.getLsbD n.toNat
def Regs.setQ (r : Regs) (n : BitVec 3) (b : Bool) : Regs :=
  if n = 0 then r
  else
    let m : BitVec 8 := 1#8 <<< n.toNat
    { r with q := if b then r.q ||| m else r.q &&& ~~~m }
def readQ (n : BitVec 3) : Run Bool := do return (← get).cur.regs.getQ n
def writeQ (n : BitVec 3) (b : Bool) : Run Unit :=
  modify fun s => s.modCur fun a => { a with regs := a.regs.setQ n b }

/-- The address of the first word of the instruction at issue, and of its successor. -/
def setNpc (v : Addr) : Run Unit := modify fun s => s.modCur fun a => { a with npc := v }

/-! Records for the supervisor (R343 to R345). -/

def TrapRec.bytes (r : TrapRec) : List Byte :=
  toBytes 64 (r.pc.toNat * 2 ^ 432 + r.addr.toNat * 2 ^ 352 + r.lseq % 2 ^ 32 * 2 ^ 320 + r.queue % 64 * 2 ^ 308
    + r.lcore % 2 ^ 18 * 2 ^ 290 + pkgOf r.core % 256 * 2 ^ 282 + r.core % 576 * 2 ^ 272 + r.name % 128 * 2 ^ 25
    + (if r.rv then 2 ^ 24 else 0) + r.ridx % 16 * 2 ^ 20 + r.seq % 4 * 2 ^ 18 + r.kind % 4 * 2 ^ 16
    + r.cause.toNat)

/-- The groups that a core triggers when it halts on its own (R356, R357). -/
def trigger (groups : BitVec 16) (by_ : Nat) (s : State) : State :=
  s.mapCores fun c =>
    if c.id ≠ by_ ∧ spanPart s c.id = spanPart s by_ ∧ (c.priv.haltgrp.extractLsb' 0 16 &&& groups) ≠ 0 then
      { c with haltDue := c.haltDue ||| (c.priv.haltgrp.extractLsb' 0 16 &&& groups) }
    else c
/-- One of the vectors for trap queues, halts and management is raised (R370) (DESIGN CHOICE, notes/assumptions/6.md). -/
def raiseVector (pkg kind : Nat) (s : State) : State :=
  { s with vectors := (pkg, 256 + (Config.vector pkg kind).toNat) :: s.vectors }
/-- A core halts on its own and triggers its TRIG groups (R357). -/
def haltCore (id : Nat) (s : State) : State :=
  let g := (s.getCore id).priv.haltgrp.extractLsb' 16 16
  raiseVector (pkgOf id) 4 (trigger g id (s.modCore id fun c => { c with halted := true }))

/-- Queues a record, or lets it wait in its unit; a fatal record that finds 256 sets OVF and halts its core. -/
def queueRecord (r : TrapRec) (s : State) : State :=
  let q := (s.getCore r.core).priv.trapq
  match rawRead s r.core q 12 with
  | none => { s with trapWait := s.trapWait ++ [r] }
  | some n =>
    let wr := field n 63 32
    let held := (wr + 2 ^ 32 - field n 95 64) % 2 ^ 32
    if held < (if r.kind = 2 then 256 else 254) then
      let s := rawWrite s r.core (q + BitVec.ofNat 80 (64 + 64 * (wr % 256))) r.bytes
      let s := rawWrite s r.core (q + 4) (toBytes 4 ((wr + 1) % 2 ^ 32))
      raiseVector (pkgOf r.core) (((partOf s r.core).map (·.1)).getD 0) (s.modCore r.core fun c => { c with irqs := c.irqs ++ [1] })
    else
      let s := { s with trapWait := s.trapWait ++ [r] }
      if r.kind = 2 then
        haltCore r.core (rawWrite s r.core q [BitVec.ofNat 8 (n % 256 ||| 1)])
      else s

/-- A record about an agent (DEDUCED, notes/assumptions/37.md). -/
def recordOf (s : State) (a : Agent) (kind : Nat) (cause : Byte) (pc addr : Addr) (seq : Seq) : TrapRec :=
  { queue := s.launch.queue, lseq := s.launch.lseq, pc := pc, addr := addr, lcore := a.lcore, core := a.core,
    name := 0, rv := a.rival, ridx := if a.rival then a.ridx else 0, seq := seqCode seq, kind := kind,
    cause := cause }

/-- Ends the launch in focus by a fault: one fatal record, and its cores stop issuing (R31, R342, R348). -/
def endLaunch (r : TrapRec) (status : Byte) (s : State) : State :=
  if s.launch.fatal.isSome ∨ s.launch.phase = .none ∨ s.launch.phase = .final ∨ s.launch.phase = .ended then s
  else queueRecord r (s.modLaunch fun l => { l with fatal := some r, status := status, phase := .stopping })

/-! Leaving a core. -/

/-- The slot gives the vector file back (R228). -/
def releaseVector (core slot : Nat) (s : State) : State :=
  s.modCore core fun c => if c.vholder = some slot then { c with vholder := none } else c

/-- The agents that meet `p` are no more; where one of them has the turn, an agent that stays gets it. -/
def dropAgents (p : Agent → Bool) (s : State) : State :=
  let s := if p s.cur then
      match (s.agents.find? fun a => s.cur.host == some a.tid).orElse fun _ => s.agents.find? fun a => !p a with
      | some a => { s with cur := a, agents := s.agents.filter (·.tid != a.tid) ++ [s.cur] }
      | none => s
    else s
  { s with agents := s.agents.filter fun a => !p a }

/-- The open batch is discarded: what has not started is dropped, and what runs finishes as a batch of its own (R275)
(DEDUCED, notes/assumptions/40.md). -/
def Matrix.dropOpen (mx : Matrix) : Matrix :=
  let kept := mx.opened.filter fun o => o.started && !o.finished
  { mx with
    opened := [], openPoisoned := false, openId := mx.openId + 1
    batches := if kept.isEmpty then mx.batches
      else mx.batches ++ [{ id := mx.openId, ops := kept, handed := none, poisoned := mx.openPoisoned }]
    ranges := if kept.isEmpty then mx.ranges.filter (·.batch != mx.openId) else mx.ranges }

/-- The lines that queued vector loads of A still wait for come on behalf of the thread that it was hitched to: the queue
completes (R233) (DEDUCED, notes/assumptions/40.md). -/
def handLines (a : Agent) (host : Nat) (s : State) : State :=
  let own (o : VOp) : Bool := o.tid == a.tid
  let n := ((s.getAgent host).map (·.nextLoad)).getD 0
  let ls := a.loads.filter fun l => !l.dst.scalar && l.dst != .sync false && l.dst != .sync true
  let renamed (f : Flit) : Flit := match f.cargo with
    | .load t i => if t = a.tid then { f with cargo := .load host (n + i) } else f
    | .reply t i => if t = a.tid then { f with cargo := .reply host (n + i) } else f
    | _ => f
  let s := s.modCore a.core fun c => { c with vqueue := c.vqueue.map fun o => if own o then { o with tid := host } else o }
  { s.modAgent host (fun h => { h with
      loads := h.loads ++ ls.map fun l => { l with id := n + l.id }
      nextLoad := n + a.nextLoad }) with
    flits := s.flits.map renamed, links := s.links.map fun l => { l with held := l.held.map renamed } }

/-- Frees A and M of the core: the hitch ends, its queues empty, its handles are withdrawn (R275, R277). -/
def releaseHitch (core : Nat) (s : State) : State :=
  let host := (s.getCore core).hitch
  let s := match s.seqOf core .a with
    | some a => handLines a (ownerTid a) (s.modLc a.lcore fun lc => { lc with srnA := a.regs.srn })
    | none => s
  let s := match s.seqOf core .m with
    | some a => s.modLc a.lcore fun lc => { lc with srnM := a.regs.srn }
    | none => s
  let s := s.modCore core fun c =>
    { c with hitch := none, shared := 0, bqX := [], bqA := [], bqM := [], bqSent := [], bqPops := [], fmtq := [], mx := c.mx.dropOpen }
  match host with
  | some t => dropAgents (fun a => a.host == some t) s
  | none => s

/-- The agent leaves its slot, with the vector file and the hitch it held. -/
def leaveSlot (tid : Nat) (s : State) : State :=
  match s.getAgent tid with
  | none => s
  | some a =>
    let s := match a.slot with
      | some k => releaseVector a.core k s
      | none => s
    let s := s.modCore a.core fun c => { c with hitchQ := c.hitchQ.filter (· != tid) }
    let s := if (s.getCore a.core).hitch = some tid then releaseHitch a.core s else s
    s.modAgent tid fun a => { a with slot := none, wait := none, rel := none, relStore := [] }

/-! Boards: the chain of a thread's teams (R34, R41). -/

/-- The boards from a team up to the outermost; `fuel` bounds the levels. -/
def chainFrom : Nat → State → Nat → List Board
  | 0, _, _ => []
  | n + 1, s, uid =>
    match s.getBoard uid with
    | none => []
    | some b =>
      match b.parent with
      | some p => b :: chainFrom n s p
      | none => [b]
def teamChain (s : State) (a : Agent) : List Board :=
  match a.team with
  | some u => chainFrom 12 s u
  | none => []
/-- The thread's team at a level: in a rival the rival team stands in place of the forker's (R72). -/
def teamAt (s : State) (a : Agent) (k : Nat) : Option Board := (teamChain s a).find? (·.level == k)

def BoardMsg.uid : BoardMsg → Nat
  | .emit u _ _ _ _ _ => u
  | .clear u _ _ => u
  | .resolve u _ _ _ => u
  | .register u _ _ => u
def BoardMsg.tid : BoardMsg → Nat
  | .emit _ _ _ t _ _ => t
  | .clear _ _ t => t
  | .resolve _ _ _ t => t
  | .register _ _ t => t

/-- A team whose last member has left ends, and then leaves its parent; `fuel` bounds the levels (R35). The root learns
of a termination after every earlier message of the thread (R52). -/
def checkEnded : Nat → Nat → State → State
  | 0, _, s => s
  | fuel + 1, uid, s =>
    match s.getBoard uid with
    | none => s
    | some b =>
      if b.ended || s.launch.boardq.any (fun m => m.uid == uid) || s.allAgents.any (fun a => a.team == some uid)
          || s.launch.boards.any (fun c => c.parent == some uid && !c.ended) then s
      else
        let s := s.modBoard uid fun b => { b with ended := true }
        match b.parent with
        | some p => checkEnded fuel p s
        | none => s

/-- The TEAM value of a seed that belongs to no team (R13, R282). -/
def noTeam : BitVec 32 := 0x00FFFFFF#32

/-- The thread leaves its team at once (R35). -/
def leaveTeam (tid : Nat) (s : State) : State :=
  match (s.getAgent tid).bind (·.team) with
  | none => s
  | some u => checkEnded 12 u (s.modAgent tid fun a => { a with team := none, teamVal := noTeam })

def sendBoard (m : BoardMsg) (s : State) : State := s.modLaunch fun l => { l with boardq := l.boardq ++ [m] }

/-- Clears the bits of `mask` in ME at level `k` and tells the board (R47). -/
def clearMe (tid k : Nat) (mask : Word) (s : State) : State :=
  match s.getAgent tid with
  | none => s
  | some a =>
    if h : k < 5 then
      let gone := a.me[k] &&& mask
      if gone = 0 then s
      else
        let s := s.modAgent tid fun a => { a with me := a.me.set k (a.me[k] &&& ~~~mask) }
        match teamAt s a k with
        | some b => sendBoard (.clear b.uid gone tid) s
        | none => s
    else s
def clearAllMe (tid : Nat) (s : State) : State :=
  [0, 1, 2, 3, 4].foldl (fun s k => clearMe tid k (BitVec.allOnes 64) s) s

/-! Rivals (R73 to R83). -/

/-- The seed waits in no die queue any more. -/
def dropSeed (tid : Nat) (s : State) : State :=
  { s.modAgent tid (fun a => { a with queued := false }) with
    dieqs := s.dieqs.map fun q => { q with
      entries := q.entries.filter (·.tid != tid), holding := q.holding.filter (·.1.tid != tid) } }

/-- A task that was spawned in a view fails when the view is discarded, and is listed (R158). -/
def failTasks (pkg tag : Nat) (s : State) : State :=
  (s.allAgents.filter fun a => a.launch == s.launch.id && a.tag == tag && pkgOf a.core == pkg && a.world.isNone &&
      a.seq == .x && a.state != .done && a.state != .failed).foldl (fun s a =>
    let s := (dropSeed a.tid (leaveSlot a.tid s)).modAgent a.tid fun a => { a with state := .failed }
    let item : Item :=
      { seqn := a.key.setWidth 32, lcore := a.lcore, sub := 0, ridx := 0, kind := 6, fate := true, cause := 0 }
    s.modLaunch fun l => { l with items := l.items ++ [item] }) s

/-- Accepted walker commands of the launch in front that were issued in a view have not finished. -/
def viewBusy (s : State) (pkg tag : Nat) : Bool :=
  s.allCores.any fun c => pkgOf c.id == pkg && c.walker.any fun w => w.launch == s.launch.id && w.tag == tag
/-- A discarded view goes: its lines are free again. -/
def dropView (pkg tag : Nat) (s : State) : State :=
  let n := ((s.getView pkg tag).map (·.lines.length)).getD 0
  (s.modLaunch fun l => { l with views := l.views.filter fun v => !(v.pkg == pkg && v.tag == tag) }).modPkg pkg
    fun p => { p with tagLines := p.tagLines + n }
/-- The view is discarded: its pins are lowered, its tasks fail, and its lines are reclaimed in the background
(R68, R71), once the walker commands that were issued in it have finished (R275). -/
def discardView (pkg tag : Nat) (s : State) : State :=
  match s.getView pkg tag with
  | none => s
  | some _ =>
    let s := failTasks pkg tag s
    let s := { s with pins := s.pins.filter fun p => !(p.launch == s.launch.id && p.pkg == pkg && p.tag == tag) }
    let s := s.modPkg pkg fun p => { p with
      dirtyTags := if p.dirtyTags.contains tag then p.dirtyTags else p.dirtyTags ++ [tag] }
    if viewBusy s pkg tag then modView s pkg tag fun v => { v with gone := true } else dropView pkg tag s

/-- Kills the LIVE rivals of every unresolved world that the thread forked, worlds within worlds included (R81). -/
def killNested : Nat → Nat → State → State
  | 0, _, s => s
  | fuel + 1, tid, s =>
    (s.launch.worlds.filter fun w => w.forker == tid && w.state != .resolved).foldl (fun s w =>
      let s := w.rivals.foldl (fun s r =>
        let s := killNested fuel r.tid s
        let s := s.modRival w.wid r.idx fun r => { r with
          code := if r.code = .live then .killed else r.code
          sbEnt := if r.code = .live then r.sb.length else r.sbEnt
          sbLen := if r.code = .live then (r.sb.map (·.bytes)).foldl (· + ·) 0 else r.sbLen
          sb := [], tag := 0 }
        let s := if r.code = .live then
            (leaveTeam r.tid (dropSeed r.tid (leaveSlot r.tid (clearAllMe r.tid s)))).modAgent r.tid
              fun a => { a with state := .failed, killed := false }
          else s
        discardView w.pkg r.tag s) s
      s.modWorld w.wid fun w => { w with state := .resolved, committing := none, claims := [] }) s

/-- What follows when rivals have ended: a sole survivor is to be promoted; with none LIVE the world has ended, and a claimed
one is RESOLVED (R79, R83). -/
def checkWorld (wid : Nat) (s : State) : State :=
  match s.getWorld wid with
  | none => s
  | some w =>
    let live := w.rivals.filter (·.code == .live)
    let kept := w.rivals.any fun r => r.code == .done || r.code == .claimed || r.code == .promoted
    match w.state with
    | .opened =>
      match live with
      | [] => s.modWorld wid fun w => { w with state := .ended }
      | [r] => if kept ∨ w.committing.isSome then s else s.modWorld wid fun w => { w with committing := some r.idx }
      | _ => s
    | .promoted => if live.isEmpty then s.modWorld wid fun w => { w with state := .ended } else s
    | .claimed =>
      if live.isEmpty && w.committing.isNone then s.modWorld wid fun w => { w with state := .resolved } else s
    | _ => s

/-- A rival ends (R73): its final counts stay; unless it is DONE or promoted its view and saddlebag go, with the
worlds nested in it. -/
def endRival (wid idx : Nat) (code : EndCode) (cause : Byte) (s : State) : State :=
  match s.getWorld wid with
  | none => s
  | some w =>
    match w.rivals.find? (·.idx == idx) with
    | none => s
    | some r =>
      if r.code ≠ .live then s
      else
        let keep := code = .done ∨ code = .claimed ∨ code = .promoted
        let lines := if code = .claimed ∨ code = .promoted then r.lines
          else ((s.getView w.pkg r.tag).map fun v => v.lines.length).getD r.lines
        let s := if keep then s else killNested 8 r.tid s
        let s := s.modRival wid idx fun r => { r with
          code := code, cause := cause, lines := lines
          sbEnt := r.sb.length
          sbLen := (r.sb.map (·.bytes)).foldl (· + ·) 0
          sb := if keep then r.sb else []
          tag := if keep then r.tag else 0 }
        let s := if keep then s else discardView w.pkg r.tag s
        let s := dropSeed r.tid (leaveSlot r.tid (clearAllMe r.tid s))
        let st := if code = .failed ∨ code = .killed then SeedState.failed else .done
        checkWorld wid ((leaveTeam r.tid s).modAgent r.tid fun a =>
          { a with state := st, failCause := cause, killed := false })

/-- A rival fails: it is reported, and listed as an item (R80, R348). -/
def failRival (wid idx : Nat) (cause : Byte) (pc addr : Addr) (seq : Seq) (s : State) : State :=
  match s.getWorld wid with
  | none => s
  | some w =>
    let core := ((w.rivals.find? (·.idx == idx)).bind fun r => (s.getAgent r.tid).map (·.core)).getD 0
    let r : TrapRec :=
      { queue := s.launch.queue, lseq := s.launch.lseq, pc := pc, addr := addr, lcore := w.lcore,
        core := core, name := 0, rv := true, ridx := idx, seq := seqCode seq, kind := 0, cause := cause }
    let item : Item := { seqn := 0, lcore := w.lcore, sub := 0, ridx := idx, kind := 7, fate := true, cause := cause }
    queueRecord r ((endRival wid idx .failed cause s).modLaunch fun l => { l with items := l.items ++ [item] })

/-- The LIVE rival whose view has a tag in a package. One whose view is to be committed is a rival of its world no more: the
rival of the parent view stands in its place (R79); a winner of CLAIMW likewise (DEDUCED, notes/assumptions/35.md). `fuel`
bounds the nesting (R81). -/
def rivalUp : Nat → State → Nat → Nat → Option (Nat × Nat)
  | 0, _, _, _ => none
  | fuel + 1, s, pkg, tag =>
    if tag = 0 then none
    else (s.launch.worlds.find? fun w => w.pkg == pkg && w.rivals.any fun r => r.tag == tag && r.code == .live).bind fun w =>
      (w.rivals.find? fun r => r.tag == tag && r.code == .live).bind fun r =>
        if w.committing = some r.idx then rivalUp fuel s pkg w.ptag else some (w.wid, r.idx)
def rivalAt (s : State) (pkg tag : Nat) : Option (Nat × Nat) := rivalUp 6 s pkg tag
/-- The LIVE rival in whose view a thread runs: its own world's unless promoted, then that of an outer world. -/
def rivalOf (s : State) (a : Agent) : Option (Nat × Nat) := rivalAt s (pkgOf a.core) a.tag

/-! Taking an exception, and returning from one. -/

/-- A fault of the agent whose turn it is (R342): in supervisor state a fatal record and a halt; in a rival the
failure of the rival; else the end of the launch. -/
def takeFault (cause : Byte) (addr : Addr) (s : State) : State :=
  let a := s.cur
  let o := s.owner a
  let pc := a.regs.pc
  if a.seq = .s then
    let r := { recordOf s a 2 cause pc addr .s with rv := false, ridx := 0 }
    haltCore a.core (queueRecord r s)
  else match rivalOf s o with
    | some (wid, idx) => failRival wid idx cause pc addr a.seq s
    | none =>
      let s := s.modAgent o.tid fun o => { o with failCause := cause }
      let s := s.modCur fun a => { a with failCause := cause }
      endLaunch (recordOf s { o with core := a.core } 2 cause pc addr a.seq) 1 s

/-- A fault of an agent that need not be in front, with the PC and the NAME that its record holds. One that comes to a rival
after its end, as a CONTRADICTION of an emit to its own team may (R43, R80), is one of the rival in whose view it was forked;
where there is none the launch ends (DESIGN CHOICE, notes/assumptions/35.md). -/
def faultNamed (name : Nat) (tid : Nat) (cause : Byte) (pc addr : Addr) (s : State) : State :=
  match s.getAgent tid with
  | none => s
  | some a =>
    let o := s.owner a
    if a.seq = .s then
      haltCore a.core (queueRecord { recordOf s a 2 cause pc addr .s with rv := false, ridx := 0, name := name } s)
    else match rivalOf s o with
    | some (wid, idx) => failRival wid idx cause pc addr a.seq s
    | none =>
      let s := s.modAgent o.tid fun o => { o with failCause := cause }
      endLaunch { recordOf s { o with core := a.core } 2 cause pc addr a.seq with name := name } 1 s
def faultAt (tid : Nat) (cause : Byte) (pc addr : Addr) (s : State) : State := faultNamed 0 tid cause pc addr s
/-- An asynchronous fault: its record has PC 0 (R344). -/
def asyncFault (tid : Nat) (cause : Byte) (addr : Addr) (s : State) : State := faultAt tid cause 0 addr s

/-- An item that has met its fate: in the place where the launch's end took it down, or for its group in the record to come
(R348). -/
def metItem (i : Item) (f : InFlight) (s : State) : State := s.modLaunch fun l =>
  if f ≠ .met ∧ l.pending.any (·.2 == f) then { l with pending := l.pending.map fun x => if x.2 = f then (i, .met) else x }
  else { l with pending := l.pending ++ [(i, .met)] }

/-- An operation released from a saddlebag meets a fault: it is a failed outbox, and the launch ends (R78). `name` is its
journal entry, where it has one (R341, R344). -/
def releasedFault (r : Released) (cause : Byte) (addr : Addr) (s : State) (name : Nat := 0) : State :=
  let item : Item :=
    { seqn := 0, lcore := r.lcore, sub := r.sub, ridx := r.ridx, kind := 5, fate := true, cause := cause }
  let rec_ : TrapRec :=
    { queue := s.launch.queue, lseq := s.launch.lseq, pc := 0, addr := addr, lcore := r.lcore
      core := (s.getLc r.lcore).core, name := name, rv := true, ridx := r.ridx, seq := seqCode r.seq, kind := 2
      cause := cause }
  endLaunch rec_ 1 (metItem item .met s)

/-! The flits of messages (R142, R143). -/

/-- A cycle of the torus of a package is under way: a flit that comes now takes part in the next one. -/
def cycling (s : State) (pkg : Nat) : Bool := s.flits.any fun f => f.pkg == pkg && f.hopped
/-- A flit on its way from one core to another. -/
def inject (c : Cargo) (src dst : Nat) (s : State) : State :=
  if src = dst then s
  else
    let p := pkgOf src
    { s with flits := s.flits ++
        [{ cargo := c, pkg := p, node := src % 576, dst := dst, age := 0, src := src, entered := false, hopped := cycling s p }] }
/-- What a flit carries has not come yet. -/
def inTransit (s : State) (c : Cargo) : Bool :=
  s.flits.any (·.cargo == c) || s.links.any fun l => l.held.any (·.cargo == c)
/-- What a message is to its flit; a request that a home holds has none. -/
def Msg.cargo : Msg → Option Cargo
  | .posted m _ => some (.posted m.id)
  | .queued _ _ => none
  | .ack id _ => some (.ack id)
  | .refusal m _ _ => some (.refusal m.id)
  | .marker core place pkg _ _ => some (.marker core place pkg)
  | .answer core place pkg _ => some (.answer core place pkg)
/-- A message leaves one core for another. -/
def sendMsg (m : Msg) (src dst : Nat) (s : State) : State :=
  let s := { s with net := s.net ++ [m] }
  match m.cargo with
  | some c => inject c src dst s
  | none => s
/-- The core at which a package receives and answers flush markers (DESIGN CHOICE, notes/assumptions/44.md). -/
def markerCore (pkg : Nat) : Nat := 576 * pkg

/-! Releases (R136). -/

/-- Flush markers go to every package that has received posted requests from the place since its last release; each
carries their count. -/
def sendMarkers (core : Nat) (i : Fin 7) (s : State) : State :=
  let p := (s.getCore core).places[i]
  let s := s.modPlace core i fun p =>
    { p with markers := p.markers ++ p.posted.map (fun (x : Nat × Nat) => (x.1, false)), posted := [] }
  p.posted.foldl (fun s x =>
    sendMsg (.marker core i.val x.1 x.2 (s.getPkg x.1).inc) core (markerCore x.1) s) s

/-- The own store of a release, as a chunk of its own: that of an agent with the registers that it has now. -/
def relChunk (a : Agent) : Chunk :=
  { Chunk.empty a.regs with count := 1, wbuf := a.relStore, wclean := wholeWords a.relStore }
/-- The own store of a release waits: for a held operand range, a reservation, its logged predecessor. -/
def relWaits (a : Agent) (s : State) : Bool :=
  chunkHeld (relChunk a) s || reservedKeys s (pkgOf a.core) a.tag a.tid (a.relStore.map (·.1)) ||
    (a.seq != .s && !replayMay s a.lcore (seqCode a.seq) 1)
/-- The own store of a release takes effect, as a commit of its agent (R129, R136); under QUANTUM at the quantum's end. A
rival that finds no room for its line fails (R71). -/
def relCommit (a : Agent) (s : State) : State :=
  let pkg := pkgOf a.core
  let c := relChunk a
  if s.launch.mode = .quantum ∧ a.seq ≠ .s then s.modAgent a.tid fun a => { a with ended := a.ended ++ [c] }
  else
    let new := (a.relStore.map fun x => x.1).any fun k => a.tag != 0 && !isLocal k && !hasLine s pkg a.tag k
    match if new && decide ((s.getPkg pkg).tagLines ≤ 0) then rivalOf s a else none with
    | some (wid, idx) => failRival wid idx cExhausted 0 0 a.seq s
    | none =>
      let s := writeHome s pkg a.tag a.tid c.wbuf c.wclean
      let s := if a.seq = .s then s else logEvent s a.lcore (seqCode a.seq) 1 (siteCommit pkg)
      let ls := c.wbuf.map fun x => lineOf x.1
      s.modAgent a.tid fun a => { a with chunk := { a.chunk with l1 := a.chunk.l1.filter fun x => !ls.contains x.1 } }

/-- Steps 2 and 3 of the release under way of an agent: once the remote loads that it waits for have returned, and what was
posted before it has left, the markers go out; once every answer and acknowledgement has come its own store takes effect, or
may leave, and it is over. -/
def advanceRelease (tid : Nat) (s : State) : State := onAgent tid (fun a s =>
  match a.rel with
  | none => s
  | some ids =>
    let p := (s.getCore a.core).places[a.place]
    if a.loads.any (fun l => ids.contains l.id) || p.entries.any (fun e => !e.sent && !e.hold) then s
    else if !p.posted.isEmpty then sendMarkers a.core a.place s
    else if !p.markers.isEmpty || p.entries.any (!·.hold) then s
    else if !a.relStore.isEmpty && relWaits a s then s
    else
      let s := if a.relStore.isEmpty then s else relCommit a s
      (s.modAgent tid fun a => { a with rel := none, relStore := [] }).modPlace a.core a.place fun p =>
        { p with entries := p.entries.map fun e => { e with hold := false } }) s
/-- A place's journal has changed: a release of its agent may go on. -/
def releaseAt (core place : Nat) (s : State) : State :=
  match s.allAgents.find? fun a => a.core == core && a.place.val == place && a.rel.isSome with
  | some a => advanceRelease a.tid s
  | none => s

/-- Nothing of the agent in front is out that a release waits for. -/
def releaseClear (s : State) : Bool :=
  let p := s.core.places[s.cur.place]
  s.cur.loads.isEmpty && p.entries.isEmpty && p.posted.isEmpty && p.markers.isEmpty
def beginRelease (s : State) : State :=
  advanceRelease s.cur.tid (s.modCur fun a => { a with rel := some (a.loads.map (·.id)) })
/-- A release begins; the agent may go on with loads (R136). -/
def startRelease : Run Unit := do
  releaseOver
  if !releaseClear (← get) then modify beginRelease
/-- A release for which its agent waits, changed by `f` meanwhile. -/
def releaseAs (f : State → State) : Run Unit := do
  releaseOver
  if !releaseClear (← get) then startWaiting (fun s => beginRelease (f s)) (.resource .release)
def releaseSteps : Run Unit := releaseAs id

/-- Enters UTRAPV on the thread X in front (R200): `pc` is the trapping instruction on sequencer `seq`. -/
def enterUser (cause : Byte) (seq : Seq) (pc : Addr) (s : State) : State :=
  let a := s.cur
  if a.regs.handlerActive ∨ a.regs.utrapv = 0 then
    takeFault cause 0 (s.modCur fun a => { a with regs := { a.regs with pc := if seq = .x then pc else a.regs.pc } })
  else (endFollow a.tid s).modCur fun a => { a with
    wait := none
    regs := { a.regs with
      utcause := BitVec.ofNat 64 (seqCode seq * 1024 + cause.toNat)
      utpc := pc
      xret := if seq = .x then a.regs.xret else a.regs.pc
      handlerActive := true
      pc := a.regs.utrapv } }

/-- A trap that waits for the thread's next instruction boundary. -/
def holdTrap (cause : Byte) (seq : Seq) (pc : Addr) (o : Agent) : Agent :=
  { o with traps := o.traps ++ [{ cause := cause, seq := seq, pc := pc, behind := !o.traps.isEmpty }] }
/-- The oldest trap that waits is to be entered now: one raised behind another waits for the RTU of the first (R25). -/
def trapDue (a : Agent) : Bool :=
  match a.traps with
  | [] => false
  | t :: _ => !(t.behind && a.regs.handlerActive) && a.staged.isNone

/-- A recoverable user trap: X enters UTRAPV; A or M stops there and the hitched thread enters at its next
boundary (R25, R200). -/
def takeUserTrap (cause : Byte) (s : State) : State :=
  let a := s.cur
  match a.seq with
  | .x => (enterUser cause .x a.regs.pc s).modCur Agent.newChunk
  | .s => takeFault cause 0 s
  | q =>
    let s := s.modCur fun a => { a with stopped := true, wait := none }
    s.modAgent (ownerTid a) (holdTrap cause q a.regs.pc)

/-- The return from a user trap (R202): X goes on at UTPC, or at xret while A or M starts again at UTPC. -/
def returnUser (s : State) : State :=
  let r := s.cur.regs
  let sq := r.utcause.extractLsb' 10 2
  if sq = 0 then s.modCur fun a => { a with npc := r.utpc, regs := { r with handlerActive := false } }
  else
    let q : Seq := if sq = 1 then .a else .m
    let s := s.modCur fun a => { a with npc := r.xret, regs := { r with handlerActive := false } }
    match s.seqOf s.cur.core q with
    | none => s
    | some b => s.modAgent b.tid fun b => Agent.newChunk { b with stopped := false, regs := { b.regs with pc := r.utpc } }

/-! Running the body of a meaning. -/

/-- The instruction has issued: the pc moves on and the chunk counts it; a chunk it closes commits. One that runs
between chunks leaves nothing to commit. -/
def retire (s : State) : Commit :=
  let c := s.cur.chunk
  let alone := c.closed && c.count == 0 && c.wbuf.isEmpty && c.clre.isEmpty && !c.vrel
  let s := s.modCur fun a => { a with
    regs := { a.regs with pc := a.npc }
    wait := none
    retired := a.retired + 1
    chunk := { a.chunk with count := if alone then 0 else a.chunk.count + 1 } }
  if s.cur.chunk.closed then commitChunk s else .done s

def park (w : Wait) (s : State) : State := s.modCur fun a => { a with wait := some w }

/-- The chunk of the agent in front has no room in its view: its rival fails (R71). -/
def noRoom (s : State) : State :=
  match rivalOf s (s.owner s.cur) with
  | some (wid, idx) => failRival wid idx cExhausted s.cur.regs.pc 0 s.cur.seq s
  | none => takeFault cExhausted 0 s

/-- The open chunk of `s` commits, and then `f` happens: under QUANTUM once the quantum's end has committed it. Where it
cannot commit yet, the agent waits in `base`. -/
def thenCommit (base s : State) (f : State → State) : Res :=
  match commitChunk s with
  | .done s' => .next (if s'.cur.ended.isEmpty then f s' else park (.resource .quantum) s')
  | .squashed s' => .next s'
  | .held w => .next (park w base)
  | .noRoom => .next (noRoom base)

/-- What a body's end makes of the state it started from. A chunk that is to commit is given by `again`. -/
def conclude (s : State) (again : Res) (r : Except Stop (Unit × State)) : Res :=
  match r with
  | .ok (_, s') =>
    match retire s' with
    | .done s'' => .next s''
    | .squashed _ => .next (squash s)
    | .held w => .next (park w s)
    | .noRoom => .next (noRoom s)
  | .error (.wait w) => .next (park w s)
  | .error (.keep s' w) => .next (park w s')
  | .error (.start f w) => .next (park w (f s))
  | .error .commit => again
  | .error (.noMemory pa) => .fault (.noMemory pa)
  | .error (.absent va) => .next (park (.resource .pageRemoval) { s with core := { s.core with asked := some va } })
  | .error (.fault c ad) => thenCommit s s (takeFault c ad)
  | .error (.refused f c ad) => thenCommit s (f s) (takeFault c ad)
  | .error (.utrap c) => thenCommit s s (takeUserTrap c)
  | .error (.utrapKeep s' c) => thenCommit s s' (takeUserTrap c)
  | .error (.rivalFail c) =>
    match rivalOf s (s.owner s.cur) with
    | some (wid, idx) => .next (failRival wid idx c s.cur.regs.pc 0 s.cur.seq s)
    | none => .next (takeFault c 0 s)

/-- In an event: the open chunk of the agent in front commits, and then `f` happens; not yet where it cannot. -/
def commitThen (s : State) (f : State → State) : State :=
  match commitChunk s with
  | .done s' => if s'.cur.ended.isEmpty then f s' else s'
  | .squashed s' => s'
  | .held _ => s
  | .noRoom => noRoom s

/-- Sequencers that issue a group of instructions (R21). -/
structure Legal where
  x : Bool
  a : Bool
  m : Bool
  /-- The supervisor context issues what X issues; system instructions and no others ask for it alone. -/
  s : Bool := true
  deriving DecidableEq, Repr

def Legal.on (l : Legal) : Seq → Bool
  | .x => l.x | .a => l.a | .m => l.m | .s => l.s

def onAll : Legal := { x := true, a := true, m := true }
def onXA : Legal := { x := true, a := true, m := false }
def onX : Legal := { x := true, a := false, m := false }
def onM : Legal := { x := false, a := false, m := true, s := false }
def onAM : Legal := { x := false, a := true, m := true, s := false }

/-- Runs a body: a 513th instruction, and a body that asks for it, first commit the chunk (R127). -/
def runBody (body : Run Unit) (s : State) : Res :=
  let again : Res :=
    match commitChunk s with
    | .done s' => conclude s' (.next (park (.resource .boundary) s')) (body s')
    | .squashed s' => .next s'
    | .held w => .next (park w s)
    | .noRoom => .next (noRoom s)
  if Config.chunkInstrs ≤ s.cur.chunk.count then again else conclude s again (body s)

/-- Every meaning of an instruction: the sequencer is checked first (R21, R190). -/
def issue (l : Legal) (body : Run Unit) (s : State) : Res :=
  if l.on s.cur.seq then runBody body s else runBody (illegal : Run Unit) s

/-- An event of a unit is total: it changes the state, or nothing where it does not apply. -/
def event (f : State → State) (s : State) : Res := .next (f s)

end Sys2Proof.Machine
end

