-- ==== Sys2Proof/Machine/Operands.lean ====
section
/-! DEFINITION. Operand forms: ports, branch-outcome queues, handles, and the formats of spec/10 R177 to R188. -/

namespace Sys2Proof.Machine

def dirIx : Dir → Fin 4
  | .north => 0 | .east => 1 | .south => 2 | .west => 3
def opposite : Dir → Dir
  | .north => .south | .east => .west | .south => .north | .west => .east

/-- The neighbour of logical core `n` (R30). -/
def neighbour (l w n : Nat) : Dir → Nat
  | .north => (n + l - w % l) % l
  | .east => (n + 1) % l
  | .south => (n + w) % l
  | .west => (n + l - 1) % l

/-- Takes the oldest word of the own FIFO of a direction (R107). -/
def portRead (d : Dir) : Run Word := do
  betweenChunks
  let s ← get
  let n := s.cur.lcore
  match (s.getLc n).ports[dirIx d] with
  | [] => blocked .port
  | w :: rest => do
    let taken := if s.launch.mode = .quantum then 1 else 0
    modify fun s => s.modLc n fun lc => { lc with
      ports := lc.ports.set (dirIx d) rest, portPops := lc.portPops.set (dirIx d) (lc.portPops[dirIx d] + taken) }
    return w

/-- Words that a FIFO holds, those on their way included (R107); under QUANTUM a word that was taken leaves its room in the
next quantum (R167). -/
def portHeld (s : State) (n : Nat) (i : Fin 4) : Nat :=
  (s.getLc n).ports[i].length + (s.getLc n).portPops[i] + (s.launch.portq.filter fun m => m.1 == n && m.2.1 == i.val).length

/-- Sends a word to the neighbour; its FIFO holds four words, those on their way included (R107). -/
def portWrite (d : Dir) (v : Word) : Run Unit := do
  betweenChunks
  let s ← get
  let n := neighbour (max 1 s.launch.l) s.launch.w s.cur.lcore d
  let i := dirIx (opposite d)
  if 4 ≤ portHeld s n i then blocked .port
  modify fun s => s.modLaunch fun l => { l with portq := l.portq ++ [(n, i.val, v)] }

def readOp : GOp → Run Word
  | .reg n => readG n
  | .port d => portRead d

def writeOp (o : GOp) (v : Word) : Run Unit :=
  match o with
  | .reg n => writeG n v
  | .port d => portWrite d v

/-- The branch-outcome queue of a sequencer (R24). -/
def Core.bqOf (c : Core) : Seq → List Bool
  | .a => c.bqA | .m => c.bqM | _ => c.bqX
def Core.setBq (c : Core) (q : Seq) (l : List Bool) : Core :=
  match q with
  | .a => { c with bqA := l }
  | .m => { c with bqM := l }
  | _ => { c with bqX := l }

/-- A bit goes to a queue; under QUANTUM it is seen there, and a bit that was taken leaves its room, in the next quantum
(R24, R167). -/
def writeQDst (d : QDst) (b : Bool) : Run Unit :=
  match d with
  | .q n => writeQ n b
  | .bq q => do
    betweenChunks
    let s ← get
    let l := s.core.bqOf q
    if s.launch.mode = .quantum ∧ s.cur.seq ≠ .s then
      let held := l.length + s.core.bqPops.count q + (s.core.bqSent.filter (·.1 == q)).length
      if Config.bqSize ≤ held then blocked .bq
      set { s with core := { s.core with bqSent := s.core.bqSent ++ [(q, b)] } }
    else
      if Config.bqSize ≤ l.length then blocked .bq
      set { s with core := s.core.setBq q (l ++ [b]) }

/-- Applies M's queued writes of FMTA to FMTC and SCLA to SCLB (R251). -/
def setFmt (r : Regs) (e : BitVec 31 × Addr) : Regs :=
  match e.1.toNat with
  | 2 => { r with fmtA := e.2.setWidth 64 }
  | 3 => { r with fmtB := e.2.setWidth 64 }
  | 4 => { r with fmtC := e.2.setWidth 64 }
  | 5 => { r with sclA := e.2 }
  | _ => { r with sclB := e.2 }
def drainFmtq (s : State) : State :=
  if s.cur.seq = .m then
    { s with cur := { s.cur with regs := s.core.fmtq.foldl setFmt s.cur.regs }, core := { s.core with fmtq := [] } }
  else s

/-- Pops the oldest bit of the sequencer's own bq (R24); M first applies its queued format writes (R251): in the step of the
pop, so that one that blocks on an empty queue applies none yet (DESIGN CHOICE, notes/assumptions/70.md). -/
def popBq : Run Bool := do
  betweenChunks
  let s ← get
  match s.core.bqOf s.cur.seq with
  | [] => blocked .bq
  | b :: rest => do
    modify fun s => drainFmtq { s with core := s.core.setBq s.cur.seq rest }
    if s.launch.mode = .quantum then modify fun s => { s with core := { s.core with bqPops := s.cur.seq :: s.core.bqPops } }
    return b

/-! Handles (R103, R104). -/

def Handle.nslot (h : Handle) : Nat := 2 ^ h.logn
def Handle.ssize (h : Handle) : Nat := 2 ^ h.logs
def Handle.filled (h : Handle) : Nat := (h.p + 2 ^ 32 - h.c) % 2 ^ 32
def Handle.free (h : Handle) : Nat := h.nslot - h.filled
def Handle.slot (h : Handle) (i : Nat) : Nat := h.base + i % h.nslot * h.ssize

/-- A handle of its own logical core that A or M names must be shared with it (R177); HITCH shares no handle of another one
(DEDUCED, notes/assumptions/69.md). -/
def handleShared (h : BitVec 3) : Run Unit := do
  let s ← get
  require (!(s.cur.seq == .a || s.cur.seq == .m) || s.core.shared.getLsbD h.toNat) cHandle

/-- The address that a handle operand yields, for a source or for a destination (R104, R221). -/
def handleAddr (h : BitVec 3) (n : Nat) (dest : Bool) : Run Addr := do
  handleShared h
  let s ← get
  let hd := (s.getLc s.cur.lcore).handles[h.toNat]
  require (hd.mode = 1 && decide (n ≤ hd.nslot)) cHandle
  betweenChunks
  if (if dest then hd.free else hd.filled) < n then blocked .handle
  return BitVec.ofNat 80 (placeAddr s.cur.lcore (hd.slot (if dest then hd.p else hd.c)))

/-- The base of a memory operand (R199, R221). -/
def baseAddr (b : PBase) (dest : Bool) : Run Addr :=
  match b with
  | .ptr n => readP n
  | .handle h arg => handleAddr h (arg.toNat + 1) dest

/-- The effective address: base + sext(disp), modulo 2^80 (R199). -/
def effAddr (b : PBase) (disp : Word) (dest : Bool) : Run Addr := do
  return (← baseAddr b dest) + disp.signExtend 80

/-! Formats RR, RU and F (R181, R198). -/

/-- `a := x op y`: the operands are read, then the result is written. -/
def runRR (r : RR) (f : Word → Word → Run Word) : Run Unit :=
  match r with
  | .two a b => do
    let x ← readG (a.setWidth 6)
    let y ← readOp b
    writeG (a.setWidth 6) (← f x y)
  | .three d x c => do
    let x ← readOp x
    let y ← readG c
    writeOp d (← f x y)
  | .imm d x c => do
    let x ← readOp x
    writeOp d (← f x (c.setWidth 64))

def runRU (r : RU) (f : Word → Run Word) : Run Unit :=
  match r with
  | .two d s => do
    let x ← readOp s
    writeOp d (← f x)
  | .ext d c => do
    let x ← readG c
    writeOp d (← f x)

def pureRR (r : RR) (f : Word → Word → Word) : Run Unit := runRR r fun x y => return f x y
def pureRU (r : RU) (f : Word → Word) : Run Unit := runRU r fun x => return f x

/-! Draws of stochastic rounding (R121). -/

/-- The stream of the agent whose turn it is. A and M hold their logical core's count while hitched. -/
def drawsOf (s : State) : Draws :=
  { base := srBase s.launch.jkey s.cur.lcore (match s.cur.seq with | .a => 1 | .m => 2 | _ => 0),
    n := s.cur.regs.srn }

def setSrn (n : Word) (s : State) : State := s.modCur fun a => { a with regs := { a.regs with srn := n } }

/-- The mode that the instruction samples (R118). -/
def roundMode (s : State) : RMode := s.cur.regs.round.extractLsb' 0 3

/-- encode in the sampled mode with the next draw (R119, R120). -/
def encodeNow (t : Fmt) (x : Val) (sat : Bool) : Run Nat := do
  let s ← get
  let d := drawsOf s
  let mode := roundMode s
  set (setSrn (d.after mode x).n s)
  return encodeF t x mode sat d.z

end Sys2Proof.Machine
end

