-- ==== Sys2Proof/Machine/Memory.lean ====
section
/-! DEFINITION. Loads, stores, full-empty bits, pins, waits and fences (spec/11 R199, R206, R220 to R223; spec/04;
spec/06 R127 to R136). -/

namespace Sys2Proof.Machine

def sizeOf (sz : Size) : Nat := 2 ^ sz.toNat

/-- A write into a held range traps for the agents of the same logical core (R262). -/
def hazard (key n : Nat) : Run Unit := do
  let s ← get
  if heldRange s key n && localCore key == s.cur.lcore then throw (.utrap cHazard)
/-- An event at the home waits until a held range that it meets is free (R262). -/
def rangeFree (key n : Nat) : Run Unit := do
  if heldRange (← get) key n then stalled .batch

/-! The saddlebag (R78, R80). -/

/-- The outside effects of the agent go into a saddlebag: it runs in the view of a LIVE rival. -/
def buffered (s : State) : Bool := (rivalOf s s.cur).isSome

def sbTotal (r : Rival) : Nat := (r.sb.map (·.bytes)).foldl (· + ·) 0

def holdSb (op : SbOp) (bytes : Nat) : Run Unit := do
  let s ← get
  match rivalOf s s.cur with
  | none => pure ()
  | some (wid, idx) =>
    match (s.getWorld wid).bind fun w => w.rivals.find? (·.idx == idx) with
    | none => pure ()
    | some r =>
      if Config.sbEntries ≤ r.sb.length ∨ Config.sbBytes < sbTotal r + bytes then throw (.rivalFail cEscape)
      let e : SbEntry :=
        { op := op, bytes := bytes, seq := s.cur.seq, lcore := s.cur.lcore, ridx := idx, sub := r.sb.length, tid := s.cur.tid }
      modify fun s => s.modRival wid idx fun r => { r with sb := r.sb ++ [e] }

/-- The bytes that a held command will write: address and length of each run. A ring takes its slots from P as it stands
(DEDUCED, notes/assumptions/64.md). -/
def WCmd.covers (s : State) (c : WCmd) : List (Nat × Nat) :=
  match c.ring, c.gather with
  | some (t, h, len), _ =>
    let hd := (s.getLc t).handles[h % 8]'(by omega)
    (List.range (min hd.nslot ((len + hd.ssize - 1) / hd.ssize))).map fun i =>
      (placeAddr t (hd.slot (hd.p + i)), min hd.ssize (len - i * hd.ssize))
  | none, some (_, size, _, dst, count) => [(dst.toNat, size * count)]
  | none, none => c.moves.map fun m => (m.dst.toNat, m.len)

/-- A remote load that meets an entry in the saddlebag of a rival of the same world fails the rival (R80). -/
def sbCovers (s : State) (va : Addr) (key n : Nat) : Bool :=
  match rivalOf s s.cur with
  | none => false
  | some (wid, _) =>
    match s.getWorld wid with
    | none => false
    | some w => w.rivals.any fun r => r.sb.any fun e =>
      match e.op with
      | .posted _ _ (.store cells _ _) _ => cells.any fun c => decide (key ≤ c.1) && decide (c.1 < key + n)
      | .posted _ k (.red op _ _ _ _) _ =>
        decide (k < key + n) && decide (key < k + (if op = .addF32 then 4 else 8))
      | .walker c => (c.covers s).any fun m => decide (m.1 < va.toNat + n) && decide (va.toNat < m.1 + m.2)
      | _ => false

/-! Posted requests (R132, R145). -/

def PReq.meets (q : PReq) (key n : Nat) : Bool :=
  match q with
  | .store cells _ _ => cells.any fun c => decide (key ≤ c.1) && decide (c.1 < key + n)
  | .red op k _ _ _ => decide (k < key + n) && decide (key < k + (if op = .addF32 then 4 else 8))

/-- Later bytes replace earlier ones. -/
def mergeCells (old new : List (Nat × Byte)) : List (Nat × Byte) := new.foldl (fun l c => aset c.1 c.2 l) old

/-- Marks of the words of a merged store: the later one decides where it has a mark of its own (R364). -/
def mergeMarks (old new other : List Nat) : List Nat := new ++ old.filter fun k => !new.contains k && !other.contains k

/-- The request enters the combining buffer: a store merges with the agent's last unsent store to the line, or
takes a journal entry; with all 32 held it waits at issue. The store of a release under way stands apart until that is over. -/
def postRequest (dst : Acc) (va : Addr) (req : PReq) (rel : Bool := false) : Run Unit := do
  let s ← get
  let a := s.cur
  let key := dst.key
  let i := a.place
  let p := s.core.places[i]
  let same := p.entries.filter fun e => lineOf e.key == lineOf key
  let merge : Option (JEntry × PReq) :=
    match same.getLast?, req with
    | some e, .store new nc np =>
      match e.req with
      | .store old oc op =>
        if e.sent || rel then none else some (e, .store (mergeCells old new) (mergeMarks oc nc np) (mergeMarks op np nc))
      | _ => none
    | _, _ => none
  match merge with
  | some (e, r) =>
    let put (x : JEntry) : JEntry := { x with req := r }
    modify fun s => s.modPlace s.core.id i fun p =>
      { p with entries := modFirst (fun x => x.id.entry == e.id.entry) put p.entries }
  | none =>
    match (List.range Config.journalSize).find? fun k => !p.entries.any fun e => e.id.entry == k with
    | none => stalled .journal
    | some k =>
      let e : JEntry :=
        { id := { core := s.core.id, place := i.val, lcore := a.lcore, entry := k, seqn := 0 }, tid := a.tid, launch := a.launch, seq := a.seq, pkg := dst.pkg, home := dst.home, va := va, key := key, req := req, sent := false,
          hold := rel && a.rel.isSome, released := none }
      modify fun s => s.modPlace s.core.id i fun p => { p with entries := p.entries ++ [e] }

/-- A request to another package: posted, or held in the rival's saddlebag. -/
def sendOut (dst : Acc) (va : Addr) (req : PReq) (rel : Bool) (bytes : Nat) : Run Unit := do
  if buffered (← get) then holdSb (.posted va dst.key req rel) bytes
  else postRequest dst va req rel

/-! Loads (R90, R91, R134, R135, R220). -/

/-- How a load reads. -/
inductive LKind where
  | plain | home | acq
  deriving DecidableEq, Repr

def extend (signed : Bool) (n v : Nat) : Word := if signed then sext64 (8 * n) v else BitVec.ofNat 64 v

/-- The value of a load goes to its destination. An LDP slot with upper bits set raises ALIGN (R222). -/
def deliver (d : LDst) (signed : Bool) (n v : Nat) (va : Addr) : Run Unit :=
  match d with
  | .g r => writeG r (extend signed n v)
  | .pair r => do
    writeG r (BitVec.ofNat 64 v)
    writeG (r + 1) (BitVec.ofNat 64 (v / 2 ^ 64))
  | .p r => do
    require (v / 2 ^ 80 = 0) cAlign va
    writeP r (BitVec.ofNat 80 v)
  | .hi r => writeG r (BitVec.ofNat 64 (v / 2 ^ 64))
  | .port d => portWrite d (extend signed n v)
  | .sync _ => pure ()
  | .vec _ => pure ()

/-- What the agent's own posted requests make of a load from another package (R133): the buffered value where an
unsent store covers it, a fault where that is poisoned, a wait where one meets it otherwise. -/
def ownPosted (va : Addr) (key n : Nat) : Run (Option Nat) := do
  let s ← get
  let p := s.core.places[s.cur.place]
  let hits := p.entries.filter fun e => e.req.meets key n ||
    (e.sent && lineOf e.key == lineOf key)
  match hits with
  | [] => return none
  | [e] =>
    match e.req with
    | .store cells _ pois =>
      let vs := (List.range n).map fun i => aget (key + i) cells
      if !e.sent ∧ (List.range n).any (fun i => pois.contains (wordOf (key + i))) then fault cUncorrectable va
      if !e.sent ∧ vs.all (·.isSome) then return some (ofBytes (vs.map (·.getD 0))) else stalled .journal
    | _ => stalled .journal
  | _ => stalled .journal

/-- An outstanding access of the agent that is not yet performed meets these bytes. -/
def RLoad.meets (l : RLoad) (key n : Nat) : Bool :=
  l.value.isNone && decide (l.key < key + n) && decide (key < l.key + l.size)

/-- At most 64 remote accesses of an agent are out (R134). -/
def loadRoom : Run Unit := do
  if Config.maxRemoteLoads ≤ (← get).cur.loads.length then stalled .loads
/-- A remote access of the agent in front is out, and on its way to its home. -/
def putLoad (l : RLoad) (home : Nat) (acq : Bool) (s : State) : State :=
  inject (.load s.cur.tid s.cur.nextLoad) s.cur.core (s.getLc home).core (s.modCur fun c => { c with
    loads := c.loads ++ [{ l with id := c.nextLoad, inc := (s.getPkg l.pkg).inc, pc := c.regs.pc }]
    nextLoad := c.nextLoad + 1, gate := c.gate || acq })
/-- A remote load, or an atomic. -/
def remoteLoad (d : LDst) (va : Addr) (a : Acc) (n : Nat) (signed : Bool) (atomic : Option (AOp × Word × Word))
    (rel plain : Bool) : RLoad :=
  { id := 0, dst := d, addr := va, key := a.key, size := n, signed := signed, atomic := atomic, value := none, pkg := a.pkg,
    pois := 0, pc := 0, rel := rel, ring := none, fault := 0, plain := plain, inc := 0 }
/-- Puts a remote load or atomic on its way. -/
def sendLoad (d : LDst) (va : Addr) (a : Acc) (n : Nat) (signed acq : Bool) (atomic : Option (AOp × Word × Word))
    (rel plain : Bool := false) : Run Unit := do
  loadRoom
  modify (putLoad (remoteLoad d va a n signed atomic rel plain) a.home acq)

def runLoad (b : PBase) (disp : Word) (n : Nat) (signed : Bool) (k : LKind) (d : LDst) : Run Unit := do
  let ea ← effAddr b disp false
  let a ← reachAligned ea n rR
  let s ← get
  if a.pkg = s.pkg then
    if k = .acq then loadBetween
    let v ← if k = .plain then plainRead ea a.key n else homeRead ea a.key n
    deliver d signed n v ea
  else do
    loadBetween
    if sbCovers s ea a.key n then throw (.rivalFail cEscape)
    match ← ownPosted ea a.key n with
    | some v => deliver d signed n v ea
    | none => sendLoad d ea a n signed (decide (k = .acq)) none false (decide (k = .plain))

def gDst : GOp → LDst
  | .reg n => .g n
  | .port d => .port d

/-! Stores (R132, R136, R220). -/

/-- The bytes of a store from a key on. -/
def cellsAt (key : Nat) (bs : List Byte) : List (Nat × Byte) := (List.range bs.length).zip bs |>.map fun ib => (key + ib.1, ib.2)

/-- The write of `bs` at a byte that was reached. With `.rel` a release begins, and the store takes effect once step 3 of it
has ended: in the own package as a chunk of its own, else when it leaves the journal (R136). A rival's store to another
package is a release when its saddlebag is released (R141). -/
def storeAt (va : Addr) (a : Acc) (bs : List Byte) (rel : Bool) : Run Unit := do
  hazard a.key bs.length
  let s ← get
  if a.pkg = s.pkg then
    if rel then
      endChunk
      startRelease
      if (← get).cur.rel.isSome then
        if lacksRoom s (newLines s [lineOf a.key]) then throw (.rivalFail cExhausted)
        modify fun s => s.modCur fun c => { c with relStore := cellsAt a.key bs }
        closeAfter
      else bufferBytes a.home va a.key bs
    else bufferStore a.home va a.key bs
  else
    betweenChunks
    if rel && !buffered s then startRelease
    let cells := cellsAt a.key bs
    sendOut a va (.store cells (wholeWords cells) []) rel bs.length

def runStore (g : GOp) (b : PBase) (disp : Word) (n : Nat) (rel : Bool) : Run Unit := do
  let ea ← effAddr b disp true
  let a ← reachAligned ea n rW
  let v ← readOp g
  storeAt ea a (toBytes n v.toNat) rel

def runStp (p : BitVec 4) (b : PBase) (disp : Word) (rel : Bool) : Run Unit := do
  let ea ← effAddr b disp true
  let a ← reachAligned ea 16 rW
  let v ← readP p
  storeAt ea a (toBytes 16 v.toNat) rel

def execLd (sz : Size) (g : GOp) (base : PBase) (disp : Word) (s : State) : Res :=
  issue onXA (runLoad base disp (sizeOf sz) false .plain (gDst g)) s
def execLdWr (sz : Size) (g : GOp) (base : PBase) (disp : Word) (s : State) : Res :=
  issue onXA (runLoad base disp (sizeOf sz) false .home (gDst g)) s
def execLds (sz : Size) (g : GOp) (base : PBase) (disp : Word) (s : State) : Res :=
  issue onXA (runLoad base disp (sizeOf sz) true .plain (gDst g)) s
def execLdsWr (sz : Size) (g : GOp) (base : PBase) (disp : Word) (s : State) : Res :=
  issue onXA (runLoad base disp (sizeOf sz) true .home (gDst g)) s
def execLdAcq (sz : Size) (g : GOp) (base : PBase) (disp : Word) (s : State) : Res :=
  issue onXA (runLoad base disp (sizeOf sz) false .acq (gDst g)) s
def execSt (sz : Size) (g : GOp) (base : PBase) (disp : Word) (s : State) : Res :=
  issue onXA (runStore g base disp (sizeOf sz) false) s
def execStRel (sz : Size) (g : GOp) (base : PBase) (disp : Word) (s : State) : Res :=
  issue onXA (runStore g base disp (sizeOf sz) true) s
def execLdq (g : GReg) (base : PBase) (disp : Word) (s : State) : Res :=
  issue onXA (runLoad base disp 16 false .plain (.pair g)) s
def execLdqWr (g : GReg) (base : PBase) (disp : Word) (s : State) : Res :=
  issue onXA (runLoad base disp 16 false .home (.pair g)) s
def execLdqAcq (g : GReg) (base : PBase) (disp : Word) (s : State) : Res :=
  issue onXA (runLoad base disp 16 false .acq (.pair g)) s
def execLdp (p : BitVec 4) (base : PBase) (disp : Word) (s : State) : Res :=
  issue onXA (runLoad base disp 16 false .plain (.p p)) s
def execLdpWr (p : BitVec 4) (base : PBase) (disp : Word) (s : State) : Res :=
  issue onXA (runLoad base disp 16 false .home (.p p)) s
def execLdpAcq (p : BitVec 4) (base : PBase) (disp : Word) (s : State) : Res :=
  issue onXA (runLoad base disp 16 false .acq (.p p)) s
def execStp (p : BitVec 4) (base : PBase) (disp : Word) (s : State) : Res :=
  issue onXA (runStp p base disp false) s
def execStpRel (p : BitVec 4) (base : PBase) (disp : Word) (s : State) : Res :=
  issue onXA (runStp p base disp true) s

/-! Full-empty bits (R93 to R95, R223). -/

/-- LDSYNC of a word in another package goes there as a remote load, and blocks until its answer has come (R142). -/
def remoteSync (d : LDst) (ea : Addr) (a : Acc) (n : Nat) : Run Unit := do
  loadBetween
  if sbCovers (← get) ea a.key n then throw (.rivalFail cEscape)
  match ← ownPosted ea a.key n with
  | some _ => stalled .journal
  | none => pure ()
  let s ← get
  let mine (l : RLoad) : Bool := (l.dst == .sync false || l.dst == .sync true) && l.pc == s.cur.regs.pc && l.addr == ea
  match s.cur.loads.find? mine with
  | none =>
    loadRoom
    startWaiting (putLoad (remoteLoad (.sync false) ea a n false none false false) a.home false) (.blocked .emptyWord)
  | some l =>
    match l.dst, l.value with
    | .sync true, some v =>
      if l.pois ≠ 0 then fault cUncorrectable ea
      modify fun s => s.modCur fun c => { c with loads := c.loads.filter (·.id != l.id) }
      deliver d false n v ea
    | _, _ => blocked .emptyWord

/-- LDSYNC: it reads the home, blocks while the word is EMPTY, and closes the chunk it stands in. -/
def execLdsync (sz : Size) (g : GOp) (base : PBase) (disp : Word) (s : State) : Res := issue onXA (do
  let ea ← effAddr base disp false
  let a ← reachAligned ea (sizeOf sz) rR
  let s ← get
  if a.pkg ≠ s.pkg then
    remoteSync (gDst g) ea a (sizeOf sz)
    return
  if s.cur.chunk.clre.contains (wordOf a.key) then throw .commit
  if s.cur.ended.any (·.clre.contains (wordOf a.key)) then stalled .quantum
  if emptyView s s.pkg s.cur.tag a.key then blocked .emptyWord
  let v ← homeRead ea a.key (sizeOf sz)
  closeAfter
  deliver (gDst g) false (sizeOf sz) v ea) s

/-- CLRE: every word of the range is reached with W before any is emptied; the bits change at the commit, and at
once for words whose home lies in another package (DESIGN CHOICE, notes/assumptions/17.md). -/
def execClre (p : BitVec 4) (g : GOp) (s : State) : Res := issue onXA (do
  let va ← readP p
  let len := (← readOp g).toNat
  require (va.toNat % 8 = 0 && len % 8 = 0) cAlign va
  if len = 0 then reachEmpty va 8
  else do
    let ws ← reachSteps (len / 8) 8 va rW
    ws.forM fun a => hazard a.key 8
    let s ← get
    let out := ws.filter fun a => a.pkg != s.pkg
    if !out.isEmpty then betweenChunks
    out.forM fun a => rangeFree a.key 8
    let far := (out.map fun a => lineOf a.key).eraseDups
    if lacksRoom s (newLines s far) then throw (.rivalFail cExhausted)
    modify (emptyWords s.pkg s.cur.tag (out.map fun a => wordOf a.key))
    let s ← get
    let own := (ws.filter fun a => a.pkg == s.pkg).map fun a => wordOf a.key
    releaseOver
    let lines := (own.map lineOf ++ s.cur.chunk.wlines).eraseDups
    if decide (Config.chunkLines < lines.length) && s.cur.chunk.count != 0 then throw .commit
    if lacksRoom s (newLines s (lines ++ s.cur.ended.flatMap (·.wlines))) then throw (.rivalFail cExhausted)
    let homes := (ws.filter fun a => a.pkg == s.pkg).map (·.home)
    modify fun s => s.modCur fun a => { a with chunk := { a.chunk with
      clre := own ++ a.chunk.clre
      homes := homes.foldl (fun l h => insertNat h l) a.chunk.homes
      grans := (List.range ((va.toNat % 65536 + len + 65535) / 65536)).foldl (fun l i =>
        insertNat (va.toNat / 65536 + i) l) a.chunk.grans
      wlines := lines } }) s

/-- PREF: a hint that never faults; it may bring the line into the L1. -/
def execPref (p : BitVec 4) (disp : Word) (s : State) : Res := issue onXA (fun s =>
  let go : Run Unit := do
    let va := (← readP p) + disp.signExtend 80
    let a ← reach va rR
    let s ← get
    let line := lineOf a.key
    if a.pkg = s.pkg && (aget line s.cur.chunk.l1).isNone then
      modify fun s => s.modCur fun c => { c with chunk := { c.chunk with
        l1 := aset line (lineView s s.pkg s.cur.tag line) c.chunk.l1 } }
  match go s with
  | .ok r => .ok r
  | .error (.wait (.resource .loads)) => .error (.wait (.resource .loads))
  | .error _ => .ok ((), s)) s

/-! Pinned lines (R108). -/

/-- The set of its home slice in which a line stands: 1,024 sets of 16 ways (PRESUMED, notes/assumptions/8.md). -/
def setOf (p : Pin) : Nat × Nat := (p.home, p.line % 1024)

def pinOf (s : State) (a : Acc) : Pin :=
  { launch := s.launch.id, pkg := if s.cur.tag = 0 then 0 else s.pkg, tag := s.cur.tag, line := lineOf a.key,
    home := (s.getLc a.home).core, count := 1 }
/-- The same line in the same view, and pinned by the same launch. -/
def sameLine (p q : Pin) : Bool := p.pkg == q.pkg && p.tag == q.tag && p.line == q.line
def samePin (p q : Pin) : Bool := p.launch == q.launch && sameLine p q

/-- The status of PIN over these lines: SET_FULL before QUOTA before LIMIT. A line that several launches pin takes one way,
and counts all their pins. -/
def pinStatus (s : State) (ls : List Acc) : Nat :=
  let add (ps : List Pin) (p : Pin) : List Pin := if ps.any (sameLine p) then ps else p :: ps
  let after := (ls.map (pinOf s) ++ s.pins).foldl add []
  if ls.any fun a => decide (15 < (after.filter fun q => setOf q = setOf (pinOf s a)).length) then 1
  else if (s.core.priv.rquota.toNat % 2 ^ 32) < ls.length then 2
  else if ls.any fun a =>
      255 ≤ ((s.pins.filter (sameLine (pinOf s a))).map (·.count)).foldl (· + ·) 0 then 3
  else 0

/-- Lines of the range raised or lowered, and noted for a squash. -/
def movePins (ls : List Acc) (up : Bool) : Run Unit :=
  modify fun s =>
    let ps := (ls.map (pinOf s)).filter fun p => up || s.pins.any (samePin p)
    { s with
      pins := ps.foldl (fun l p => pinLine p up l) s.pins
      cur := { s.cur with chunk := { s.cur.chunk with pinned := ps.map (fun p => (p, up)) ++ s.cur.chunk.pinned } } }

def execPin (st : GOp) (p : BitVec 4) (len : GReg) (s : State) : Res := issue onXA (do
  let va ← readP p
  let n := (← readG len).toNat
  require (va.toNat % 64 = 0 && n % 64 = 0) cAlign va
  if n = 0 then do
    reachEmpty va 64
    writeOp st 0
  else do
    let ls ← reachSteps (n / 64) 64 va rR
    let r := pinStatus (← get) ls
    if r = 0 then movePins ls true
    writeOp st (BitVec.ofNat 64 r)) s

def execUnpin (p : BitVec 4) (g : GOp) (s : State) : Res := issue onXA (do
  let va ← readP p
  let n := (← readOp g).toNat
  require (va.toNat % 64 = 0 && n % 64 = 0) cAlign va
  if n = 0 then reachEmpty va 64
  else do
    let ls ← reachSteps (n / 64) 64 va 0
    movePins ls false) s

/-! Waits and fences (R98, R102, R135, R136, R206). -/

/-- A walker command that has not completed. -/
def cmdOpen (s : State) (core id : Nat) : Bool := (s.getCore core).walker.any (·.id == id)

def setD (d : BitVec 3) (v : Promise) (s : State) : State :=
  s.modCur fun a => { a with regs := { a.regs with d := a.regs.d.set d.toNat v } }

/-- SLEEP (R98). -/
def execSleep (d : BitVec 3) (s : State) : Res := issue onXA (do
  let s ← get
  match s.cur.regs.d[d.toNat] with
  | .due => pure ()
  | .cmd core id fallen =>
    let open_ := cmdOpen s core id
    if !fallen then blocked .promise
    else if !open_ then modify (setD d .due)
    else if s.launch.mode = .quantum ∨ s.launch.mode = .replay then blocked .promise
    else throw (.utrapKeep (setD d .due s) cPromise)) s

/-- WAITC: the count has reached the threshold (R102). -/
def reached (count thr : BitVec 32) : Bool := (count - thr).toNat < 2 ^ 31

def runWaitc (k : BitVec 4) (g : GOp) (sub : Bool) : Run Unit := do
  let thr := (← readOp g).setWidth 32
  let s ← get
  let n := s.cur.lcore
  if !reached (s.getLc n).mc[k.toNat] thr then blocked .counter
  if sub then
    modify fun s => (s.modLc n fun lc => { lc with mc := lc.mc.set k.toNat (lc.mc[k.toNat] - thr) }).modCur fun a =>
      { a with chunk := { a.chunk with subs := (k, thr) :: a.chunk.subs } }
  closeAfter

def execWaitc (k : BitVec 4) (g : GOp) (s : State) : Res := issue onXA (runWaitc k g false) s
def execWaitcSub (k : BitVec 4) (g : GOp) (s : State) : Res := issue onXA (runWaitc k g true) s

/-- Every outstanding remote load has returned. -/
def loadsBack : Run Unit := do
  if !(← get).cur.loads.isEmpty then stalled .loads

def execFenceAcq (s : State) : Res := issue onXA (do
  loadBetween
  loadsBack) s
/-- FENCE.rel: later loads may issue before its step 3 ends (R136). -/
def execFenceRel (s : State) : Res := issue onXA (do
  betweenChunks
  startRelease) s
def execFenceFull (s : State) : Res := issue onXA (do
  betweenChunks
  releaseSteps
  loadsBack) s
/-- FLUSH also waits for the agent's walker commands; its reductions stand in the journal (R136). -/
def execFlush (s : State) : Res := issue onXA (do
  betweenChunks
  releaseSteps
  let s ← get
  if s.core.walker.any fun c => c.tid == s.cur.tid && c.seq == s.cur.seq then stalled .walker) s

end Sys2Proof.Machine
end

