-- ==== Sys2Proof/Machine/Atomic.lean ====
section
/-! DEFINITION. Atomics, memory-side reductions and queue instructions (spec/11 R224 to R227; spec/04 R103 to R106;
spec/06 R137). -/

namespace Sys2Proof.Machine

/-- The new value at the home of an atomic; `cmp` is the compare value of ACAS (R224). -/
def atomicNew (op : AOp) (old c cmp : Word) : Word :=
  match op with
  | .add => old + c
  | .and => old &&& c
  | .or => old ||| c
  | .xor => old ^^^ c
  | .min => if old.sle c then old else c
  | .max => if old.sle c then c else old
  | .swap => c
  | .cas => if old = cmp then c else old
  | .addF64 | .addF32 => c

def redSize : AOp → Nat
  | .addF32 => 4
  | _ => 8

/-- The new value at the home of a reduction, with the mode and the draw it carries (R225). -/
def redNew (op : AOp) (old : Nat) (v : Word) (mode : RMode) (z : Word) : Nat :=
  match op with
  | .addF64 => encodeF f64 (Val.add (decide (mode = 3#3)) (decodeF f64 old) (decodeF f64 v.toNat)) mode false z
  | .addF32 =>
    encodeF f32 (Val.add (decide (mode = 3#3)) (decodeF f32 old) (decodeF f32 (v.toNat % 2 ^ 32))) mode false z
  | op => (atomicNew op (BitVec.ofNat 64 old) v 0).toNat

/-- The lowest enabled core of the lowest die of a span partition, whose packet processor serves it (R325). -/
def procCore (s : State) (part : Nat) : Nat :=
  ((s.packages.flatMap fun p => (List.range 576).map fun i => 576 * p.id + i).find? fun c =>
    coreEnabled s c && spanPart s c == some part).getD 0
def modProc (part : Nat) (f : PktProc → PktProc) (s : State) : State :=
  if s.pkts.any (·.part == part) then { s with pkts := modFirst (·.part == part) f s.pkts }
  else { s with pkts := s.pkts ++ [f { part := part, turn := 0, widx := [] }] }
/-- A queue's descriptor (R311). -/
def descAddr (s : State) (part queue : Nat) : Addr :=
  (s.getCore (procCore s part)).priv.qtab + BitVec.ofNat 80 (64 * queue)
/-- The processor reads a queue's WIDX (R312). -/
def readWidx (part queue : Nat) (s : State) : State :=
  match rawRead s (procCore s part) (descAddr s part queue + 28) 4 with
  | some n => modProc part (fun p => { p with widx := aset queue (BitVec.ofNat 32 n) p.widx }) s
  | none => s
/-- The processor reads a queue's WIDX again when an atomic with `.rel` of a core of its span partition writes it (R312). -/
def widxAt (s : State) (core key : Nat) : Option (Nat × Nat) :=
  (spanPart s core).bind fun part =>
    ((List.range 64).find? fun k => rawKey s (procCore s part) (descAddr s part k + 24) == some key).map fun k => (part, k)
/-- A rival's goes into its saddlebag (R78). -/
def noticeWidx (key : Nat) : Run Unit := do
  match widxAt (← get) (← get).cur.core key with
  | none => pure ()
  | some (part, k) => if buffered (← get) then holdSb (.notify part k) 8 else modify (readWidx part k)

/-- A new line that a rival needs finds room (R71). -/
def roomForLine (key : Nat) : Run Unit := do
  let s ← get
  if lacksRoom s (newLines s [lineOf key]) then throw (.rivalFail cExhausted)

/-- An event at the home waits for a reservation that its line meets (R128). -/
def unreserved (key : Nat) : Run Unit := do
  let s ← get
  if reservedLine s s.pkg s.cur.tag s.cur.tid (lineOf key) then stalled .reservation

def runAtomic (dst : LDst) (b : PBase) (c cmp : Word) (op : AOp) (acq rel : Bool) : Run Unit := do
  let ea ← baseAddr b true
  let a ← reachAligned ea 8 (rR ||| rW ||| rA)
  hazard a.key 8
  betweenChunks
  if rel then releaseSteps
  let s ← get
  if a.pkg ≠ s.pkg then
    if buffered s then throw (.rivalFail cEscape)
    match ← ownPosted ea a.key 8 with
    | some _ => stalled .journal
    | none => do
      atQuantum
      sendLoad dst ea a 8 false acq (some (op, c, cmp)) rel
  else do
    if poisoned s s.pkg s.cur.tag a.key then fault cUncorrectable ea
    roomForLine a.key
    unreserved a.key
    rangeFree a.key 8
    orderEvent 2 (siteLine a.key)
    let old := BitVec.ofNat 64 (ofBytes (readViewN s s.pkg s.cur.tag a.key 8))
    let new := atomicNew op old c cmp
    modify fun s => writeHome s s.pkg s.cur.tag s.cur.tid
      ((List.range 8).zip (toBytes 8 new.toNat) |>.map fun ib => (a.key + ib.1, ib.2))
    if rel then noticeWidx a.key
    deliver dst false 8 old.toNat ea

def execOp (a : GOp) (b : PBase) (c : GReg) (op : AOp) (acq rel : Bool) (s : State) : Res := issue onXA (do
  runAtomic (gDst a) b (← readG c) 0 op acq rel) s
def execCas (a : GReg) (b : PBase) (c : GReg) (acq rel : Bool) (s : State) : Res := issue onXA (do
  let cmp ← readG a
  runAtomic (.g a) b (← readG c) cmp .cas acq rel) s

/-- A reduction (R225): under SR a float form draws exactly one count at issue. -/
def runRed (g : GOp) (b : PBase) (disp : Word) (op : AOp) : Run Unit := do
  let n := redSize op
  let ea ← effAddr b disp true
  let a ← reachAligned ea n (rW ||| rA)
  hazard a.key n
  let v ← readOp g
  betweenChunks
  let s ← get
  let mode := roundMode s
  let d := drawsOf s
  let float := decide (op = .addF64) || decide (op = .addF32)
  if float && mode = 5#3 then modify (setSrn (d.n + 1))
  if a.pkg ≠ s.pkg then sendOut a ea (.red op a.key v mode d.z) false n
  else do
    if poisoned s s.pkg s.cur.tag a.key then fault cUncorrectable ea
    roomForLine a.key
    unreserved a.key
    rangeFree a.key n
    orderEvent 2 (siteLine a.key)
    let old := ofBytes (readViewN s s.pkg s.cur.tag a.key n)
    modify fun s => writeHome s s.pkg s.cur.tag s.cur.tid
      ((List.range n).zip (toBytes n (redNew op old v mode d.z)) |>.map fun ib => (a.key + ib.1, ib.2))

def execAAdd (a : GOp) (base : PBase) (c : GReg) (s : State) : Res := execOp a base c .add false false s
def execAAnd (a : GOp) (base : PBase) (c : GReg) (s : State) : Res := execOp a base c .and false false s
def execAOr (a : GOp) (base : PBase) (c : GReg) (s : State) : Res := execOp a base c .or false false s
def execAXor (a : GOp) (base : PBase) (c : GReg) (s : State) : Res := execOp a base c .xor false false s
def execAMin (a : GOp) (base : PBase) (c : GReg) (s : State) : Res := execOp a base c .min false false s
def execAMax (a : GOp) (base : PBase) (c : GReg) (s : State) : Res := execOp a base c .max false false s
def execASwap (a : GOp) (base : PBase) (c : GReg) (s : State) : Res := execOp a base c .swap false false s
def execACas (a : GReg) (base : PBase) (c : GReg) (s : State) : Res := execCas a base c false false s
def execAAddAcq (a : GOp) (base : PBase) (c : GReg) (s : State) : Res := execOp a base c .add true false s
def execAAndAcq (a : GOp) (base : PBase) (c : GReg) (s : State) : Res := execOp a base c .and true false s
def execAOrAcq (a : GOp) (base : PBase) (c : GReg) (s : State) : Res := execOp a base c .or true false s
def execAXorAcq (a : GOp) (base : PBase) (c : GReg) (s : State) : Res := execOp a base c .xor true false s
def execAMinAcq (a : GOp) (base : PBase) (c : GReg) (s : State) : Res := execOp a base c .min true false s
def execAMaxAcq (a : GOp) (base : PBase) (c : GReg) (s : State) : Res := execOp a base c .max true false s
def execASwapAcq (a : GOp) (base : PBase) (c : GReg) (s : State) : Res := execOp a base c .swap true false s
def execACasAcq (a : GReg) (base : PBase) (c : GReg) (s : State) : Res := execCas a base c true false s
def execAAddRel (a : GOp) (base : PBase) (c : GReg) (s : State) : Res := execOp a base c .add false true s
def execAAndRel (a : GOp) (base : PBase) (c : GReg) (s : State) : Res := execOp a base c .and false true s
def execAOrRel (a : GOp) (base : PBase) (c : GReg) (s : State) : Res := execOp a base c .or false true s
def execAXorRel (a : GOp) (base : PBase) (c : GReg) (s : State) : Res := execOp a base c .xor false true s
def execAMinRel (a : GOp) (base : PBase) (c : GReg) (s : State) : Res := execOp a base c .min false true s
def execAMaxRel (a : GOp) (base : PBase) (c : GReg) (s : State) : Res := execOp a base c .max false true s
def execASwapRel (a : GOp) (base : PBase) (c : GReg) (s : State) : Res := execOp a base c .swap false true s
def execACasRel (a : GReg) (base : PBase) (c : GReg) (s : State) : Res := execCas a base c false true s
def execRAdd (a : GOp) (base : PBase) (disp : Word) (s : State) : Res := issue onXA (runRed a base disp .add) s
def execRMin (a : GOp) (base : PBase) (disp : Word) (s : State) : Res := issue onXA (runRed a base disp .min) s
def execRMax (a : GOp) (base : PBase) (disp : Word) (s : State) : Res := issue onXA (runRed a base disp .max) s
def execRAnd (a : GOp) (base : PBase) (disp : Word) (s : State) : Res := issue onXA (runRed a base disp .and) s
def execROr (a : GOp) (base : PBase) (disp : Word) (s : State) : Res := issue onXA (runRed a base disp .or) s
def execRXor (a : GOp) (base : PBase) (disp : Word) (s : State) : Res := issue onXA (runRed a base disp .xor) s
def execRAddF64 (a : GOp) (base : PBase) (disp : Word) (s : State) : Res := issue onXA (runRed a base disp .addF64) s
def execRAddF32 (a : GOp) (base : PBase) (disp : Word) (s : State) : Res := issue onXA (runRed a base disp .addF32) s

/-! Queue instructions (R103 to R106, R226, R227). -/

def getHandle (s : State) (n : Nat) (h : BitVec 3) : Handle := (s.getLc n).handles[h.toNat]
def modHandle (n : Nat) (h : BitVec 3) (f : Handle → Handle) (s : State) : State :=
  s.modLc n fun lc => { lc with handles := lc.handles.set h.toNat (f lc.handles[h.toNat]) }

/-- A handle that is busy: slots filled or taken, tickets unfilled, or a walker command at the ring (R103). -/
def Handle.busy (h : Handle) : Bool := (if h.mode = 2 then h.t != h.c else h.p != h.c) || !h.waiting.isEmpty

/-- The handle that an HCFG descriptor asks for; none where it raises HANDLE_CONFIG (R103). -/
def hcfgHandle (d : Word) (lsize : Nat) : Option Handle :=
  let n := d.toNat
  let logn := field n 35 32
  let logs := field n 31 28
  let base := field n 17 0
  if field n 61 36 ≠ 0 ∨ field n 27 18 ≠ 0 then none
  else match field n 63 62 with
    | 0 => some Handle.off
    | 3 => none
    | m =>
      if 1 ≤ logn ∧ logn ≤ 8 ∧ 3 ≤ logs ∧ logs ≤ 12 ∧ base % 2 ^ logs = 0 ∧ base + 2 ^ logn * 2 ^ logs ≤ lsize then
        some { Handle.off with mode := BitVec.ofNat 2 m, logn := logn, logs := logs, base := base }
      else none

def execHcfg (h : BitVec 3) (g : GOp) (s : State) : Res := issue onX (do
  let d ← readOp g
  let s ← get
  match hcfgHandle d s.launch.lsize with
  | none => fault cHandle 0
  | some hd => do
    require (!(getHandle s s.cur.lcore h).busy) cHandle
    betweenChunks
    modify (modHandle s.cur.lcore h fun _ => hd)
    modify fun s => s.modCur fun a => { a with hcfged := true }) s

def runAdvp (h : BitVec 3) (n : Nat) : Run Unit := do
  handleShared h
  let s ← get
  let hd := getHandle s s.cur.lcore h
  require (hd.mode = 1 && decide (n ≤ hd.free)) cHandle
  betweenChunks
  releaseSteps
  orderEvent 2 (siteRing s.cur.lcore h.toNat)
  modify (modHandle s.cur.lcore h fun hd => { hd with p := (hd.p + n) % 2 ^ 32 })

/-- ADVC on a plain ring, or on a reorder ring, whose slots it gives back lose their marks. -/
def runAdvc (h : BitVec 3) (n : Nat) : Run Unit := do
  handleShared h
  let s ← get
  let hd := getHandle s s.cur.lcore h
  require ((hd.mode = 1 && decide (n ≤ hd.filled)) || (hd.mode = 2 && decide (n ≤ hd.k - hd.c))) cHandle
  betweenChunks
  releaseSteps
  orderEvent 2 (siteRing s.cur.lcore h.toNat)
  modify (modHandle s.cur.lcore h fun hd =>
    if hd.mode = 1 then { hd with c := (hd.c + n) % 2 ^ 32 }
    else { hd with c := hd.c + n, marks := hd.marks.filter fun t => decide (hd.c + n ≤ t) })

def execAdvpG (h : BitVec 3) (g : GOp) (s : State) : Res := issue onAll (do runAdvp h (← readOp g).toNat) s
def execAdvpN (h : BitVec 3) (n : BitVec 31) (s : State) : Res := issue onAll (runAdvp h n.toNat) s
def execAdvcG (h : BitVec 3) (g : GOp) (s : State) : Res := issue onAll (do runAdvc h (← readOp g).toNat) s
def execAdvcN (h : BitVec 3) (n : BitVec 31) (s : State) : Res := issue onAll (runAdvc h n.toNat) s

/-- The logical core that TKT and RFILL name: c, or the issuer's own; in a rival a target outside the package fails
it (R80, R227). -/
def ringTarget (c : Option GReg) : Run Nat := do
  let s ← get
  match c with
  | none => return s.cur.lcore
  | some r => do
    let v := (← readG r).toNat
    require (decide (v < s.launch.l)) cRights
    if buffered s ∧ pkgOf (s.getLc v).core ≠ s.pkg then throw (.rivalFail cEscape)
    if (s.getLc v).away then stalled .answer
    return v

/-- A ring in another package is reached as a remote atomic is (R227): TKT takes a ticket there, RFILL marks one. -/
def sendRing (d : LDst) (n : Nat) (h : BitVec 3) (t : Option Nat) : Run Unit := do
  let s ← get
  loadRoom
  atQuantum
  let at_ : Acc := { key := 0, home := n, pkg := pkgOf (s.getLc n).core }
  modify (putLoad { remoteLoad d (BitVec.ofNat 80 (placeAddr n 0)) at_ 0 false none false false with ring := some (n, h, t) } n false)
/-- The ring's core lies in another package. -/
def ringOut (s : State) (n : Nat) : Bool := pkgOf (s.getLc n).core != s.pkg

def execTkt (g : GOp) (h : BitVec 3) (c : Option GReg) (s : State) : Res := issue onAll (do
  let n ← ringTarget c
  let s ← get
  if n = s.cur.lcore then handleShared h
  if ringOut s n then
    betweenChunks
    sendRing (gDst g) n h none
    return
  let hd := getHandle (← get) n h
  require (hd.mode = 2) cHandle
  betweenChunks
  if hd.c + hd.nslot ≤ hd.t then blocked .ring
  orderEvent 2 (siteRing n h.toNat)
  modify (modHandle n h fun hd => { hd with t := hd.t + 1 })
  writeOp g (BitVec.ofNat 64 hd.t)) s

def execRfill (g : GOp) (h : BitVec 3) (c : Option GReg) (s : State) : Res := issue onAll (do
  let t := (← readOp g).toNat
  let n ← ringTarget c
  let s ← get
  if n = s.cur.lcore then handleShared h
  if ringOut s n then
    betweenChunks
    releaseSteps
    sendRing (.g 0) n h (some t)
    return
  let hd := getHandle (← get) n h
  require (hd.mode = 2 && decide (hd.k ≤ t) && decide (t < hd.t) && !hd.marks.contains t) cHandle
  betweenChunks
  releaseSteps
  orderEvent 2 (siteRing n h.toNat)
  modify (modHandle n h fun hd => { hd with marks := t :: hd.marks })) s

/-- The length of the run of marked slots from `k`, at most `n`. -/
def markRun : Nat → List Nat → Nat → Nat
  | 0, _, _ => 0
  | n + 1, marks, k => if marks.contains k then markRun n marks (k + 1) + 1 else 0

def execRtake (g : GOp) (h : BitVec 3) (s : State) : Res := issue onAll (do
  handleShared h
  let s ← get
  let hd := getHandle s s.cur.lcore h
  require (hd.mode = 2) cHandle
  betweenChunks
  let m := markRun hd.nslot hd.marks hd.k
  if m = 0 then blocked .ring
  orderEvent 2 (siteRing s.cur.lcore h.toNat)
  modify (modHandle s.cur.lcore h fun hd => { hd with k := hd.k + m })
  writeOp g (BitVec.ofNat 64 m)) s

end Sys2Proof.Machine
end

