-- ==== Sys2Proof/Machine/Crypto.lean ====
section
/-! DEFINITION. SHA-256 and RSASSA-PSS, by which the management cores check an image (spec/23 R360, R361). The standards
that spec/23 names define them (notes/assumptions/9.md). -/

namespace Sys2Proof.Machine

/-! SHA-256. -/

def shaK0 : List (BitVec 32) :=
  [0x428A2F98, 0x71374491, 0xB5C0FBCF, 0xE9B5DBA5, 0x3956C25B, 0x59F111F1, 0x923F82A4, 0xAB1C5ED5,
   0xD807AA98, 0x12835B01, 0x243185BE, 0x550C7DC3, 0x72BE5D74, 0x80DEB1FE, 0x9BDC06A7, 0xC19BF174,
   0xE49B69C1, 0xEFBE4786, 0x0FC19DC6, 0x240CA1CC, 0x2DE92C6F, 0x4A7484AA, 0x5CB0A9DC, 0x76F988DA,
   0x983E5152, 0xA831C66D, 0xB00327C8, 0xBF597FC7, 0xC6E00BF3, 0xD5A79147, 0x06CA6351, 0x14292967]
def shaK1 : List (BitVec 32) :=
  [0x27B70A85, 0x2E1B2138, 0x4D2C6DFC, 0x53380D13, 0x650A7354, 0x766A0ABB, 0x81C2C92E, 0x92722C85,
   0xA2BFE8A1, 0xA81A664B, 0xC24B8B70, 0xC76C51A3, 0xD192E819, 0xD6990624, 0xF40E3585, 0x106AA070,
   0x19A4C116, 0x1E376C08, 0x2748774C, 0x34B0BCB5, 0x391C0CB3, 0x4ED8AA4A, 0x5B9CCA4F, 0x682E6FF3,
   0x748F82EE, 0x78A5636F, 0x84C87814, 0x8CC70208, 0x90BEFFFA, 0xA4506CEB, 0xBEF9A3F7, 0xC67178F2]
def shaK : List (BitVec 32) := shaK0 ++ shaK1

/-- The eight words of a hash under way. -/
structure Sha where
  a : BitVec 32
  b : BitVec 32
  c : BitVec 32
  d : BitVec 32
  e : BitVec 32
  f : BitVec 32
  g : BitVec 32
  h : BitVec 32
  deriving DecidableEq, Repr

def Sha.start : Sha :=
  { a := 0x6A09E667, b := 0xBB67AE85, c := 0x3C6EF372, d := 0xA54FF53A, e := 0x510E527F, f := 0x9B05688C
    g := 0x1F83D9AB, h := 0x5BE0CD19 }

def Sha.add (x y : Sha) : Sha :=
  { a := x.a + y.a, b := x.b + y.b, c := x.c + y.c, d := x.d + y.d, e := x.e + y.e, f := x.f + y.f, g := x.g + y.g
    h := x.h + y.h }

/-- A round with its constant and its word of the schedule. -/
def shaRound (s : Sha) (kw : BitVec 32 × BitVec 32) : Sha :=
  let s1 := s.e.rotateRight 6 ^^^ s.e.rotateRight 11 ^^^ s.e.rotateRight 25
  let ch := (s.e &&& s.f) ^^^ (~~~s.e &&& s.g)
  let t1 := s.h + s1 + ch + kw.1 + kw.2
  let s0 := s.a.rotateRight 2 ^^^ s.a.rotateRight 13 ^^^ s.a.rotateRight 22
  let maj := (s.a &&& s.b) ^^^ (s.a &&& s.c) ^^^ (s.b &&& s.c)
  { a := t1 + (s0 + maj), b := s.a, c := s.b, d := s.c, e := s.d + t1, f := s.e, g := s.f, h := s.g }

/-- `n` more words of the schedule; `ws` holds those there are, the last first. -/
def shaSchedule : Nat → List (BitVec 32) → List (BitVec 32)
  | 0, ws => ws.reverse
  | n + 1, ws =>
    let w (i : Nat) : BitVec 32 := (ws[i]?).getD 0
    let s0 := (w 14).rotateRight 7 ^^^ (w 14).rotateRight 18 ^^^ (w 14) >>> 3
    let s1 := (w 1).rotateRight 17 ^^^ (w 1).rotateRight 19 ^^^ (w 1) >>> 10
    shaSchedule n ((w 15 + s0 + w 6 + s1) :: ws)

/-- Octet strings as numbers, the first octet the most significant. -/
def bigEndian (bs : List Byte) : Nat := bs.foldl (fun n b => n * 256 + b.toNat) 0
def toOctets (n v : Nat) : List Byte := (List.range n).map fun i => BitVec.ofNat 8 (v / 256 ^ (n - 1 - i))

def shaBlock (s : Sha) (block : List Byte) : Sha :=
  let ws := (List.range 16).map fun i => BitVec.ofNat 32 (bigEndian ((block.drop (4 * i)).take 4))
  s.add ((shaK.zip (shaSchedule 48 ws.reverse)).foldl shaRound s)

/-- A message padded to whole blocks of 64 bytes. -/
def shaPad (m : List Byte) : List Byte :=
  m ++ [0x80] ++ List.replicate ((119 - m.length % 64) % 64) 0 ++ toOctets 8 (8 * m.length)

def shaBlocks : Nat → List Byte → Sha → Sha
  | 0, _, s => s
  | n + 1, m, s => shaBlocks n (m.drop 64) (shaBlock s (m.take 64))

def Sha.bytes (s : Sha) : List Byte :=
  [s.a, s.b, s.c, s.d, s.e, s.f, s.g, s.h].flatMap fun w => toOctets 4 w.toNat

/-- PRESUMED, notes/assumptions/9.md. -/
def sha256 (m : List Byte) : List Byte :=
  let p := shaPad m
  (shaBlocks (p.length / 64) p Sha.start).bytes

/-! RSASSA-PSS with SHA-256, MGF1 with SHA-256 and a salt of 32 bytes. -/

/-- x^(2^k) mod n by k squarings. -/
def squareMod : Nat → Nat → Nat → Nat
  | 0, x, n => x % n
  | k + 1, x, n => squareMod k (x * x % n) n
/-- x^65,537 mod n. -/
def powMod (x n : Nat) : Nat := squareMod 16 (x % n) n * (x % n) % n

def mgf1 (seed : List Byte) (len : Nat) : List Byte :=
  ((List.range ((len + 31) / 32)).flatMap fun i => sha256 (seed ++ toOctets 4 i)).take len

/-- DB with the mask applied, its top bit off. -/
def pssMask (h db : List Byte) : List Byte :=
  match (db.zip (mgf1 h 351)).map fun x => x.1 ^^^ x.2 with
  | b :: l => (b &&& 0x7F) :: l
  | [] => []

/-- The encoded message of 384 bytes (one bit short of 3,072) holds the digest. -/
def pssOk (digest em : List Byte) : Bool :=
  let masked := em.take 351
  let h := (em.drop 351).take 32
  let db := pssMask h masked
  em.length == 384 && em.getLast? == some 0xBC && ((masked.head?).getD 0) &&& 0x80 == 0 &&
  (db.take 318).all (· == 0) && (db.drop 318).head? == some 1 &&
  h == sha256 (List.replicate 8 0 ++ digest ++ (db.drop 319).take 32)

/-- The encoding of a digest under a salt of 32 bytes. -/
def pssEncode (digest salt : List Byte) : List Byte :=
  let h := sha256 (List.replicate 8 0 ++ digest ++ salt)
  pssMask h (List.replicate 318 0 ++ [1] ++ salt) ++ h ++ [0xBC]
/-- x^e mod n, for an exponent of `k` bits. -/
def powBits : Nat → Nat → Nat → Nat → Nat
  | 0, _, _, n => 1 % n
  | k + 1, x, e, n =>
    let r := powBits k x (e / 2) n
    r * r % n * (if e % 2 = 1 then x else 1) % n
/-- The signature of 384 bytes over a message, with a private exponent of 3,072 bits. -/
def pssSign (n d : Nat) (salt message : List Byte) : List Byte :=
  toOctets 384 (powBits 3072 (bigEndian (pssEncode (sha256 message) salt) % n) d n)
/-- The modulus and the private exponent of a key pair with the public exponent 65,537. -/
def keyPair (n d : Nat) : Prop := ∀ x, x < n → powMod (powBits 3072 x d n) n = x

/-- The signature over a message, under a modulus and the public exponent 65,537. -/
def signatureOk (modulus signature message : List Byte) : Bool :=
  let n := bigEndian modulus
  let s := bigEndian signature
  decide (0 < n) && decide (s < n) && pssOk (sha256 message) (toOctets 384 (powMod s n))

end Sys2Proof.Machine
end

