-- ==== Sys2Proof/Machine/Matrix.lean ====
section
/-! DEFINITION. The matrix array, the weight buffer and the dictionaries (spec/13 R250 to R266; spec/05 R114, R115,
R123, R124). -/

namespace Sys2Proof.Machine

/-! Operand elements (R114, R123, R256, R258). -/

/-- The k-group of a pair of formats; 0 where the pair is not allowed (R123). -/
def kgroup (fa fb : Nat) : Nat :=
  let g (c : Nat) : Nat := if 4 ≤ c ∧ c ≤ 8 then 16 else if c = 2 ∨ c = 3 then 8 else 0
  if fa = 1 ∧ fb = 1 then 4
  else if fa = 0 ∧ fb = 0 then 2
  else if g fa = 0 ∨ g fb = 0 then 0 else Nat.min (g fa) (g fb)

/-- Fields of the descriptor of R255. -/
structure MDesc where
  m : Nat
  n : Nat
  kg : Nat
  woff : Nat
  astr : Nat
  deriving DecidableEq, Repr

def mdescOf (d : Word) : MDesc :=
  let x := d.toNat
  { m := field x 63 58 + 1, n := field x 57 52 + 1, kg := field x 51 42, woff := field x 41 30, astr := field x 29 16 }

def MmaOp.k (o : MmaOp) : Nat := (mdescOf o.desc).kg * kgroup o.fa.toNat o.fb.toNat
def MmaOp.wA (o : MmaOp) : Nat := codeBits o.fa.toNat
def MmaOp.wB (o : MmaOp) : Nat := if o.pal then 4 else codeBits o.fb.toNat
def MmaOp.nb (o : MmaOp) : Nat := ceilDiv o.k 32
/-- RB, or its replacement for MMAS. -/
def MmaOp.rowBytes (o : MmaOp) : Nat :=
  if o.sparse then 256 * ceilDiv (o.k * o.wA) 2048 else 16 * ceilDiv (o.k * o.wA) 128
def MmaOp.colBytes (o : MmaOp) : Nat := 16 * ceilDiv (o.k * o.wB) 128
def scaled (c : BitVec 4) : Bool := decide (4 ≤ c.toNat) && decide (c.toNat ≤ 8)
def MmaOp.double (o : MmaOp) : Bool := o.fa = 0

/-- What decoding raises: ESC_EDGE and SCALE_NAN. -/
structure Anom where
  esc : Bool
  scale : Bool
  deriving DecidableEq, Repr

def Anom.word (a : Anom) : Word := (if a.esc then escEdge else 0) ||| (if a.scale then scaleNan else 0)
def Anom.or (a b : Anom) : Anom := { esc := a.esc || b.esc, scale := a.scale || b.scale }

/-- `w`-bit elements of bytes, from bit 0. -/
def unpack (w n : Nat) (bs : List Byte) : List Nat :=
  let x := ofBytes bs
  (List.range n).map fun i => field x (w * i + w - 1) (w * i)

/-- The scales of a row or column: values, and whether a NaN scale is among them. -/
def applyScales (scales : Option (List Byte)) (pos : Nat) (v : Val) : Val :=
  match scales with
  | none => v
  | some l => Val.scale v (scaleOf ((l[pos / 32]?).getD 0x7F))
def nanScale (scales : Option (List Byte)) : Bool :=
  match scales with
  | none => false
  | some l => l.any (· == 0xFF)

/-- The terms of a dense row or column: position and value of every element below k (R256). -/
def denseTerms (code k : Nat) (bs : List Byte) (scales : Option (List Byte)) : List (Nat × Val) × Anom :=
  let (vals, esc) : List Val × Bool :=
    if code = 8 then
      let blocks := (List.range (ceilDiv k 32)).map fun b => decodeI4x 32 0 (nibbles ((bs.drop (16 * b)).take 16))
      (blocks.flatMap (·.1), blocks.any (·.2))
    else ((unpack (codeBits code) k bs).map (decodeCode code), false)
  (((List.range k).zip vals).map fun x => (x.1, applyScales scales x.1 x.2), { esc := esc, scale := nanScale scales })

/-- A column of palette indices (R256, R265). -/
def palTerms (k : Nat) (bs : List Byte) (dict : Vector (BitVec 16) 16) : List (Nat × Val) :=
  ((List.range k).zip (unpack 4 k bs)).map fun x => (x.1, decodeF f16 (dict[x.2 % 16]'(by omega)).toNat)

/-- The terms of a structured-sparse row (R258): two kept values in each group of four positions
(DEDUCED, notes/assumptions/25.md). -/
def sparseTerms (code k : Nat) (bs : List Byte) (scales : Option (List Byte)) : List (Nat × Val) × Anom :=
  let w := codeBits code
  let span := 2048 / w
  let kept := (List.range (k / 4)).flatMap fun q => [(q, 0), (q, 1)]
  let read := kept.map fun qe =>
    let seg := 4 * qe.1 / span
    let e := 2 * (qe.1 - seg * (span / 4)) + qe.2
    let b := (bs.drop (256 * seg)).take 256
    let x := ofBytes (b.take 128)
    let m := ofBytes (b.drop 128)
    (4 * qe.1 + field m (2 * e + 1) (2 * e), field x (w * e + w - 1) (w * e))
  let val (c : Nat) : Val := if code = 8 then (if c = 8 then .zero false else .ofInt (toSigned 4 c)) else decodeCode code c
  (read.map fun x => (x.1, applyScales scales x.1 (val x.2)),
    { esc := code = 8 && read.any (fun x => x.2 == 8), scale := nanScale scales })

/-- One output element (R123): k-groups in increasing order, each exact sum accumulated with RNE. -/
def accumulate (acc : Fmt) (g kg : Nat) (row : List (Nat × Val)) (col : List (Nat × Val)) (c : Nat) : Nat :=
  (List.range kg).foldl (fun c q =>
    let terms := (row.filter fun x => x.1 / g == q).map fun x =>
      Val.mul x.2 (((col[x.1]?).map (·.2)).getD (.zero false))
    encodeF acc (Val.add false (decodeF acc c) (exactSum terms)) 0 false 0) c

/-! The accumulator store and the weight buffer (R89). -/

def accIx (t i j : Nat) : Nat := t * 4096 + i * 64 + j
def getAcc (mx : Matrix) (ix : Nat) : BitVec 32 := (aget ix mx.acc).getD 0
def setAcc (ix : Nat) (v : BitVec 32) (p : Bool) (mx : Matrix) : Matrix :=
  { mx with
    acc := if v = 0 then mx.acc.filter (·.1 != ix) else aset ix v mx.acc
    accPois := if p then insertNat ix mx.accPois else removeNat ix mx.accPois }
/-- The element of a binary32 tile, or of the pair t and t + 1. -/
def accElem (mx : Matrix) (pair : Bool) (t i j : Nat) : Nat :=
  (getAcc mx (accIx t i j)).toNat + (if pair then 2 ^ 32 * (getAcc mx (accIx (t + 1) i j)).toNat else 0)
def accElemPois (mx : Matrix) (pair : Bool) (t i j : Nat) : Bool :=
  mx.accPois.contains (accIx t i j) || (pair && mx.accPois.contains (accIx (t + 1) i j))
def setAccElem (pair : Bool) (t i j v : Nat) (p : Bool) (mx : Matrix) : Matrix :=
  let mx := setAcc (accIx t i j) (BitVec.ofNat 32 v) p mx
  if pair then setAcc (accIx (t + 1) i j) (BitVec.ofNat 32 (v / 2 ^ 32)) p mx else mx

def weights (mx : Matrix) (off n : Nat) : List Byte := (List.range n).map fun i => (aget (off + i) mx.wbuf).getD 0
def weightsPois (mx : Matrix) (off n : Nat) : Bool := mx.wPois.any fun k => decide (off ≤ k) && decide (k < off + n)
def setWeight (off : Nat) (b : Byte) (p : Bool) (mx : Matrix) : Matrix :=
  { mx with
    wbuf := if b = 0 then mx.wbuf.filter (·.1 != off) else aset off b mx.wbuf
    wPois := if p then insertNat off mx.wPois else removeNat off mx.wPois }

/-! Executing a tile operation: alone, in issue order (R253). -/

/-- Bytes of the local space, and whether any of their words is poisoned. -/
def localBytes (s : State) (key n : Nat) : List Byte × Bool :=
  ((List.range n).map fun i => baseByte s (key + i), (List.range n).any fun i => basePois s (key + i))

/-- What a finished operation leaves: the matrix state, its anomalies, whether it read poison. -/
structure OpOut where
  mx : Matrix
  anom : Anom
  pois : Bool
  deriving DecidableEq, Repr

def runMma (s : State) (mx : Matrix) (o : MmaOp) : OpOut :=
  let d := mdescOf o.desc
  let g := kgroup o.fa.toNat o.fb.toNat
  let rows := (List.range d.m).map fun i =>
    let (bs, p) := localBytes s (o.aptr.toNat + 16 * d.astr * i) o.rowBytes
    let (sc, sp) := if scaled o.fa then
        let (l, q) := localBytes s (o.scla.toNat + i * o.nb) o.nb
        (some l, q)
      else (none, false)
    let r := if o.sparse then sparseTerms o.fa.toNat o.k bs sc else denseTerms o.fa.toNat o.k bs sc
    (r.1, r.2, p || sp)
  let cols := (List.range d.n).map fun j =>
    let off := 16 * d.woff + j * o.colBytes
    let bs := weights mx off o.colBytes
    let p := weightsPois mx off o.colBytes
    let (sc, sp) := if scaled o.fb && !o.pal then
        let (l, q) := localBytes s (o.sclb.toNat + j * o.nb) o.nb
        (some l, q)
      else (none, false)
    let r := if o.pal then (palTerms o.k bs (if o.buf then mx.dict1 else mx.dict0), ({ esc := false, scale := false } : Anom))
      else denseTerms o.fb.toNat o.k bs sc
    (r.1, r.2, p || sp)
  let acc := if o.double then f64 else f32
  let put (mx : Matrix) (i j : Nat) : Matrix :=
    match rows[i]?, cols[j]? with
    | some r, some c =>
      setAccElem o.double o.tile i j (accumulate acc g d.kg r.1 c.1 (accElem mx o.double o.tile i j))
        (r.2.2 || c.2.2 || accElemPois mx o.double o.tile i j) mx
    | _, _ => mx
  { mx := (List.range d.m).foldl (fun mx i => (List.range d.n).foldl (fun mx j => put mx i j) mx) mx
    anom := (rows ++ cols).foldl (fun a r => a.or r.2.1) { esc := false, scale := false }
    pois := (rows ++ cols).any (·.2.2) ||
      (List.range d.m).any fun i => (List.range d.n).any fun j => accElemPois mx o.double o.tile i j }

/-- Every element (i, j) of a tile. -/
def tileCells : List (Nat × Nat) := (List.range 64).flatMap fun i => (List.range 64).map fun j => (i, j)

def runTileOp (s : State) (core pkg tag : Nat) (mx : Matrix) : TileOp → OpOut
  | .mma o => runMma s mx o
  | .mzero t =>
    { mx := tileCells.foldl (fun m c => setAcc (accIx t c.1 c.2) 0 false m) mx
      anom := { esc := false, scale := false }, pois := false }
  | .mtrn t u =>
    { mx := tileCells.foldl (fun m c => setAcc (accIx t c.1 c.2) (getAcc mx (accIx u c.2 c.1))
        (mx.accPois.contains (accIx u c.2 c.1)) m) mx
      anom := { esc := false, scale := false }, pois := tileCells.any fun c => mx.accPois.contains (accIx u c.1 c.2) }
  | .wload src desc =>
    let off := 16 * field desc.toNat 63 52
    let n := 16 * field desc.toNat 51 39
    let r := (List.range n).foldl (fun (acc : Matrix × Bool) i =>
      match rawKey s core (src + BitVec.ofNat 80 i) with
      | some k =>
        let (b, p) := dataByte s pkg tag k
        (setWeight (off + i) b p acc.1, acc.2 || p)
      | none => acc) (mx, false)
    { mx := r.1, anom := { esc := false, scale := false }, pois := r.2 }

/-! Batches (R253, R254). -/

/-- Every operation of the core that has not finished. -/
def Matrix.ops (mx : Matrix) : List OpRun := mx.batches.flatMap (·.ops) ++ mx.opened

def Matrix.modOp (mx : Matrix) (seq : Nat) (f : OpRun → OpRun) : Matrix :=
  { mx with
    opened := modFirst (·.seq == seq) f mx.opened
    batches := mx.batches.map fun b => { b with ops := modFirst (·.seq == seq) f b.ops } }

/-- The open batch becomes outstanding; an empty one does nothing. -/
def Matrix.commit (mx : Matrix) : Matrix :=
  if mx.opened.isEmpty then mx
  else { mx with
    batches := mx.batches ++ [{ id := mx.openId, ops := mx.opened, handed := none, poisoned := mx.openPoisoned }]
    opened := [], openPoisoned := false, openId := mx.openId + 1 }

/-- Retires batches in commit order; a retired COPYM command is finished (R253, R261, R272). -/
def retireBatches : Nat → Core → Core
  | 0, c => c
  | n + 1, c =>
    match c.mx.batches with
    | [] => c
    | b :: rest =>
      if b.ops.all (·.finished) then
        retireBatches n { c with
          mx := { c.mx with
            batches := rest
            ranges := c.mx.ranges.filter (·.batch != b.id)
            retPois := c.mx.retPois || b.poisoned }
          walker := match b.handed with
            | some (_, id) => modFirst (·.id == id) (fun w => { w with tile := none }) c.walker
            | none => c.walker }
      else c

/-- Batches of a core retire (R253); a write that their ranges held may land then (R261, R262). -/
def retireOn (core : Nat) (s : State) : State := s.modCore core (retireBatches 8)

/-- MCOMMIT, explicit or implicit: one that would make a fifth outstanding batch waits (R253). -/
def commitBatch : Run Unit := do
  let mx := (← get).core.mx
  if !mx.opened.isEmpty && decide (Config.maxBatches ≤ mx.batches.length) then blocked .batch
  modify fun s => retireOn s.core.id { s with core := { s.core with mx := s.core.mx.commit } }

/-- TILE_OPERATION_START (R260): the oldest operation not yet started. -/
def startOp (core : Nat) (s : State) : State :=
  let mx := (s.getCore core).mx
  match (mx.ops.filter (!·.started)).foldl (fun (b : Option OpRun) o =>
      match b with
      | some x => if o.seq < x.seq then some o else b
      | none => some o) none with
  | none => s
  | some o => s.modCore core fun c => { c with mx := c.mx.modOp o.seq fun x => { x with started := true } }

/-- TILE_OPERATION_FINISH (R253): the oldest operation, once started, takes effect; batches may then retire. -/
def finishOp (core : Nat) (s : State) : State :=
  let mx := (s.getCore core).mx
  match (mx.ops.filter (!·.finished)).foldl (fun (b : Option OpRun) o =>
      match b with
      | some x => if o.seq < x.seq then some o else b
      | none => some o) none with
  | none => s
  | some o =>
    if !o.started then s
    else onAgent o.tid (fun a s =>
      let r := runTileOp s core (pkgOf core) a.tag mx o.op
      let done (x : OpRun) : OpRun := { x with finished := true }
      let mark (mx : Matrix) : Matrix :=
        if !r.pois then mx
        else { mx with
          openPoisoned := mx.openPoisoned || mx.opened.any (·.seq == o.seq)
          batches := mx.batches.map fun b => if b.ops.any (·.seq == o.seq) then { b with poisoned := true } else b }
      let s := retireOn core (s.modCore core fun c => { c with mx := mark (r.mx.modOp o.seq done) })
      s.modAgent a.tid (Agent.modRegs · fun r' => { r' with anomaly := r'.anomaly ||| r.anom.word })) s

def execTileOperationStart (core : Nat) (s : State) : Res := event (startOp core) s
def execTileOperationFinish (core : Nat) (s : State) : Res := event (finishOp core) s

/-! Checks at issue (R250, R252, R257, R258). -/

/-- The launch has declared that it uses the matrix array (R250). -/
def matrixUsed : Run Unit := do require (← get).launch.matrix cIllegal

/-- A range of the issuing logical core's own local space (R252). -/
def ownLocal (va : Addr) (len : Nat) : Run Unit := do
  let s ← get
  let a := va.toNat
  require (a / 2 ^ 78 = 2 && localCore a = s.cur.lcore && decide (a % 2 ^ 60 + len ≤ s.launch.lsize)) cRights va

/-- The field checks of MMA and MMAS. -/
def mmaFieldsOk (o : MmaOp) : Bool :=
  let d := mdescOf o.desc
  field o.desc.toNat 15 0 = 0 && d.kg ≠ 0 && kgroup o.fa.toNat o.fb.toNat ≠ 0 && (!o.pal || o.fb = 2) &&
  !(o.double && o.tile % 2 = 1) && decide (o.tile < 4) && decide (16 * d.woff + d.n * o.colBytes ≤ 65536) &&
  (!o.sparse || (decide (2 ≤ o.fa.toNat) && decide (o.fa.toNat ≤ 8)))

/-- The ranges that an MMA enters: A, its scales, the scales of B (R261). -/
def mmaRanges (o : MmaOp) : List (Nat × Nat) :=
  let d := mdescOf o.desc
  [(o.aptr.toNat, o.aptr.toNat + 16 * d.astr * (d.m - 1) + o.rowBytes)] ++
  (if scaled o.fa then [(o.scla.toNat, o.scla.toNat + d.m * o.nb)] else []) ++
  (if scaled o.fb && !o.pal then [(o.sclb.toNat, o.sclb.toNat + d.n * o.nb)] else [])

def mmaPointers (o : MmaOp) : Run Unit := do
  require (o.aptr.toNat % 16 = 0) cAlign o.aptr
  (mmaRanges o).forM fun r => ownLocal (BitVec.ofNat 80 r.1) (r.2 - r.1)

/-- Enters one range for a batch; none where it must wait (R261). -/
def enterRange (batch : Nat) (lo hi : Nat) (rs : List RangeReg) : Option (List RangeReg) :=
  let hull (r : RangeReg) : RangeReg := { r with lo := Nat.min r.lo lo, hi := Nat.max r.hi hi }
  let meets (r : RangeReg) : Bool := r.batch == batch && decide (r.lo ≤ hi) && decide (lo ≤ r.hi)
  let byNum := (List.range Config.rangeRegs).filterMap fun n => rs.find? (·.num == n)
  match byNum.find? meets with
  | some r => some (modFirst (·.num == r.num) hull rs)
  | none =>
    match (List.range Config.rangeRegs).find? fun n => !rs.any (·.num == n) with
    | some n => some (rs ++ [{ num := n, lo := lo, hi := hi, batch := batch }])
    | none =>
      if rs.any (·.batch != batch) then none
      else
        let grow (r : RangeReg) : Nat := ((hull r).hi - (hull r).lo) - (r.hi - r.lo)
        match byNum with
        | [] => none
        | r :: l =>
          let best := l.foldl (fun (b x : RangeReg) => if grow x < grow b then x else b) r
          some (modFirst (·.num == best.num) hull rs)

def enterRanges (batch : Nat) : List (Nat × Nat) → List RangeReg → Option (List RangeReg)
  | [], rs => some rs
  | (lo, hi) :: l, rs => (enterRange batch lo hi rs).bind (enterRanges batch l)

/-- A tile operation joins the open batch; the 65th is preceded by an implicit MCOMMIT. -/
def joinBatch (op : TileOp) (ranges : List (Nat × Nat)) : Run Unit := do
  if Config.batchOps ≤ (← get).core.mx.opened.length then commitBatch
  let mx := (← get).core.mx
  match enterRanges mx.openId ranges mx.ranges with
  | none => keepWaiting .batch
  | some rs =>
    let o : OpRun := { seq := mx.nextOp, tid := ownerTid (← get).cur, op := op, started := false, finished := false }
    modify fun s => { s with core := { s.core with mx := { mx with
      opened := mx.opened ++ [o], nextOp := mx.nextOp + 1, ranges := rs } } }

def issueMma (sparse : Bool) (t : BitVec 2) (p : BitVec 4) (c : GReg) : Run Unit := do
  matrixUsed
  let desc ← readG c
  let r := (← get).cur.regs
  let o : MmaOp :=
    { sparse := sparse, tile := t.toNat, aptr := ← readP p, scla := r.sclA, sclb := r.sclB, desc := desc,
      fa := r.fmtA.extractLsb' 0 4, fb := r.fmtB.extractLsb' 0 4, pal := r.fmtB.getLsbD 8,
      buf := (← get).core.mx.cur }
  require (mmaFieldsOk o) cIllegal
  mmaPointers o
  joinBatch (.mma o) (mmaRanges o)

def execMma (t : BitVec 2) (p : BitVec 4) (c : GReg) (s : State) : Res := issue onM (issueMma false t p c) s
def execMmas (t : BitVec 2) (p : BitVec 4) (c : GReg) (s : State) : Res := issue onM (issueMma true t p c) s
def execMzero (t : BitVec 2) (s : State) : Res := issue onM (do matrixUsed; joinBatch (.mzero t.toNat) []) s
def execMtrn (t u : BitVec 2) (s : State) : Res := issue onM (do matrixUsed; joinBatch (.mtrn t.toNat u.toNat) []) s
def execMcommit (s : State) : Res := issue onM (do matrixUsed; commitBatch) s

/-- COPYM commands that have been handed to M, or are still copying for it. -/
def handedOpen (c : Core) : Bool := c.walker.any fun w => w.handed && w.tile.isSome

/-- MWAITB (R254); one that counts a batch which read poison faults (R364). -/
def execMwaitb (n : Byte) (s : State) : Res := issue onM (do
  matrixUsed
  let c := (← get).core
  if n.toNat < c.mx.batches.length ∨ (n = 0 ∧ handedOpen c) then blocked .batch
  require (!c.mx.retPois) cUncorrectable) s

/-! WLOAD and DICT (R264, R265). -/

def execWload (p : BitVec 4) (g : GOp) (s : State) : Res := issue onM (do
  matrixUsed
  let d ← readOp g
  let src ← readP p
  let n := d.toNat
  let nu := field n 51 39
  require (field n 38 0 = 0 && nu ≠ 0 && decide (16 * (field n 63 52 + nu) ≤ 65536)) cIllegal
  require (src.toNat % 16 = 0) cAlign src
  reachRange (rangeFuel (16 * nu)) src (16 * nu) rR
  joinBatch (.wload src d) []) s

/-- An operation that carries a dictionary buffer; a finished one too, until its batch retires (R265). -/
def carries (buf : Bool) (o : OpRun) : Bool :=
  match o.op with
  | .mma m => m.pal && m.buf == buf
  | _ => false

def execDict (p : BitVec 4) (s : State) : Res := issue onM (do
  matrixUsed
  let va ← readP p
  require (va.toNat % 32 = 0) cAlign va
  ownLocal va 32
  let s ← get
  let mx := s.core.mx
  if mx.ops.any (carries (!mx.cur)) then blocked .batch
  let d : Vector (BitVec 16) 16 := Vector.ofFn fun (e : Fin 16) =>
    baseByte s (va.toNat + 2 * e.val + 1) ++ baseByte s (va.toNat + 2 * e.val)
  let mx := if mx.cur then { mx with dict0 := d } else { mx with dict1 := d }
  set { s with core := { s.core with mx := { mx with cur := !mx.cur } } }) s

/-! ACCRD and ACCWR (R263). -/

structure AccDesc where
  row0 : Nat
  rows : Nat
  col0 : Nat
  cols : Nat
  mstr : Nat
  cen : Bool
  cnt : Nat
  pair : Bool
  deriving DecidableEq, Repr

def accDescOf (d : Word) : AccDesc :=
  let x := d.toNat
  { row0 := field x 63 58, rows := field x 57 52 + 1, col0 := field x 51 46, cols := field x 45 40 + 1,
    mstr := field x 39 26, cen := bit x 25, cnt := field x 24 21, pair := bit x 20 }

/-- Whether a tile operation targets a row of the window (R263, R259). -/
def targetsWindow (d : AccDesc) (t : Nat) (o : OpRun) : Bool :=
  let hits (u : Nat) : Bool := u = t || (d.pair && u = t + 1)
  match o.op with
  | .mma m => (hits m.tile || (m.double && hits (m.tile + 1))) && decide (d.row0 < (mdescOf m.desc).m)
  | .mzero u => hits u
  | .mtrn u v => hits u || hits v
  | .wload _ _ => false

/-- The address of window element (i, j), counted from the window's corner. -/
def windowAddr (p : Addr) (d : AccDesc) (w i j : Nat) : Nat := p.toNat + 16 * d.mstr * i + j * w / 8

/-- Commits the open batch where it must, and waits for the operations that target the window. -/
def windowReady (d : AccDesc) (t : Nat) : Run Unit := do
  let mx := (← get).core.mx
  if mx.opened.any (targetsWindow d t) then
    commitBatch
    keepWaiting .batch
  if mx.batches.any (fun b => b.ops.any (targetsWindow d t)) then blocked .batch

def accChecks (t : Nat) (p : Addr) (desc : Word) (read : Bool) : Run AccDesc := do
  let d := accDescOf desc
  let f := ((← get).cur.regs.fmtC.extractLsb' 0 4).toNat
  require (field desc.toNat 19 0 = 0 && decide (d.row0 + d.rows ≤ 64) && decide (d.col0 + d.cols ≤ 64)) cIllegal
  require (!(d.pair && t % 2 = 1) && (read || (!d.cen && d.cnt = 0))) cIllegal
  require (if read then decide (f < 4) || f = 6 || f = 7 else (decide (f < 4) && (d.pair || f ≠ 0))) cIllegal
  require (p.toNat % 16 = 0) cAlign p
  ownLocal p (16 * d.mstr * (d.rows - 1) + d.cols * codeBits f / 8)
  return d

/-- One message counter goes up by 1 (R101). -/
def incCounter (lc k : Nat) (s : State) : State :=
  s.modLc lc fun x => { x with mc := x.mc.set (k % 16) (x.mc[k % 16]'(by omega) + 1) (by omega) }

/-- One row of ACCRD: encoded elements with the poison of each. -/
def accRow (mx : Matrix) (t : Nat) (d : AccDesc) (f : Nat) (sat : Bool) (mode : RMode) (i : Nat) (dr : Draws) :
    List (Nat × Bool) × Draws :=
  let acc := if d.pair then f64 else f32
  let same := f = (if d.pair then 0 else 1)
  (List.range d.cols).foldl (fun (r : List (Nat × Bool) × Draws) j =>
    let e := accElem mx d.pair t (d.row0 + i) (d.col0 + j)
    let p := accElemPois mx d.pair t (d.row0 + i) (d.col0 + j)
    let v := decodeF acc e
    if same then (r.1 ++ [(e, p)], r.2)
    else (r.1 ++ [(encodeCode f v mode sat r.2.z, p)], r.2.after mode v)) ([], dr)

/-- The cells of one row in memory, grouped by line: each line lands as one event. -/
def landCells (pkg who : Nat) (cells : List (Nat × Byte × Bool)) (s : State) : State :=
  (cells.map fun c => lineOf c.1).eraseDups.foldl (fun s l => landLine pkg 0 who (cells.filter fun c => lineOf c.1 == l) s) s

def execAccrd (t : BitVec 2) (p : BitVec 4) (c : GReg) (s : State) : Res := issue onM (do
  matrixUsed
  let desc ← readG c
  let va ← readP p
  let d ← accChecks t.toNat va desc true
  windowReady d t.toNat
  let s ← get
  let fc := s.cur.regs.fmtC
  let f := (fc.extractLsb' 0 4).toNat
  let w := codeBits f
  let spans := (List.range d.rows).map fun i => windowAddr va d w i 0
  if spans.any (fun a => heldRange s a (d.cols * w / 8)) then
    if !s.core.mx.opened.isEmpty then
      commitBatch
      keepWaiting .batch
    else blocked .batch
  if reservedKeys s s.pkg 0 s.cur.tid (spans.flatMap fun a => (List.range (d.cols * w / 8)).map (a + ·)) then stalled .reservation
  for i in List.range d.rows do
    let s ← get
    let (els, dr) := accRow s.core.mx t.toNat d f (fc.getLsbD 4) (roundMode s) i (drawsOf s)
    modify (setSrn dr.n)
    let cells := ((List.range d.cols).zip els).flatMap fun x =>
      (List.range (w / 8)).zip (toBytes (w / 8) x.2.1) |>.map fun ib => (windowAddr va d w i x.1 + ib.1, ib.2, x.2.2)
    modify (landCells s.pkg s.cur.tid cells)
  if d.cen then modify fun s => incCounter s.cur.lcore d.cnt s) s

def execAccwr (t : BitVec 2) (p : BitVec 4) (c : GReg) (s : State) : Res := issue onM (do
  matrixUsed
  let desc ← readG c
  let va ← readP p
  let d ← accChecks t.toNat va desc false
  windowReady d t.toNat
  let s ← get
  let f := (s.cur.regs.fmtC.extractLsb' 0 4).toNat
  let w := codeBits f
  let acc := if d.pair then f64 else f32
  let same := f = (if d.pair then 0 else 1)
  let mx := (List.range d.rows).foldl (fun mx i => (List.range d.cols).foldl (fun mx j =>
    let (bs, pz) := localBytes s (windowAddr va d w i j) (w / 8)
    let v := ofBytes bs
    let e := if same then v else encodeF acc (decodeCode f v) 0 false 0
    setAccElem d.pair t.toNat (d.row0 + i) (d.col0 + j) e pz mx) mx) s.core.mx
  set { s with core := { s.core with mx := mx } }) s

end Sys2Proof.Machine
end

