-- ==== Sys2Proof/Machine/Torus.lean ====
section
/-! DEFINITION. The torus of a package and the span links (spec/07 R143; spec/23 R365). Each message travels as a flit, and
is received once that has come (notes/assumptions/44.md). -/

namespace Sys2Proof.Machine

/-! Links. One that has no entry of its own is as at reset. -/

def getLink (s : State) (id : Nat) : Option Link :=
  (s.links.find? (·.id == id)).orElse fun _ => (linksOf (id / 12)).find? (·.id == id)
def modLink (id : Nat) (f : Link → Link) (s : State) : State :=
  if s.links.any (·.id == id) then { s with links := modFirst (·.id == id) f s.links }
  else { s with links := s.links ++ ((getLink s id).map f).toList }
/-- The 12 links of a package as they stand, by number. -/
def linksAt (s : State) (p : Nat) : List Link := (linksOf p).map fun l => (getLink s l.id).getD l
/-- The number of a link at one of its ends. -/
def linkNumber (l : Link) (p : Nat) : Nat := if l.pkgA = p then l.id % 12 else linkBack (l.id % 12)
def farEnd (l : Link) (p : Nat) : Nat := if l.pkgA = p then l.pkgB else l.pkgA

def spanCoord (p k : Nat) : Nat := if k = 0 then p % 4 else if k = 1 then p / 4 % 4 else p / 16 % 8
/-- The directions of the shortest routes between two packages, dimension by dimension. -/
def spanDirs (p q : Nat) : List Nat :=
  [0, 1, 2].flatMap fun k =>
    let n := if k = 2 then 8 else 4
    let d := (spanCoord q k + n - spanCoord p k) % n
    if d = 0 then [] else if 2 * d < n then [2 * k] else if 2 * d = n then [2 * k, 2 * k + 1] else [2 * k + 1]
/-- A link that holds all the flits that its credits allow. -/
def linkFull (l : Link) : Bool := decide (Config.linkCredits < l.held.length)
/-- A link carries the traffic of the span partitions in its far package and no other (R327); a flit belongs to the partition
of the core that sent it. -/
def linkCarries (s : State) (far src : Nat) : Bool :=
  match spanPart s src with
  | none => true
  | some k => (s.getPkg far).plan.any fun x => x.2.toNat == k
/-- The next link of a minimal dimension-order route for a flit from a core: the first of the first direction that has a link
left. -/
def routeLink (s : State) (src p q : Nat) : Option Link :=
  (spanDirs p q).findSome? fun d =>
    let ls := (linksAt s p).filter fun l => !l.disabled && linkDir (linkNumber l p) == d && linkCarries s (farEnd l p) src
    (ls.find? (!linkFull ·)).orElse fun _ => ls.head?

/-! The torus of a package: 24 × 24 routers. -/

def nodeX (n : Nat) : Nat := n % 24
def nodeY (n : Nat) : Nat := n / 24
def ringDist (a b : Nat) : Nat := min ((a + 24 - b) % 24) ((b + 24 - a) % 24)
def torusDist (a b : Nat) : Nat := ringDist (nodeX a) (nodeX b) + ringDist (nodeY a) (nodeY b)
/-- The router next to a router in each direction of the torus. -/
def nodeNext (n : Nat) : Dir → Nat
  | .north => (nodeY n + 23) % 24 * 24 + nodeX n
  | .south => (nodeY n + 1) % 24 * 24 + nodeX n
  | .east => nodeY n * 24 + (nodeX n + 1) % 24
  | .west => nodeY n * 24 + (nodeX n + 23) % 24

/-- The router at which a flit leaves the torus: its core's, or that of its next link; none where no link is left: it stays
in the torus. -/
def flitTarget (s : State) (f : Flit) : Option Nat :=
  if pkgOf f.dst = f.pkg then some (f.dst % 576)
  else (routeLink s f.src f.pkg (pkgOf f.dst)).map fun l => Config.exitNode f.pkg (linkNumber l f.pkg) % 576

/-- The order in which flits choose: the older first, and then that of the lower source core. -/
def flitBefore (f g : Flit) : Bool := decide (g.age < f.age) || (f.age == g.age && decide (f.src < g.src))
def insertFlit (f : Flit) : List Flit → List Flit
  | [] => [f]
  | g :: l => if flitBefore f g then f :: g :: l else g :: insertFlit f l

/-- A flit that is discarded at its ejection, or that a reset took: its packet is dropped, and the receiver sends the notice
(R144, R365); another message, and one that is no packet any more, its source sends again (DESIGN CHOICE,
notes/assumptions/44.md). -/
def flitLost (f : Flit) (s : State) : State :=
  match f.cargo with
  | .packet id =>
    if s.packets.any fun p => p.id == id && p.st == .sent then
      inject f.cargo f.dst f.src { s with packets := modFirst (·.id == id) (fun p => { p with st := .dropped }) s.packets }
    else inject f.cargo f.src f.dst s
  | c => inject c f.src f.dst s

/-- A flit at its router leaves the torus: at its core's it has come, and at its link's the link takes it, unless it is
full. Its CRC is checked there (R365). None: it stays in the torus. -/
def eject (f : Flit) (s : State) : Option State :=
  let checked (good : State → State) : State :=
    let t := { s with choice := s.choice + 1 }
    if Config.mishap s.choice 11 then flitLost f (countErr f.pkg 2 t) else good t
  if flitTarget s f ≠ some f.node then none
  else if pkgOf f.dst = f.pkg then some (checked id)
  else match routeLink s f.src f.pkg (pkgOf f.dst) with
  | some l => if linkFull l then none else some (checked (modLink l.id fun l => { l with held := l.held ++ [f] }))
  | none => none

/-- The flits of a router that compete for its ports: those in the torus and, while ports are left over, those that are still
to enter it; the others wait outside. -/
def takeIn : Nat → List Flit → List Flit × List Flit
  | _, [] => ([], [])
  | n, f :: l =>
    if f.entered then ((f :: (takeIn n l).1), (takeIn n l).2)
    else match n with
    | 0 => ((takeIn 0 l).1, f :: (takeIn 0 l).2)
    | n + 1 => (f :: (takeIn n l).1, (takeIn n l).2)

/-- The flits of one router take its ports, in their order: each a free port that brings it closer, else any free port. -/
def routeFlits (t : Flit → Nat) : List Flit → List Dir → List Flit
  | [], _ => []
  | f :: l, free =>
    match (free.find? fun d => decide (torusDist (nodeNext f.node d) (t f) < torusDist f.node (t f))).orElse
        fun _ => free.head? with
    | some d =>
      { f with node := nodeNext f.node d, age := if f.age = 127 then f.age else f.age + 1, entered := true } ::
        routeFlits t l (free.filter (· != d))
    | none => f :: routeFlits t l []

/-- Once every flit of a package has taken its hop, the next cycle of its torus begins. -/
def nextCycle (pkg : Nat) (s : State) : State :=
  if s.flits.all fun f => f.pkg != pkg || f.hopped then
    { s with flits := s.flits.map fun f => if f.pkg = pkg then { f with hopped := false } else f }
  else s
/-- FLIT_HOP: the flits at a router that have not hopped yet in this cycle of the torus take its ports. -/
def routerHop (pkg node : Nat) (s : State) : State :=
  let mine (f : Flit) : Bool := f.pkg == pkg && f.node == node && !f.hopped
  let here := (s.flits.filter mine).foldl (fun l f => insertFlit f l) []
  let (s, stay) := here.foldl (fun (r : State × List Flit) f =>
    match eject f r.1 with
    | some s => (s, r.2)
    | none => (r.1, r.2 ++ [f])) ({ s with flits := s.flits.filter fun f => !mine f }, [])
  let (go, out) := takeIn (4 - (stay.filter (·.entered)).length) stay
  let moved := routeFlits (fun f => (flitTarget s f).getD f.node) go [.north, .east, .south, .west]
  nextCycle pkg { s with flits := s.flits ++ (moved ++ out).map fun f => { f with hopped := true } }
def execFlitHop (pkg node : Nat) (s : State) : Res := event (routerHop pkg node) s

/-- A link that is disabled while its packages go on: what it holds is back at the routers from which it came. -/
def closeLink (id : Nat) (s : State) : State :=
  match getLink s id with
  | none => s
  | some l =>
    let back (f : Flit) : Flit :=
      { f with node := Config.exitNode f.pkg (linkNumber l f.pkg) % 576, entered := false, hopped := cycling s f.pkg }
    { modLink id (fun l => { l with disabled := true, held := [] }) s with flits := s.flits ++ l.held.map back }

/-- Failed receptions of one flit after which a link retrains: its first send and eight resends (R365). -/
def retrainAfter : Nat := 9
/-- SPAN_LINK_FLIT_RECEIVE: the oldest flit of a link enters the torus at the other end; one whose CRC fails is sent
again. -/
def linkReceive (link : Nat) (good : Bool) (s : State) : State :=
  match getLink s link with
  | none => s
  | some l =>
    match l.held with
    | [] => s
    | f :: rest =>
      if l.disabled ∨ retrainAfter ≤ l.failed then s
      else if good then
        let far := farEnd l f.pkg
        let g : Flit :=
          { f with pkg := far, node := Config.exitNode far (linkNumber l far) % 576, entered := false, hopped := cycling s far }
        { modLink link (fun l => { l with held := rest, failed := 0 }) s with flits := s.flits ++ [g] }
      else
        let s := modLink link (fun l => { l with failed := l.failed + 1 }) s
        if l.failed + 1 < retrainAfter then countErr f.pkg 2 s else s
def execSpanLinkFlitReceive (link : Nat) (good : Bool) (s : State) : Res := event (linkReceive link good) s

end Sys2Proof.Machine
end

