-- ==== Sys2Proof/Machine/Walker.lean ====
section
/-! DEFINITION. The walker and the paddock (spec/13 R267 to R272; spec/04 R94 to R105; spec/21 R338). -/

namespace Sys2Proof.Machine

/-! The paddock (R338). -/

def paddockOn (c : Core) : Bool := c.priv.paddock.getLsbD 0
def paddockBase (c : Core) : Nat := c.priv.paddock.toNat / 2 ^ 30 * 2 ^ 30
def paddockSlots : Nat := 8388607
def physBytes (pa : Nat) (bs : List Byte) (s : State) : State :=
  { s with mem := ((List.range bs.length).zip bs).foldl (fun m ib => writeCell m (pa + ib.1) ib.2) s.mem }
/-- The lowest enabled core of a die, which reports for its units (R345). -/
def dieCore (s : State) (core : Nat) : Nat :=
  let d := dieOf core * 144
  ((List.range 144).find? fun i => coreEnabled s (d + i)).getD 0 + d
def unitRecord (s : State) (core : Nat) (kind : Nat) (cause : Byte) (addr : Addr) : TrapRec :=
  { queue := s.launch.queue, lseq := s.launch.lseq, pc := 0, addr := addr, lcore := 0, core := dieCore s core, name := 0,
    rv := false, ridx := 0, seq := 3, kind := kind, cause := cause }

/-- A PAGE_ABSENT record of the units of a core's die waits for the trap queue: they take no new work until it is queued
(R345). -/
def unitStalled (s : State) (core : Nat) : Bool := s.trapWait.any fun r => r.cause == cPageAbsent && r.core == dieCore s core

/-- The counter increment of a paddock record: whether one is carried, and its target and counter. -/
def padCounter : Option (Nat × Nat) → Nat × Nat
  | some (lc, k) => (1, lc + k * 2 ^ 18)
  | none => (0, 0)

/-- The 128 bytes of a paddock record. -/
def padBytes (line : Nat) (cells : List (Addr × Byte × Bool)) (counter : Option (Nat × Nat)) (full : Bool) : List Byte :=
  let mask := cells.foldl (fun m x => m ||| 2 ^ (x.1.toNat % 64)) 0
  let fe := if full then cells.foldl (fun m x => m ||| 2 ^ (x.1.toNat % 64 / 8)) 0 else 0
  let data := (List.range 64).map fun i => ((cells.find? fun x => x.1.toNat % 64 == i).map (·.2.1)).getD 0
  toBytes 16 line ++ toBytes 8 mask ++ [BitVec.ofNat 8 fe, BitVec.ofNat 8 (padCounter counter).1, 0, 0] ++
    toBytes 4 (padCounter counter).2 ++ List.replicate 32 0 ++ data

/-- DEDUCED, notes/assumptions/24.md. -/
def padSlot (base index : Nat) : Nat := base + 128 * (1 + index % paddockSlots)

/-- A line for a page with no entry is recorded, with its poison in the side bits; none where the paddock is full or
not in use. `who` gives the logical core, the sequencer and the view tag. The first record of a page raises
PAGE_ABSENT. -/
def paddockLine (core : Nat) (cells : List (Addr × Byte × Bool)) (counter : Option (Nat × Nat)) (full : Bool)
    (who : Nat × Seq × Nat) (s : State) : Option State :=
  let c := s.getCore core
  let base := paddockBase c
  let head := readPhys s base 8
  let tail := readPhys s (base + 8) 8
  match cells with
  | [] => some s
  | first :: _ =>
    if !paddockOn c || decide (paddockSlots ≤ tail - head) || unitStalled s core then none
    else
      let line := first.1.toNat / 64 * 64
      let page := line / 65536
      let at_ := padSlot base tail
      let s := physBytes at_ (padBytes line cells counter full) s
      let s := (List.range 8).foldl (fun s i =>
        setPoison s 0 0 (at_ + 64 + 8 * i) (cells.any fun x => x.2.2 && x.1.toNat % 64 / 8 == i)) s
      let s := physBytes (base + 8) (toBytes 8 (tail + 1)) s
      let known := s.paddocked.any fun r => r.page == page && pkgOf r.core == pkgOf core
      let s := { s with paddocked := s.paddocked ++ [{ core := core, index := tail, page := page, launch := s.launch.id
                                                       lcore := who.1, seq := who.2.1, tag := who.2.2 }] }
      some (if known then s else queueRecord (unitRecord s core 1 cPageAbsent (BitVec.ofNat 80 line)) s)

/-- A unit finds no entry for a page: PAGE_ABSENT is raised, once while it stands (R336). -/
def raiseAbsent (core : Nat) (va : Addr) (s : State) : State :=
  let g := va.toNat / 65536
  if s.absent.contains g || unitStalled s core then s
  else queueRecord (unitRecord s core 1 cPageAbsent va) { s with absent := g :: s.absent }

/-! Issue (R267). -/

/-- A command form's descriptor: 64 bytes at an aligned address with the R right. -/
def readDesc (p : BitVec 4) : Run Nat := do
  let va ← readP p
  require (va.toNat % 64 = 0) cAlign va
  reachRange 2 va 64 rR
  let s ← get
  match rawAcc s s.core.id va with
  | some a => return ofBytes (readViewN s s.pkg s.cur.tag a.key 64)
  | none => throw (.absent va)

/-- A source or destination range, checked as a whole; an empty one at its start address alone. -/
def checkRange (va : Addr) (len : Nat) (need : Rights) : Run Unit :=
  if len = 0 then reachEmpty va 1 else reachRange (rangeFuel len) va len need

def rDest : Rights := rW ||| rE

/-- The bytes that a destination takes in the issuer's own local space and a batch reads (R262). -/
def hazardDest (va : Addr) (len : Nat) : Run Unit := do
  let s ← get
  let a := va.toNat
  if len ≠ 0 ∧ a / 2 ^ 78 = 2 ∧ localCore a = s.cur.lcore ∧ heldRange s a len = true then throw (.utrap cHazard)

/-- The logical core whose counter a destination names (R101). -/
def targetOf (s : State) (va : Addr) : Nat := if va.toNat / 2 ^ 78 = 2 then localCore va.toNat else s.cur.lcore

/-- The addresses of the lines that a run of bytes meets. -/
def linesOf (va : Addr) (len : Nat) : List Addr :=
  if len = 0 then []
  else (List.range ((va.toNat % 64 + len + 63) / 64)).map fun i => BitVec.ofNat 80 (va.toNat / 64 * 64 + 64 * i)

/-- Whether a line of a destination lies outside the issuer's package (R78). -/
def destOutside (s : State) (va : Addr) (len : Nat) : Bool :=
  (linesOf va len).any fun a => match rawAcc s s.core.id a with
    | some x => x.pkg != s.pkg
    | none => false

/-- What a command asks for, once its checks are done. -/
structure WAsk where
  kind : WKind
  d : BitVec 3
  cnt : Option (BitVec 4)
  moves : List Move
  gather : Option (Addr × Nat × Addr × Addr × Nat)
  ring : Option (Nat × Nat × Nat)
  targets : List Nat
  tile : Option MmaOp
  /-- Bytes that it writes, at every destination. -/
  total : Nat
  outside : Bool

def cmdOf (s : State) (w : WAsk) : WCmd :=
  { id := s.core.nextCmd, kind := w.kind, launch := s.launch.id, tid := s.cur.tid, owner := ownerTid s.cur, seq := s.cur.seq
    lcore := s.cur.lcore, tag := s.cur.tag, d := w.d.toNat, seqn := s.cur.walks, moves := w.moves, gather := w.gather, ring := w.ring
    ringDone := 0, cnt := w.cnt.map (·.toNat), targets := w.targets, tile := w.tile, started := false, landing := []
    handed := false, cause := 0, released := none }

/-- Accepts a command into the walker of a core, with its promise in d. -/
def accept (w : WAsk) : Run Unit := do
  let s ← get
  if Config.walkerSize ≤ s.core.walker.length then stalled .walker
  let c := cmdOf s w
  modify fun s => { s with
    core := { s.core with walker := s.core.walker ++ [c], nextCmd := s.core.nextCmd + 1 }
    cur := { s.cur with walks := s.cur.walks + 1 } }
  modify (setD w.d (.cmd s.core.id c.id false))

/-- A command of no bytes completes at issue (R100): a COPYM of none is accepted all the same, since the command that it hands
over has still to run (R272) (DESIGN CHOICE, notes/assumptions/70.md). A rival's with a destination outside the package waits
in the saddlebag; any other is accepted. -/
def submit (w : WAsk) : Run Unit := do
  let s ← get
  if w.total = 0 ∧ w.tile.isNone then do
    match w.cnt with
    | some k => w.targets.forM fun t => do
      orderEvent 5 (siteCounter t k.toNat)
      modify (incCounter t k.toNat)
    | none => pure ()
    modify (setD w.d .due)
  else if buffered s && w.outside then do
    holdSb (.walker (cmdOf s w)) w.total
    modify (setD w.d .due)
  else accept w

/-- COPY and the copy of COPYM to a pointer. -/
def moveAsk (s : State) (kind : WKind) (d : BitVec 3) (cnt : Option (BitVec 4)) (dst src : Addr) (len : Nat)
    (tile : Option MmaOp) : WAsk :=
  { kind := kind, d := d, cnt := cnt, moves := [{ dst := dst, src := src, len := len }], gather := none, ring := none
    targets := [targetOf s dst], tile := tile, total := len, outside := destOutside s dst len }

def copyPtr (d : BitVec 3) (cnt : Option (BitVec 4)) (dst : Addr) (src : Addr) (g : Word) : Run Unit := do
  require (decide (g.toNat < 2 ^ 32)) cIllegal
  checkRange src g.toNat rR
  checkRange dst g.toNat rDest
  hazardDest dst g.toNat
  submit (moveAsk (← get) .copy d cnt dst src g.toNat none)

/-- COPY into the plain ring of a logical core (R268); a ring of another logical core needs no sharing by HITCH
(DEDUCED, notes/assumptions/69.md). -/
def copyRing (d : BitVec 3) (cnt : Option (BitVec 4)) (h : BitVec 3) (src : Addr) (g : Word) : Run Unit := do
  let len := g.toNat % 2 ^ 32
  let t := g.toNat / 2 ^ 32
  let s ← get
  if t = s.cur.lcore then handleShared h
  checkRange src len rR
  require (decide (t < s.launch.l)) cRights
  submit { kind := .copy, d := d, cnt := cnt, moves := [{ dst := 0, src := src, len := len }], gather := none
           ring := some (t, h.toNat, len), targets := [t], tile := none, total := len
           outside := pkgOf (s.getLc t).core != s.pkg }

def execCopy (d : BitVec 3) (cnt : Option (BitVec 4)) (dst : WDst) (src : BitVec 4) (g : GReg) (s : State) : Res :=
  issue onXA (do
    let n ← readG g
    let from_ ← readP src
    betweenChunks
    match dst with
    | .ptr p => copyPtr d cnt (← readP p) from_ n
    | .handle h => copyRing d cnt h from_ n) s

/-- TILE. With RBYTES 0 every row is empty, and the start addresses of the first stand for them all in the check
(DESIGN CHOICE, notes/assumptions/70.md). -/
def execTile (d : BitVec 3) (cnt : Option (BitVec 4)) (dst src desc : BitVec 4) (s : State) : Res := issue onXA (do
  betweenChunks
  let x ← readDesc desc
  require (field x 511 192 = 0) cIllegal
  let dest ← readP dst
  let from_ ← readP src
  let rows := field x 63 32
  let n := field x 31 0
  let row (p : Addr) (str q : Nat) : Addr := p + BitVec.ofNat 80 q * (BitVec.ofNat 64 str).signExtend 80
  let moves := (List.range rows).map fun q =>
    { dst := row dest (field x 191 128) q, src := row from_ (field x 127 64) q, len := n : Move }
  if rows = 0 ∨ n = 0 then do
    checkRange from_ 0 rR
    checkRange dest 0 rDest
  else do
    moves.forM fun m => checkRange m.src n rR
    moves.forM fun m => checkRange m.dst n rDest
  moves.forM fun m => hazardDest m.dst n
  let s ← get
  submit { kind := .tile, d := d, cnt := cnt, moves := if n = 0 then [] else moves, gather := none, ring := none
           targets := [targetOf s dest], tile := none, total := rows * n
           outside := moves.any fun m => destOutside s m.dst n }) s

def execGather (d : BitVec 3) (cnt : Option (BitVec 4)) (dst src desc : BitVec 4) (s : State) : Res := issue onXA (do
  betweenChunks
  let x ← readDesc desc
  let iptr := BitVec.ofNat 80 (field x 143 64)
  let size := 2 ^ field x 34 32
  let count := field x 31 0
  require (field x 511 144 = 0 && field x 63 35 = 0 && field x 34 32 ≠ 7) cIllegal
  let dest ← readP dst
  let from_ ← readP src
  require (iptr.toNat % 8 = 0) cAlign iptr
  checkRange iptr (8 * count) rR
  if count = 0 then checkRange from_ 0 rR
  checkRange dest (count * size) rDest
  hazardDest dest (count * size)
  let s ← get
  submit { kind := .gather, d := d, cnt := cnt, moves := [], gather := some (iptr, size, from_, dest, count), ring := none
           targets := [targetOf s dest], tile := none, total := count * size
           outside := destOutside s dest (count * size) }) s

def execMcast (d : BitVec 3) (cnt : Option (BitVec 4)) (dst src desc : BitVec 4) (s : State) : Res := issue onXA (do
  betweenChunks
  let x ← readDesc desc
  let stride := field x 81 64
  let nd := field x 42 32
  let len := field x 31 0
  require (field x 511 82 = 0 && field x 63 43 = 0 && stride ≠ 0 && decide (nd ≤ 1024)) cIllegal
  let dest ← readP dst
  let from_ ← readP src
  checkRange from_ (if nd = 0 then 0 else len) rR
  require (dest.toNat / 2 ^ 78 = 2) cRights dest
  let c0 := localCore dest.toNat
  let off := dest.toNat % 2 ^ 60
  let s ← get
  let cores := (List.range nd).map fun e => c0 + e * stride
  require (cores.all fun c => decide (c < s.launch.l)) cRights dest
  let dsts := cores.map fun c => BitVec.ofNat 80 (placeAddr c off)
  if nd = 0 then checkRange dest 0 rDest
  dsts.forM fun a => checkRange a len rDest
  dsts.forM fun a => hazardDest a len
  submit { kind := .mcast, d := d, cnt := cnt, gather := none, ring := none, targets := cores, tile := none
           moves := if len = 0 then [] else dsts.map fun a => { dst := a, src := from_, len := len }
           total := nd * len, outside := dsts.any fun a => destOutside s a (max 1 len) }) s

def execCopym (d : BitVec 3) (cnt : Option (BitVec 4)) (dst src desc : BitVec 4) (s : State) : Res := issue onXA (do
  matrixUsed
  let s0 ← get
  require (s0.cur.seq = .a || s0.core.hitch = some s0.cur.tid) cIllegal
  betweenChunks
  let x ← readDesc desc
  let len := field x 63 0
  let o : MmaOp :=
    { sparse := field x 223 216 = 1, tile := field x 215 208, aptr := BitVec.ofNat 80 (field x 207 128)
      scla := BitVec.ofNat 80 (field x 335 256), sclb := BitVec.ofNat 80 (field x 415 336)
      desc := BitVec.ofNat 64 (field x 127 64), fa := BitVec.ofNat 4 (field x 227 224)
      fb := BitVec.ofNat 4 (field x 231 228), pal := bit x 232, buf := false }
  require (field x 511 416 = 0 && field x 255 233 = 0 && decide (field x 223 216 < 2) && decide (len < 2 ^ 32) &&
    mmaFieldsOk o) cIllegal
  let dest ← readP dst
  let from_ ← readP src
  checkRange from_ len rR
  checkRange dest len rDest
  mmaPointers o
  hazardDest dest len
  submit (moveAsk (← get) .copym d cnt dest from_ len (some o))) s

/-! Starting a command: it reads its source lines (R138, R267). -/

/-- The bytes of one run with their poison, as the issuer's view holds them; `over` holds what the command itself has
written before, which the rows of a TILE see (R269). -/
def readRun (s : State) (core pkg tag : Nat) (news : List (Addr × Byte × Bool)) (src : Addr) (len : Nat) :
    List (Byte × Bool) :=
  (List.range len).map fun i =>
    let a := src + BitVec.ofNat 80 i
    match news.find? (·.1 == a) with
    | some x => x.2
    | none =>
      match rawAcc s core a with
      | some x => dataByte s pkg tag x.key
      | none => (0, false)

def runMoves (s : State) (core pkg tag : Nat) (rows : Bool) : List Move → List (Addr × Byte × Bool) → List (Addr × Byte × Bool)
  | [], done => done
  | m :: l, done =>
    let bs := readRun s core pkg tag (if rows then done else []) m.src m.len
    let new := ((List.range m.len).zip bs).map fun ib => (m.dst + BitVec.ofNat 80 ib.1, ib.2)
    runMoves s core pkg tag rows l (new ++ done.filter fun x => !new.any (·.1 == x.1))

/-- Cells grouped by 64-byte line. -/
def toLines (cells : List (Addr × Byte × Bool)) : List LineWrite :=
  (cells.map fun c => c.1.toNat / 64).eraseDups.map fun l => { cells := cells.filter fun c => c.1.toNat / 64 == l }

/-- Cells of a ring command grouped by slot and line: they land together with those of other slots that share the line
(R94). -/
def ringLines (ssize : Nat) (cells : List (Addr × Byte × Bool)) : List LineWrite :=
  let key (c : Addr × Byte × Bool) : Nat × Nat := (c.1.toNat / ssize, c.1.toNat / 64)
  (cells.map key).eraseDups.map fun l => { cells := cells.filter fun c => key c == l }

/-- The moves of a GATHER, or the first fault among its elements (R270). -/
def gatherMoves (s : State) (core : Nat) (w : WCmd) (g : Addr × Nat × Addr × Addr × Nat) :
    Except (Byte × Addr) (List Move) :=
  let (iptr, size, src, dst, count) := g
  let t := { focusCore core s with
    cur := { Agent.new w.tid with launch := w.launch, seq := w.seq, core := core, lcore := w.lcore, tag := w.tag } }
  (List.range count).foldlM (fun (l : List Move) e =>
    let ix := ofBytes ((readRun s core (pkgOf core) w.tag [] (iptr + BitVec.ofNat 80 (8 * e)) 8).map (·.1))
    let a := src + (BitVec.ofNat 64 ix).signExtend 80 * BitVec.ofNat 80 size
    match reachAligned a size rR t with
    | .error (.fault c ad) => .error (c, ad)
    | .error (.refused _ c ad) => .error (c, ad)
    | _ => .ok (l ++ [{ dst := dst + BitVec.ofNat 80 (size * e), src := a, len := size }])) []

def modCmd (core id : Nat) (f : WCmd → WCmd) (s : State) : State :=
  s.modCore core fun c => { c with walker := modFirst (·.id == id) f c.walker }

/-- The lines of a command in bulk packets: one to four of one destination in each (R144). -/
def packLines (f : LineWrite → Nat × Nat) : Nat → List LineWrite → List (List LineWrite)
  | 0, _ => []
  | n + 1, ls =>
    match ls with
    | [] => []
    | l :: rest =>
      let pack := l :: (rest.filter fun x => f x == f l).take 3
      let left := (rest.filter fun x => f x == f l).drop 3 ++ rest.filter fun x => f x != f l
      pack :: packLines f n left

/-- A bulk packet goes on its way. -/
def sendPacket (p : Packet) (s : State) : State :=
  inject (.packet s.nextPkt) p.core p.dstCore { s with packets := s.packets ++ [{ p with id := s.nextPkt }], nextPkt := s.nextPkt + 1 }

/-- The lines of a command go on their way in bulk packets (R144). -/
def sendLines (core : Nat) (w : WCmd) (ls : List LineWrite) (s : State) : State :=
  let pkgOfLine (l : LineWrite) : Nat × Nat :=
    match w.ring with
    | some (t, _, _) => (pkgOf (s.getLc t).core, t)
    | none =>
      match (l.cells.head?).bind fun c => rawAcc s core c.1 with
      | some x => (x.pkg, x.home)
      | none => (pkgOf core, w.lcore)
  let pack (ls : List LineWrite) : Packet :=
    let d := ((ls.head?).map pkgOfLine).getD (pkgOf core, w.lcore)
    { id := 0, core := core, cmd := w.id, dstPkg := d.1, dstLc := d.2, dstCore := (s.getLc d.2).core, lines := ls, unit := none, st := .sent, reserved := false
      inc := (s.getPkg d.1).inc }
  let s := modCmd core w.id (fun w => { w with started := true }) s
  ((packLines pkgOfLine ls.length ls).map pack).foldl (fun s p => sendPacket p s) s

def slotsOf (len ssize : Nat) : Nat := ceilDiv len ssize

/-- A fault that a command met on its own: one of the thread on whose behalf it was issued (R270). Where that was a rival that
has ended, nothing is left to fail, and the command is no more: the launch goes on (R80, R275) (DEDUCED,
notes/assumptions/23.md). -/
def cmdFault (core : Nat) (w : WCmd) (cause : Byte) (addr : Addr) (s : State) : State :=
  match rivalAt s (pkgOf core) w.tag, s.getAgent w.owner with
  | some (wid, idx), _ => failRival wid idx cause 0 addr w.seq s
  | none, some o =>
    if w.tag ≠ 0 then s.modCore core fun c => { c with walker := c.walker.filter (·.id != w.id) }
    else endLaunch (recordOf s { o with core := core, lcore := w.lcore } 2 cause 0 addr w.seq) 1
      (s.modAgent o.tid fun o => { o with failCause := cause })
  | none, none => s

/-- The command fails by a fault of its issuer that it met on its own; it stays listed with the cause. -/
def failCmd (core : Nat) (w : WCmd) (cause : Byte) (addr : Addr) (s : State) : State :=
  let s := modCmd core w.id (fun w => { w with started := true, cause := cause }) s
  match w.released with
  | some r => releasedFault r cause addr s
  | none => cmdFault core w cause addr s

/-- WALKER_COMMAND_START (R267): the oldest command not yet started (DESIGN CHOICE, notes/assumptions/23.md). -/
def startCmd (core : Nat) (s : State) : State :=
  match (s.getCore core).walker.find? (!·.started) with
  | none => s
  | some w => inLaunch w.launch w.lcore (fun s =>
      let cells (ms : List Move) := runMoves s core (pkgOf core) w.tag (w.kind == .tile) ms []
      match w.ring, w.gather with
      | some (t, h, len), _ =>
        let hd := getHandle s t (BitVec.ofNat 3 h)
        if hd.mode ≠ 1 then failCmd core w cHandle 0 s
        else
          let s := modHandle t (BitVec.ofNat 3 h) (fun hd => { hd with waiting := hd.waiting ++ [(core, w.id)] }) s
          sendLines core w (ringLines hd.ssize (cells (w.moves.map fun m => { m with len := len }))) s
      | none, some g =>
        match gatherMoves s core w g with
        | .ok ms => sendLines core w (toLines (cells ms)) s
        | .error (c, a) => failCmd core w c a s
      | none, none => sendLines core w (toLines (cells w.moves)) s) s

def execWalkerCommandStart (core : Nat) (s : State) : Res := event (startCmd core) s

/-! Landing (R94, R105, R262). -/

/-- Lines of a command that are not yet home. -/
def linesOut (s : State) (core id : Nat) : List LineWrite :=
  (s.packets.filter fun p => p.core == core && p.cmd == id && p.unit.isNone).flatMap (·.lines)
def linesLeft (s : State) (core : Nat) (w : WCmd) : List LineWrite := w.landing ++ linesOut s core w.id

def lineSlot (ssize : Nat) (l : LineWrite) : Nat := match l.cells with
  | c :: _ => c.1.toNat / ssize
  | [] => 0

/-- An event at a counter or a ring of an agent's walker command (R165). -/
def walkerEvent (w : WCmd) (site : Nat) (s : State) : State := logEvent s w.lcore (seqCode w.seq) 5 site

/-- It may happen now: under REPLAY it waits for its logged predecessor (R166). -/
def walkerMay (w : WCmd) (ring : Bool) (s : State) : Bool := replayMay s w.lcore (seqCode w.seq) 5 ring

/-- P advances by 1 as each slot lands, in slot order; after the last the ring serves the next command (R105). Each slot is an
event of the order log (DESIGN CHOICE, notes/assumptions/28.md). -/
def advanceRing (core id : Nat) : Nat → State → State
  | 0, s => s
  | n + 1, s =>
    match (s.getCore core).walker.find? (·.id == id) with
    | none => s
    | some w =>
      match w.ring with
      | none => s
      | some (t, h, len) =>
        let hd := getHandle s t (BitVec.ofNat 3 h)
        let total := slotsOf len hd.ssize
        if w.ringDone < total ∧ walkerMay w true s ∧ ¬ (linesLeft s core w).any (fun l => lineSlot hd.ssize l == w.ringDone) then
          let s := modHandle t (BitVec.ofNat 3 h) (fun hd => { hd with
            p := (hd.p + 1) % 2 ^ 32
            waiting := if w.ringDone + 1 = total then hd.waiting.filter (· != (core, id)) else hd.waiting }) s
          let s := modCmd core id (fun w => { w with ringDone := w.ringDone + 1 }) s
          advanceRing core id n (walkerEvent w (siteRing t h) s)
        else s

/-- Where a line lands: package, view tag, cells by key. None: it waits, or goes to the paddock. -/
def placeLine (s : State) (core : Nat) (w : WCmd) (l : LineWrite) : Option (Nat × Nat × List (Nat × Byte × Bool)) :=
  match w.ring with
  | some (t, h, _) =>
    let hd := getHandle s t (BitVec.ofNat 3 h)
    let j := lineSlot hd.ssize l
    if hd.mode = 1 ∧ hd.waiting.head? = some (core, w.id) ∧ j - w.ringDone < hd.free ∧ ¬ homeWaits s core t then
      some (pkgOf (s.getLc t).core, 0,
        l.cells.map fun c => (placeAddr t (hd.slot (hd.p + (j - w.ringDone)) + c.1.toNat % hd.ssize), c.2))
    else none
  | none =>
    match l.cells with
    | [] => some (pkgOf core, 0, [])
    | c :: _ =>
      match rawAcc s core c.1 with
      | none => none
      | some a =>
        if homeWaits s core a.home then none
        else some (a.pkg, if a.pkg = pkgOf core then w.tag else 0,
          l.cells.map fun x => (a.key + x.1.toNat - c.1.toNat, x.2))

/-- The counters of these targets go up, one after another, as far as the log lets them; those are done with. -/
def countThese (core : Nat) (w : WCmd) (k : Nat) : List Nat → State → State
  | [], s => s
  | t :: l, s =>
    if walkerMay w false s then
      countThese core w k l (modCmd core w.id (fun w => { w with targets := w.targets.erase t })
        (incCounter t k (walkerEvent w (siteCounter t k) s)))
    else s
/-- A target's counter goes up once its last byte has landed; MCAST has several (R101, R267). -/
def countTargets (core : Nat) (w : WCmd) (s : State) : State :=
  let left := linesLeft s core w
  let still (t : Nat) : Bool := left.any fun l => match l.cells with
    | c :: _ => c.1.toNat / 2 ^ 78 == 2 && localCore c.1.toNat == t
    | [] => false
  match w.kind, w.cnt with
  | .mcast, some k => countThese core w k (w.targets.filter fun t => !still t) s
  | _, _ => s

/-- The command that owns the k-th line at home, and that line's place in it. -/
def findLine : List WCmd → Nat → Option (WCmd × Nat)
  | [], _ => none
  | w :: l, k => if k < w.landing.length then some (w, k) else findLine l (k - w.landing.length)

/-- A line of a command to a page with no entry goes to the paddock; where that has no room it waits, and the page is reported
(R336, R338). The increment of its counter goes with the last
of them, once every other line has landed (R101, R338). -/
def landPaddock (core : Nat) (w : WCmd) (l : LineWrite) (gone s : State) (after : State → State) : State :=
  let left := linesLeft gone core w
  let paged := left.any fun x => (x.cells.head?).any fun c => (rawAcc s core c.1).isSome
  let counter := if left.isEmpty then w.cnt.bind fun k => w.targets.head?.map fun t => (t, k) else none
  if w.cnt.isSome && paged then s
  else match paddockLine core l.cells counter true (w.lcore, w.seq, w.tag) gone with
  | some s' => after (if counter.isSome then modCmd core w.id (fun w => { w with cnt := none }) s' else s')
  | none => match l.cells with
    | c :: _ => raiseAbsent core c.1 s
    | [] => s

/-- Two lines of a ring command whose slots are free and that share a line of memory: they land as one event (R94). -/
def sameHome (s : State) (core : Nat) (w : WCmd) (l x : LineWrite) : Bool :=
  w.ring.isSome && match placeLine s core w l, placeLine s core w x with
  | some (_, _, c :: _), some (_, _, d :: _) => lineOf c.1 == lineOf d.1
  | _, _ => false

/-- The view, where it has no copy of a line and none is free (R71). Local memory has no views (R69). -/
def fullView (s : State) (pkg tag key : Nat) : Option View :=
  if tag = 0 ∨ isLocal key ∨ 0 < (s.getPkg pkg).tagLines then none
  else (s.getView pkg tag).bind fun v => if (v.line? key).isSome then none else some v
/-- The rival to which a view belongs still; one that is to be committed has none. -/
def viewRival (s : State) (pkg tag : Nat) : Option (Nat × Nat) :=
  (rivalAt s pkg tag).bind fun x =>
    if (s.getWorld x.1).any fun w => w.rivals.any fun r => r.idx == x.2 && r.tag == tag then some x else none

/-- An engine line lands in a view; where the view has no copy of it and none is free, its rival fails (R71). A line of a
view that is no more is dropped, and one of a discarded view that finds no copy free; one of a view that is to be committed
waits for room. -/
def landView (seq : Seq) (pkg tag : Nat) (cells : List (Nat × Byte × Bool)) (gone s : State) (after : State → State) : State :=
  let key := (cells.head?.map (·.1)).getD 0
  if tag ≠ 0 ∧ !isLocal key ∧ (s.getView pkg tag).isNone then after gone
  else match fullView s pkg tag key with
  | none => after (landLine pkg tag 0 cells gone)
  | some v =>
    if v.gone then after gone
    else match viewRival s pkg tag with
    | some (wid, idx) => failRival wid idx cExhausted 0 0 seq gone
    | none => s

/-- ENGINE_LINE_LANDING (R94): a line of a walker command lands at its home, unless a held range, a reservation of the
arbiter, an away core or a ring without a free slot makes it wait; a line of a discarded view is dropped. -/
def landWalker (core k : Nat) (s : State) : State :=
  match findLine (s.getCore core).walker k with
  | none => s
  | some (w, j) => inLaunch w.launch w.lcore (fun s =>
      match w.landing[j]? with
      | none => s
      | some l =>
        let mates := (w.landing.eraseIdx j).filter (sameHome s core w l)
        let gone := modCmd core w.id (fun w => { w with
          landing := (w.landing.eraseIdx j).filter fun x => !sameHome s core w l x }) s
        let after (s : State) : State :=
          match (s.getCore core).walker.find? (·.id == w.id) with
          | some w => countTargets core w (advanceRing core w.id 300 s)
          | none => s
        match placeLine s core w l with
        | some (pkg, tag, cells) =>
          let cells := cells ++ mates.flatMap fun x => ((placeLine s core w x).map (·.2.2)).getD []
          if (cells.any fun c => heldRange s c.1 1) || reservedKeys s pkg tag 0 (cells.map (·.1))
            || (linesOut s core w.id).any (sameHome s core w l) then s
          else landView w.seq pkg tag cells gone s after
        | none =>
          if w.ring.isSome then s
          else match l.cells with
          | [] => after gone
          | c :: _ =>
            if (rawAcc s core c.1).isSome then s
            else landPaddock core w l gone s after) s

def execEngineLineLanding (core k : Nat) (s : State) : Res := event (landWalker core k) s

/-! Completion (R97, R101, R272). -/

/-- COPYM hands its tile operation to M: a batch of its own, committed at once, in the current dictionary buffer. -/
def handOver (core : Nat) (w : WCmd) (o : MmaOp) (s : State) : State :=
  let mx := (s.getCore core).mx
  let id := 2 ^ 40 + mx.nextOp
  let o := { o with buf := mx.cur }
  if Config.maxBatches ≤ mx.batches.length then s
  else match enterRanges id (mmaRanges o) mx.ranges with
    | none => s
    | some rs =>
      let op : OpRun := { seq := mx.nextOp, tid := w.owner, op := .mma o, started := false, finished := false }
      modCmd core w.id (fun w => { w with handed := true }) (s.modCore core fun c => { c with mx := { mx with
        batches := mx.batches ++ [{ id := id, ops := [op], handed := some (core, w.id), poisoned := false }]
        nextOp := mx.nextOp + 1, ranges := rs } })

/-- WALKER_COMMAND_COMPLETE (R97): the last byte has landed, and what COPYM handed over has retired. -/
def completeCmd (core id : Nat) (s : State) : State :=
  match (s.getCore core).walker.find? (·.id == id) with
  | none => s
  | some w => inLaunch w.launch w.lcore (fun s =>
      let slots := match w.ring with
        | some (t, h, len) => slotsOf len (getHandle s t (BitVec.ofNat 3 h)).ssize
        | none => 0
      if !w.started || w.cause ≠ 0 || !(linesLeft s core w).isEmpty then s
      else if w.ringDone < slots then advanceRing core id 300 s
      else match w.tile, w.handed with
      | some o, false => handOver core w o s
      | some _, true => s
      | none, _ =>
        let s := match w.cnt with
          | some k => countThese core w k w.targets s
          | none => s
        let waits := w.cnt.isSome && (((s.getCore core).walker.find? (·.id == id)).any fun w => !w.targets.isEmpty)
        if waits then s else s.modCore core fun c => { c with walker := c.walker.filter (·.id != id) }) s

def execWalkerCommandComplete (core cmd : Nat) (s : State) : Res := event (completeCmd core cmd) s

/-- PROMISE_DUE (R98): the time of the promise has come. -/
def execPromiseDue (tid d : Nat) (s : State) : Res := event (fun s => s.modAgent tid fun a =>
  match a.regs.d[d % 8]'(by omega) with
  | .cmd core id false => { a with regs := { a.regs with d := a.regs.d.set (d % 8) (.cmd core id true) (by omega) } }
  | _ => a) s

end Sys2Proof.Machine
end

