-- ==== Sys2Proof/Machine/Home.lean ====
section
/-! DEFINITION. What a home makes of a posted request (spec/07 R145, R146; spec/21 R338). -/

namespace Sys2Proof.Machine

def Window.of (m : Posted) (w : Window) : Bool :=
  w.core == m.id.core && w.place == m.id.place && w.pkg == m.pkg && w.launch == m.launch && w.home == m.home
def windowOf (s : State) (m : Posted) : Window :=
  (s.windows.find? (Window.of m)).getD
    { core := m.id.core, place := m.id.place, pkg := m.pkg, launch := m.launch, home := m.home, applied := [], count := 0 }
def modWindow (m : Posted) (f : Window → Window) (s : State) : State :=
  { s with windows := f (windowOf s m) :: s.windows.filter fun x => !Window.of m x }
/-- The requests of a place that a package has performed and no flush marker has counted. -/
def uncounted (s : State) (core place pkg : Nat) : Nat :=
  ((s.windows.filter fun w => w.core == core && w.place == place && w.pkg == pkg).map (·.count)).foldl (· + ·) 0
/-- A flush marker has counted `n` of them. -/
def counted (core place pkg : Nat) : Nat → List Window → List Window
  | _, [] => []
  | n, w :: l =>
    if w.core = core ∧ w.place = place ∧ w.pkg = pkg then { w with count := w.count - n } :: counted core place pkg (n - w.count) l
    else w :: counted core place pkg n l

/-- A request older than a full window. -/
def tooOld (w : Window) (m : Posted) : Bool :=
  decide (Config.windowSize ≤ w.applied.length) &&
  match w.applied.getLast? with
  | some x => decide (0 < (x.1.seqn - m.id.seqn).toNat) && decide ((x.1.seqn - m.id.seqn).toNat < 2 ^ 31)
  | none => false

/-- The response goes back from a core of the home: 0 acknowledges, any other cause refuses. -/
def respond (m : Posted) (cause : Byte) (core : Nat) (s : State) : State :=
  let inc := (s.getPkg (pkgOf m.id.core)).inc
  sendMsg (if cause = 0 then .ack m.id inc else .refusal m cause inc) core m.id.core s
def remember (m : Posted) (cause : Byte) (s : State) : State :=
  modWindow m (fun w => { w with applied := ((m.id, cause) :: w.applied).take Config.windowSize }) s
def performed (m : Posted) (s : State) : State := modWindow m (fun w => { w with count := w.count + 1 }) s

/-- What the home makes of a request when it applies it: not yet, or the state after it and its response. -/
inductive Applied where
  | notYet
  /-- Its page has no entry, and the paddock no room. -/
  | absent
  | done (s : State) (cause : Byte)

/-- The rights that hold now, against the domain of the issuing core (R146). -/
def homeRights (s : State) (m : Posted) : Option Rights :=
  let a := m.va.toNat
  if a / 2 ^ 78 = 2 then some (BitVec.allOnes 5)
  else
    let c := s.getCore m.id.core
    let did := if m.seq = .s then none else some (domDid c)
    (pageEntry s c a).map fun n => (plbOf (a / 65536) did n).rights

/-- What an event at the home waits for: a held operand range (R262), a reservation of the arbiter (R128). -/
def homeBusy (s : State) (pkg key n : Nat) : Bool :=
  heldRange s key n || reservedKeys s pkg 0 0 ((List.range n).map (key + ·))

/-- Applies the request at its home, of the launch in front. A store to a page with no entry goes to the paddock
(R338); a reduction waits for the page. -/
def applyPosted (m : Posted) (s : State) : Applied :=
  match homeRights s m, rawKey s m.id.core m.va with
  | some r, some key =>
    let need := match m.req with
      | .store _ _ _ => rW
      | .red _ _ _ _ _ => rW ||| rA
    if r &&& need ≠ need then .done s cRefused
    else match m.req with
    | .store cells clean pois =>
      let at_ (k : Nat) : Nat := k - lineOf m.key * 64 + lineOf key * 64
      if cells.any fun c => homeBusy s m.pkg (at_ c.1) 1 then .notYet
      else
        .done (poisonWords m.pkg 0 (pois.map at_) (writeHome s m.pkg 0 0 (cells.map fun c => (at_ c.1, c.2)) (clean.map at_))) 0
    | .red op _ v mode z =>
      let n := redSize op
      let sq := seqCode m.seq
      if poisoned s m.pkg 0 key then .done s cUncorrectable
      else if homeBusy s m.pkg key n ∨ (m.seq ≠ .s ∧ !replayMay s m.id.lcore sq 2) then .notYet
      else
        let s := if m.seq = .s then s else logEvent s m.id.lcore sq 2 (siteLine key)
        let old := ofBytes (readViewN s m.pkg 0 key n)
        .done (writeHome s m.pkg 0 0
          ((List.range n).zip (toBytes n (redNew op old v mode z)) |>.map fun ib => (key + ib.1, ib.2))) 0
  | _, _ =>
    match m.req with
    | .store cells _ pois =>
      match paddockLine m.id.core (cells.map fun c =>
          (BitVec.ofNat 80 (m.va.toNat / 64 * 64 + c.1 % 64), c.2, pois.contains (wordOf c.1))) none false
          (m.id.lcore, m.seq, 0) s with
      | some s => .done s 0
      | none => .absent
    | .red _ _ _ _ _ => .absent

end Sys2Proof.Machine
end

