-- ==== Sys2Proof/Machine/Control.lean ====
section
/-! DEFINITION. Branches, calls and the other control instructions (spec/11 R200 to R204; spec/01 R24, R27). -/

namespace Sys2Proof.Machine

/-- The target of a relative branch: the base word's address plus twice the offset (R179, R204). -/
def target (base : Addr) (off : Word) : Addr := base + (off.signExtend 80 <<< 1)

/-- The outcome of a branch of a follower, against that of its leader's branch in the same place of the stream: it leaves
follow mode where the two differ (R27). -/
def followOwn (to_ : Addr) (a : Agent) : Agent :=
  match a.follow, a.led with
  | .attached _, v :: l => if v = to_ then { a with led := l } else { a with follow := .off, led := [], ran := [] }
  | .attached _, [] => { a with ran := a.ran ++ [to_] }
  | _, _ => a
/-- The outcome of a branch of the leader, against that of the follower's. -/
def followLeader (to_ : Addr) (a : Agent) : Agent :=
  match a.ran with
  | v :: l => if v = to_ then { a with ran := l } else { a with follow := .off, led := [], ran := [] }
  | [] => { a with led := a.led ++ [to_] }
/-- A branch has come to its outcome: each follower compares it with its own, branch by branch (R27). -/
def followBranch (s : State) : State :=
  let to_ := s.cur.npc
  let s := s.modCur (followOwn to_)
  { s with agents := s.agents.map fun a => if a.follow = .attached s.cur.tid then followLeader to_ a else a }

def branchTo (t : Addr) : Run Unit := do setNpc t; modify followBranch
def branchIf (b : Bool) (off : Word) : Run Unit := do
  if b then setNpc (target (← get).cur.base off)
  modify followBranch

/-- An indirect jump: an odd address raises ALIGN (R203). -/
def jumpTo (t : Addr) : Run Unit := do
  require (t.toNat % 2 = 0) cAlign t
  branchTo t

def linkReg : BitVec 4 := 13

def execNop (s : State) : Res := issue onAll (pure ()) s

def execChunk (s : State) : Res := issue onXA (do endChunk; closeAfter) s

/-- FOLLOW (R27): the leader takes it as NOP; a follower waits to attach. Results never depend on it. -/
def execFollow (s : State) : Res := issue onX (do
  modify fun s => if s.cur.lcore % 4 = 0 then s else s.modCur fun a => { a with follow := .waiting }) s

def execTrap (code : Byte) (s : State) : Res := issue onX (do
  if code.toNat < 0x80 then illegal else throw (.utrap code)) s

/-- RTU (R202): it ends the chunk before it acts (R127). -/
def execRtu (s : State) : Res := issue onX (do
  require (← get).cur.regs.handlerActive cIllegal
  betweenChunks
  modify returnUser) s

def execB (off : Word) (s : State) : Res := issue onAll (do
  branchTo (target (← get).cur.base off)) s

def execCall (off : Word) (s : State) : Res := issue onAll (do
  let a := (← get).cur
  writeP linkReg a.npc
  branchTo (target a.base off)) s

def execJ (p : BitVec 4) (s : State) : Res := issue onAll (do
  jumpTo (← readP p)) s

def execCallP (p : BitVec 4) (s : State) : Res := issue onAll (do
  let t ← readP p
  let a := (← get).cur
  writeP linkReg a.npc
  jumpTo t) s

/-- LOOP (R204). -/
def execLoop (g : GReg) (off : Word) (s : State) : Res := issue onAll (do
  require (g ≠ 0) cIllegal
  let v := (← readG g) - 1
  writeG g v
  branchIf (v ≠ 0) off) s

def execBc (q : BitVec 3) (off : Word) (s : State) : Res := issue onAll (do
  branchIf (← readQ q) off) s

def execBcN (q : BitVec 3) (off : Word) (s : State) : Res := issue onAll (do
  branchIf (!(← readQ q)) off) s

def execBq (off : Word) (s : State) : Res := issue onAll (do
  branchIf (← popBq) off) s

def execBqp (q : QDst) (s : State) : Res := issue onAll (do
  writeQDst q (← popBq)) s

/-- CHUNK_LIMIT (R127): a chunk of 512 instructions ends and commits. -/
def execChunkLimit (s : State) : Res := event (fun s =>
  if Config.chunkInstrs ≤ s.cur.chunk.count then commitThen s id else s) s

/-- FOLLOW_ATTACH (R27): a thread of the leader stands at the follower's own next pc. -/
def execFollowAttach (tid : Nat) (s : State) : Res := event (fun s =>
  match s.getAgent tid with
  | none => s
  | some a =>
    match s.allAgents.find? fun b => b.launch == a.launch && b.seq == .x && b.state == .held && b.slot.isSome
      && b.lcore == a.lcore / 4 * 4 && b.regs.pc == a.regs.pc && b.tid != tid with
    | some b => if a.follow = .waiting then s.modAgent tid fun a => { a with follow := .attached b.tid, led := [], ran := [] } else s
    | none => s) s

/-- USER_TRAP_ENTRY (R25, R200): at its next instruction boundary the hitched thread X enters UTRAPV for a trap that A or
M, or an exchange, left for it; it is a fault where a handler runs already, or UTRAPV is 0. Its chunk commits first; a
wait it was blocked in is issued again after RTU. -/
def execUserTrapEntry (tid : Nat) (s : State) : Res := event (fun s =>
  match s.getAgent tid with
  | none => s
  | some a =>
    match a.traps with
    | [] => s
    | t :: rest =>
      let c := s.getCore a.core
      if trapDue a ∧ a.seq = .x ∧ a.state = .held ∧ a.slot.isSome ∧ a.husked.isNone ∧ ¬ c.sup ∧ ¬ c.halted ∧
          c.haltedBy = 0 then
        commitThen (focusAgent tid s) fun s =>
          let s := s.modCur fun a => { a with traps := rest }
          (enterUser t.cause t.seq (if t.seq = .x then s.cur.regs.pc else t.pc) s).modCur Agent.newChunk
      else s) s

end Sys2Proof.Machine
end

