-- ==== Sys2Proof/Machine/Suspend.lean ====
section
/-! DEFINITION. Suspension points, taking a seed, hitching, and the end of a thread (spec/01 R12 to R23; spec/11 R203,
R205; spec/14 R275 to R278, R295; spec/20 R320). -/

namespace Sys2Proof.Machine

/-- A change made with another agent in front; the turn stays where it was. -/
def asAgent (tid : Nat) (f : State → State) (s : State) : State := focusAgent s.cur.tid (f (focusAgent tid s))

/-- What an access made for a unit comes to: done, the fault it found, or not possible yet: of a page without an entry,
with the address. -/
inductive Tried where
  | ok (s : State)
  | bad (cause : Byte) (addr : Addr)
  | notYet (va : Option Addr)
def attempt (body : Run Unit) (s : State) : Tried :=
  match body s with
  | .ok (_, s') => .ok s'
  | .error (.fault c a) => .bad c a
  | .error (.rivalFail c) => .bad c 0
  | .error (.refused _ c a) => .bad c a
  | .error (.absent va) => .notYet (some va)
  | .error _ => .notYet none

/-! The frame area (R18, R49). -/

/-- The 256 bytes at p15, aligned to 64, with the R and W rights (DEDUCED, notes/assumptions/26.md). -/
def frameArea : Run Addr := do
  let fp ← readP 15
  require (fp.toNat % 64 = 0) cAlign fp
  reachRange (rangeFuel 256) fp 256 (rR ||| rW)
  return fp

def frameGet (fp : Addr) (off n : Nat) : Run Nat := do
  let va := fp + BitVec.ofNat 80 off
  let a ← reach va rR
  let s ← get
  require (!meetsPoison s a.key n) cUncorrectable va
  return ofBytes ((List.range n).map fun i => (ownByte s (a.key + i)).getD (readView s s.pkg s.cur.tag (a.key + i)))

/-- Written at once; under QUANTUM with the chunks of the quantum (R167). -/
def framePut (fp : Addr) (off : Nat) (bs : List Byte) : Run Unit := do
  let va := fp + BitVec.ofNat 80 off
  let a ← reach va rW
  let s ← get
  if s.launch.mode = .quantum then bufferStore a.home va a.key bs
  else
    rangeFree a.key bs.length
    roomForLine a.key
    unreserved a.key
    modify fun s => writeHome s s.pkg s.cur.tag s.cur.tid
      ((List.range bs.length).zip bs |>.map fun ib => (a.key + ib.1, ib.2))

def frameMasks (fp : Addr) (off : Nat) : Run (Vector Word 5) := do
  let m0 ← frameGet fp off 8
  let m1 ← frameGet fp (off + 8) 8
  let m2 ← frameGet fp (off + 16) 8
  let m3 ← frameGet fp (off + 24) 8
  let m4 ← frameGet fp (off + 32) 8
  return #v[BitVec.ofNat 64 m0, BitVec.ofNat 64 m1, BitVec.ofNat 64 m2, BitVec.ofNat 64 m3, BitVec.ofNat 64 m4]

/-- The byte offsets of SRN, of MEC0 and of YLD (R49). -/
def offSrn : Nat := 40
def offMec : Nat := 192
def offYld : Nat := 232

/-! The die queues (R158, R159). -/

def DieQ.new (die : Nat) : DieQ := { die := die, entries := [], ring := [], holding := [], reserved := 0, stalled := false, raised := none, shown := none }
def State.getDie (s : State) (die : Nat) : DieQ := (s.dieqs.find? (·.die == die)).getD (DieQ.new die)
def State.modDie (s : State) (die : Nat) (f : DieQ → DieQ) : State :=
  if s.dieqs.any (·.die == die) then { s with dieqs := modFirst (·.die == die) f s.dieqs }
  else { s with dieqs := s.dieqs ++ [f (DieQ.new die)] }

/-- No spawner: bits 63 to 4 of a log record all ones (R165). -/
def noOrigin : Nat := 2 ^ 60 - 1

/-- The thread's seed enters the queue of a die under its KEY (DESIGN CHOICE, notes/assumptions/30.md). -/
def enqueueSeed (die tid : Nat) (s : State) : State :=
  match s.getAgent tid with
  | none => s
  | some a =>
    let e : QEntry :=
      { tid := tid, key := a.key, pass := 0, cluster := clusterOf a.core, pkg := pkgOf a.core, tagged := a.tag ≠ 0,
        origin := a.origin }
    (s.modDie die fun q => { q with entries := q.entries ++ [e] }).modAgent tid fun a =>
      { a with state := .ready, queued := true }

/-- Entries in ascending key, of equal keys the earlier spawn first (R159): threads are numbered in the order in which they
are made. -/
def insertByKey (e : QEntry) : List QEntry → List QEntry
  | [] => [e]
  | x :: l =>
    if e.key.toNat < x.key.toNat ∨ (e.key = x.key ∧ e.tid < x.tid) then e :: x :: l else x :: insertByKey e l
def sortByKey (l : List QEntry) : List QEntry := l.foldl (fun m e => insertByKey e m) []

/-- The seeds with the 16 smallest keys of a queue. -/
def windowOf16 (l : List QEntry) : List QEntry := (sortByKey l).take 16
/-- The choice of a take among those seeds of the window that it may return (R159). -/
def chooseTake (mode : Mode) (cluster : Nat) (window : List QEntry) : Option QEntry :=
  if mode = .quantum ∨ mode = .replay then window.head?
  else
    (window.find? fun e => decide (16 ≤ e.pass)).orElse fun _ =>
      (window.find? fun e => e.cluster == cluster).orElse fun _ => window.head?

/-- The entry leaves the queue, and the seeds left in the window are passed over once more. -/
def takeEntry (die : Nat) (e : QEntry) (s : State) : State :=
  s.modDie die fun q =>
    let window := (windowOf16 q.entries).map (·.tid)
    { q with entries := (q.entries.filter (·.tid != e.tid)).map fun x =>
        if window.contains x.tid then { x with pass := x.pass + 1 } else x }

/-! Suspension (R16, R23). -/

def hitched (s : State) : Bool := s.core.hitch == some s.cur.tid

/-- The thread in front keeps its slot at a suspension point. -/
def pinnedNow (s : State) : Bool :=
  hitched s || (s.cur.hcfged && s.lc.handles.toList.any (·.mode ≠ 0))

/-- What every suspension does to the registers of the slot (R200, R27). -/
def suspended (st : SeedState) (up : Bool) (s : State) : State :=
  (endFollow s.cur.tid s).modCur fun a => { a with state := st, up := up, regs := { a.regs with handlerActive := false } }

/-- DESIGN CHOICE, notes/assumptions/27.md. -/
def runPause (up : Bool) : Run Unit := do
  let s ← get
  require s.cur.team.isSome cIllegal
  require ((← readP 15) ≠ 0) cIllegal
  let fp ← frameArea
  betweenChunks
  releaseSteps
  let mei ← frameMasks fp 0
  framePut fp offSrn (toBytes 8 s.cur.regs.srn.toNat)
  modify fun s =>
    let tid := s.cur.tid
    let s := s.modCur fun a => { a with mei := mei }
    let s := clearMe tid (field s.cur.teamVal.toNat 31 29) (BitVec.allOnes 64) s
    let pinned := pinnedNow s
    let s := suspended .paused up s
    if pinned then s else leaveSlot tid s

def execPause (s : State) : Res := issue { onX with s := false } (runPause false) s
def execPauseUp (s : State) : Res := issue { onX with s := false } (runPause true) s

/-- YIELD (R15, R18, R46, R205): a pinned thread keeps its slot, and every other ready slot issues once before it. It is a
suspension point all the same: the thread's posted stores are performed (R132) and its count of stochastic rounding is saved
(R49); its masks stay where they are, with YLD as it is (DESIGN CHOICE, notes/assumptions/27.md). -/
def execYield (s : State) : Res := issue { onX with s := false } (do
  let s ← get
  require (!hitched s) cIllegal
  let fp ← readP 15
  require (fp ≠ 0 || s.cur.team.isNone) cIllegal
  if pinnedNow s then
    if fp ≠ 0 then
      let _ ← frameArea
    betweenChunks
    releaseSteps
    if fp ≠ 0 then framePut fp offSrn (toBytes 8 s.cur.regs.srn.toNat)
    modify fun s => (suspended .held s.cur.up s).modCur fun a => { a with skip := some [] }
  else
    if fp ≠ 0 then
      let _ ← frameArea
    betweenChunks
    releaseSteps
    if fp ≠ 0 then
      let me := (← get).cur.me
      framePut fp offSrn (toBytes 8 s.cur.regs.srn.toNat)
      framePut fp offMec (me.toList.flatMap fun m => toBytes 8 m.toNat)
      framePut fp offYld [1]
    modify fun s =>
      let tid := s.cur.tid
      enqueueSeed (dieOf s.cur.core) tid (leaveSlot tid (suspended .ready false s))) s

/-! Taking a seed (R17, R18, R320). -/

/-- The registers of a thread that enters a slot, or that an abort starts again. -/
def Regs.taken (r : Regs) : Regs :=
  let z := Regs.zero
  { z with
    pc := r.pc
    p := z.p.set 15 r.p[15]
    g := ((z.g.set 1 r.g[1]).set 2 r.g[2]).set 3 r.g[3]
    q := r.q
    depth := r.depth }

/-- ME and the stochastic-rounding count come from the frame area; without one they are 0 (R18, R46), but a rival of a rival
team keeps the masks of instant 0 (R72) (DEDUCED, notes/assumptions/62.md). -/
def loadFrame : Run Unit := do
  let s ← get
  if s.cur.regs.p[15] = 0 then
    modify fun s => s.modCur fun a => if a.rival && a.team.isSome then a else { a with me := Vector.replicate 5 0 }
  else
    let fp ← frameArea
    let srn ← frameGet fp offSrn 8
    modify (setSrn (BitVec.ofNat 64 srn))
    if (← frameGet fp offYld 1) ≠ 0 then
      let me ← frameMasks fp offMec
      modify fun s => s.modCur fun a => { a with me := me }
      let a ← reach (fp + BitVec.ofNat 80 offYld) rW
      rangeFree a.key 1
      roomForLine a.key
      unreserved a.key
      modify fun s => writeHome s s.pkg s.cur.tag s.cur.tid [(a.key, 0)]

/-- A page that a unit of the core waits for is asked of the translation unit (R330, R336). -/
def askFor (core : Nat) (va : Addr) (s : State) : State :=
  s.modCore core fun c => { c with asked := c.asked.orElse fun _ => some va }

/-- The seed enters the slot. One that R14 does not let run, or whose frame area is at fault (R18), does not run and is
FAILED; while the frame area cannot be reached yet, the seed stays where it was, which is `wait`. -/
def enterSlot (wait : State) (tid core slot lc : Nat) (s : State) : State :=
  let s1 := s.modAgent tid fun a =>
    let r := a.regs.taken
    { a with
      core := core, slot := some slot, lcore := lc, state := .held, queued := false, regs := r
      chunk := Chunk.empty r, wait := none, gate := false, skip := none, stopped := false
      follow := .off, led := [], ran := [] }
  let failed (c : Byte) (ad : Addr) (s1 : State) : State :=
    focusAgent s.cur.tid (leaveSlot tid ((takeFault c ad s1).modAgent tid fun a => { a with state := .failed }))
  let s2 := focusAgent tid s1
  if s2.cur.badSeed.isSome then failed cIllegal 0 s2
  else match attempt loadFrame s2 with
    | .ok s3 => focusAgent s.cur.tid s3
    | .bad c ad => failed c ad s2
    | .notYet (some va) => askFor core va wait
    | .notYet none => wait

/-- The logical cores of a launch. -/
def launchLcs (s : State) (id : Nat) : List LCore :=
  if s.launch.id = id then s.allLcs else ((s.launches.find? (·.id == id)).map (·.lcores)).getD []
def launchOf (s : State) (id : Nat) : Launch :=
  if s.launch.id = id then s.launch else (s.launches.find? (·.id == id)).getD Launch.none

def minNat (l : List Nat) : Option Nat := l.foldl (fun m n => some (match m with | some k => min k n | none => n)) none

/-- The numbers of a launch's logical cores that a core holds, of those that meet `p` the lowest. -/
def lowestLc (s : State) (launch core : Nat) (p : Nat → Bool) : Option Nat :=
  minNat (((launchLcs s launch).filter fun lc => lc.core == core && !lc.away && p lc.id).map (·.id))

/-- A thread of the logical core runs on X now (R164). -/
def lcRuns (s : State) (launch n : Nat) : Bool :=
  s.allAgents.any fun a => a.launch == launch && a.lcore == n && a.seq == .x && a.state == .held && a.slot.isSome
    && a.wait.isNone
/-- The logical core holds a plain task (R321). -/
def lcHasTask (s : State) (launch n : Nat) : Bool :=
  s.allAgents.any fun a => a.launch == launch && a.lcore == n && a.seq == .x && a.slot.isSome && a.team.isNone

/-- The logical core as which a core would run a seed that waits for no particular one: a rival's, promoted or not, is its
forker's (R67, R320). -/
def lcFor (s : State) (a : Agent) (core : Nat) : Option Nat :=
  let l := launchOf s a.launch
  if l.phase ≠ .running then none
  else if a.world.isSome then if pkgOf core = pkgOf a.core then some a.lcore else none
  else if a.team.isSome then lowestLc s a.launch core fun n => n == a.lcore
  else match l.mode with
    | .record | .replay => lowestLc s a.launch core fun n => !lcRuns s a.launch n
    | .quantum => lowestLc s a.launch core fun n => !lcHasTask s a.launch n
    | .free => lowestLc s a.launch core fun _ => true

/-- The core may take a seed into the slot. -/
def slotFree (s : State) (core slot : Nat) : Bool :=
  let c := s.getCore core
  decide (slot < 4) && !c.halted && c.haltedBy == 0 && !c.sup &&
    !s.allAgents.any fun a => a.core == core && a.slot == some slot

/-- The least agent by logical core. -/
def leastLc (l : List Agent) : Option Agent :=
  l.foldl (fun m a => match m with
    | some b => if a.lcore < b.lcore then some a else some b
    | none => some a) none

/-- A READY seed that waits for its own logical core: of a team, or a handler's. -/
def waitsHere (s : State) (core : Nat) (a : Agent) : Bool :=
  a.state == .ready && !a.queued && a.world.isNone && (launchOf s a.launch).phase == .running &&
    ((launchLcs s a.launch).any fun lc => lc.id == a.lcore && lc.core == core && !lc.away)

/-- The seeds in the die queues of the machine, each with its die. -/
def queuedSeeds (s : State) : List (Nat × QEntry) := s.dieqs.flatMap fun q => q.entries.map fun e => (q.die, e)

/-- The spawner of the seed that the log lets the next take of a logical core return, under REPLAY (R166). -/
def loggedTake (s : State) (launch core n : Nat) : Option Nat := loggedPred (focusCore core (focusLaunch launch n s)) n 0 4

/-- Under QUANTUM a team seed or a seed of a die queue is taken at the quantum's end alone (R321). -/
def takesNow (s : State) (a : Agent) : Bool :=
  let l := launchOf s a.launch
  l.mode != .quantum || l.quantum == .drain

/-- The launch of a seed is under QUANTUM. -/
def inQuantum (s : State) (a : Agent) : Bool := (launchOf s a.launch).mode == .quantum
/-- What a core makes of a seed of a die queue, of its own die or, if it is a rival, of another of its package (R67, R320);
under QUANTUM the launch's seeds are handed out in key order, wherever they wait (R321): whether it may take it, and whether
the log forces it. -/
def drawable (s : State) (core : Nat) (x : Nat × QEntry) : Bool × Bool :=
  match s.getAgent x.2.tid with
  | none => (false, false)
  | some a =>
    match lcFor s a core with
    | none => (false, false)
    | some n =>
      let near := decide (x.1 = dieOf core) || (a.world.isSome && x.1 / 4 == pkgOf core) ||
        (inQuantum s a && (a.tag == 0 || x.1 / 4 == pkgOf core))
      let logged := if (launchOf s a.launch).mode = .replay then loggedTake s a.launch core n else none
      let may := a.state == .ready && takesNow s a
      (may && near && logged.isNone, may && logged == some x.2.origin)

/-- The seed with the smallest key among those of launches under QUANTUM, of equal keys the earlier spawn (R167, R321). -/
def quantumDraw (s : State) (core : Nat) : Option (Nat × QEntry) :=
  let all := (queuedSeeds s).filter fun x => (drawable s core x).1 && (s.getAgent x.2.tid).any (inQuantum s)
  (sortByKey (all.map (·.2))).head?.bind fun e => all.find? (·.2.tid == e.tid)
/-- The seed that a core draws: the one that a log forces, in whatever queue it stands, else that of its own die's queue, else
a rival of another die's queue. -/
def drawChoice (s : State) (core : Nat) : Option (Nat × QEntry) :=
  (((queuedSeeds s).find? fun x => (drawable s core x).2).orElse fun _ => quantumDraw s core).orElse fun _ =>
    (dieOf core :: ((List.range 4).map (4 * pkgOf core + ·)).filter (· != dieOf core)).findSome? fun die =>
      let q := (windowOf16 (s.getDie die).entries).filter fun e => (drawable s core (die, e)).1
      q.head?.bind fun first =>
        let mode := ((s.getAgent first.tid).map fun a => (launchOf s a.launch).mode).getD .free
        (chooseTake mode (clusterOf core) q).map fun e => (die, e)

/-- The seed that a core takes into a free slot, and the logical core as which it runs it; one of a die queue with its place
there (R320): team seeds in ascending logical core, then handler seeds, which belong to no team, then the die queue. -/
def takeChoice (s : State) (core : Nat) : Option (Agent × Nat × Option (Nat × QEntry)) :=
  let here := s.allAgents.filter (waitsHere s core)
  match leastLc (here.filter fun a => a.team.isSome && takesNow s a) with
  | some a => some (a, a.lcore, none)
  | none =>
    match leastLc (here.filter fun a => a.hndl && (lcFor s a core).isSome) with
    | some a => some (a, (lcFor s a core).getD a.lcore, none)
    | none => (drawChoice s core).bind fun x => (s.getAgent x.2.tid).bind fun a =>
        (lcFor s a core).map fun n => (a, n, some x)

/-- TAKE_SEED (R17, R159, R320). -/
def takeSeed (core slot : Nat) (s : State) : State :=
  if !slotFree s core slot then s
  else match takeChoice s core with
  | none => s
  | some (a, n, none) => enterSlot s a.tid core slot n s
  | some (a, n, some (die, e)) =>
    enterSlot s a.tid core slot n (inLaunch a.launch n
      (fun s => focusCore s.cur.core (logEvent (focusCore core s) n 0 4 (siteTake die) (some e.origin))) (takeEntry die e s))

def execTakeSeed (core slot : Nat) (s : State) : Res := event (takeSeed core slot) s

/-- A handler seed that waits for its preferred core, which has no free slot (R320). -/
def handlerStands (s : State) (a : Agent) : Bool :=
  a.hndl && a.state == .ready && !a.queued && (launchLcs s a.launch).any fun lc =>
    lc.id == a.lcore && !(List.range 4).any fun k => slotFree s lc.core k

/-- HANDLER_SEED_STEAL (R320): a handler seed whose preferred core has had no free slot may be taken by any core of the
partition that holds a logical core of its launch. -/
def execHandlerSeedSteal (core slot : Nat) (s : State) : Res := event (fun s =>
  if !slotFree s core slot then s
  else
    match s.allAgents.find? fun a => handlerStands s a && (lcFor s a core).isSome with
    | some a => enterSlot s a.tid core slot ((lcFor s a core).getD a.lcore) s
    | none => s) s

/-! Hitching (R275 to R277). -/

/-- A program of A or M, with copies of the thread's registers. -/
def sequencerOf (o : Agent) (q : Seq) (tid : Nat) (entry : Addr) (lc : LCore) : Agent :=
  let r := o.regs
  let z := { Regs.zero with pc := entry, g := r.g, p := r.p, q := r.q, round := r.round, gpois := r.gpois, depth := r.depth }
  let regs :=
    if q = .a then { z with vtype := r.vtype, srn := lc.srnA }
    else { z with fmtA := r.fmtA, fmtB := r.fmtB, fmtC := r.fmtC, sclA := r.sclA, sclB := r.sclB, srn := lc.srnM }
  { Agent.new tid with
    launch := o.launch, seq := q, host := some o.tid, core := o.core, lcore := o.lcore, regs := regs, state := .held, key := o.key
    tag := o.tag, world := o.world, ridx := o.ridx, promoted := o.promoted
    chunk := Chunk.empty regs }

def runHitch (ea em : Addr) (mask : Byte) : Run Unit := do
  let s ← get
  require (!hitched s) cIllegal
  require (ea.toNat % 2 = 0) cAlign ea
  require (em.toNat % 2 = 0) cAlign em
  if !s.cur.loads.isEmpty then stalled .loads
  if s.core.vqueue.any fun o => o.tid == s.cur.tid && o.seq == .x && (vopDest o.instr).isSome then stalled .vector
  betweenChunks
  let tid := s.cur.tid
  if !s.core.hitchQ.contains tid then
    modify fun s => { s with core := { s.core with hitchQ := s.core.hitchQ ++ [tid] } }
  let c := (← get).core
  if c.hitch.isSome ∨ c.hitchQ.head? ≠ some tid then keepWaiting .hitch
  modify fun s =>
    let o := s.cur
    let a := sequencerOf o .a s.nextTid ea s.lc
    let m := sequencerOf o .m (s.nextTid + 1) em s.lc
    { s with
      nextTid := s.nextTid + 2
      agents := s.agents ++ [a, m]
      core := { s.core with
        hitch := some tid, hitchQ := s.core.hitchQ.drop 1, shared := mask, bqX := [], bqA := [], bqM := []
        bqSent := [], bqPops := [], fmtq := [] } }

def execHitch (aoff moff : BitVec 9) (mask : Byte) (s : State) : Res := issue { onX with s := false } (do
  let b := (← get).cur.base
  runHitch (b + (aoff.signExtend 80 <<< 1)) (b + (moff.signExtend 80 <<< 1)) mask) s
def execHitchP (pa pm : BitVec 4) (mask : Byte) (s : State) : Res := issue { onX with s := false } (do
  runHitch (← readP pa) (← readP pm) mask) s

/-- A and M have rested, and every batch and handed command has retired. -/
def hitchOver (s : State) : Bool :=
  [Seq.a, Seq.m].all (fun q => match s.seqOf s.core.id q with
    | some b => b.rested
    | none => true) &&
  s.core.mx.opened.isEmpty && s.core.mx.batches.isEmpty && !handedOpen s.core

/-- Waits as UNHITCH does. A batch that met poison and that no MWAITB has counted faults here (R364). -/
def awaitHitch : Run Unit := do
  let s ← get
  if !hitchOver s then keepWaiting .unhitch
  require (!s.core.mx.retPois) cUncorrectable

def execUnhitch (s : State) : Res := issue { onX with s := false } (do
  require (hitched (← get)) cIllegal
  betweenChunks
  awaitHitch
  modify fun s => releaseHitch s.core.id s) s

/-- REST (R276). -/
def execRest (s : State) : Res := issue onAM (do
  if (← get).cur.seq = .a then
    betweenChunks
    releaseSteps
  else commitBatch
  modify fun s => s.modCur fun a => { a with rested := true }) s

/-! The end of a thread (R295). -/

/-- Every view and saddlebag that a world has left is discarded, and the world is RESOLVED (R76). -/
def discardWorld (wid : Nat) (s : State) : State :=
  match s.getWorld wid with
  | none => s
  | some w =>
    let s := w.rivals.foldl (fun s r =>
      (discardView w.pkg r.tag s).modRival wid r.idx fun r => { r with sb := [], tag := 0 }) s
    s.modWorld wid fun w => { w with state := .resolved }

/-- Waits until no rival of the thread's own world is LIVE, and for a commit under way (R76, R77). -/
def worldOver (w : World) : Bool := w.rivals.all (·.code != .live) && w.committing.isNone

/-- A worker of a card has ended after a count of 0; with the last one the card is complete, and its counter is raised, as
the card stands in the worker's view (R163); a CCORE that names no logical core raises none
(DESIGN CHOICE, notes/assumptions/63.md). -/
def cardDone (card : Addr) (num : Nat) (s : State) : State :=
  let left := ((aget num s.launch.cards).getD 0) - 1
  let s := s.modLaunch fun l => { l with cards := aset num left l.cards }
  if left ≠ 0 then s
  else match rawKey s s.core.id card with
    | none => s
    | some k =>
      let n := ofBytes (readViewN s s.pkg s.cur.tag k 64)
      if bit n 319 ∧ field n 351 320 < s.launch.l then incCounter (field n 351 320) (field n 315 312) s else s

/-- The last handler of a trap has ended (R58): without a RESOLVE that wrote 1 the launch ends. -/
def handlerDone (uid resolved : Nat) (s : State) : State :=
  if resolved = 0 then
    let r := recordOf s s.cur 2 cCausality 0 0 .s
    endLaunch r 1 s
  else s.modBoard uid fun b => { b with serving := false, seqn := if b.inst = b.trapInst then b.seqn + 1 else b.seqn }

def endThread (s : State) : State :=
  let a := s.cur
  let tid := a.tid
  let s := match a.world with
    | some w => endRival w a.ridx (if a.promoted then .promoted else .done) 0 s
    | none => (leaveTeam tid (leaveSlot tid (clearAllMe tid s))).modAgent tid fun a => { a with state := .done }
  let s := endFollow tid s
  let s := match a.serves with
    | some u => handlerDone u a.resolved s
    | none => s
  match a.card with
  | some c => if a.dealt0 then cardDone c.1 c.2 s else s
  | none => s

/-- DONE leaves a trap handler where it is reached, whatever it then waits for (R305). -/
def leftHandler (s : State) : State := s.modCur fun a => { a with regs := { a.regs with handlerActive := false } }

def runDone : Run Unit := do
  modify leftHandler
  let a := (← get).cur
  if a.chunk.count = 0 then
    if !a.ended.isEmpty then keepStalled .quantum
    if a.rel.isSome then keepStalled .release
  betweenChunks
  if hitched (← get) then
    awaitHitch
    modify fun s => releaseHitch s.core.id s
  match (← get).cur.own.bind (← get).getWorld with
  | some w =>
    if w.state ≠ .resolved then
      if !worldOver w then keepWaiting .world
      modify (discardWorld w.wid)
  | none => pure ()
  releaseAs leftHandler
  let s ← get
  match s.cur.card with
  | some c => if s.cur.dealt0 && (rawKey s s.core.id c.1).isNone then throw (.absent c.1)
  | none => pure ()
  modify endThread

def execDone (s : State) : Res := issue { onX with s := false } runDone s

/-- RET (R203): through p13, and the end of the thread or REST where p13 is 0. -/
def execRet (s : State) : Res := issue onAll (do
  let t ← readP linkReg13
  if t ≠ 0 then
    jumpTo t
  else match (← get).cur.seq with
    | .x => runDone
    | .s => illegal
    | .a => do
      betweenChunks
      releaseSteps
      modify fun s => s.modCur fun a => { a with rested := true }
    | .m => do
      commitBatch
      modify fun s => s.modCur fun a => { a with rested := true }) s
where linkReg13 : BitVec 4 := 13

end Sys2Proof.Machine
end

