-- ==== Sys2Proof/Machine/Signals.lean ====
section
/-! DEFINITION. Signals, pre-emption frames and instants (spec/02; spec/01 R34 to R38; spec/14 R279 to R289). -/

namespace Sys2Proof.Machine

/-- A level at which a rival's teams lie outside its world: there its masks are zero, and its emits wait in the
saddlebag (R72, R78). -/
def outsideLevel (s : State) (a : Agent) (k : Nat) : Bool :=
  (rivalOf s a).isSome && field a.teamVal.toNat 31 29 != k

/-- The thread's team that a level code names (R41, R274). -/
def boardAt (l : Lvl) : Run Board := do
  let s ← get
  match l with
  | .inner => match s.cur.team.bind s.getBoard with
    | some b => return b
    | none => illegal
  | .l k => match teamAt s s.cur k.toNat with
    | some b => return b
    | none => illegal

/-! Emitting, testing, renouncing, resolving (R43, R44, R284 to R288). -/

def sendEmit (so : SigOp) (v : BitVec 32) : Run Unit := do
  let b ← boardAt so.lvl
  betweenChunks
  let s ← get
  if outsideLevel s s.cur b.level then holdSb (.emit b.uid so.idx.toNat v) 4
  else modify (sendBoard (.emit b.uid so.idx.toNat v s.cur.tid s.cur.regs.pc none))

def execEmit (so : SigOp) (s : State) : Res := issue { onX with s := false } (sendEmit so 0) s
def execEmitv (so : SigOp) (g : GOp) (s : State) : Res := issue { onX with s := false } (do
  let _ ← boardAt so.lvl
  sendEmit so ((← readOp g).setWidth 32)) s

/-- The status that a test returns, and the value; it blocks while that is not decided. -/
def testSignal (so : SigOp) (tv : Bool) : Run (Bool × BitVec 32) := do
  let b ← boardAt so.lvl
  betweenChunks
  let c := b.sigs[so.idx.toNat]
  let w : Wait := .test b.uid b.level so.idx.toNat tv
  match c.status with
  | .unresolved => throw (.wait w)
  | .present => if tv ∧ c.count ≠ 0 then throw (.wait w) else return (true, c.value)
  | .absent | .forced => return (false, 0)

def execTest (q : QDst) (so : SigOp) (s : State) : Res := issue { onX with s := false } (do
  writeQDst q (← testSignal so false).1) s
def execTestv (q : QDst) (g : GOp) (so : SigOp) (s : State) : Res := issue { onX with s := false } (do
  let r ← testSignal so true
  writeQDst q r.1
  writeOp g (r.2.setWidth 64)) s

def execRenounce (k : BitVec 3) (g : GOp) (s : State) : Res := issue { onX with s := false } (do
  let _ ← boardAt (.l k)
  let m ← readOp g
  betweenChunks
  modify fun s => clearMe s.cur.tid k.toNat m s) s

/-- RESOLVE (R57, R288): the question goes to the board, and the thread waits for the answer. -/
def execResolve (q : QDst) (so : SigOp) (s : State) : Res := issue { onX with s := false } (do
  let s ← get
  require s.cur.hndl cIllegal
  betweenChunks
  match s.cur.answer with
  | some b =>
    modify fun s => s.modCur fun a => { a with
      answer := none, asking := false, resolved := if b then a.resolved + 1 else a.resolved }
    writeQDst q b
  | none =>
    if s.cur.asking then blocked .answer
    let chain := (s.cur.serves.map (chainFrom 12 s)).getD []
    let b := match so.lvl with
      | .inner => chain.head?
      | .l k => chain.find? (·.level == k.toNat)
    match b with
    | none => writeQDst q false
    | some b =>
      modify (sendBoard (.resolve b.uid b.level so.idx.toNat s.cur.tid))
      modify fun s => s.modCur fun a => { a with asking := true }
      keepWaiting .answer) s

/-! Frames (R59, R60, R289). -/

def pushFrame (so : SigOp) (record : Nat → Nat) : Run Unit := do
  let s ← get
  require (decide (s.cur.regs.depth < 8)) cIllegal
  let b ← boardAt so.lvl
  let fp ← readP 15
  require (fp ≠ 0) cIllegal
  let va := fp + BitVec.ofNat 80 (64 + 16 * s.cur.regs.depth)
  let a ← reachAligned va 16 rW
  storeAt va a (toBytes 16 (record (b.level * 2 ^ 40 + so.idx.toNat * 2 ^ 32))) false
  modify fun s => s.modCur fun a => { a with regs := { a.regs with depth := a.regs.depth + 1 } }

def execAbortw (so : SigOp) (off : Word) (s : State) : Res := issue { onX with s := false } (do
  let base := (← get).cur.base
  pushFrame so fun n => (base + (off.signExtend 80 <<< 1)).toNat * 2 ^ 48 + n) s
def execSuspw (so : SigOp) (s : State) : Res := issue { onX with s := false } (pushFrame so fun n => n + 1) s

def execEndw (s : State) : Res := issue { onX with s := false } (do
  let s ← get
  require (decide (0 < s.cur.regs.depth) && s.cur.team.isSome) cIllegal
  modify fun s => s.modCur fun a => { a with regs := { a.regs with depth := a.regs.depth - 1 } }) s

/-! Teams (R279 to R283). -/

def execInstn (g : GOp) (l : Lvl) (s : State) : Res := issue { onX with s := false } (do
  let b ← boardAt l
  writeOp g b.inst) s

def execCause (g : GOp) (s : State) : Res := issue { onX with s := false } (do
  let a := (← get).cur
  writeOp g (if a.team.isNone ∨ a.hndl then 0 else a.cause)) s

/-- The thread waits for a boundary, which answers it. -/
def atBoundary (start : Run Unit) : Run Unit := do
  let s ← get
  if s.cur.answer.isSome then
    modify fun s => s.modCur fun a => { a with answer := none, asking := false }
    betweenChunks
  else
    if !s.cur.asking then
      start
      modify fun s => s.modCur fun a => { a with asking := true }
    keepWaiting .boundary

def execTeamj (g : GOp) (s : State) : Res := issue { onX with s := false } (atBoundary (do
  let v ← readOp g
  let s ← get
  let a := s.cur
  let val := v.toNat % 2 ^ 32
  require (a.team.isNone && !a.rival) cIllegal
  require (field val 28 24 = 0 && decide (field val 31 29 ≤ 4)) cIllegal
  match s.launch.boards.find? fun b => b.val.toNat == val && !b.ended with
  | none => illegal
  | some b =>
    if a.regs.p[15] ≠ 0 then
      let _ ← frameArea
    betweenChunks
    modify fun s => s.modCur fun a => { a with joining := some b.uid })) s

def execTeaml (s : State) : Res := issue { onX with s := false } (atBoundary (do
  let s ← get
  let a := s.cur
  require (a.team.isSome && a.regs.depth == 0 && !a.rival && !a.hndl) cIllegal
  betweenChunks
  releaseSteps
  modify fun s => clearAllMe s.cur.tid (s.modCur fun a => { a with leaving := true }))) s

def execTeamh (p : BitVec 4) (l : Lvl) (s : State) : Res := issue { onX with s := false } (do
  let b ← boardAt l
  let va ← readP p
  require (va.toNat % 64 = 0) cAlign va
  betweenChunks
  let ws ← reachSteps 8 8 va rR
  let s ← get
  require (!ws.any fun a => meetsPoison s a.key 8) cUncorrectable va
  let x := ofBytes (ws.flatMap fun a => readViewN s s.pkg s.cur.tag a.key 8)
  if field x 79 0 = 0 then modify (sendBoard (.register b.uid none s.cur.tid))
  else do
    let rbuf := BitVec.ofNat 80 (field x 239 160)
    let rsize := field x 287 256
    require (field x 79 0 % 2 = 0 && rbuf.toNat % 16 = 0) cAlign va
    require (field x 511 306 = 0 && field x 255 240 = 0 && decide (64 ≤ rsize) &&
      decide (field x 305 288 < s.launch.l)) cIllegal
    reachRange (rangeFuel rsize) rbuf rsize rW
    modify (sendBoard (.register b.uid (some
      { entry := BitVec.ofNat 80 (field x 79 0), hfp := BitVec.ofNat 80 (field x 159 80), rbuf := rbuf
        rsize := rsize, pcore := field x 305 288 }) s.cur.tid))) s

/-! Messages reach their boards, each thread's in order (R42, R52). -/

def modSig (uid i : Nat) (f : SigCell → SigCell) (s : State) : State :=
  s.modBoard uid fun b => if h : i < 64 then { b with sigs := b.sigs.set i (f b.sigs[i]) } else b

/-- Each cleared bit lowers its count by one; at zero an unemitted signal is ABSENT. -/
def lowerCounts (mask : Word) (b : Board) : Board :=
  { b with sigs := Vector.ofFn fun i : Fin 64 =>
      let c := b.sigs[i]
      if mask.getLsbD i then
        { c with
          count := c.count - 1
          status := if c.count ≤ 1 ∧ c.status = .unresolved then .absent else c.status }
      else c }

/-- An emit may arrive: its board is in a compute phase, and under REPLAY its logged predecessor has happened. -/
def mayArrive (s : State) (m : BoardMsg) : Bool :=
  let open_ := match s.getBoard m.uid with
    | some b => !b.comm
    | none => true
  match m with
  | .emit _ _ _ tid _ _ => open_ && (match s.getAgent tid with
      | some a => replayMay (focusCore a.core s) a.lcore (seqCode a.seq) 6
      | none => true)
  | _ => open_

/-- The messages that may arrive next: those of one thread to one board reach it in their order (R52), also where the
first of them is held up. -/
def arrivals (s : State) : List BoardMsg → List (Nat × Nat) → List BoardMsg
  | [], _ => []
  | m :: l, held =>
    let way := (m.uid, m.tid)
    let rest := arrivals s l (way :: held)
    if held.contains way || !mayArrive s m then rest else m :: rest
/-- The environment's choice `n` among the things that may come first. -/
def pickOne {α : Type} (n : Nat) : List α → Option α
  | [] => none
  | [x] => some x
  | l => l[Config.pick n % l.length]?
/-- The message that arrives next. -/
def nextMsg (s : State) : Option BoardMsg := pickOne s.cycle (arrivals s s.launch.boardq [])
def dropMsg : List BoardMsg → BoardMsg → List BoardMsg
  | [], _ => []
  | m :: l, x => if m = x then l else m :: dropMsg l x

/-- An emit reaches its board (R42, R43, R50); one released from a saddlebag that finds its team ended does nothing
(DESIGN CHOICE, notes/assumptions/60.md). -/
def deliverEmit (uid sig : Nat) (val : BitVec 32) (tid : Nat) (pc : Addr) (rel : Option Released) (s : State) : State :=
  match s.getBoard uid with
  | none => s
  | some b =>
    if h : sig < 64 then
      if b.ended ∧ rel.isSome then s
      else match b.sigs[sig].status with
      | .unresolved | .present =>
        let s := match s.getAgent tid with
          | some a => focusCore s.cur.core (logEvent (focusCore a.core s) a.lcore (seqCode a.seq) 6 (siteBoard uid))
          | none => s
        modSig uid sig (fun c => { c with emitted := true, status := .present, value := c.value ||| val }) s
      | .absent | .forced => match rel with
        | some r => releasedFault r cContradiction 0 s
        | none => faultAt tid cContradiction pc 0 s
    else s

def deliverResolve (uid lvl sig tid : Nat) (s : State) : State :=
  let onCycle := (((s.getAgent tid).bind (·.serves)).bind s.getBoard).any fun b => b.cycle.contains (lvl, sig)
  let open_ := (s.getBoard uid).any fun b => if h : sig < 64 then b.sigs[sig].status == .unresolved else false
  let yes := onCycle && open_
  let s := if yes then modSig uid sig (fun c => { c with status := .forced }) s else s
  s.modAgent tid fun a => { a with answer := some yes }

/-- The launches with board messages: the one in front first. -/
def withMsg (p : BoardMsg → Bool) (f : BoardMsg → State → State) (s : State) : State :=
  let run (s : State) : State := match nextMsg s with
    | some m => if p m then checkEnded 12 m.uid (f m (s.modLaunch fun l => { l with boardq := dropMsg l.boardq m })) else s
    | none => s
  if !s.launch.boardq.isEmpty then run s
  else match s.launches.find? fun l => !l.boardq.isEmpty with
    | some l => inLaunch l.id 0 run s
    | none => s

def BoardMsg.isEmit : BoardMsg → Bool
  | .emit .. => true
  | _ => false
def BoardMsg.isClear : BoardMsg → Bool
  | .clear .. => true
  | _ => false
def BoardMsg.isResolve : BoardMsg → Bool
  | .resolve .. => true
  | _ => false
def BoardMsg.isRegister : BoardMsg → Bool
  | .register .. => true
  | _ => false

def deliverMsg (m : BoardMsg) (s : State) : State :=
  match m with
  | .emit u i v t pc r => deliverEmit u i v t pc r s
  | .clear u m _ => s.modBoard u (lowerCounts m)
  | .resolve u l i t => deliverResolve u l i t s
  | .register u r _ => s.modBoard u fun b => { b with handler := r }

/-- The launch of which a message can arrive: the one in front before the others. -/
def msgLaunch (s : State) : Option Nat :=
  if (nextMsg s).isSome then some s.launch.id
  else (s.launches.find? fun l => (nextMsg (focusLaunch l.id 0 s)).isSome).map (·.id)
/-- A message of one kind arrives. -/
def arrive (kind : BoardMsg → Bool) (s : State) : State :=
  if (nextMsg s).isSome then withMsg kind deliverMsg s
  else match msgLaunch s with
    | some id => inLaunch id 0 (withMsg kind deliverMsg) s
    | none => s

def execSignalEmitArrival (s : State) : Res := event (arrive BoardMsg.isEmit) s
def execMaskClearArrival (s : State) : Res := event (arrive BoardMsg.isClear) s
def execResolveArrival (s : State) : Res := event (arrive BoardMsg.isResolve) s
def execHandlerRegistrationArrival (s : State) : Res := event (arrive BoardMsg.isRegister) s

/-! Causality (R53 to R58). -/

/-- The threads of the launch in front. -/
def threads (s : State) : List Agent := s.allAgents.filter fun a => a.launch == s.launch.id && a.seq == .x

/-- The thread is a thread of the team: its team at the team's level is that one (R54, R84). -/
def threadOf (s : State) (b : Board) (a : Agent) : Bool :=
  !a.leaving && ((teamAt s a b.level).map (·.uid)) == some b.uid && !outsideLevel s a b.level

/-- A thread blocked in TEST or TESTV, with the signal it awaits. -/
def awaits (a : Agent) : Option (Nat × Nat) :=
  match a.state, a.wait with
  | .held, some (.test u _ i _) => some (u, i)
  | _, _ => none

/-- It runs, or it is pre-empted, or it is READY, or it waits at issue for a resource of its core (R19, R54). -/
def runnable (a : Agent) : Bool :=
  a.husked.isSome || match a.state, a.wait with
  | .ready, _ => true
  | .held, none => true
  | .held, some (.resource _) => true
  | _, _ => false

/-- The potential emitters of a signal. -/
def emitters (s : State) (b : Board) (i : Nat) : List Agent :=
  (threads s).filter fun a => threadOf s b a && a.state != .frozen &&
    (if h : b.level < 5 then a.me[b.level].getLsbD i else false)

/-- A thread blocked in TEST or TESTV on a signal whose team it is a thread of: it may stand on a cycle (R54, R286). -/
def blockedOn (s : State) (x : Nat × Nat) (a : Agent) : Bool :=
  awaits a == some x && (s.getBoard x.1).any fun b => threadOf s b a

/-- From the signals to be looked at, every signal on the cycle: those that their blocked potential emitters await, and
so on. -/
def cycleFrom (s : State) : Nat → List (Nat × Nat) → List (Nat × Nat) → List (Nat × Nat)
  | 0, _, seen => seen
  | _ + 1, [], seen => seen
  | n + 1, (u, i) :: todo, seen =>
    if seen.contains (u, i) then cycleFrom s n todo seen
    else match s.getBoard u with
      | none => cycleFrom s n todo seen
      | some b =>
        let next := ((emitters s b i).filterMap awaits).filter fun x => (threads s).any (blockedOn s x)
        cycleFrom s n (todo ++ next) ((u, i) :: seen)

/-- The signals of a causality cycle of the team: no thread of the team is runnable, one is blocked in a test on a signal
of the team, and each signal so awaited has potential emitters, all blocked in a test (R54). -/
def findCycle (s : State) (t : Board) : Option (List (Nat × Nat)) :=
  let ts := (threads s).filter (threadOf s t)
  let first := (ts.filterMap awaits).filter fun x => x.1 == t.uid
  let stuck (x : Nat × Nat) : Bool :=
    let es := emitters s t x.2
    !es.isEmpty && es.all fun e => (awaits e).isSome
  if ts.any runnable || first.isEmpty || !first.all stuck then none
  else some (cycleFrom s (64 * s.launch.boards.length * ((threads s).length + 1) + 64) first [])

/-- The outermost team of which a signal is awaited on a cycle: the trap is raised there (R54). -/
def outermost (s : State) (t : Board) (sigs : List (Nat × Nat)) : Board :=
  (sigs.filterMap fun x => s.getBoard x.1).foldl (fun m b => if m.level < b.level then b else m) t

/-- A cycle whose trap is raised in the team: its own, or one found in a team nested in it. -/
def cycleOf (s : State) (t : Board) : Option (List (Nat × Nat)) :=
  (s.launch.boards.filter fun b => !b.ended && !b.comm).findSome? fun b =>
    (findCycle s b).bind fun sigs => if (outermost s b sigs).uid = t.uid then some sigs else none

/-- Sorting by a list of keys. -/
def leKeys : List Nat → List Nat → Bool
  | a :: l, b :: m => a < b || (a == b && leKeys l m)
  | _, _ => true
def insertKeyed (k : List Nat) (v : Nat) : List (List Nat × Nat) → List (List Nat × Nat)
  | [] => [(k, v)]
  | x :: l => if leKeys x.1 k then x :: insertKeyed k v l else (k, v) :: x :: l
def sortKeyed (l : List (List Nat × Nat)) : List Nat := (l.foldl (fun m x => insertKeyed x.1 x.2 m) []).map (·.2)

def rivalKey (a : Agent) : List Nat := if a.rival then [1, a.ridx] else [0, 0]
def rivalBits (a : Agent) : Nat := if a.rival then 2 ^ 24 + a.ridx % 16 * 2 ^ 20 else 0

/-- The trap record of R56, with how many of its entries fit. Where 65,536 or more entries make a count that its field
does not hold, the spec names no value: the count stands modulo 65,536 (DESIGN CHOICE, notes/assumptions/61.md). -/
def cycleRecord (s : State) (t : Board) (sigs : List (Nat × Nat)) (rsize : Nat) : List Byte :=
  let lvl (u : Nat) : Nat := ((s.getBoard u).map (·.level)).getD 0
  let testers := sortKeyed ((threads s).filterMap fun a => match a.wait with
    | some (.test u l i tv) =>
      if sigs.contains (u, i) ∧ blockedOn s (u, i) a then
        some ([a.lcore] ++ rivalKey a ++ [a.regs.pc.toNat, l, i],
          (if tv then 2 ^ 123 else 0) + l * 2 ^ 120 + i * 2 ^ 112 + a.regs.pc.toNat * 2 ^ 32 + rivalBits a + a.lcore)
      else none
    | _ => none)
  let emits := sortKeyed (sigs.flatMap fun x => match s.getBoard x.1 with
    | some b => (emitters s b x.2).map fun a =>
        ([lvl x.1, x.2, a.lcore] ++ rivalKey a, lvl x.1 * 2 ^ 40 + x.2 * 2 ^ 32 + rivalBits a + a.lcore)
    | none => [])
  let nt := min testers.length ((rsize - 32) / 16)
  let ne := min emits.length ((rsize - 32 - 16 * nt) / 8)
  let trunc := if nt < testers.length ∨ ne < emits.length then 2 ^ 8 else 0
  toBytes 32 (emits.length % 2 ^ 16 * 2 ^ 144 + testers.length % 2 ^ 16 * 2 ^ 128 + t.inst.toNat * 2 ^ 64 + t.val.toNat * 2 ^ 32
      + t.seqn % 2 ^ 16 * 2 ^ 16 + trunc + cCausality.toNat)
    ++ (testers.take nt).flatMap (toBytes 16) ++ (emits.take ne).flatMap (toBytes 8)

/-- The handler seed of R55. -/
def handlerSeed (s : State) (t : Board) (h : Registration) : Agent :=
  let z := Regs.zero
  let regs := { z with
    pc := h.entry
    p := z.p.set 15 h.hfp
    g := ((z.g.set 1 (t.val.setWidth 64)).set 2 t.inst).set 3 (BitVec.ofNat 64 t.seqn) }
  { Agent.new s.nextTid with
    launch := s.launch.id, core := (s.getLc h.pcore).core, lcore := h.pcore, regs := regs, state := .ready
    hndl := true, serves := some t.uid, chunk := Chunk.empty regs }

/-- The first byte of a range of `n` bytes whose page has no entry. -/
def unmappedAt (s : State) (core : Nat) (va : Addr) (n : Nat) : Option Addr :=
  ((List.range n).map fun i => va + BitVec.ofNat 80 i).find? fun x => (rawKey s core x).isNone

/-- CAUSALITY (R54, R55, R72): the record is written and the handler made READY; with no handler the rivals on the
cycle fail, or the launch ends (DEDUCED, notes/assumptions/33.md). While a page of the buffer has no entry, the trap waits
for it (DESIGN CHOICE, notes/assumptions/61.md). -/
def causalityTrap (uid : Nat) (s : State) : State :=
  match s.getBoard uid with
  | none => s
  | some t =>
    if t.ended || t.comm || t.serving || !s.launch.boardq.isEmpty then s
    else match cycleOf s t with
    | none => s
    | some sigs =>
      let on := (threads s).filter fun a => (awaits a).any fun x => sigs.contains x && blockedOn s x a
      let core := (on.head?.map (·.core)).getD s.core.id
      match t.handler with
      | some h =>
        let record := cycleRecord s t sigs h.rsize
        match unmappedAt s core h.rbuf record.length with
        | some va => askFor core va s
        | none =>
          let s := rawWrite s core h.rbuf record
          let lvl (u : Nat) : Nat := ((s.getBoard u).map (·.level)).getD 0
          let s := s.modBoard uid fun b => { b with
            serving := true, trapInst := b.inst, cycle := sigs.map fun x => (lvl x.1, x.2) }
          { s with agents := s.agents ++ [handlerSeed s t h], nextTid := s.nextTid + 1 }
      | none =>
        if t.world.isSome then
          on.foldl (fun s a => match rivalOf s a with
            | some (w, i) => failRival w i cCausality a.regs.pc 0 .x s
            | none => faultAt a.tid cCausality 0 0 s) s
        else match on with
          | a :: _ => endLaunch { recordOf s a 2 cCausality 0 0 .s with rv := false, ridx := 0 } 1 s
          | [] => s

/-- The launch whose board it is, in front: identifiers of boards and worlds are those of one launch. -/
def onBoard (uid : Nat) (f : State → State) (s : State) : State :=
  if (s.getBoard uid).isSome then f s
  else match s.launches.find? fun l => l.boards.any (·.uid == uid) with
    | some l => inLaunch l.id 0 f s
    | none => s

def execCausalityTrap (team : Nat) (s : State) : Res := event (onBoard team (causalityTrap team)) s

/-! Instants (R36, R38, R46, R48, R61 to R63). -/

def members (s : State) (uid : Nat) : List Agent := (threads s).filter fun a => a.team == some uid
def childBoards (s : State) (uid : Nat) : List Board :=
  s.launch.boards.filter fun b => b.parent == some uid && !b.ended

/-- A member thread no longer holds back the instant. -/
def closedThread (a : Agent) : Bool := a.leaving || a.state == .paused || a.state == .frozen

/-- Every member has closed, and no message to the board is on its way (R36, R53). -/
def allClosed (s : State) (b : Board) : Bool :=
  !b.ended && !b.comm && !s.launch.boardq.any (fun m => m.uid == b.uid) &&
    (members s b.uid).all closedThread && (childBoards s b.uid).all (·.paused)

/-- COMPUTE_PHASE_END: the statuses are frozen, and the team pauses in its parent where no member thread closed with
plain PAUSE; the masks of its threads at that level are then cleared (R38, R48). -/
def computePhaseEnd (uid : Nat) (s : State) : State :=
  match s.getBoard uid with
  | none => s
  | some b =>
    if !allClosed s b then s
    else
      let plain := (members s uid).any fun a => a.state == .paused && !a.up
      let up := !plain && b.parent.isSome
      let s := s.modBoard uid fun b => { b with comm := true, paused := up }
      match b.parent.bind s.getBoard with
      | some p =>
        if up ∧ p.level ≠ b.level then
          ((threads s).filter (threadOf s b)).foldl (fun s a => clearMe a.tid p.level (BitVec.allOnes 64) s) s
        else s
      | none => s

def execComputePhaseEnd (team : Nat) (s : State) : Res := event (onBoard team (computePhaseEnd team)) s

/-- The teams whose boundary takes place with that of `uid`: those paused in it, and in turn in them. -/
def boundarySet : Nat → State → Nat → List Nat
  | 0, _, uid => [uid]
  | n + 1, s, uid => uid :: (childBoards s uid).flatMap fun c => if c.paused then boundarySet n s c.uid else []

/-- What a boundary decides for a thread (R62). -/
inductive Fate where
  | ready
  | abort (f lvl sig : Nat) (pc : Addr)
  | freeze (f lvl sig : Nat)
  | bad
  deriving DecidableEq, Repr

/-- The frame record `f` of a thread, as its view holds it; none where its page is absent. -/
def frameRecord (s : State) (a : Agent) (f : Nat) : Option Nat :=
  let va := a.regs.p[15] + BitVec.ofNat 80 (64 + 16 * f)
  (rawKey s a.core va).map fun k => ofBytes (readViewN s (pkgOf a.core) a.tag k 16)

/-- R62, from frame `f` inward: a frame whose boundary is not taking place, or that in a rival names a team outside its
world, is passed over whatever its record holds (R60, R61, R289): `n` frames are left. -/
def evalFrames (s : State) (due : List Nat) (a : Agent) : Nat → Nat → Fate
  | 0, _ => .ready
  | n + 1, f =>
    let r := (frameRecord s a f).getD 0
    let lvl := field r 42 40
    let sig := field r 37 32
    if 4 < lvl then .bad
    else match teamAt s a lvl with
      | none => evalFrames s due a n (f + 1)
      | some b =>
        if !due.contains b.uid || outsideLevel s a lvl then evalFrames s due a n (f + 1)
        else if field r 47 43 ≠ 0 ∨ field r 39 38 ≠ 0 ∨ field r 31 1 ≠ 0 then .bad
        else if (if h : sig < 64 then b.sigs[sig].status == .present else false) then
          if bit r 0 then .freeze f lvl sig else .abort f lvl sig (BitVec.ofNat 80 (field r 127 48))
        else evalFrames s due a n (f + 1)

/-- The number of the instant that the frame's team is in after the boundary. -/
def nextInst (s : State) (due : List Nat) (a : Agent) (lvl : Nat) : Word :=
  match teamAt s a lvl with
  | some b => if due.contains b.uid then b.inst + 1 else b.inst
  | none => 0

/-- A CAUSE record (R280). -/
def causeRecord (inst : Word) (lvl sig f kind : Nat) : Word :=
  BitVec.ofNat 64 (inst.toNat % 2 ^ 32 * 2 ^ 32 + lvl * 2 ^ 24 + sig * 2 ^ 16 + f * 2 ^ 8 + kind)

/-- ME after the boundary: the registered mask at each level that is due, the bits as they were at the others. -/
def startMasks (s : State) (due : List Nat) (frozen : Bool) (a : Agent) : Vector Word 5 :=
  Vector.ofFn fun k : Fin 5 =>
    match teamAt s a k.val with
    | none => 0
    | some b =>
      if frozen ∨ outsideLevel s a k.val then 0
      else if due.contains b.uid then a.mei[k] else a.me[k]

/-- The vector file of a pinned thread that an abort starts again (R17, R62). -/
def zeroFile (a : Agent) (s : State) : State :=
  s.modCore a.core fun c =>
    if a.slot.isSome ∧ c.vholder = a.slot then
      { c with vregs := Vector.replicate 32 0, vmask := Vector.replicate 8 0, vpois := Vector.replicate 32 0, mpois := 0 }
    else c

/-- A thread that waited for its instant goes on: a pinned one in its slot, which a husk may hold (R354), another READY; a rival
waits in the die queue (R15, R320). -/
def wake (tid : Nat) (s : State) : State :=
  match s.getAgent tid with
  | none => s
  | some a =>
    if a.slot.isSome || a.husked.isSome then s.modAgent tid fun a => Agent.newChunk { a with state := .held }
    else if a.rival then enqueueSeed (dieOf a.core) tid s
    else s.modAgent tid fun a => { a with state := .ready }

/-- One thread of the boundary, evaluated (R61 to R63). -/
def boundaryThread (due : List Nat) (tid : Nat) (s : State) : State :=
  match s.getAgent tid with
  | none => s
  | some a =>
    let was := if a.state = .frozen then some a.cause else none
    match evalFrames s due a a.regs.depth 0 with
    | .bad => (faultAt tid cIllegal 0 0 s).modAgent tid fun a => { a with state := .failed }
    | .freeze f lvl sig =>
      let s := s.modAgent tid fun a =>
        { a with state := .frozen, cause := causeRecord 0 lvl sig f 3 }
      [0, 1, 2, 3, 4].foldl (fun s k => match teamAt s a k with
        | some b => if due.contains b.uid then s else clearMe tid k (BitVec.allOnes 64) s
        | none => s) s
    | .abort f lvl sig pc =>
      let s := zeroFile a s
      let s := s.modAgent tid fun a => { a with
        cause := causeRecord (nextInst s due a lvl) lvl sig f 1
        regs := { a.regs.taken with pc := pc, srn := a.regs.srn, depth := f }
        hcfged := a.hcfged }
      wake tid s
    | .ready =>
      let c := match was with
        | some c =>
          let n := c.toNat
          causeRecord (nextInst s due a (field n 26 24)) (field n 26 24) (field n 21 16) (field n 11 8) 2
        | none => 0
      wake tid (s.modAgent tid fun a => { a with cause := c })

/-- The counts of a team's new instant: the running threads whose mask has the bit (R46). -/
def newSigs (s : State) (b : Board) : Vector SigCell 64 :=
  Vector.ofFn fun i : Fin 64 =>
    let n := (emitters s b i.val).length
    { SigCell.quiet with count := n, status := if n = 0 then .absent else .unresolved }

/-- A thread that joins registers its masks and is a member from the new instant on (R281). -/
def joinTeam (b : Board) (a : Agent) (s : State) : State :=
  let fp := a.regs.p[15]
  let mei : Vector Word 5 := Vector.ofFn fun k : Fin 5 =>
    if fp = 0 then 0
    else match rawKey s a.core (fp + BitVec.ofNat 80 (8 * k.val)) with
      | some key => BitVec.ofNat 64 (ofBytes (readViewN s (pkgOf a.core) a.tag key 8))
      | none => 0
  s.modAgent a.tid fun a => { a with
    team := some b.uid, teamVal := b.val, mei := mei, me := Vector.replicate 5 0, joining := none, answer := some true }

/-- A member that TEAML took out is a plain task (R282). -/
def dropMember (tid : Nat) (s : State) : State :=
  leaveTeam tid (s.modAgent tid fun a => { a with leaving := false, answer := some true })

/-- The exchanges of a team are over: none of its participants is on the way (R36, R150). -/
def exchangeOver (s : State) (uid : Nat) : Bool :=
  s.allLcs.all fun lc => lc.xp.team != uid || lc.xp.state == .idle || lc.xp.state == .done

/-- The exchange of a team's new instant: its participants are the logical cores that hold its threads (R148). -/
def newExchange (s : State) (b : Board) : Exchange :=
  { ranks := ((threads s).filter (threadOf s b)).foldl (fun l a => insertNat a.lcore l) [], calendar := none
    gen := 0, units := [], residual := none }

/-- A participant is IDLE again after the boundary (R150). An overrun that no XWAIT has raised is raised at its
source's first instruction (R153). -/
def closeExchange (uid : Nat) (s : State) : State :=
  (s.allLcs.filter fun lc => lc.xp.team == uid && lc.xp.state == .done).foldl (fun s lc =>
    let s := s.modLc lc.id fun lc => { lc with xp := { XPart.idle with last := lc.xp.last } }
    if lc.xp.overran then
      s.modAgent lc.xp.by_ (holdTrap cOverrun .x 0)
    else s) s

/-- The boundary of a team may take place. -/
def boundaryReady (s : State) (b : Board) : Bool :=
  b.comm && !b.ended && !b.paused && (boundarySet 12 s b.uid).all fun u => exchangeOver s u &&
    (members s u).all fun a => (List.range a.regs.depth).all fun f => (frameRecord s a f).isSome

/-- INSTANT_START (R36, R46, R61). The record of a trap goes with its instant: a RESOLVE of a handler that still runs
writes 0 (DESIGN CHOICE, notes/assumptions/61.md). -/
def instantStart (uid : Nat) (s : State) : State :=
  match s.getBoard uid with
  | none => s
  | some b =>
    if !boundaryReady s b then s
    else
      let due := boundarySet 12 s uid
      let s := (due.flatMap fun u => (threads s).filter (·.joining == some u)).foldl (fun s a =>
        match a.joining.bind s.getBoard with
        | some b => joinTeam b a s
        | none => s) s
      let leavers := due.flatMap fun u => (members s u).filter (·.leaving)
      let waiting := due.flatMap fun u => (members s u).filter fun a => a.state == .paused || a.state == .frozen
      let s := waiting.foldl (fun s a => boundaryThread due a.tid s) s
      let s := leavers.foldl (fun s a => dropMember a.tid s) s
      let s := (due.flatMap fun u => members s u).foldl (fun s a =>
        s.modAgent a.tid fun a => { a with me := startMasks s due (a.state == .frozen) a }) s
      let s := due.foldl (fun s u => closeExchange u s) s
      due.foldl (fun s u => match s.getBoard u with
        | some b => s.modBoard u fun b' => { b' with
            inst := b.inst + 1, comm := false, paused := false, sigs := newSigs s b, seqn := 0, cycle := []
            xch := some (newExchange s b) }
        | none => s) s

def execInstantStart (team : Nat) (s : State) : Res := event (onBoard team (instantStart team)) s

end Sys2Proof.Machine
end

