-- ==== Sys2Proof/Machine/Exchange.lean ====
section
/-! DEFINITION. The demand-driven exchange (spec/07 R148 to R157; spec/14 R292, R293). -/

namespace Sys2Proof.Machine

/-! Issue (R292, R293). -/

/-- The saddlebag of the thread's own rival. -/
def ownSb (s : State) : List SbEntry :=
  match rivalOf s s.cur with
  | none => []
  | some (wid, idx) => (((s.getWorld wid).bind fun w => w.rivals.find? (·.idx == idx)).map (·.sb)).getD []
/-- The team's instant that runs. -/
def instOf (s : State) (uid : Nat) : Word := ((s.getBoard uid).map (·.inst)).getD 0
/-- A demand of this instant that the thread's own rival holds in its saddlebag: its team and its vector. -/
def heldDemand (s : State) : Option (Nat × List Nat) :=
  (ownSb s).findSome? fun e => match e.op with
    | .demand _ u v _ inst => if inst = instOf s u then some (u, v) else none
    | _ => none
/-- An XGO that goes with it. -/
def heldXgo (s : State) : Bool :=
  (ownSb s).any fun e => match e.op with
    | .xgo _ u _ inst => inst == instOf s u
    | _ => false

/-- `n` words of `size` bytes from an address, as the thread's view holds them. -/
def readTable (va : Addr) (size n : Nat) : Run (List Nat) := do
  let ws ← reachSteps n size va rR
  let s ← get
  require (!ws.any fun a => meetsPoison s a.key size) cUncorrectable va
  return ws.map fun a => ofBytes (readViewN s s.pkg s.cur.tag a.key size)

def execDemand (p : BitVec 4) (h : BitVec 3) (l : Option Lvl) (s : State) : Res := issue { onX with s := false } (do
  let b ← boardAt (l.getD .inner)
  let s ← get
  let ranks := (b.xch.map (·.ranks)).getD []
  let n := ranks.length
  require (decide (n ≤ Config.maxParticipants) && ranks.contains s.cur.lcore) cIllegal
  require (s.lc.xp.state == .idle && (heldDemand s).isNone) cIllegal
  let va ← readP p
  require (va.toNat % 4 = 0) cAlign va
  betweenChunks
  let ws ← readTable va 4 n
  let me := ranks.findIdx (· == s.cur.lcore)
  let vec := (List.range n).zip ws |>.map fun x => if x.1 = me then 0 else x.2
  require (vec.all fun x => decide (x < 2 ^ 24)) cIllegal
  let hd := s.lc.handles[h.toNat]
  require (hd.mode = 2 && hd.logs == 8) cHandle
  if buffered s then holdSb (.demand s.cur.lcore b.uid vec h.toNat b.inst) (4 * n)
  else modify fun s => { s with lc := { s.lc with xp := { XPart.idle with
      state := .posted, team := b.uid, demand := vec, ring := some h.toNat, last := s.lc.xp.last } } }) s

/-- The entries of a send table, in ascending rank; the own one is ignored. -/
def sendEntries (me : Nat) (va : Addr) : Nat → Nat → Run (List (Addr × Nat))
  | 0, _ => return []
  | n + 1, d => do
    let e ←
      if d = me then pure ((0 : Addr), 0)
      else do
        let ws ← readTable (va + BitVec.ofNat 80 (32 * d)) 8 4
        let x := ofBytes (ws.flatMap (toBytes 8))
        let src := BitVec.ofNat 80 (field x 79 0)
        let len := field x 191 128
        require (field x 127 80 = 0) cAlign va
        require (field x 255 192 = 0 && decide (len < 2 ^ 40)) cIllegal
        checkRange src len rR
        pure (src, len)
    return e :: (← sendEntries me va n (d + 1))

/-- The team and the demand vector that an XGO goes with; none where it is not POSTED. -/
def postedDemand (s : State) : Option (Nat × List Nat) :=
  match heldDemand s with
  | some v => if heldXgo s then none else some v
  | none => if s.lc.xp.state = XState.posted then some (s.lc.xp.team, s.lc.xp.demand) else none

/-- The ranks of a team's exchange. -/
def ranksOf (s : State) (uid : Nat) : List Nat := (((s.getBoard uid).bind Board.xch).map Exchange.ranks).getD []

def goReady (n : Nat) (table : List (Addr × Nat)) (tid : Nat) (x : XPart) : XPart :=
  { x with
    state := .ready, table := table, by_ := tid, bytes := List.replicate n 0, units := List.replicate n 0 }

def execXgo (p : BitVec 4) (s : State) : Res := issue { onX with s := false } (do
  let s ← get
  match postedDemand s with
  | none => illegal
  | some (uid, vec) => do
    let va ← readP p
    require (va.toNat % 16 = 0) cAlign va
    betweenChunks
    let n := vec.length
    let table ← sendEntries ((ranksOf s uid).findIdx (· == s.cur.lcore)) va n 0
    if buffered s then holdSb (.xgo s.cur.lcore uid table (instOf s uid)) (32 * n)
    else modify fun s => { s with lc := { s.lc with xp := goReady n table s.cur.tid s.lc.xp } }) s

def execXwait (s : State) : Res := issue { onX with s := false } (do
  betweenChunks
  let s ← get
  if !buffered s then
    match s.lc.xp.state with
    | .idle => pure ()
    | .posted => illegal
    | .done =>
      if s.lc.xp.overran then
        let s' : State := { s with lc := { s.lc with xp := { s.lc.xp with overran := false } } }
        throw (.utrapKeep s' cOverrun)
    | _ => blocked .exchange) s

def execXstat (g h : GOp) (s : State) : Res := issue { onX with s := false } (do
  let r := (← readOp h).toNat % 1024
  let s ← get
  writeOp g (if s.cur.team.isNone then 0 else (s.lc.xp.last[r]?).getD 0)) s

/-! The arbiter (R150, R151, R156). -/

/-- The dies of a span partition whose packages run. -/
def partDies (s : State) (part : Nat) : List Nat :=
  s.packages.flatMap fun p => if p.inReset then []
    else ((List.range 4).map (4 * p.id + ·)).filter fun d => spanPart s (144 * d) == some part
/-- A standby for a primary copy: on another package, else on another die, else the second unit of its die. -/
def standbyFor (dies : List Nat) (c : Nat × Nat) : Nat × Nat :=
  match (dies.find? fun d => d / 4 != c.1 / 4).orElse fun _ => dies.find? (· != c.1) with
  | some d => (d, 0)
  | none => (c.1, 1 - c.2)
/-- An arbiter's copies where they stand first: the primary on the lowest die (DESIGN CHOICE, notes/assumptions/67.md). -/
def freshArbiter (s : State) (part : Nat) : Arbiter :=
  let c : Nat × Nat := ((partDies s part).headD 0, 0)
  { part := part, primary := some c, standby := some (standbyFor (partDies s part) c), missed := 0, gen := 0 }
def arbiterOf (s : State) (part : Nat) : Arbiter := (s.arbiters.find? (·.part == part)).getD (freshArbiter s part)
def setArbiter (a : Arbiter) (s : State) : State :=
  { s with arbiters := a :: s.arbiters.filter (·.part != a.part) }

/-- One round over the sources of R151: the chosen pairs. -/
def choosePhase (d : Nat → Nat → Nat) (p : Nat) : List (Nat × Nat) :=
  (List.range p).foldl (fun chosen s =>
    let best := (List.range p).foldl (fun (best : Option Nat) k =>
      if k ≠ s ∧ ¬ chosen.any (fun x => x.2 == k) ∧ 0 < d s k ∧
          (match best with | some b => decide (d s b < d s k) | none => true) = true then some k else best) none
    match best with
    | some k => chosen ++ [(s, k)]
    | none => chosen) []

/-- The demand matrix as rows. -/
def entry (m : List (List Nat)) (s d : Nat) : Nat := if s = d then 0 else ((m[s]?).bind (·[d]?)).getD 0

/-- The calendar of R151; each phase sets a pair to zero, so `fuel` is P². -/
def calendar (p : Nat) : Nat → List (List Nat) → List XPhase
  | 0, _ => []
  | n + 1, m =>
    match choosePhase (entry m) p with
    | [] => []
    | (s, d) :: l =>
      let len := l.foldl (fun k x => min k (entry m x.1 x.2)) (entry m s d)
      let m' := (List.range p).map fun a => (List.range p).map fun b =>
        if (a, b) ∈ (s, d) :: l then entry m a b - len else entry m a b
      { pairs := (s, d) :: l, len := len } :: calendar p n m'

/-- What a participant is to this exchange: another team's business leaves it one that posted nothing. -/
def xpartOf (s : State) (uid n : Nat) : XPart :=
  let x := (s.getLc n).xp
  if x.team = uid then x else XPart.idle
def modX (s : State) (uid n : Nat) (f : XPart → XPart) : State :=
  s.modLc n fun lc => if lc.xp.team = uid then { lc with xp := f lc.xp } else lc

/-- Every team from a thread's innermost one up to, but without, the given team has paused (R38). -/
def pausedBelow (s : State) (b : Board) (a : Agent) : Bool :=
  ((teamChain s a).takeWhile (·.uid != b.uid)).all (·.paused)

/-- The participant's threads have closed the instant of the team, or are gone (R150)
(DESIGN CHOICE, notes/assumptions/34.md). -/
def participantClosed (s : State) (b : Board) (n : Nat) : Bool :=
  ((threads s).filter fun a => a.lcore == n && threadOf s b a).all fun a => closedThread a && pausedBelow s b a

/-- The calendar of the demand that stands mirrored at the arbiters. -/
def computed (s : State) (uid : Nat) (x : Exchange) : List XPhase :=
  let p := x.ranks.length
  calendar p (p * p) (x.ranks.map fun n => (xpartOf s uid n).demand)

/-- CALENDAR_COMPUTE (R150, R151, R156), by the primary copy of the arbiter: every participant is READY, those that closed
without XGO included; with no DEMAND posted in the instant there is no exchange (DESIGN CHOICE, notes/assumptions/34.md). -/
def calendarCompute (uid : Nat) (s : State) : State :=
  match s.getBoard uid with
  | none => s
  | some b =>
    match b.xch with
    | none => s
    | some x =>
      let asked := x.ranks.any fun n => (xpartOf s uid n).state != .idle
      let ready := x.ranks.all fun n =>
        let p := xpartOf s uid n
        p.state == .ready || ((p.state == .idle || p.state == .posted) && participantClosed s b n)
      if x.calendar.isSome || !asked || !ready || (arbiterOf s s.launch.part).primary.isNone then s
      else
        let p := x.ranks.length
        let s := x.ranks.foldl (fun s n => s.modLc n fun lc =>
          if lc.xp.state = .idle ∨ (lc.xp.team = uid ∧ lc.xp.state = .posted) then
            { lc with xp := { lc.xp with
              state := .ready, team := uid, ring := none, table := []
              demand := if lc.xp.state = .posted then lc.xp.demand else List.replicate p 0
              bytes := List.replicate p 0, units := List.replicate p 0 } }
          else lc) s
        s.modBoard uid fun b => { b with xch := some { x with
          calendar := some (computed s uid x), gen := (arbiterOf s s.launch.part).gen } }
def execCalendarCompute (team : Nat) (s : State) : Res := event (onBoard team (calendarCompute team)) s

/-- The exchange under way with its calendar. -/
def exchangeOf (s : State) (uid : Nat) : Option (Exchange × List XPhase) :=
  ((s.getBoard uid).bind (·.xch)).bind fun x => x.calendar.map fun c => (x, c)
def modXch (uid : Nat) (f : Exchange → Exchange) (s : State) : State :=
  s.modBoard uid fun b => { b with xch := b.xch.map f }

/-- A packet that carries a unit of an exchange of the launch in front. -/
def Packet.unitOf (s : State) (uid : Nat) (p : Packet) : Option XUnit :=
  match p.unit with
  | some (l, u, x) => if l = s.launch.id ∧ u = uid then some x else none
  | none => none
/-- The units of an exchange that have not landed, those on their way included. -/
def unitsLeft (s : State) (uid : Nat) (x : Exchange) : List XUnit := s.packets.filterMap (Packet.unitOf s uid) ++ x.units

/-- A source goes on from the units that have landed: it sends the others again, under the generation of the calendar that it
now goes by (R156). -/
def resend (uid rank gen : Nat) (s : State) : State :=
  { s with packets := s.packets.map fun p =>
      match p.unit, Packet.unitOf s uid p with
      | some (l, u, _), some x =>
        if x.src = rank then { p with st := .sent, reserved := false, unit := some (l, u, { x with gen := gen }) } else p
      | _, _ => p }

/-- CALENDAR_ARRIVAL (R150): a participant that goes by an older generation takes the new one. -/
def calendarArrival (uid rank : Nat) (s : State) : State :=
  match exchangeOf s uid, ((exchangeOf s uid).bind fun e => e.1.ranks[rank]?) with
  | some (x, _), some n =>
    match (xpartOf s uid n).state with
    | .ready => modX s uid n fun p => { p with state := .sending, gen := x.gen }
    | .sending | .residual =>
      if (xpartOf s uid n).gen = x.gen then s else resend uid rank x.gen (modX s uid n fun p => { p with gen := x.gen })
    | _ => s
  | _, _ => s
def execCalendarArrival (team rank : Nat) (s : State) : Res := event (onBoard team (calendarArrival team rank)) s

def ARBITER_MISSES : Nat := 3
/-- ARBITER_HEARTBEAT (R156): the standby counts the heartbeats that it misses one after another. A standby that is gone is
replaced. -/
def execArbiterHeartbeat (beat : Heartbeat) (s : State) : Res := event (fun s =>
  let a := arbiterOf s beat.part
  match a.primary with
  | none => setArbiter { a with missed := a.missed + 1 } s
  | some c => setArbiter { a with
      missed := if beat.lost then a.missed + 1 else 0
      standby := some (a.standby.getD (standbyFor (partDies s beat.part) c)) } s) s

/-- A calendar that has been computed is computed again from the mirrored demand, under the next generation. -/
def recompute (gen : Nat) (s : State) : State :=
  s.launch.boards.foldl (fun s b => match b.xch with
    | some x => if x.calendar.isSome then s.modBoard b.uid fun b => { b with xch := some { x with
        calendar := some (computed s b.uid x), gen := gen } } else s
    | none => s) s
/-- An exchange of the launch in front is under way. -/
def exchanging (s : State) : Bool :=
  s.allLcs.any fun lc => lc.xp.state != .idle && lc.xp.state != .done
/-- Both copies of the arbiter are lost: a launch whose exchange is under way ends. -/
def endExchange (id : Nat) (s : State) : State :=
  if (launchOf s id).phase ≠ .running then s
  else inLaunch id 0 (fun s =>
  if !exchanging s then s
  else endLaunch { recordOf s (Agent.new 0) 2 cRestarted 0 0 .s with lcore := s.lc.id, core := s.lc.core } 1 s) s

/-- The standby has missed three heartbeats and takes over, or both copies are lost. -/
def failoverDue (s : State) (part : Nat) : Bool :=
  let a := arbiterOf s part
  decide (ARBITER_MISSES ≤ a.missed) && (a.standby.isSome || a.primary.isNone)
/-- The standby's calendar is the same, under the next generation number. -/
def failover (part : Nat) (s : State) : State :=
  let a := arbiterOf s part
  let launches := ((s.launch :: s.launches).filter fun l => l.part == part && l.phase == .running).map (·.id)
  if a.missed < ARBITER_MISSES then s
  else match a.standby, a.primary with
  | some c, _ =>
    launches.foldl (fun s l => inLaunch l 0 (recompute (a.gen + 1)) s) (setArbiter
      { a with primary := some c, standby := some (standbyFor (partDies s part) c), missed := 0, gen := a.gen + 1 } s)
  | none, none =>
    launches.foldl (fun s l => endExchange l s) (setArbiter { freshArbiter s part with gen := a.gen + 1 } s)
  | none, some _ => s
/-- ARBITER_FAILOVER (R156), in a span partition in which it is due. -/
def execArbiterFailover (s : State) : Res := event (fun s =>
  match (partsOf s).find? (failoverDue s) with
  | some part => failover part s
  | none => s) s

/-! Sending (R152). -/

def listAt (l : List Nat) (i : Nat) : Nat := (l[i]?).getD 0
def setAt (l : List Nat) (i v : Nat) : List Nat := l.set i v

/-- The demand of source s for receiver d, the bytes its table gives, and the units addressed beyond the demand. -/
def stated (s : State) (uid : Nat) (x : Exchange) (src dst : Nat) : Nat :=
  if src = dst then 0 else ((x.ranks[src]?).map fun n => listAt (xpartOf s uid n).demand dst).getD 0
def given (s : State) (uid : Nat) (x : Exchange) (src dst : Nat) : Nat :=
  if src = dst then 0
  else (((x.ranks[src]?).bind fun n => (xpartOf s uid n).table[dst]?).map (·.2)).getD 0
def hasRing (s : State) (uid : Nat) (x : Exchange) (dst : Nat) : Bool :=
  ((x.ranks[dst]?).bind fun n => (xpartOf s uid n).ring).isSome
def overUnits (s : State) (uid : Nat) (x : Exchange) (src dst : Nat) : Nat :=
  if hasRing s uid x dst then
    ceilDiv (given s uid x src dst - 256 * stated s uid x src dst) 256
  else 0

/-- The bytes of a send range as memory holds them now (R138, R149). -/
def sendBytes (s : State) (core : Nat) (src : Addr) (off n : Nat) : List (Byte × Bool) :=
  (List.range n).map fun i => match rawAcc s core (src + BitVec.ofNat 80 (off + i)) with
    | some a => dataByte s (pkgOf core) 0 a.key
    | none => (0, false)

/-- A unit travels as a bulk packet (R144). -/
def sendUnit (src dst uid : Nat) (u : XUnit) (s : State) : State :=
  let to_ := (s.getLc dst).core
  sendPacket
    { id := 0, core := (s.getLc src).core, cmd := 0, dstPkg := pkgOf to_, dstLc := dst, dstCore := to_, lines := []
      unit := some (s.launch.id, uid, u), st := .sent, reserved := false, inc := (s.getPkg (pkgOf to_)).inc } s

/-- Up to `n` units from the byte cursor of one source for one receiver. -/
def sendUnits (uid src dst : Nat) (residual : Bool) : Nat → State → State
  | 0, s => s
  | n + 1, s =>
    match exchangeOf s uid with
    | none => s
    | some (x, _) =>
      match x.ranks[src]? with
      | none => s
      | some lc =>
        let p := xpartOf s uid lc
        let cur := listAt p.bytes dst
        let left := given s uid x src dst - cur
        if left = 0 ∨ hasRing s uid x dst = false then s
        else
          let len := min 256 left
          let from_ := ((p.table[dst]?).map (·.1)).getD 0
          let u : XUnit :=
            { src := src, dst := dst, idx := listAt p.units dst, residual := residual, gen := p.gen
              data := sendBytes s (s.getLc lc).core from_ cur len }
          let s := modX s uid lc fun p => { p with
            bytes := setAt p.bytes dst (cur + len), units := setAt p.units dst (listAt p.units dst + 1)
            overran := p.overran || residual }
          sendUnits uid src dst residual n (sendUnit lc ((x.ranks[dst]?).getD 0) uid u s)

/-- Every earlier phase into the receiver has been sent by its source and has landed. -/
def phaseReceived (s : State) (uid : Nat) (x : Exchange) (cal : List XPhase) (k dst : Nat) : Bool :=
  ((List.range k).all fun j => ((cal[j]?).map fun ph => ph.pairs.all fun pr =>
    pr.2 != dst || ((x.ranks[pr.1]?).all fun n => decide (j < (xpartOf s uid n).phase))).getD true) &&
  !(unitsLeft s uid x).any fun u => u.dst == dst

/-- EXCHANGE_PHASE_START (R152): the source's next phase; one that does not choose it passes at once. -/
def phaseStart (uid rank : Nat) (s : State) : State :=
  match exchangeOf s uid with
  | none => s
  | some (x, cal) =>
    match x.ranks[rank]? with
    | none => s
    | some n =>
      let p := xpartOf s uid n
      if p.state ≠ .sending ∨ p.gen ≠ x.gen ∨ (s.launch.phase ≠ .running) ∨ (s.getLc n).away then s
      else match cal[p.phase]? with
      | none => s
      | some ph =>
        let next (s : State) : State := modX s uid n fun p => { p with phase := p.phase + 1 }
        match ph.pairs.find? (·.1 == rank) with
        | none => next s
        | some (_, d) =>
          if phaseReceived s uid x cal p.phase d then next (sendUnits uid rank d false ph.len s) else s
def execExchangePhaseStart (team rank : Nat) (s : State) : Res := event (onBoard team (phaseStart team rank)) s

/-! Receiving (R154). -/

/-- The place of a unit in its receiver's ticket order: stated units by source, then overrun units by source. -/
def ticketPlace (s : State) (uid : Nat) (x : Exchange) (dst src idx : Nat) (residual : Bool) : Nat :=
  let p := x.ranks.length
  let sum (f : Nat → Nat) (n : Nat) : Nat := ((List.range n).map f).foldl (· + ·) 0
  let st (k : Nat) : Nat := stated s uid x k dst
  if residual then sum st p + sum (fun k => overUnits s uid x k dst) src + (idx - st src)
  else sum st src + idx

/-- Takes tickets as TKT does, in order, until `n` are taken; the ring may fill first (R106). -/
def takeTickets (uid lc : Nat) (h : BitVec 3) (n : Nat) : Nat → State → State
  | 0, s => s
  | fuel + 1, s =>
    let p := xpartOf s uid lc
    let hd := getHandle s lc h
    if n ≤ p.tickets.length ∨ hd.c + hd.nslot ≤ hd.t then s
    else
      let s := modX s uid lc fun p => { p with tickets := p.tickets ++ [(p.tickets.length, 0, hd.t)] }
      takeTickets uid lc h n fuel (modHandle lc h (fun hd => { hd with t := hd.t + 1 }) s)

/-- The receiver's logical core, its ring, and the ticket at a place in its order, taken now if need be. -/
def ticketAt (uid dst place : Nat) (s : State) : State × Option (Nat × BitVec 3 × Nat) :=
  match exchangeOf s uid with
  | none => (s, none)
  | some (x, _) =>
    match (x.ranks[dst]?).bind fun n => (xpartOf s uid n).ring.map fun h => (n, BitVec.ofNat 3 h) with
    | none => (s, none)
    | some (n, h) =>
      let s := takeTickets uid n h (place + 1) (place + 1) s
      (s, ((xpartOf s uid n).tickets[place]?).map fun t => (n, h, t.2.2))

def markTicket (n : Nat) (h : BitVec 3) (t : Nat) (s : State) : State :=
  modHandle n h (fun hd => if hd.marks.contains t ∨ t < hd.c then hd else { hd with marks := t :: hd.marks }) s

/-- The status word of one source at a receiver (R155). -/
def xstatWord (s : State) (uid : Nat) (x : Exchange) (src dst : Nat) : Word :=
  let st := stated s uid x src dst
  let b := given s uid x src dst
  let sent := ((x.ranks[src]?).map fun n => listAt (xpartOf s uid n).bytes dst).getD 0
  let ring := hasRing s uid x dst
  let bytes := if ring then sent else 0
  let big := 2 ^ 32 - 1
  BitVec.ofNat 64 (min bytes big * 2 ^ 32 + st * 2 ^ 8 + (if big ≤ bytes then 8 else 0)
    + (if st ≠ 0 ∧ ring = false then 4 else 0) + (if 256 * st < b then 2 else 0) + (if ceilDiv b 256 < st then 1 else 0))

/-- A source that still has overrun to send, from rank `k` on. -/
def nextResidual (s : State) (uid : Nat) (x : Exchange) (k : Nat) : Option Nat :=
  (List.range x.ranks.length).find? fun r => decide (k ≤ r) &&
    ((List.range x.ranks.length).any fun d => decide (0 < overUnits s uid x r d))

/-- Once every calendar segment has ended, nothing is on its way and no overrun is left, every participant is DONE. -/
def settle (uid : Nat) (s : State) : State :=
  match exchangeOf s uid with
  | none => s
  | some (x, _) =>
    let parts := x.ranks.filter fun n => (xpartOf s uid n).team == uid && (xpartOf s uid n).state != .done
    if !(unitsLeft s uid x).isEmpty ∨ parts.any (fun n => !(xpartOf s uid n).segEnded) ∨
        (nextResidual s uid x (x.residual.getD 0)).isSome then s
    else
      let p := x.ranks.length
      let words (n : Nat) : List Word :=
        let r := x.ranks.findIdx (· == n)
        (List.range p).map fun k => xstatWord s uid x k r
      let all := parts.map fun n => (n, words n)
      all.foldl (fun s nw => modX s uid nw.1 fun q => { q with state := .done, last := nw.2 }) s

/-- EXCHANGE_UNIT_LANDING (R154): a unit lands whole in its ticketed slot and marks it; with no ticket to be had it
waits. One whose slot is marked already is discarded. -/
def unitLanding (uid k : Nat) (s : State) : State :=
  match exchangeOf s uid with
  | none => s
  | some (x, _) =>
    match x.units[k]? with
    | none => s
    | some u =>
      match ticketAt uid u.dst (ticketPlace s uid x u.dst u.src u.idx u.residual) s with
      | (s, none) => s
      | (s, some (n, h, t)) =>
        let lc := s.getLc n
        let hd := getHandle s n h
        let at_ := placeAddr n (hd.slot t)
        if hd.marks.contains t ∨ t < hd.c then settle uid (modXch uid (fun x => { x with units := x.units.eraseIdx k }) s)
        else if lc.away ∨ coreHalted (s.getCore lc.core) ∨ heldRange s at_ 256 then s
        else
          let cells := ((List.range u.data.length).zip u.data).map fun ib => (at_ + ib.1, ib.2)
          let s := landCells (pkgOf lc.core) 0 cells s
          settle uid (modXch uid (fun x => { x with units := x.units.eraseIdx k }) (markTicket n h t s))
def execExchangeUnitLanding (team k : Nat) (s : State) : Res := event (onBoard team (unitLanding team k)) s

/-- Marks the slots of the stated units that a source never sends to one receiver; false where a ticket is wanting. -/
def markVoid (uid src dst : Nat) (s : State) : State × Bool :=
  match exchangeOf s uid with
  | none => (s, true)
  | some (x, _) =>
    if hasRing s uid x dst = false then (s, true)
    else
      let sent := ((x.ranks[src]?).map fun n => listAt (xpartOf s uid n).units dst).getD 0
      let st := stated s uid x src dst
      (List.range (st - sent)).foldl (fun (r : State × Bool) i =>
        match ticketAt uid dst (ticketPlace r.1 uid x dst src (sent + i) false) r.1 with
        | (s, some (n, h, t)) => (markTicket n h t s, r.2)
        | (s, none) => (s, false)) (s, true)

/-- EXCHANGE_SEGMENT_END (R153, R154): the source has sent every phase, and its units have landed. -/
def segmentEnd (uid rank : Nat) (s : State) : State :=
  match exchangeOf s uid with
  | none => s
  | some (x, cal) =>
    match x.ranks[rank]? with
    | none => s
    | some n =>
      let p := xpartOf s uid n
      if p.state ≠ .sending ∨ p.segEnded ∨ p.phase < cal.length ∨ (unitsLeft s uid x).any (·.src == rank) then s
      else
        let r := (List.range x.ranks.length).foldl (fun (r : State × Bool) d =>
          let v := markVoid uid rank d r.1
          (v.1, r.2 && v.2)) (s, true)
        if !r.2 then r.1
        else
          let more := (List.range x.ranks.length).any fun d => decide (0 < overUnits s uid x rank d)
          settle uid (modX r.1 uid n fun p => { p with segEnded := true, state := if more then .residual else .sending })
def execExchangeSegmentEnd (team rank : Nat) (s : State) : Res := event (onBoard team (segmentEnd team rank)) s

/-- RESIDUAL_PHASE_START (R153): the next source sends its overrun, receiver by receiver. -/
def residualStart (uid : Nat) (s : State) : State :=
  match exchangeOf s uid with
  | none => s
  | some (x, _) =>
    let parts := x.ranks.filter fun n => (xpartOf s uid n).team == uid
    if !(unitsLeft s uid x).isEmpty ∨ parts.any (fun n => !(xpartOf s uid n).segEnded || (xpartOf s uid n).gen != x.gen) ∨ s.launch.phase ≠ .running then s
    else match nextResidual s uid x (x.residual.getD 0) with
    | none => settle uid s
    | some r =>
      let s := (List.range x.ranks.length).foldl (fun s d => sendUnits uid r d true (overUnits s uid x r d) s) s
      let s := match x.ranks[r]? with
        | some n => modX s uid n fun p => { p with resEnded := true }
        | none => s
      modXch uid (fun x => { x with residual := some (r + 1) }) s
def execResidualPhaseStart (team : Nat) (s : State) : Res := event (onBoard team (residualStart team)) s

end Sys2Proof.Machine
end

