-- ==== Sys2Proof/Machine/Worlds.lean ====
section
/-! DEFINITION. Worlds (spec/03; spec/14 R290, R291). -/

namespace Sys2Proof.Machine

/-! Values that FORKW writes (R66). -/
def forkForked : Word := 0x100
def forkNoTag : Word := 0x201
def forkDepth : Word := 0x202
def forkNoBoard : Word := 0x203
def forkOpen : Word := 0x204

/-- The world depth of the thread in front (R82). -/
def worldDepth (s : State) : Nat := ((s.getView s.pkg s.cur.tag).map (·.depth)).getD 0

/-- The thread's current or last-resolved world (R76). -/
def ownWorld (s : State) : Option World := s.cur.own.bind s.getWorld

/-- A resolution unit has a free board (R51). -/
def boardFree (s : State) (unit : Nat) : Bool :=
  let ls := s.launch :: s.launches
  decide ((ls.flatMap (·.boards)).countP (fun b => b.unit == unit && !b.ended) + (ls.flatMap (·.reserved)).count unit
    < Config.boardsPerUnit)

/-- FORKW counts of an agent for the order log: key kind 0 (R165). -/
def forkOrigin (s : State) (lc sq : Nat) : Nat := sq * 2 ^ 58 + lc * 2 ^ 40 + ordCount s lc sq 0 % 2 ^ 40
def bumpOrd (lc sq kind : Nat) (s : State) : State :=
  s.modLaunch fun l => { l with ords := aset (ordKey lc sq kind) (ordCount s lc sq kind + 1) l.ords }

/-- The seed of rival k (R67, R72). -/
def rivalSeed (f : Agent) (tid wid tag k : Nat) (g : Nat) (team : Option (Nat × BitVec 32)) : Agent :=
  let z := Regs.zero
  let gs := ((z.g.set 1 f.regs.g[1]).set 2 f.regs.g[2]).set 3 f.regs.g[3]
  let regs := { z with
    pc := f.npc, p := z.p.set 15 f.regs.p[15], g := gs.set (g % 64) (BitVec.ofNat 64 k) (by omega), q := f.regs.q }
  let lvl := match team with
    | some (_, v) => field v.toNat 31 29
    | none => 5
  { Agent.new tid with
    launch := f.launch, core := f.core, lcore := f.lcore, regs := regs, state := .ready, rival := true, key := f.key
    team := team.map (·.1), teamVal := (team.map (·.2)).getD noTeam, tag := tag, world := some wid, ridx := k
    me := Vector.ofFn fun i : Fin 5 => if i.val = lvl then BitVec.allOnes 64 else 0
    chunk := Chunk.empty regs }

/-- The board of the rival team (R72): in instant 0 each of its n rivals may emit every signal
(DESIGN CHOICE, notes/assumptions/32.md). -/
def rivalBoard (t : Board) (uid wid n lc die id : Nat) : Board :=
  { uid := uid, val := BitVec.ofNat 32 (t.level * 2 ^ 29 + (0x800000 + id % 0x7FFFFF)), level := t.level, unit := die
    parent := some t.uid, world := some wid, inst := 0, comm := false
    sigs := Vector.replicate 64 { SigCell.quiet with count := n, status := .unresolved }
    handler := none, seqn := 0, serving := false, cycle := [], trapInst := 0, paused := false, ended := false
    xch := some { ranks := [lc], calendar := none, gen := 0, units := [], residual := none } }

/-- The world is made: tags, views, seeds, and the rival team. -/
def makeWorld (g n : Nat) (s : State) : State :=
  let f := s.cur
  let pkg := s.pkg
  let wid := s.launch.id * 2 ^ 32 + s.launch.nextWid
  let uid := s.launch.id * 2 ^ 32 + s.launch.nextUid
  let tags := (s.getPkg pkg).freeTags.take n
  let depth := worldDepth s + 1
  let die := dieOf f.core
  let board := (f.team.bind s.getBoard).map fun t => rivalBoard t uid wid n f.lcore die s.launch.nextUid
  let ks := (List.range n).zip tags
  let seeds := ks.map fun kt => rivalSeed f (s.nextTid + kt.1) wid kt.2 kt.1 g (board.map fun b => (b.uid, b.val))
  let w : World :=
    { wid := wid, forker := f.tid, lcore := f.lcore, pkg := pkg, n := n, depth := depth, ptag := f.tag
      state := .opened, winner := none, committing := none, linesDone := false, claims := [], team := board.map (·.uid)
      origin := forkOrigin s f.lcore (seqCode f.seq)
      rivals := ks.map fun kt =>
        { idx := kt.1, tid := s.nextTid + kt.1, tag := kt.2, code := .live, cause := 0, lines := 0, sb := [],
          sbEnt := 0, sbLen := 0 } }
  let views := ks.map fun kt =>
    { pkg := pkg, tag := kt.2, ptag := f.tag, idx := kt.1, n1 := n - 1, depth := depth, gone := false, lines := [] : View }
  let s := s.modPkg pkg fun p => { p with freeTags := p.freeTags.drop n }
  let s := s.modLaunch fun l => { l with
    worlds := l.worlds ++ [w], views := l.views ++ views, boards := l.boards ++ board.toList
    nextWid := l.nextWid + 1, nextUid := l.nextUid + 1 }
  let s := { s with agents := s.agents ++ seeds, nextTid := s.nextTid + n }
  let s := seeds.foldl (fun s a => enqueueSeed die a.tid s) s
  bumpOrd f.lcore (seqCode f.seq) 0 (s.modCur fun a => { a with own := some wid })

/-- FORKW (R66). Outside FREE a fork that finds too few tags or no board waits (R291). -/
def execForkw (g : BitVec 2) (n1 : BitVec 4) (s : State) : Res := issue { onX with s := false } (do
  require (g ≠ 0 && n1 ≠ 0) cIllegal
  betweenChunks
  let s ← get
  let n := n1.toNat + 1
  let reg : GReg := g.setWidth 6
  let open_ := match ownWorld s with
    | some w => w.state != WState.resolved
    | none => false
  let noTag := decide ((s.getPkg s.pkg).freeTags.length < n)
  let noBoard := s.cur.team.isSome && !boardFree s (dieOf s.cur.core)
  let forget : State → State := fun s => s.modCur fun a => { a with own := none }
  if open_ then writeG reg forkOpen
  else if worldDepth s = 4 then
    modify forget
    writeG reg forkDepth
  else if (noTag || noBoard) && s.launch.mode != Mode.free then stalled .world
  else if noTag then
    modify forget
    writeG reg forkNoTag
  else if noBoard then
    modify forget
    writeG reg forkNoBoard
  else
    if loadMarks s 1 || loadMarks s 2 || loadMarks s 3 then stalled .loads
    if vectorMarks s 1 || vectorMarks s 2 || vectorMarks s 3 then stalled .vector
    let _ ← readP 15
    modify (makeWorld g.toNat n)
    writeG reg forkForked) s

def execWidx (g : GOp) (s : State) : Res := issue { onX with s := false } (do
  let a := (← get).cur
  writeOp g (if a.world.isSome then BitVec.ofNat 64 a.ridx else BitVec.allOnes 64)) s

/-- CLAIMW (R75): the claim goes to the arbiter; the rival's CLAIMW never returns. In a promoted rival it is DONE. -/
def execClaimw (s : State) : Res := issue { onX with s := false } (do
  let a := (← get).cur
  match a.world with
  | none => illegal
  | some wid =>
    if a.promoted then runDone
    else do
      betweenChunks
      if !a.asking then
        modify fun s => (s.modWorld wid fun w => { w with claims := w.claims ++ [a.ridx] }).modCur
          fun a => { a with asking := true }
      keepStalled .answer) s

def codeNat : EndCode → Nat
  | .live => 0 | .done => 1 | .claimed => 2 | .killed => 3 | .abandoned => 4 | .failed => 5 | .promoted => 6

/-- JOINW's value: END of rival k in bits 4k + 3 to 4k, NONE beyond the last (R76). -/
def joinValue (w : World) : Word :=
  BitVec.ofNat 64 ((List.range 16).foldl (fun v k =>
    v + (match w.rivals.find? (·.idx == k) with
      | some r => codeNat r.code
      | none => 15) * 16 ^ k) 0)

/-- Waits until no rival is LIVE and a commit under way is complete (R76, R77). -/
def awaitWorld (w : World) : Run Unit := do
  if w.state ≠ .resolved ∧ ¬ worldOver w then blocked .world

def execJoinw (g : GOp) (s : State) : Res := issue { onX with s := false } (do
  betweenChunks
  match ownWorld (← get) with
  | none => writeOp g (BitVec.allOnes 64)
  | some w => do
    awaitWorld w
    writeOp g (joinValue w)) s

/-- CHOOSEW (R76). A commit that it starts is awaited; the world is then RESOLVED. -/
def execChoosew (q : QDst) (g : GOp) (s : State) : Res := issue { onX with s := false } (do
  betweenChunks
  match ownWorld (← get) with
  | none => do
    let _ ← readOp g
    writeQDst q false
  | some w => do
    awaitWorld w
    let v := (← readOp g).toNat
    if 16 ≤ v then writeQDst q false
    else if w.state = .resolved then writeQDst q (w.winner == some v)
    else match (w.rivals.find? (·.idx == v)).map (·.code) with
      | some EndCode.done =>
        startWaiting (fun s => s.modWorld w.wid fun w => { w with committing := some v, linesDone := false }) (.blocked .world)
      | c => do
        modify (discardWorld w.wid)
        writeQDst q (c == some EndCode.promoted)) s

def execAbandw (s : State) : Res := issue { onX with s := false } (do
  let a := (← get).cur
  match a.world with
  | none => illegal
  | some wid =>
    if a.promoted then runDone
    else do
      betweenChunks
      if hitched (← get) then awaitHitch
      modify fun s => endRival wid a.ridx .abandoned 0 s) s

/-- WSTAT's word (R76) (DEDUCED, notes/assumptions/35.md). -/
def wstatWord (s : State) (w : World) (r : Rival) : Word :=
  let live := r.code == .live
  let lines := if live then ((s.getView w.pkg r.tag).map fun v => v.lines.length).getD r.lines else r.lines
  let ent := if live then r.sb.length else r.sbEnt
  let len := if live then sbTotal r else r.sbLen
  BitVec.ofNat 64 (min lines 0xFFFF * 2 ^ 48 + ent % 256 * 2 ^ 40 + len % 65536 * 2 ^ 24
    + (if r.code = .failed then r.cause.toNat * 2 ^ 16 else 0) + codeNat r.code)

def execWstat (g h : GOp) (s : State) : Res := issue { onX with s := false } (do
  let k := (← readOp h).toNat % 16
  let s ← get
  writeOp g (match (ownWorld s).bind fun w => (w.rivals.find? (·.idx == k)).map fun r => (w, r) with
    | some (w, r) => wstatWord s w r
    | none => 0xF)) s

/-! The arbiter (R75). -/

/-- A rival runs now: it is killed at its next instruction boundary, any other at once. -/
def runsNow (a : Agent) : Bool := a.state == .held && a.slot.isSome && a.wait.isNone

/-- The claim of a rival arrives first, and wins; those that had ended DONE lose their views. -/
def winClaim (wid idx : Nat) (s : State) : State :=
  match s.getWorld wid with
  | none => s
  | some w =>
    let s := focusCore s.cur.core (logEvent (focusCore (((s.getAgent w.forker).map (·.core)).getD s.core.id) s)
      w.lcore 0 3 (siteWorld wid) (some w.origin))
    let s := s.modWorld wid fun w =>
      { w with state := .claimed, winner := some idx, committing := some idx, linesDone := false, claims := [] }
    w.rivals.foldl (fun s r =>
      if r.idx = idx then s
      else match r.code with
      | .live => match s.getAgent r.tid with
        | some a => if runsNow a then s.modAgent r.tid fun a => { a with killed := true } else endRival wid r.idx .killed 0 s
        | none => s
      | .done => (discardView w.pkg r.tag s).modRival wid r.idx fun r => { r with sb := [], tag := 0 }
      | _ => s) s

/-- CLAIM_ARRIVAL (R75): a claim on its way comes first to the arbiter. Under REPLAY it wins only where the log names the
world, and is killed where the log names no claim of its agent (R166, R291); one that a full log does not name waits until
the replay goes on in FREE. A record names no rival, and of several claims on their way the first issued comes first, in the
recorded run too (DESIGN CHOICE, notes/assumptions/28.md). -/
def claimArrival (wid : Nat) (s : State) : State :=
  match s.getWorld wid with
  | none => s
  | some w =>
    match if s.launch.mode = .free then pickOne s.cycle w.claims else w.claims.head? with
    | none => s
    | some idx =>
      let drop (s : State) : State := s.modWorld wid fun w => { w with claims := w.claims.erase idx }
      let live := w.rivals.any fun r => r.idx == idx && r.code == .live
      if !live ∨ w.state ≠ .opened ∨ w.committing.isSome then drop s
      else if s.launch.mode = .replay then
        match loggedPred (focusCore (((s.getAgent w.forker).map (·.core)).getD s.core.id) s) w.lcore 0 3 with
        | some p => if p = w.origin then winClaim wid idx s else s
        | none => if logFull s then s else endRival wid idx .killed 0 (drop s)
      else winClaim wid idx s

def onWorld (wid : Nat) (f : State → State) (s : State) : State :=
  if (s.getWorld wid).isSome then f s
  else match s.launches.find? fun l => l.worlds.any (·.wid == wid) with
    | some l => inLaunch l.id 0 f s
    | none => s

def execClaimArrival (k : Nat) (s : State) : Res := event (onWorld k (claimArrival k)) s

/-- RIVAL_KILL (R75). -/
def execRivalKill (tid : Nat) (s : State) : Res := event (fun s =>
  match s.getAgent tid with
  | none => s
  | some a =>
    match a.killed, a.world with
    | true, some wid => onAgent tid (fun _ s =>
        (endRival wid a.ridx .killed 0 s).modAgent tid fun a => { a with killed := false }) s
    | _, _ => s) s

/-! The commit of a view (R77 to R79). -/

/-- One line enters the parent view: memory, or the copies of the rival that owns it, in place of the copy that stands
there. -/
def commitLine (pkg ptag : Nat) (l : VLine) (s : State) : State :=
  let s := noteCommit s pkg ptag l.line
  if ptag = 0 ∨ (s.getView pkg ptag).isNone then
    let byte (s : State) (k : Nat) (b : Byte) : Byte := match recordAccess s k with
      | some a => a.commit (baseByte s k) b
      | none => b
    let s0 := s
    let s := (List.range 64).foldl (fun s i =>
      setBaseByte s (64 * l.line + i) (byte s0 (64 * l.line + i) (lineByte l.data i))) s
    (List.range 8).foldl (fun s i =>
      setBasePois (setBaseEmpty s (64 * l.line + 8 * i) (l.empty.getLsbD i)) (64 * l.line + 8 * i) (l.pois.getLsbD i)) s
  else modView s pkg ptag fun v => { v with lines := l :: v.lines.filter (·.line != l.line) }

/-- The lines of a view enter its parent view, as one event. Copies that pass into a rival's view keep their room, and
those that they replace give theirs back (R71). -/
def commitLines (pkg tag ptag : Nat) (s : State) : State :=
  let lines := ((s.getView pkg tag).map (·.lines)).getD []
  let s' := lines.reverse.foldl (fun s l => commitLine pkg ptag l s) s
  match s.getView pkg ptag with
  | none => madeResident s s' (lines.flatMap fun l => (List.range 4).map fun i => 64 * l.line + 16 * i)
  | some p =>
    let replaced := (lines.filter fun l => p.lines.any (·.line == l.line)).length
    (modView s' pkg tag fun v => { v with lines := [] }).modPkg pkg fun k => { k with tagLines := k.tagLines + replaced }

/-- The loads of a rival's thread have returned. -/
def loadsReturned (s : State) (tid : Nat) : Bool := (s.getAgent tid).all (·.loads.isEmpty)

/-- The team's instant in which an entry was issued has not closed: the DEMAND or XGO takes part in its exchange (R157). -/
def inInstant (s : State) (uid : Nat) (inst : Word) : Bool :=
  (s.getBoard uid).any fun b => b.inst == inst && !b.comm && !b.ended

/-- The release of one entry by the core of the forker (R78): true where it has been issued. An entry with `.rel` performs
as a release: steps 2 and 3 of R136 come before it (R141). -/
def issueEntry (core : Nat) (place : Fin 7) (w : World) (e : SbEntry) (s : State) : State × Bool :=
  let rel : Released := { lcore := e.lcore, ridx := e.ridx, sub := e.sub, seq := e.seq }
  let p := (s.getCore core).places[place]
  match e.op with
  | .posted va key req isRel =>
    if isRel ∧ (!loadsReturned s e.tid ∨ p.entries.any (!·.sent)) then (s, false)
    else if isRel ∧ !p.posted.isEmpty then (sendMarkers core place s, false)
    else if isRel ∧ (!p.entries.isEmpty ∨ !p.markers.isEmpty) then (s, false)
    else match (List.range Config.journalSize).find? fun k => !p.entries.any fun x => x.id.entry == k with
    | none => (s, false)
    | some k =>
        let dst := (rawAcc s core va).getD { key := key, home := e.lcore, pkg := w.pkg }
        let j : JEntry :=
          { id := { core := core, place := place.val, lcore := e.lcore, entry := k, seqn := 0 }, tid := e.tid
            launch := s.launch.id, seq := e.seq, pkg := dst.pkg, home := dst.home
            va := va, key := key, req := req, sent := false, hold := false, released := some rel }
        (s.modPlace core place fun p => { p with entries := p.entries ++ [j] }, true)
  | .walker c =>
    let k := s.getCore core
    if Config.walkerSize ≤ k.walker.length then (s, false)
    else
      (s.modCore core fun k => { k with
        walker := k.walker ++ [{ c with id := k.nextCmd, tag := w.ptag, released := some rel }]
        nextCmd := k.nextCmd + 1 }, true)
  | .emit uid sig val => (sendBoard (.emit uid sig val e.tid 0 (some rel)) s, true)
  | .demand lc team vec ring inst =>
    if !inInstant s team inst then (s, true)
    else if (s.getLc lc).xp.state ≠ .idle then (releasedFault rel cIllegal 0 s, true)
    else (s.modLc lc fun l => { l with xp := { XPart.idle with
          state := .posted, team := team, demand := vec, ring := some ring, last := l.xp.last } }, true)
  | .xgo lc team table inst =>
    if !inInstant s team inst then (s, true)
    else if (s.getLc lc).xp.state ≠ .posted ∨ (s.getLc lc).xp.team ≠ team then (releasedFault rel cIllegal 0 s, true)
    else (s.modLc lc fun l => { l with xp := goReady table.length table e.tid l.xp }, true)
  | .notify part queue => (readWidx part queue s, true)

/-- The entries in order, until one cannot be issued yet: those left. -/
def issueEntries (core : Nat) (place : Fin 7) (w : World) : List SbEntry → State → State × List SbEntry
  | [], s => (s, [])
  | e :: l, s =>
    match issueEntry core place w e s with
    | (s, true) => issueEntries core place w l s
    | (s, false) => (s, e :: l)

/-- Views nested in a view, with those nested in them in turn. -/
def nestedTags : Nat → State → Nat → Nat → List Nat
  | 0, _, _, _ => []
  | n + 1, s, pkg, tag =>
    ((s.launch.views.filter fun v => v.pkg == pkg && v.ptag == tag).map (·.tag)).flatMap fun t =>
      t :: nestedTags n s pkg t

/-- What carried the tag of a committed view carries its parent's: threads, tasks and walker commands (R79, R158). -/
def retag (pkg old new : Nat) (s : State) : State :=
  let carries (a : Agent) : Bool := a.launch == s.launch.id && a.tag == old && pkgOf a.core == pkg
  let tids := (s.allAgents.filter carries).map (·.tid)
  let keep (e : QEntry) : QEntry := if tids.contains e.tid then { e with tagged := new ≠ 0 } else e
  let cmd (w : WCmd) : WCmd := if w.tag = old ∧ w.launch = s.launch.id then { w with tag := new } else w
  let s := s.mapAgents fun a => if carries a then { a with tag := new } else a
  let queue (q : DieQ) : DieQ :=
    { q with entries := q.entries.map keep, ring := q.ring.map keep, holding := q.holding.map fun h => (keep h.1, h.2) }
  let s := { s with dieqs := s.dieqs.map queue }
  s.mapCores fun (c : Core) => if pkgOf c.id = pkg then { c with walker := c.walker.map cmd } else c

/-- A world that was forked in a committed view is carried into the parent view: so for a promoted rival (R79), and for one
that ends CLAIMED with such a world open (DESIGN CHOICE, notes/assumptions/35.md). -/
def carryNested (w : World) (r : Rival) (s : State) : State :=
  let inner := nestedTags 5 s w.pkg r.tag
  s.modLaunch fun l => { l with
    views := l.views.map fun v =>
      if v.pkg = w.pkg ∧ inner.contains v.tag then
        { v with depth := v.depth - 1, ptag := if v.ptag = r.tag then w.ptag else v.ptag } else v
    worlds := l.worlds.map fun x =>
      if x.pkg = w.pkg ∧ x.state ≠ .resolved ∧ (x.ptag = r.tag ∨ inner.contains x.ptag) then
        { x with depth := x.depth - 1, ptag := if x.ptag = r.tag then w.ptag else x.ptag } else x }

/-- The lines of a rival's view enter the parent view, and what ran in the view runs in the parent from then on, as one event
(R77). -/
def enterParent (w : World) (r : Rival) (s : State) : State :=
  let n := ((s.getView w.pkg r.tag).map (·.lines.length)).getD 0
  let s := if r.code = .live then s.modRival w.wid r.idx fun r => { r with lines := n } else s
  let s := retag w.pkg r.tag w.ptag (carryNested w r (commitLines w.pkg r.tag w.ptag s))
  s.modWorld w.wid fun w => { w with linesDone := true }

/-- The sole survivor is promoted (R79). -/
def promote (w : World) (r : Rival) (s : State) : State :=
  let s := s.mapAgents fun a =>
    if a.world = some w.wid ∧ a.ridx = r.idx then { a with rival := false, promoted := true } else a
  let s := discardView w.pkg r.tag s
  let s := s.modRival w.wid r.idx fun r => { r with tag := 0 }
  s.modWorld w.wid fun w => { w with state := .promoted, winner := some r.idx, committing := none }

/-- What follows a complete commit: the claimer ends, the sole survivor is promoted, or the world is resolved by
CHOOSEW. A claimer that is hitched gives the hitch back at once, as a killed rival does (R275)
(DESIGN CHOICE, notes/assumptions/35.md). -/
def finishCommit (w : World) (r : Rival) (s : State) : State :=
  match w.state, r.code with
  | .claimed, _ =>
    let s := endRival w.wid r.idx .claimed 0 s
    let s := (discardView w.pkg r.tag s).modRival w.wid r.idx fun r => { r with tag := 0, sb := [] }
    checkWorld w.wid (s.modWorld w.wid fun w => { w with committing := none })
  | _, .live => promote w r s
  | _, _ => discardWorld w.wid (s.modWorld w.wid fun w => { w with committing := none, winner := some r.idx })

/-- The LIVE rival that owns a view. -/
def viewOwner (s : State) (pkg tag : Nat) : Option (World × Rival) :=
  if tag = 0 then none
  else s.launch.worlds.findSome? fun w => if w.pkg = pkg then
    (w.rivals.find? fun r => r.tag == tag && r.code == .live).map fun r => (w, r) else none

/-- The saddlebag of a committed view passes into that of the rival that owns the parent view; where it does not fit,
that rival fails (R78, R80). -/
def passEntries (r : Rival) (o : World × Rival) (s : State) : State × Bool :=
  let n := o.2.sb.length + r.sb.length
  let b := sbTotal o.2 + sbTotal r
  if Config.sbEntries < n ∨ Config.sbBytes < b then (failRival o.1.wid o.2.idx cEscape 0 0 .x s, false)
  else (s.modRival o.1.wid o.2.idx fun x => { x with sb := x.sb ++ r.sb }, true)

/-- The parent view's own commit comes first. -/
def parentWaits (s : State) (w : World) : Bool :=
  (viewOwner s w.pkg w.ptag).any fun o => o.1.committing == some o.2.idx

/-- VIEW_COMMIT_COMPLETE (R77): the lines enter the parent view as one event; then the saddlebag is released. -/
def viewCommit (wid idx : Nat) (s : State) : State :=
  match s.getWorld wid with
  | none => s
  | some w =>
    match w.rivals.find? (·.idx == idx) with
    | none => s
    | some r =>
      if w.committing ≠ some idx then s
      else
        let lines := ((s.getView w.pkg r.tag).map (·.lines)).getD []
        if parentWaits s w ∨ (!w.linesDone ∧ lines.any fun l => reservedLine s w.pkg w.ptag 0 l.line) then s
        else
        let s := if w.linesDone then s else enterParent w r s
        match viewOwner s w.pkg w.ptag with
        | some o =>
          match passEntries r o s with
          | (s, true) => finishCommit w r (s.modRival wid idx fun r => { r with sb := [] })
          | (s, false) => s
        | none =>
          let f := s.getAgent w.forker
          let core := (f.map (·.core)).getD 0
          let place : Fin 7 := (f.map (·.place)).getD 0
          match issueEntries core place w r.sb s with
          | (s, []) => finishCommit w r (s.modRival wid idx fun r => { r with sb := [] })
          | (s, left) => s.modRival wid idx fun r => { r with sb := left }

def execViewCommitComplete (wid idx : Nat) (s : State) : Res := event (onWorld wid (viewCommit wid idx)) s

/-- What a discarded view has left is dropped, once the last command that was issued in it has finished (R68, R275). -/
def dropGone (pkg tag : Nat) (s : State) : State :=
  (((s.launch :: s.launches).filter fun l => l.views.any fun v => v.pkg == pkg && v.tag == tag && v.gone).map (·.id)).foldl
    (fun s l => inLaunch l 0 (dropView pkg tag) s) s

/-- VIEW_TAG_FREE (R68): no line, thread or walker command carries the tag any more. -/
def tagClean (s : State) (pkg tag : Nat) : Bool :=
  !s.allAgents.any (fun a => a.tag == tag && pkgOf a.core == pkg && a.state != .done && a.state != .failed) &&
  s.allCores.all fun c => pkgOf c.id != pkg || c.walker.all (·.tag != tag)
def execViewTagFree (pkg tag : Nat) (s : State) : Res := event (fun s =>
  if (s.getPkg pkg).dirtyTags.contains tag && tagClean s pkg tag then
    (dropGone pkg tag s).modPkg pkg fun p => { p with dirtyTags := p.dirtyTags.filter (· != tag), freeTags := p.freeTags ++ [tag] }
  else s) s

end Sys2Proof.Machine
end

