-- ==== Sys2Proof/Machine/Tasks.lean ====
section
/-! DEFINITION. Tasks, spill rings, batch cards, launch order and profiling (spec/08 R158 to R163, R169; spec/14 R294,
R296, R297; spec/21 R340). -/

namespace Sys2Proof.Machine

/-! Seeds as records (R12 to R14). -/

/-- A seed that breaks R14. -/
def seedBroken (x : Nat) : Bool :=
  field x 511 480 != 0 || field x 200 199 != 0 || bit x 195 || field x 188 184 != 0 || decide (4 < field x 191 189)
    || decide (8 < field x 223 216) || decide (6 ≤ field x 194 192)
/-- A seed that SPAWN refuses (R158, R294). -/
def seedBad (x : Nat) : Bool :=
  seedBroken x || field x 194 192 != 0 || field x 183 160 != 0xFFFFFF || bit x 196 || bit x 198

/-- The fields of a seed record in a thread. -/
def loadSeed (x : Nat) (a : Agent) : Agent :=
  let z := Regs.zero
  let regs := { z with
    pc := BitVec.ofNat 80 (field x 79 0)
    p := z.p.set 15 (BitVec.ofNat 80 (field x 159 80))
    g := ((z.g.set 1 (BitVec.ofNat 64 (field x 351 288))).set 2 (BitVec.ofNat 64 (field x 415 352))).set 3
      (BitVec.ofNat 64 (field x 479 416))
    q := BitVec.ofNat 8 (field x 207 201 * 2 + 1)
    depth := field x 223 216 }
  { a with
    regs := regs, key := BitVec.ofNat 64 (field x 287 224), tag := field x 215 208
    up := bit x 197, chunk := Chunk.empty regs }

def stateCode : SeedState → Nat
  | .ready => 0 | .held => 1 | .paused => 2 | .frozen => 3 | .done => 4 | .failed => 5

/-- The record of a thread's seed in a given state (R12, R16). -/
def seedRecord (a : Agent) (st : SeedState) : List Byte :=
  let r := a.regs
  let flags := r.q.toNat / 2 * 2 ^ 9 + (if a.hndl then 64 else 0) + (if a.up then 32 else 0)
    + (if a.rival then 16 else 0) + stateCode st
  toBytes 64 (r.g[3].toNat * 2 ^ 416 + r.g[2].toNat * 2 ^ 352 + r.g[1].toNat * 2 ^ 288 + a.key.toNat * 2 ^ 224
    + r.depth * 2 ^ 216 + a.tag * 2 ^ 208 + flags * 2 ^ 192 + a.teamVal.toNat * 2 ^ 160 + r.p[15].toNat * 2 ^ 80
    + r.pc.toNat)

/-! The overflow ring (R160, R340). -/

def ringHeaderAt (s : State) (die : Nat) : Addr :=
  (s.getCore (die * 144)).priv.spillr + BitVec.ofNat 80 (64 * (die % 4))

/-- The ring of a die: LOGN, HEAD, TAIL and RBASE; none while its header is not mapped. -/
def ringHeader (s : State) (die : Nat) : Option (Nat × Nat × Nat × Addr) :=
  (rawRead s (die * 144) (ringHeaderAt s die) 64).map fun n =>
    (field n 295 288, field n 287 256, field n 255 224, BitVec.ofNat 80 (field n 79 0))

/-- The address of the ring's record for a count. -/
def ringSlot (logn : Nat) (base : Addr) (n : Nat) : Addr := base + BitVec.ofNat 80 (64 * (n % 2 ^ logn))
/-- Records that the ring still takes; a ring whose LOGN is out of range takes none
(DEDUCED, notes/assumptions/31.md). -/
def ringRoom (s : State) (die : Nat) : Nat :=
  match ringHeader s die with
  | some (logn, head, tail, _) =>
    if 10 ≤ logn ∧ logn ≤ 30 then 2 ^ logn - (tail + 2 ^ 32 - head) % 2 ^ 32 else 0
  | none => 2 ^ 10

/-- Where a seed can go. -/
inductive Room where
  | queue | ring (at_ : Addr) (tail : Nat) | unmapped (at_ : Addr) | full
  deriving DecidableEq, Repr

/-- Seeds that the queue, while none waits behind it, and the ring still take together, beside those of the holding
buffer. -/
def totalRoom (s : State) (die : Nat) : Nat :=
  let q := s.getDie die
  (if q.ring.isEmpty && q.holding.isEmpty then Config.dieQueueSize - q.entries.length else 0) +
    (ringRoom s die - q.holding.length)

def roomFor (s : State) (die : Nat) : Room :=
  let q := s.getDie die
  if q.ring.isEmpty ∧ q.holding.isEmpty ∧ q.entries.length < Config.dieQueueSize then .queue
  else match ringHeader s die with
  | none => .unmapped (ringHeaderAt s die)
  | some (logn, _, tail, base) =>
    if ringRoom s die = 0 then .full
    else
      let va := ringSlot logn base tail
      if !q.holding.isEmpty ∨ (rawKey s (die * 144) va).isNone then .unmapped va else .ring va tail

/-- The seed's record is written at the ring's tail. -/
def pushRing (die : Nat) (va : Addr) (tail : Nat) (e : QEntry) (s : State) : State :=
  match s.getAgent e.tid with
  | none => s
  | some a =>
    let s := rawWrite s (die * 144) va (seedRecord a .ready)
    let s := rawWrite s (die * 144) (ringHeaderAt s die + 28) (toBytes 4 ((tail + 1) % 2 ^ 32))
    s.modDie die fun q => { q with ring := q.ring ++ [e] }

def spillRecord (s : State) (die : Nat) (va : Addr) : TrapRec := unitRecord s (die * 144) 1 cSpill va
/-- SPILL_UNMAPPED for the page at which the holding buffer waits, once for each. -/
def raiseSpill (die : Nat) (va : Addr) (s : State) : State :=
  let g := va.toNat / 65536
  if (s.getDie die).raised = some g then s
  else queueRecord (spillRecord s die va) (s.modDie die fun q => { q with raised := some g })

/-- The seed enters the queue, the ring, or the holding buffer, where its spawner waits. -/
inductive Placed where
  | placed (s : State)
  | held (s : State)
  | full
  | noHold

def placeSeed (die : Nat) (e : QEntry) (s : State) : Placed :=
  match roomFor s die with
  | .queue => .placed (s.modDie die fun q => { q with entries := q.entries ++ [e] })
  | .ring va tail => .placed (pushRing die va tail e s)
  | .full => .full
  | .unmapped va =>
    let q := s.getDie die
    if Config.holdingSize ≤ q.holding.length then .noHold
    else
      let first := q.holding.isEmpty
      let s := s.modDie die fun q => { q with
        holding := q.holding ++ [(e, s.cur.tid)], raised := if first then none else q.raised }
      .held (if first then raiseSpill die va s else s)

/-! SPAWN and SPAWNB (R158, R162). -/

/-- The 64 bytes of a record in the issuer's view, once its chunk has committed (R127) and, for a release, what it posted has
been performed (R136); the range lies in one line. -/
def viewRecord (va : Addr) (need : Rights) (rel : Bool) : Run (Acc × Nat) := do
  let a ← reachAligned va 64 need
  betweenChunks
  if rel then releaseSteps
  let s ← get
  require (!meetsPoison s a.key 64) cUncorrectable va
  return (a, ofBytes (readViewN s s.pkg s.cur.tag a.key 64))

/-- A spawner and its spawn count, as the order log writes them (R165). -/
def spawnOrigin (s : State) : Nat :=
  seqCode s.cur.seq * 2 ^ 58 + s.cur.lcore * 2 ^ 40 + ordCount s s.cur.lcore (seqCode s.cur.seq) 7 % 2 ^ 40

/-- The thread that a seed record makes: it runs in the issuer's view (R158). -/
def spawnedAgent (s : State) (x : Nat) (key : Word) : Agent :=
  { loadSeed x { Agent.new s.nextTid with
      launch := s.cur.launch, core := s.cur.core, lcore := s.cur.lcore, state := .ready, queued := true } with
    key := key, tag := s.cur.tag, origin := spawnOrigin s }

def entryOf (s : State) (a : Agent) : QEntry :=
  { tid := a.tid, key := a.key, pass := 0, cluster := clusterOf s.cur.core, pkg := s.pkg, tagged := a.tag ≠ 0
    origin := a.origin }

/-- The new thread stands in the machine, and its spawner's count goes up. -/
def addSpawned (a : Agent) (s : State) : State :=
  bumpOrd s.cur.lcore (seqCode s.cur.seq) 7 { s with agents := s.agents ++ [a], nextTid := s.nextTid + 1 }

def forgetAnswer (s : State) : State := s.modCur fun a => { a with answer := none, asking := false }

def execSpawn (gd : GOp) (gk : GReg) (p : BitVec 4) (s : State) : Res := issue { onX with s := false } (do
  if (← get).cur.answer.isSome then
    modify forgetAnswer
    betweenChunks
    writeOp gd 0
  else if (← get).cur.asking then blocked .spill
  else
    let va ← readP p
    let (_, x) ← viewRecord va rR true
    require (!seedBad x) cIllegal
    let key ← readG gk
    atQuantum
    let s ← get
    let die := dieOf s.cur.core
    let a := spawnedAgent s x key
    if totalRoom s die ≤ (s.getDie die).reserved then writeOp gd 1
    else match placeSeed die (entryOf s a) (addSpawned a s) with
    | .placed s' =>
      set s'
      writeOp gd 0
    | .held s' =>
      set (s'.modCur fun a => { a with asking := true })
      keepWaiting .spill
    | .noHold => blocked .spill
    | .full => writeOp gd 1) s

/-- A card that SPAWNB refuses (R162). -/
def cardBad (x : Nat) : Bool :=
  let rsize := field x 191 160
  let workers := field x 255 240
  field x 511 432 != 0 || field x 318 316 != 0 || field x 311 288 != 0 || field x 431 352 % 64 != 0 || rsize % 8 != 0
    || decide (rsize < 8) || decide (4096 < rsize) || field x 239 224 == 0 || workers == 0 || decide (4096 < workers)
    || field x 287 256 != 0

/-- Worker w of a card (R162). -/
def workerAgent (s : State) (x : Nat) (card : Addr) (key : Word) (w : Nat) : Agent :=
  let area := field x 431 352
  let z := Regs.zero
  let regs := { z with
    pc := BitVec.ofNat 80 (field x 79 0)
    p := z.p.set 15 (if area = 0 then 0 else BitVec.ofNat 80 (area + 256 * w))
    g := ((z.g.set 1 (BitVec.ofNat 64 w)).set 2 (card.setWidth 64)).set 3 (BitVec.ofNat 64 (card.toNat / 2 ^ 64)) }
  { Agent.new s.nextTid with
    launch := s.cur.launch, core := s.cur.core, lcore := s.cur.lcore, state := .ready, queued := true, regs := regs
    key := key, tag := s.cur.tag, card := some (card, s.cur.posting), origin := spawnOrigin s, chunk := Chunk.empty regs }

/-- Spawns the workers that are left, in ascending w, until one stalls. -/
def spawnWorkers (die : Nat) (x : Nat) (card : Addr) (key : Word) : Nat → State → Placed
  | 0, s => .placed s
  | n + 1, s =>
    let a := workerAgent s x card key s.cur.spawned
    let next (s : State) : State :=
      (s.modDie die fun q => { q with reserved := q.reserved - 1 }).modCur fun a => { a with spawned := a.spawned + 1 }
    match placeSeed die (entryOf s a) (addSpawned a s) with
    | .placed s => spawnWorkers die x card key n (next s)
    | .held s => .held (next s)
    | r => r

def execSpawnb (gd : GOp) (gk : GReg) (p : BitVec 4) (s : State) : Res := issue { onX with s := false } (do
  let s0 ← get
  let started := s0.cur.asking || s0.cur.answer.isSome
  if s0.cur.asking && s0.cur.answer.isNone && decide (0 < s0.cur.spawned) &&
      (s0.getDie (dieOf s0.cur.core)).holding.any (·.2 == s0.cur.tid) then blocked .spill
  modify fun s => s.modCur fun a => { a with answer := none }
  let va ← readP p
  let (_, x) ← viewRecord va rR !started
  let key ← readG gk
  if !started then
    require (!cardBad x) cIllegal
    atQuantum
  let s ← get
  let die := dieOf s.cur.core
  let n := field x 255 240
  if !started && decide (totalRoom s die < n + (s.getDie die).reserved) then writeOp gd 1
  else
    if !started then
      modify fun s => ((s.modDie die fun q => { q with reserved := q.reserved + n }).modCur
        fun a => { a with asking := true, spawned := 0, posting := s.nextTid }).modLaunch
          fun l => { l with cards := aset s.nextTid n l.cards }
    let s ← get
    match spawnWorkers die x va key (n - s.cur.spawned) s with
    | .placed s' =>
      set (s'.modCur fun a => { a with asking := false, spawned := 0 })
      writeOp gd 0
    | .held s' =>
      set s'
      keepWaiting .spill
    | _ => keepWaiting .spill) s

/-! TAKE and DEAL (R159, R163). -/

/-- Seeds that a TAKE of the thread in front may return: tasks of its own launch. -/
def mayTakeOut (s : State) (e : QEntry) : Bool :=
  match s.getAgent e.tid with
  | some a => a.launch == s.cur.launch && a.team.isNone && a.world.isNone
  | none => false

/-- Under QUANTUM a take returns the smallest key of its launch's seeds, wherever they wait (R167, R321). -/
def smallestSeed (s : State) : Option (Nat × QEntry) :=
  let all := (queuedSeeds s).filter fun x => mayTakeOut s x.2
  (sortByKey (all.map (·.2))).head?.bind fun e => all.find? (·.2.tid == e.tid)

/-- A write of the issuer that is one event at its home. -/
def writeDirect (key : Nat) (bs : List Byte) : Run Unit := do
  rangeFree key bs.length
  roomForLine key
  unreserved key
  modify fun s => writeHome s s.pkg s.cur.tag s.cur.tid ((List.range bs.length).zip bs |>.map fun ib => (key + ib.1, ib.2))

/-- TAKE (R159). Where its launch's seeds stand in the ring, or behind the window, it is blocked until one can be taken
(DESIGN CHOICE, notes/assumptions/63.md). One that finds nothing is a take of no spawner's seed in the order log
(DESIGN CHOICE, notes/assumptions/28.md). -/
def execTake (gd : GOp) (p : BitVec 4) (s : State) : Res := issue { onX with s := false } (do
  let va ← readP p
  let a ← reachAligned va 64 rW
  hazard a.key 64
  betweenChunks
  atQuantum
  let s ← get
  let die := dieOf s.cur.core
  let q := s.getDie die
  let logged := if s.launch.mode = .replay then loggedPred s s.cur.lcore (seqCode s.cur.seq) 4 else none
  let pick ← match logged with
    | some o => match (queuedSeeds s).find? fun x => x.2.origin == o && mayTakeOut s x.2 with
      | some x => pure (some x)
      | none => if o = noOrigin then pure none else blocked .replay
    | none =>
      if s.launch.mode = .quantum then pure (smallestSeed s)
      else pure ((chooseTake s.launch.mode (clusterOf s.cur.core) ((windowOf16 q.entries).filter (mayTakeOut s))).map
        fun e => (die, e))
  match pick with
  | none =>
    let qs := if s.launch.mode = .quantum then s.dieqs else [q]
    if logged.isNone && qs.any (fun q => (q.entries ++ q.ring).any (mayTakeOut s)) then blocked .spill
    else do
      modify fun s => logEvent s s.cur.lcore (seqCode s.cur.seq) 4 (siteTake die) (some noOrigin)
      writeOp gd 1
  | some (from_, e) =>
    match s.getAgent e.tid with
    | none => writeOp gd 1
    | some t => do
      modify fun s =>
        let s := takeEntry from_ e s
        logEvent { s with agents := s.agents.filter (·.tid != e.tid) } s.cur.lcore (seqCode s.cur.seq) 4 (siteTake from_)
          (some e.origin)
      writeDirect a.key (seedRecord t .ready)
      writeOp gd 0) s

/-- The chunk that DEAL deals of a card (R163, R294). -/
def dealChunk (x : Nat) : Nat × Nat :=
  let count := field x 223 192
  let next := field x 287 256
  let rem := count - next
  (next, min rem (max (max 1 (field x 239 224)) (ceilDiv rem (2 * max 1 (field x 255 240)))))

def execDeal (gd : GOp) (p : BitVec 4) (s : State) : Res := issue { onX with s := false } (do
  let va ← readP p
  let (a, _) ← viewRecord va (rR ||| rW ||| rA) false
  hazard a.key 64
  if a.pkg ≠ (← get).pkg then
    if (← ownPosted va a.key 64).isSome then stalled .journal
  unreserved a.key
  orderEvent 2 (siteLine a.key)
  let s ← get
  let (next, c) := dealChunk (ofBytes (readViewN s s.pkg s.cur.tag a.key 64))
  if c ≠ 0 then writeDirect (a.key + 32) (toBytes 4 (next + c))
  else modify fun s => s.modCur fun t => { t with dealt0 := t.dealt0 || t.card.map (·.1) == some va }
  writeOp gd (BitVec.ofNat 64 (next + c * 2 ^ 32))) s

/-! The units of the queues (R160, R161). -/

/-- SPILL_REFILL (R160): seeds move from the ring's head into the queue; a seed of a launch that has ended is skipped, and
one that R14 does not let run is marked. The view in which a seed runs is the machine's to keep (R158). -/
def spillRefill (die : Nat) (s : State) : State :=
  let q := s.getDie die
  match q.ring, ringHeader s die with
  | e :: rest, some (logn, head, _, base) =>
    if Config.dieRefillMark ≤ q.entries.length then s
    else
      let va := ringSlot logn base head
      match rawRead s (die * 144) va 64 with
      | none =>
        if q.stalled then s
        else queueRecord (spillRecord s die va) (s.modDie die fun q => { q with stalled := true })
      | some x =>
        let s := rawWrite s (die * 144) (ringHeaderAt s die + 32) (toBytes 4 ((head + 1) % 2 ^ 32))
        let alive := (s.getAgent e.tid).any fun a => a.state == .ready && (launchOf s a.launch).phase == .running
        let load (a : Agent) : Agent :=
          { loadSeed x a with tag := a.tag, badSeed := if seedBroken x then some x else none }
        let s := s.modAgent e.tid fun a => if alive then load a else a
        let e := { e with key := BitVec.ofNat 64 (field x 287 224) }
        s.modDie die fun q => { q with
          ring := rest, stalled := false, entries := if alive then q.entries ++ [e] else q.entries }
  | _, _ => s
def execSpillRefill (die : Nat) (s : State) : Res := event (spillRefill die) s

/-- SPILL_RESUME (R160): once its page is mapped, the oldest held seed goes to the ring and its SPAWN returns; where it, or the
next one, meets another page that is not mapped, that is raised too. A stalled refill goes on. -/
def spillResume (die : Nat) (s : State) : State :=
  let q := s.getDie die
  match q.holding, ringHeader s die with
  | (e, tid) :: rest, some (logn, _, tail, base) =>
    let va := ringSlot logn base tail
    if ringRoom s die = 0 then s
    else if (rawKey s (die * 144) va).isNone then raiseSpill die va s
    else
      let s := s.modDie die fun q => { q with holding := rest, raised := none }
      let s := (pushRing die va tail e s).modAgent tid fun a => { a with answer := some true }
      let next := ringSlot logn base (tail + 1)
      if !rest.isEmpty ∧ ringRoom s die ≠ 0 ∧ (rawKey s (die * 144) next).isNone then raiseSpill die next s
      else s
  | _, _ =>
    match ringHeader s die with
    | some (logn, head, _, base) =>
      if q.stalled ∧ (rawKey s (die * 144) (ringSlot logn base head)).isSome then
        s.modDie die fun q => { q with stalled := false }
      else s
    | none => s
def execSpillResume (die : Nat) (s : State) : Res := event (spillResume die) s

/-- Dies of one span partition that exchange seeds: across an edge of the package's two by two dies, or across a span link
(DESIGN CHOICE, notes/assumptions/30.md; R327). -/
def diesAdjacent (s : State) (a b : Nat) : Bool :=
  spanPart s (144 * a) == spanPart s (144 * b) && if a / 4 = b / 4 then a != b && (a % 2 == b % 2 || a % 4 / 2 == b % 4 / 2)
  else (linksAt s (a / 4)).any fun l => !l.disabled && farEnd l (a / 4) == b / 4

/-- A seed that averaging may move to a die: no take has passed it over, and a view keeps it in its package (R161). A rival
may run on any core of its package; another seed needs a logical core of its launch on the die (R320)
(DESIGN CHOICE, notes/assumptions/30.md). -/
def movable (s : State) (src dst : Nat) (e : QEntry) : Bool :=
  e.pass == 0 && (!e.tagged || src / 4 == dst / 4) &&
  match s.getAgent e.tid with
  | some a => (a.world.isSome && src / 4 == dst / 4) || (a.world.isNone && a.team.isNone && (launchLcs s a.launch).any fun lc => dieOf lc.core == dst)
  | none => false

/-- The occupancy that a queue shows its neighbours: as all of them stood when they exchanged it. -/
def occupancy (s : State) (die : Nat) : Nat := ((s.getDie die).shown).getD (s.getDie die).entries.length
/-- Every 256 cycles the queues exchange their occupancies (R161). -/
def showOccupancy (s : State) : State :=
  { s with dieqs := s.dieqs.map fun q => { q with shown := some q.entries.length } }

/-- QUEUE_BALANCE (R161): what the difference of the two occupancies moves. -/
def queueBalance (a b : Nat) (s : State) : State :=
  let na := occupancy s a
  let nb := occupancy s b
  let (src, dst, n) := if nb < na then (a, b, min ((na - nb) / 4) 2) else (b, a, min ((nb - na) / 4) 2)
  if !diesAdjacent s a b then s
  else
    let moved := ((sortByKey ((s.getDie src).entries.filter (movable s src dst))).reverse.take n).reverse
    let gone := moved.map (·.tid)
    let s := s.modDie src fun q => { q with entries := q.entries.filter fun e => !gone.contains e.tid }
    s.modDie dst fun q => { q with entries := q.entries ++ moved }
def execQueueBalance (a b : Nat) (s : State) : Res := event (queueBalance a b) s

/-! Launch order and profiling (R169, R296, R297). -/

def execPredw (g : GOp) (s : State) : Res := issue { onX with s := false } (do
  match (← get).launch.pred with
  | none => blocked .predecessor
  | some w => do
    closeAfter
    writeOp g w) s

/-- A successor is queued: the processor has seen its packet, or is building it (R32). -/
def successorQueued (s : State) : Bool :=
  let l := s.launch
  let next := (l.lseq + 1) % 2 ^ 32
  (s.launches.any fun k => k.part == l.part && k.queue == l.queue && k.lseq == next) ||
  ((s.pkts.find? (·.part == l.part)).bind fun p => aget l.queue p.widx).any fun w => w.toNat != next

/-- HINTS (R32, R297). One that follows a HINTS without effect may take effect (DESIGN CHOICE, notes/assumptions/70.md). -/
def execHints (s : State) : Res := issue { onX with s := false } (do
  betweenChunks
  releaseSteps
  if !buffered (← get) && successorQueued (← get) then
    modify fun s => s.modLaunch fun l => { l with hinted := true }) s

/-- A record enters the queue of its partition, or is dropped and counted where that is full
(DESIGN CHOICE, notes/assumptions/36.md). -/
def addProf (r : ProfRec) (s : State) : State :=
  let full := decide (Config.profqSize ≤ (s.profq.filter (·.part == r.part)).length)
  { s with
    profq := if full then s.profq else s.profq ++ [r]
    packages := if full then (countErr s.pkg 7 s).packages else s.packages }

def execProfq (g : GOp) (s : State) : Res := issue { onX with s := false } (do
  let v ← readOp g
  modify fun s => addProf { part := spanPart s s.core.id, time := Config.cycleAt s.cycle, lcore := s.cur.lcore, tag := v.setWidth 32 } s) s

end Sys2Proof.Machine
end

