-- ==== Sys2Proof/Machine/System.lean ====
section
/-! DEFINITION. Control registers, the supervisor, pre-emption and halt groups (spec/10 R188, R192, R193; spec/20 R309,
R322, R324, R326; spec/21 R331, R333; spec/22 R349 to R358). -/

namespace Sys2Proof.Machine

/-! Control registers (R192, R309). -/

/-- What a control register holds: 64 bits for a g register, or 80 for a p register. -/
inductive CrVal where
  | w (v : Word)
  | a (v : Addr)
  deriving DecidableEq, Repr

def privileged (n : Nat) : Bool := decide (0x100 ≤ n) && decide (n < 0x200)

/-- WORLD (R82): the view's tag table entry; all zero in the committed view. -/
def worldWord (s : State) : Word :=
  match s.getView s.pkg s.cur.tag with
  | some v => BitVec.ofNat 64 (v.depth * 2 ^ 24 + v.idx * 2 ^ 20 + v.n1 * 2 ^ 16 + v.ptag * 256 + v.tag)
  | none => 0

/-- MEk, which reads zero where the thread has no team at level k (R45). -/
def meWord (s : State) (k : Fin 5) : Word := if (teamAt s s.cur k.val).isSome then s.cur.me[k] else 0

/-- QUANTUM: MODE and COUNT (R324). -/
def quantumFields (v : Word) : Word := v &&& 0x7FFFF

/-- FMT_ANOMALY of A and M is the hitched thread's; of X its own (R117). -/
def userReg (s : State) (n : Nat) : Option CrVal :=
  let r := s.cur.regs
  match n with
  | 0x000 => some (.w r.round)
  | 0x001 => some (.w s.launch.jkey)
  | 0x002 => some (.w r.fmtA)
  | 0x003 => some (.w r.fmtB)
  | 0x004 => some (.w r.fmtC)
  | 0x005 => some (.a r.sclA)
  | 0x006 => some (.a r.sclB)
  | 0x007 => some (.w (s.cur.teamVal.setWidth 64))
  | 0x008 => some (.w (meWord s 0))
  | 0x009 => some (.w (meWord s 1))
  | 0x00A => some (.w (meWord s 2))
  | 0x00B => some (.w (meWord s 3))
  | 0x00C => some (.w (meWord s 4))
  | 0x00D => some (.a r.utrapv)
  | 0x00E => some (.w r.utcause)
  | 0x00F => some (.a r.utpc)
  | 0x010 => some (.w (worldWord s))
  | 0x011 => some (.w r.anomaly)
  | _ => none

def privReg (s : State) (n : Nat) : Option CrVal :=
  let p := s.core.priv
  match n with
  | 0x100 => some (.w p.dom)
  | 0x101 => some (.w p.vshare)
  | 0x102 => some (.w p.quantum)
  | 0x103 => some (.a p.qtab)
  | 0x104 => some (.a p.handler)
  | 0x105 => some (.a p.trapq)
  | 0x106 => some (.w p.haltgrp)
  | 0x107 => some (.w (partnWord s s.core.id))
  | 0x108 => some (.a p.olog)
  | 0x109 => some (.w p.ologn)
  | 0x10A => some (.a p.ptbase)
  | 0x10B => some (.w p.shadow)
  | 0x10C => some (.a p.spillr)
  | 0x10D => some (.w p.rquota)
  | 0x10E => some (.a p.paddock)
  | 0x10F => some (.a p.huskp)
  | n =>
    if 0x110 ≤ n ∧ n < 0x118 then some (.a (p.lease.toList.getD (n - 0x110) 0))
    else if 0x118 ≤ n ∧ n < 0x120 then some (.w (p.leasen.toList.getD (n - 0x118) 0))
    else none

def readCr (s : State) (n : Nat) : Option CrVal := (userReg s n).orElse fun _ => privReg s n

/-- The register of a CRRD or CRWR as a g operand, and as a p register: a port is none (R192). -/
def crG : CrOp → GOp
  | .reg n => .reg (n.setWidth 6)
  | .port d => .port d
def crP : CrOp → Run (BitVec 4)
  | .reg n => pure n
  | .port _ => illegal

/-- CRRD (R351): a privileged number outside supervisor state comes before an unlisted one (R190). -/
def execCrrd (r : CrOp) (cr : BitVec 31) (s : State) : Res := issue onX (do
  let s ← get
  require (!privileged cr.toNat || s.super) cPrivilege
  match readCr s cr.toNat with
  | none => illegal
  | some (.w v) => writeOp (crG r) v
  | some (.a v) => do writeP (← crP r) v) s

/-- A register of the matrix formats is written; a hitched thread's write also enters M's queue of 8, and waits at issue while
that is full (R251). A squash takes it back as far as M has not applied it (DEDUCED, notes/assumptions/40.md). -/
def writeFmt (n : BitVec 31) (v : Addr) (f : Regs → Regs) : Run Unit := do
  let s ← get
  if hitched s then
    if Config.fmtqSize ≤ s.core.fmtq.length then stalled .fmtq
    modify fun s => { s with
      core := { s.core with fmtq := s.core.fmtq ++ [(n, v)] }
      cur := { s.cur with chunk := { s.cur.chunk with fmts := s.cur.chunk.fmts + 1 } } }
  modify fun s => s.modCur fun a => { a with regs := f a.regs }

/-- A user register takes a 64-bit value (R45, R82, R117, R118, R192, R251): to RO ones nothing happens. -/
def writeUserW (cr : BitVec 31) (v : Word) : Run Unit := do
  let setRegs (f : Regs → Regs) : Run Unit := modify fun s => s.modCur fun a => { a with regs := f a.regs }
  match cr.toNat with
  | 0x000 => do
    require (decide (v.toNat < 6)) cIllegal
    setRegs fun r => { r with round := v }
  | 0x002 => do
    require (decide (v.toNat < 16)) cIllegal
    writeFmt cr (v.setWidth 80) fun r => { r with fmtA := v }
  | 0x003 => do
    require (v &&& ~~~0x10F == 0) cIllegal
    writeFmt cr (v.setWidth 80) fun r => { r with fmtB := v }
  | 0x004 => do
    require (decide (v.toNat < 32)) cIllegal
    writeFmt cr (v.setWidth 80) fun r => { r with fmtC := v }
  | 0x011 => setRegs fun r => { r with anomaly := r.anomaly &&& ~~~v }
  | _ => pure ()

def writeUserA (cr : BitVec 31) (v : Addr) : Run Unit := do
  let setRegs (f : Regs → Regs) : Run Unit := modify fun s => s.modCur fun a => { a with regs := f a.regs }
  match cr.toNat with
  | 0x005 => writeFmt cr v fun r => { r with sclA := v }
  | 0x006 => writeFmt cr v fun r => { r with sclB := v }
  | 0x00D => setRegs fun r => { r with utrapv := v }
  | 0x00F => setRegs fun r => { r with utpc := v }
  | _ => pure ()

/-- A privileged register is written, in every core that shares it (R333, R343); a squash of the chunk gives it back
(DESIGN CHOICE, notes/assumptions/19.md). -/
def setPriv (n : Nat) (v : Addr) : Run Unit := modify fun s =>
  putPriv n v { s with cur := { s.cur with chunk := { s.cur.chunk with privs := (n, s.core.priv.get n) :: s.cur.chunk.privs } } }

def writePrivW (n : Nat) (v : Word) : Run Unit := do
  match n with
  | 0x100 => setPriv n ((v &&& 0xFFFF).setWidth 80)
  | 0x101 => setPriv n ((v &&& 0xFF).setWidth 80)
  | 0x102 => do
    let count := v.toNat % 2 ^ 17
    require (decide (256 ≤ count) && decide (count ≤ 65536)) cIllegal
    setPriv n ((quantumFields v).setWidth 80)
  | 0x106 => setPriv n ((v &&& 0xFFFFFFFF).setWidth 80)
  | 0x109 => setPriv n (v.setWidth 80)
  | 0x10B => do
    let s ← get
    require (field v.toNat 41 6 == 0 && decide (v.toNat % 64 ≤ 32)) cIllegal
    require ((s.launch :: s.launches).all fun l => l.views.all (·.pkg != s.pkg)) cIllegal
    setPriv n (v.setWidth 80)
  | 0x10D => do
    require (decide (v.toNat < 2 ^ 32)) cIllegal
    setPriv n (v.setWidth 80)
  | n => if 0x118 ≤ n ∧ n < 0x120 then setPriv n (v.setWidth 80)

def writePrivA (n : Nat) (v : Addr) : Run Unit := do
  match n with
  | 0x103 => setPriv n v
  | 0x104 => setPriv n (v &&& ~~~1)
  | 0x105 => setPriv n v
  | 0x108 => setPriv n v
  | 0x10A => do
    let lb := v.toNat % 64
    require (field v.toNat 19 6 == 0 && field v.toNat 79 52 == 0 && decide (21 ≤ lb) && decide (lb ≤ 32)) cIllegal
    setPriv n v
  | 0x10C => setPriv n v
  | 0x10E => do
    require (field v.toNat 29 1 == 0 && field v.toNat 79 52 == 0) cIllegal
    setPriv n v
  | 0x10F => setPriv n v
  | n => if 0x110 ≤ n ∧ n < 0x118 then setPriv n v

/-- CRWR (R351). -/
def execCrwr (r : CrOp) (cr : BitVec 31) (s : State) : Res := issue onX (do
  let s ← get
  let n := cr.toNat
  require (!privileged n || s.super) cPrivilege
  match readCr s n with
  | none => illegal
  | some (.w _) => do
    let v ← readOp (crG r)
    if privileged n then writePrivW n v else writeUserW cr v
  | some (.a _) => do
    let v ← readP (← crP r)
    if privileged n then writePrivA n v else writeUserA cr v) s

/-! Supervisor state (R349). -/

/-- The chunks of the agents named commit, one after another; none where one cannot commit yet. -/
def commitAgents : List Nat → State → Option State
  | [], s => some s
  | t :: l, s =>
    let back := s.cur.tid
    match commitChunk (focusAgent t s) with
    | .done s' => commitAgents l (focusAgent back s')
    | .squashed s' => commitAgents l (focusAgent back s')
    | .held _ => none
    | .noRoom => commitAgents l (focusAgent back (noRoom (focusAgent t s)))

/-- The agents of a core: the threads in its slots, A and M. -/
def agentsOn (s : State) (core : Nat) : List Agent :=
  s.allAgents.filter fun a => a.core == core && a.husked.isNone && (a.slot.isSome || a.seq == .a || a.seq == .m)

/-- The supervisor context of the core, made where there is none yet (DEDUCED, notes/assumptions/39.md). -/
def withSupervisor (core : Nat) (s : State) : Nat × State :=
  match s.seqOf core .s with
  | some a => (a.tid, s)
  | none =>
    let a := { Agent.new s.nextTid with seq := .s, core := core, state := .held, launch := s.launch.id }
    (s.nextTid, { s with agents := s.agents ++ [a], nextTid := s.nextTid + 1 })

/-- The launch whose work a core does: that of a thread in its slots, else of a logical core it holds. -/
def launchOn (s : State) (core : Nat) : Option (Nat × Nat) :=
  match s.allAgents.find? fun a => a.core == core && a.slot.isSome && a.husked.isNone with
  | some a => some (a.launch, a.lcore)
  | none => (s.launch :: s.launches).findSome? fun l =>
      if l.phase = .running then (lowestLc s l.id core fun _ => true).map fun n => (l.id, n) else none

/-- Entry to supervisor state: `source` and `num` go to g1, and for an SVC its slot to g2 and its address to p1. With
HANDLER 0 the core writes a fatal record and halts (DESIGN CHOICE, notes/assumptions/38.md). -/
def enterSupervisor (core : Nat) (source num : Nat) (svc : Option (Nat × Addr)) (s : State) : Option State :=
  (commitAgents (((agentsOn s core).map (·.tid)).filter fun t => !(svc.isSome && t == s.cur.tid)) s).map fun s =>
    let (t, s) := withSupervisor core s
    let c := s.getCore core
    let where_ := launchOn s core
    let s := s.modAgent t fun a =>
      let r := a.regs
      let r := { r with pc := c.priv.handler }.setG 1 (BitVec.ofNat 64 (source * 256 + num))
      let r := match svc with
        | some (slot, pc) => { r.setG 2 (BitVec.ofNat 64 slot) with p := r.p.set 1 pc }
        | none => r
      Agent.newChunk { a with
        regs := r, wait := none, gate := false, answer := none, asking := false
        launch := (where_.map (·.1)).getD a.launch, lcore := (where_.map (·.2)).getD a.lcore }
    let s := s.modCore core fun c => { c with sup := true, caller := svc.map (·.1) }
    if c.priv.handler = 0 then
      match s.getAgent t with
      | some a => haltCore core (queueRecord (recordOf s a 2 (BitVec.ofNat 8 (1 + Config.noHandlerCause.toNat % 20)) 0 0 .s) s)
      | none => s
    else s

/-- SUPERVISOR_ENTRY (R349): the oldest interrupt pending is accepted at an instruction boundary. -/
def supervisorEntry (core : Nat) (s : State) : State :=
  let c := s.getCore core
  match c.irqs with
  | [] => s
  | i :: rest =>
    if c.sup || c.halted || c.haltedBy != 0 then s
    else (enterSupervisor core i.toNat 0 none (s.modCore core fun c => { c with irqs := rest })).getD s
def execSupervisorEntry (core : Nat) (s : State) : Res := event (supervisorEntry core) s

def execSvc (n : Byte) (s : State) : Res := issue { onX with s := false } (do
  if buffered (← get) then throw (.rivalFail cEscape)
  betweenChunks
  let s ← get
  match enterSupervisor s.core.id 3 n.toNat (some (s.cur.slot.getD 0, s.cur.regs.pc)) s with
  | some s' => set s'
  | none => blocked .replay) s

/-- A system instruction outside supervisor state raises PRIVILEGE (R350). -/
def inSupervisor : Run Unit := do require (← get).super cPrivilege

/-- TRET (R350): after an SVC the supervisor's g4 to g7 go to the calling slot; with an interrupt pending it enters
again at once (R349). -/
def leaveSupervisor (s : State) : State :=
  let core := s.core.id
  let g := s.cur.regs.g
  let s := match s.core.caller with
    | none => s
    | some k => s.mapAgents fun a =>
      if a.core = core ∧ a.slot = some k ∧ a.husked.isNone then
        (((a.setG 4 g[4]).setG 5 g[5]).setG 6 g[6]).setG 7 g[7]
      else a
  let s := supervisorEntry core { s with core := { s.core with sup := false, caller := none } }
  if s.core.sup then s.modCur fun a => { a with npc := a.regs.pc } else s

def execTret (s : State) : Res := issue onX (do
  inSupervisor
  betweenChunks
  if (← get).core.caller.isSome then
    let _ ← readG 4
    let _ ← readG 5
    let _ ← readG 6
    let _ ← readG 7
  modify leaveSupervisor) s

def execIdle (s : State) : Res := issue onX (do
  inSupervisor
  if (← get).core.irqs.isEmpty then blocked .interrupt) s

/-! PLBINV (R331, R352). -/

def inRange (p : Nat) (n : Nat) (va : Nat) : Bool := decide (p / 65536 ≤ va / 65536) && decide (va / 65536 < p / 65536 + n)

def WCmd.touches (s : State) (core : Nat) (w : WCmd) (p n : Nat) : Bool :=
  let meets (va : Addr) (len : Nat) : Bool := (linesOf va len).any fun a => inRange p n a.toNat
  w.moves.any (fun m => meets m.src m.len || (w.ring.isNone && meets m.dst m.len)) || w.gather.isSome ||
  (w.ring.isNone && (linesLeft s core w).any fun l => l.cells.any fun c => inRange p n c.1.toNat)

/-- What a saddlebag holds touches the granules. -/
def SbOp.touches (s : State) (core : Nat) (p n : Nat) : SbOp → Bool
  | .posted va _ _ _ => inRange p n va.toNat
  | .walker c => c.touches s core p n
  | .xgo _ _ table _ => table.any fun x => (linesOf x.1 x.2).any fun a => inRange p n a.toNat
  | _ => false
def SbEntry.name (e : SbEntry) : Released := { lcore := e.lcore, ridx := e.ridx, sub := e.sub, seq := e.seq }
/-- The entries of the saddlebags of a launch. -/
def saddlebags (l : Launch) : List SbEntry := l.worlds.flatMap fun w => w.rivals.flatMap (·.sb)
/-- The participant of an exchange reads granules that its XGO checked. -/
def XPart.touches (p n : Nat) (x : XPart) : Bool :=
  (x.state == .ready || x.state == .sending || x.state == .residual) &&
    x.table.any fun e => (linesOf e.1 e.2).any fun a => inRange p n a.toNat
/-- It has stores, or lines of vector instructions, that wait to be sent. -/
def Agent.unsent (a : Agent) : Bool := !a.relStore.isEmpty || a.staged.isSome
def Chunk.touches (p n : Nat) (c : Chunk) : Bool := c.grans.any fun g => inRange p n (65536 * g)

/-- Accesses under way whose rights were checked before the removal (R331). -/
def underWay (s : State) (p n : Nat) : Inval :=
  { posts := s.allCores.flatMap fun c => c.places.toList.flatMap fun pl =>
      (pl.entries.filter fun e => inRange p n e.va.toNat).map (·.id)
    loads := s.allAgents.flatMap fun a => (a.loads.filter fun l => !l.dst.isSync && inRange p n l.addr.toNat).map fun l => (a.tid, l.id)
    cmds := s.allCores.flatMap fun c => (c.walker.filter fun w => w.touches s c.id p n).map fun w => (c.id, w.id)
    chunks := (s.allAgents.filter fun a => a.tid != s.cur.tid && (a.chunk :: a.ended).any (Chunk.touches p n)).map
      fun a => (a.tid, a.retired - a.chunk.count)
    unsent := (s.allAgents.filter Agent.unsent).map (·.tid)
    held := (s.launch :: s.launches).flatMap fun l => ((saddlebags l).filter fun e => e.op.touches s s.core.id p n).map SbEntry.name
    husks := (s.allCores.filter fun c => c.husking.any fun h => (List.range 8).any fun i => inRange p n (h.toNat + 65536 * i)).map (·.id)
    xgos := (s.launch :: s.launches).flatMap fun l =>
      ((launchLcs s l.id).filter fun lc => lc.xp.touches p n).map fun lc => (l.id, lc.id) }

/-- What is left of them. -/
def Inval.left (s : State) (i : Inval) : Inval :=
  { posts := i.posts.filter fun q => s.allCores.any fun c => c.places.toList.any fun pl => pl.entries.any (·.id == q)
    loads := i.loads.filter fun q => (s.getAgent q.1).any fun a => a.loads.any (·.id == q.2)
    cmds := i.cmds.filter fun q => (s.getCore q.1).walker.any (·.id == q.2)
    chunks := i.chunks.filter fun q => (s.getAgent q.1).any fun a =>
      a.state == .held && (!a.chunk.grans.isEmpty || !a.ended.isEmpty) && a.retired - a.chunk.count == q.2
    unsent := i.unsent.filter fun t => (s.getAgent t).any Agent.unsent
    held := i.held.filter fun r => ((s.launch :: s.launches).any fun l => (saddlebags l).any fun e => e.name == r) ||
      s.allCores.any fun c => (c.walker.any fun w => w.released == some r) ||
        c.places.toList.any fun pl => pl.entries.any fun e => e.released == some r
    husks := i.husks.filter fun c => (s.getCore c).husking.isSome
    xgos := i.xgos.filter fun q => (launchLcs s q.1).any fun lc => lc.id == q.2 && lc.xp.state != .idle && lc.xp.state != .done }
def Inval.over (i : Inval) : Bool :=
  i.posts.isEmpty && i.loads.isEmpty && i.cmds.isEmpty && i.chunks.isEmpty && i.unsent.isEmpty && i.held.isEmpty &&
    i.husks.isEmpty && i.xgos.isEmpty

/-- The granules leave every PLB and every cache of the units; an LDSYNC that stands at a home in them asks again. -/
def dropGranules (p n : Nat) (s : State) : State :=
  { (s.mapCores fun c => { c with plb := c.plb.filter fun e => !inRange p n (e.granule * 65536) }).mapAgents fun a =>
      { a with loads := a.loads.filter fun l => !(l.dst.isSync && inRange p n l.addr.toNat) } with
    tuc := s.tuc.map fun u => (u.1, u.2.filter fun x => !inRange p n (x.1 * 65536)) }

def execPlbinv (p : BitVec 4) (g : GOp) (s : State) : Res := issue onX (do
  inSupervisor
  let va ← readP p
  let n := (← readOp g).toNat
  require (va.toNat % 65536 = 0) cAlign va
  require (decide (n < 2 ^ 32)) cIllegal
  if n ≠ 0 then
    betweenChunks
    match (← get).core.inval with
    | none =>
      modify fun s =>
        let i := underWay s va.toNat n
        let s := dropGranules va.toNat n s
        { s with core := { s.core with inval := some i } }
    | some i => modify fun s => { s with core := { s.core with inval := some (i.left s) } }
    match (← get).core.inval with
    | some i => if !i.over then keepWaiting .pageRemoval
    | none => pure ()
    modify fun s => { s with core := { s.core with inval := none } }) s

/-! Pre-emption (R353 to R355). -/

/-- The core holds a user context: threads, or logical cores of a launch that has not ended. -/
def hasUser (s : State) (core : Nat) : Bool :=
  (s.allAgents.any fun a => a.core == core && a.slot.isSome && a.husked.isNone) ||
  ((s.launch :: s.launches).any fun l => l.phase == .running && (lowestLc s l.id core fun _ => true).isSome)

/-- A commit of a view to or from a thread of the core is under way; it completes before the context is saved (R291). -/
def commitsHere (s : State) (core : Nat) : Bool :=
  (s.launch :: s.launches).any fun l => l.worlds.any fun w => w.committing.isSome && s.allAgents.any fun a =>
    a.core == core && a.launch == l.id && (a.tid == w.forker || (a.world == some w.wid && w.committing == some a.ridx))

/-- Step 1: walker commands, tile operations and the vector queue have finished, remote loads have returned, and releases
and commits of views under way are over. An LDSYNC that waits for its word is issued again once restored. -/
def coreQuiet (s : State) (core : Nat) : Bool :=
  let c := s.getCore core
  c.walker.isEmpty && c.mx.ops.all (·.finished) && c.vqueue.isEmpty && !commitsHere s core &&
  s.allAgents.all fun a => a.core != core || ((a.loads.all fun l => l.dst.isSync) && a.rel.isNone)

/-- Step 2: flush markers go out for every agent's posted stores once they have left (R140). -/
def markPlaces (core : Nat) (s : State) : State :=
  ([0, 1, 2, 3, 4, 5] : List (Fin 7)).foldl (fun s i =>
    if (s.getCore core).places[i].entries.any (fun e => !e.sent) then s else sendMarkers core i s) s
def placesQuiet (c : Core) : Bool :=
  (c.places.toList.take 6).all fun p => p.entries.isEmpty && p.posted.isEmpty && p.markers.isEmpty

def huskSize : Nat := 0x80000
def huskLocal : Nat := 0x40000

/-- The byte `j` of a number. -/
def byteOf (n j : Nat) : Byte := BitVec.ofNat 8 (n / 2 ^ (8 * j))

/-! The areas of a husk to which R353 gives contents and no places are laid out as notes/assumptions/42.md says (DESIGN
CHOICE). -/

/-- A promise as a number of 8 bytes. -/
def promiseNum : Promise → Nat
  | .due => 0
  | .cmd core id fallen => 2 ^ 63 + (if fallen then 2 ^ 62 else 0) + core % 2 ^ 22 * 2 ^ 40 + id % 2 ^ 40
def promiseOf (n : Nat) : Promise := if bit n 63 then .cmd (field n 61 40) (field n 39 0) (bit n 62) else .due

/-- g1 to g63, p0 to p15, q and d0 to d7: 736 bytes. -/
def regBytes (r : Regs) : List Byte :=
  ((r.g.toList.drop 1).flatMap fun v => toBytes 8 v.toNat) ++ (r.p.toList.flatMap fun v => toBytes 10 v.toNat) ++
    toBytes 8 r.q.toNat ++ r.d.toList.flatMap fun v => toBytes 8 (promiseNum v)
/-- A slot of the handler area. -/
def slotBytes (a : Agent) : List Byte :=
  let r := a.regs
  regBytes r ++ toBytes 8 r.round.toNat ++ toBytes 8 r.fmtA.toNat ++ toBytes 8 r.fmtB.toNat ++ toBytes 8 r.fmtC.toNat ++
    toBytes 10 r.sclA.toNat ++ toBytes 10 r.sclB.toNat ++ toBytes 10 r.utrapv.toNat ++ toBytes 8 r.utcause.toNat ++
    toBytes 10 r.utpc.toNat ++ toBytes 8 r.anomaly.toNat ++ toBytes 1 (if r.handlerActive then 1 else 0) ++
    toBytes 10 r.xret.toNat ++ toBytes 10 r.pc.toNat ++ toBytes 8 a.teamVal.toNat ++ a.me.toList.flatMap fun v => toBytes 8 v.toNat
/-- A context of A or M. -/
def seqBytes (r : Regs) : List Byte :=
  regBytes r ++ toBytes 10 r.pc.toNat ++ toBytes 8 r.round.toNat ++ toBytes 8 r.srn.toNat ++ toBytes 8 r.fmtA.toNat ++
    toBytes 8 r.fmtB.toNat ++ toBytes 8 r.fmtC.toNat ++ toBytes 10 r.sclA.toNat ++ toBytes 10 r.sclB.toNat

/-- A branch-outcome queue: its length, and its bits, the oldest lowest. -/
def bqBytes (l : List Bool) : List Byte :=
  toBytes 1 l.length ++ toBytes 4 (((List.range l.length).zip l).foldl (fun n ib => if ib.2 then n + 2 ^ ib.1 else n) 0)
def bqOf (n : Nat) : List Bool := (List.range (n % 256)).map fun i => bit n (8 + i)

/-- The dictionaries, which of them is current, and the format queue. -/
def matrixBytes (c : Core) : List Byte :=
  (c.mx.dict0.toList.flatMap fun v => toBytes 2 v.toNat) ++ (c.mx.dict1.toList.flatMap fun v => toBytes 2 v.toNat) ++
    toBytes 1 (if c.mx.cur then 1 else 0) ++ toBytes 1 c.fmtq.length ++
    c.fmtq.flatMap fun e => toBytes 4 e.1.toNat ++ toBytes 10 e.2.toNat

/-- The thread of a slot, and A or M, of the core in front. -/
def huskSlot (s : State) (k : Nat) : Option Agent :=
  s.allAgents.find? fun a => a.core == s.core.id && a.slot == some k && a.husked.isNone
/-- VTYPE of X, which is the holder's, and of A; the holder's slot, 255 for none. -/
def vtypeBytes (s : State) : List Byte :=
  toBytes 8 (((s.core.vholder.bind (huskSlot s)).map fun a => a.regs.vtype.toNat).getD 0) ++
    toBytes 8 (((s.seqOf s.core.id .a).map fun a => a.regs.vtype.toNat).getD 0) ++ toBytes 1 (s.core.vholder.getD 255)

/-- The logical cores of a launch that a core holds, ascending. -/
def heldLcs (s : State) (core : Nat) : List Nat :=
  ((s.allLcs.filter fun lc => lc.core == core && !lc.away).map (·.id)).foldl (fun l n => insertNat n l) []

/-- The counters of the logical cores in the order of the header, and the three bq. -/
def coreBytes (s : State) (lcs : List Nat) : List Byte :=
  let cs := lcs.flatMap fun n => (s.getLc n).mc.toList.flatMap fun v => toBytes 4 v.toNat
  cs ++ List.replicate (256 - cs.length) 0 ++ bqBytes s.core.bqX ++ bqBytes s.core.bqA ++ bqBytes s.core.bqM

/-- A byte of the husk between the header and the local memory; a free value where the model gives nothing a place (DESIGN
CHOICE, notes/assumptions/42.md). -/
def huskByte (s : State) (lcs : List Nat) (off : Nat) : Byte :=
  let c := s.core
  let at_ (base : Nat) (l : List Byte) : Byte := (l[off - base]?).getD (Config.huskByte s.choice off)
  let seq (q : Seq) : List Byte := ((s.seqOf c.id q).map fun a => seqBytes a.regs).getD []
  if off < 0x1E00 then
    let k := (off - 0x1000) / 896
    at_ (0x1000 + 896 * k) (((huskSlot s k).map slotBytes).getD [])
  else if off < 0x2000 then at_ 0x1E00 (coreBytes s lcs)
  else if off < 0x4000 then byteOf ((c.vregs.toList.getD ((off - 0x2000) / 256) 0).toNat) (off % 256)
  else if off < 0x14000 then byteOf ((aget ((off - 0x4000) / 4) c.mx.acc).getD 0).toNat (off % 4)
  else if off < 0x24000 then (aget (off - 0x14000) c.mx.wbuf).getD 0
  else if off < 0x25000 then at_ 0x24000 (matrixBytes c)
  else if off < 0x35000 then at_ 0x25000 []
  else if off < 0x35400 then at_ 0x35000 (seq .a)
  else if off < 0x35800 then at_ 0x35400 (seq .m)
  else if off < 0x35840 then byteOf ((c.vmask.toList.getD ((off - 0x35800) / 8) 0).toNat) (off % 8)
  else at_ 0x35840 (vtypeBytes s)

/-- Its poison (R364). -/
def huskPoison (s : State) (off : Nat) : Bool :=
  let c := s.core
  let g (a : Option Agent) (j : Nat) : Bool := decide (j < 504) && a.any fun a => a.regs.gpois.getLsbD (1 + j / 8)
  if off < 0x1E00 then g (huskSlot s ((off - 0x1000) / 896)) ((off - 0x1000) % 896)
  else if 0x2000 ≤ off ∧ off < 0x4000 then (c.vpois.toList.getD ((off - 0x2000) / 256) 0).getLsbD (off % 256)
  else if 0x4000 ≤ off ∧ off < 0x14000 then c.mx.accPois.contains ((off - 0x4000) / 4)
  else if 0x14000 ≤ off ∧ off < 0x24000 then c.mx.wPois.contains (off - 0x14000)
  else if 0x35000 ≤ off ∧ off < 0x35400 then g (s.seqOf c.id .a) (off - 0x35000)
  else if 0x35400 ≤ off ∧ off < 0x35800 then g (s.seqOf c.id .m) (off - 0x35400)
  else if 0x35800 ≤ off ∧ off < 0x35840 then c.mpois.getLsbD ((off - 0x35800) / 8)
  else false

def huskHeader (s : State) (lcs : List Nat) (st : Nat) : List Byte :=
  toBytes 64 (s.launch.lseq % 2 ^ 32 * 2 ^ 192 + s.launch.queue % 64 * 2 ^ 180 + lcs.length % 16 * 2 ^ 176
    + (((List.range 4).zip lcs).map fun kn => kn.2 * 2 ^ (104 + 18 * kn.1)).foldl (· + ·) 0
    + pkgOf s.core.id % 256 * 2 ^ 96 + st)

/-- A run of bytes with their poison, as the walker streams them (R364). -/
def stream (core : Nat) (va : Addr) (bs : List (Byte × Bool)) (s : State) : State :=
  let cells := ((List.range bs.length).zip bs).filterMap fun ib =>
    (rawKey s core (va + BitVec.ofNat 80 ib.1)).map fun k => (k, ib.2)
  poisonWords 0 0 ((cells.filter (·.2.2)).map fun c => wordOf c.1).eraseDups
    (writeBytes s (pkgOf core) 0 0 (cells.map fun c => (c.1, c.2.1)))

/-- Requests that the home of one of these logical cores has acknowledged and not applied: they go with the husk. -/
def arrivalsOf (launch : Nat) (lcs : List Nat) (net : List Msg) : List Posted :=
  net.filterMap fun m => match m with
    | .queued p _ => if p.launch = launch ∧ lcs.contains p.home then some p else none
    | _ => none
def withoutArrivals (launch : Nat) (lcs : List Nat) (net : List Msg) : List Msg :=
  net.filter fun m => match m with
    | .queued p _ => !(p.launch == launch && lcs.contains p.home)
    | _ => true

/-- The local memory of the logical cores in the order of the header. -/
def localImage (s : State) (lcs : List Nat) : List (Byte × Bool) :=
  lcs.flatMap fun n => (List.range s.launch.lsize).map fun i => dataByte s 0 0 (placeAddr n i)

/-- What stays with the physical core when its user context goes. -/
def emptied (c : Core) : Core :=
  { Core.new c.id with
    places := c.places, plb := c.plb, priv := c.priv, sup := c.sup, caller := c.caller, irqs := c.irqs
    halted := c.halted, haltedBy := c.haltedBy, haltDue := c.haltDue, nextCmd := c.nextCmd, vnext := c.vnext
    credit := c.credit, asked := c.asked, inval := c.inval }

/-- Steps 3 to 5 of R353, for the core in front and the launch in front. -/
def saveCore (p : Addr) (s : State) : State :=
  let id := s.core.id
  let lcs := heldLcs s id
  let here := agentsOn s id
  let rec_ : Husk :=
    { at_ := p, core := s.core, slots := here.map fun a => (a.tid, a.slot), lcs := lcs, launch := s.launch.id
      lseq := s.launch.lseq, queue := s.launch.queue, arrivals := arrivalsOf s.launch.id lcs s.net }
  let image := (List.range 0x35000).map fun i => (huskByte s lcs (0x1000 + i), huskPoison s (0x1000 + i))
  let head := huskHeader s lcs 2
  let s := stream id (p + BitVec.ofNat 80 huskLocal) (localImage s lcs) (stream id (p + 0x1000) image s)
  let s := s.mapAgents fun a =>
    if (here.map (·.tid)).contains a.tid then { a with husked := some p, slot := none, wait := none, loads := [] } else a
  let s := lcs.foldl (fun s n => s.modLc n fun lc => { lc with away := true }) s
  let s := rawWrite s id p head
  { s with
    core := { emptied s.core with priv := { s.core.priv with huskp := p } }
    net := withoutArrivals rec_.launch lcs s.net
    husks := rec_ :: s.husks.filter (·.at_ != p), choice := s.choice + 1 }

def execHusk (g : GOp) (p : BitVec 4) (s : State) : Res := issue onX (do
  inSupervisor
  let va ← readP p
  if (← get).cur.answer.isSome then
    modify forgetAnswer
    writeOp g 0
  else
    require (va.toNat % 65536 = 0) cAlign va
    reachRange (rangeFuel huskSize) va huskSize rW
    betweenChunks
    let s ← get
    if !hasUser s s.core.id then writeOp g 1
    else
      if s.core.husking.isSome then blocked .walker
      if !coreQuiet s s.core.id then stalled .walker
      if !placesQuiet s.core then
        set (markPlaces s.core.id s)
        keepStalled .release
      modify fun s => rawWrite { s with core := { s.core with husking := some va } } s.core.id va
        (huskHeader s (heldLcs s s.core.id) 1)
      keepWaiting .walker) s

/-- HUSK_STREAM_COMPLETE (R353): the stream to the husk has ended. What a commit of a view has sent since from the core goes
before (R291). -/
def execHuskStreamComplete (core : Nat) (s : State) : Res := event (fun s =>
  if !coreQuiet s core then s
  else if !placesQuiet (s.getCore core) then markPlaces core s
  else match (s.getCore core).husking, launchOn s core with
  | some p, some (l, n) =>
    let s := inLaunch l n (fun s =>
      let back := s.core.id
      focusCore back (saveCore p (focusCore core s))) s
    let s := s.modCore core fun c => { c with husking := none }
    match s.seqOf core .s with
    | some a => s.modAgent a.tid fun a => { a with answer := some true }
    | none => s
  | some _, none => s.modCore core fun c => { c with husking := none }
  | none, _ => s) s

/-- The number that stands at an offset of the husk. -/
def huskGet (s : State) (p : Addr) (off n : Nat) : Nat := (rawRead s s.core.id (p + BitVec.ofNat 80 off) n).getD 0

/-- The word of the husk at an offset carries poison. -/
def huskPois (s : State) (p : Addr) (off : Nat) : Bool :=
  (rawKey s s.core.id (p + BitVec.ofNat 80 off)).any fun k => poisoned s 0 0 k

/-- The registers that stand at an offset of the husk as `regBytes` lays them out. -/
def restoreRegs (s : State) (p : Addr) (base : Nat) (r : Regs) : Regs :=
  { r with
    g := Vector.ofFn fun i => if i.val = 0 then 0 else BitVec.ofNat 64 (huskGet s p (base + 8 * (i.val - 1)) 8)
    gpois := BitVec.ofNat 64 ((List.range 63).foldl (fun n i => if huskPois s p (base + 8 * i) then n + 2 ^ (i + 1) else n) 0)
    p := Vector.ofFn fun i => BitVec.ofNat 80 (huskGet s p (base + 504 + 10 * i.val) 10)
    q := BitVec.ofNat 8 (huskGet s p (base + 664) 1) ||| 1
    d := Vector.ofFn fun i => promiseOf (huskGet s p (base + 672 + 8 * i.val) 8) }
/-- Those of a slot, with its control registers. -/
def restoreSlot (s : State) (p : Addr) (k : Nat) (a : Agent) : Agent :=
  let base := 0x1000 + 896 * k
  let w (off : Nat) : Word := BitVec.ofNat 64 (huskGet s p (base + off) 8)
  let ad (off : Nat) : Addr := BitVec.ofNat 80 (huskGet s p (base + off) 10)
  { a with
    me := Vector.ofFn fun i => w (853 + 8 * i.val)
    regs := { restoreRegs s p base a.regs with
      round := w 736, fmtA := w 744, fmtB := w 752, fmtC := w 760, sclA := ad 768, sclB := ad 778, utrapv := ad 788
      utcause := w 798, utpc := ad 806, anomaly := w 816, handlerActive := huskGet s p (base + 824) 1 != 0, xret := ad 825
      pc := ad 835
      vtype := if huskGet s p 0x35850 1 = k then BitVec.ofNat 64 (huskGet s p 0x35840 8) else a.regs.vtype } }
/-- Those of A or M. -/
def restoreSeq (s : State) (p : Addr) (a : Agent) : Agent :=
  let base := if a.seq = .a then 0x35000 else 0x35400
  let w (off : Nat) : Word := BitVec.ofNat 64 (huskGet s p (base + off) 8)
  let ad (off : Nat) : Addr := BitVec.ofNat 80 (huskGet s p (base + off) 10)
  { a with regs := { restoreRegs s p base a.regs with
      pc := ad 736, round := w 746, srn := w 754, fmtA := w 762, fmtB := w 770, fmtC := w 778, sclA := ad 786, sclB := ad 796
      vtype := if a.seq = .a then BitVec.ofNat 64 (huskGet s p 0x35848 8) else a.regs.vtype } }

/-- The accumulator store and the weight buffer, bit for bit (R124), and the dictionaries. -/
def restoreMatrix (s : State) (p : Addr) (m : Matrix) : Matrix :=
  { m with
    acc := (List.range 16384).filterMap fun i =>
      let v := BitVec.ofNat 32 (huskGet s p (0x4000 + 4 * i) 4)
      if v = 0 then none else some (i, v)
    wbuf := (List.range 65536).filterMap fun i =>
      let v := BitVec.ofNat 8 (huskGet s p (0x14000 + i) 1)
      if v = 0 then none else some (i, v)
    accPois := m.accPois.filter fun i => huskPois s p (0x4000 + 4 * i)
    wPois := m.wPois.filter fun i => huskPois s p (0x14000 + i)
    dict0 := Vector.ofFn fun i => BitVec.ofNat 16 (huskGet s p (0x24000 + 2 * i.val) 2)
    dict1 := Vector.ofFn fun i => BitVec.ofNat 16 (huskGet s p (0x24020 + 2 * i.val) 2)
    cur := huskGet s p 0x24040 1 != 0 }

/-- The core with the user context of a husk; its own identity, pending interrupts and journals stay. -/
def restoredCore (s : State) (p : Addr) (h : Husk) : Core :=
  let c := s.core
  let o := h.core.priv
  let holder := huskGet s p 0x35850 1
  { h.core with
    id := c.id, places := c.places, plb := c.plb, sup := c.sup, caller := c.caller, irqs := c.irqs
    halted := c.halted, haltedBy := c.haltedBy, haltDue := c.haltDue, walker := c.walker, nextCmd := c.nextCmd
    asked := c.asked, inval := c.inval, husking := none
    bqX := bqOf (huskGet s p 0x1F00 5), bqA := bqOf (huskGet s p 0x1F05 5), bqM := bqOf (huskGet s p 0x1F0A 5)
    fmtq := (List.range (huskGet s p 0x24041 1)).map fun i =>
      (BitVec.ofNat 31 (huskGet s p (0x24042 + 14 * i) 4), BitVec.ofNat 80 (huskGet s p (0x24046 + 14 * i) 10))
    vholder := if holder < 4 then some holder else none
    vregs := Vector.ofFn fun i => BitVec.ofNat 2048 (huskGet s p (0x2000 + 256 * i.val) 256)
    vmask := Vector.ofFn fun i => BitVec.ofNat 64 (huskGet s p (0x35800 + 8 * i.val) 8)
    mx := restoreMatrix s p h.core.mx
    priv := { c.priv with
      dom := o.dom, quantum := o.quantum, olog := o.olog, ologn := o.ologn, rquota := o.rquota, lease := o.lease
      leasen := o.leasen, huskp := p } }

/-- The local memory of the husk's logical cores, with its poison, and their counters; the full-empty bits stand as they were
saved. -/
def restoreLocal (p : Addr) (h : Husk) (s : State) : State :=
  let cells := ((List.range h.lcs.length).zip h.lcs).flatMap fun kn => (List.range s.launch.lsize).map fun i =>
    (placeAddr kn.2 i, huskLocal + kn.1 * s.launch.lsize + i)
  let s := cells.foldl (fun s c => match rawKey s s.core.id (p + BitVec.ofNat 80 c.2) with
    | some k => setPoison (setBaseByte s c.1 (baseByte s k)) 0 0 c.1 (poisoned s 0 0 k)
    | none => s) s
  ((List.range h.lcs.length).zip h.lcs).foldl (fun s kn => s.modLc kn.2 fun lc => { lc with
    mc := Vector.ofFn fun j => BitVec.ofNat 32 (huskGet s p (0x1E00 + 64 * kn.1 + 4 * j.val) 4) }) s

/-- The thread has ended since it was saved (R75). -/
def hasEnded (s : State) (tid : Nat) : Bool := (s.getAgent tid).all fun a => a.state == .done || a.state == .failed
/-- What the core holds for threads that have ended since is given back: slots, the vector file, the hitch. -/
def dropEnded (h : Husk) (s : State) : State :=
  let id := s.core.id
  let s := h.slots.foldl (fun s x => match x.2 with
    | some k => if hasEnded s x.1 then releaseVector id k s else s
    | none => s) s
  let s := { s with core := { s.core with hitchQ := s.core.hitchQ.filter fun t => !hasEnded s t } }
  if s.core.hitch.any (hasEnded s) then releaseHitch id s else s

/-- The arrival buffer, in order (R355); from a request on that has to wait, all stay queued. -/
def applyArrivals (core : Nat) : List Posted → State → State
  | [], s => s
  | m :: l, s => match applyPosted m s with
    | .done t c => applyArrivals core l (if c = 0 then performed m t else respond m c core (performed m t))
    | _ => { s with net := s.net ++ (m :: l).map fun x => .queued x core }

/-- What UNHUSK restores (R355); in another package the promises come back due (R99). A thread that has ended while it was
away, as a rival that was killed (R75), does not come back. -/
def restoreHusk (p : Addr) (h : Husk) (s : State) : State :=
  let id := s.core.id
  let away := pkgOf id != pkgOf h.core.id
  let s := { s with core := restoredCore s p h }
  let s := inLaunch h.launch (h.lcs.headD 0) (fun s =>
    let s := restoreLocal p h s
    applyArrivals id h.arrivals (h.lcs.foldl (fun s n => s.modLc n fun lc => { lc with core := id, away := false }) s)) s
  let s0 := s
  let due (r : Regs) : Regs := if away then { r with d := Vector.replicate 8 .due } else r
  let s := s.mapAgents fun a =>
    match h.slots.find? (·.1 == a.tid) with
    | none =>
      if h.lcs.contains a.lcore ∧ a.launch = h.launch ∧ a.team.isSome ∧ a.slot.isNone ∧ a.world.isNone then { a with core := id } else a
    | some (_, k) =>
      if hasEnded s0 a.tid then { a with husked := none }
      else
        let b := match k with
          | some k => restoreSlot s0 p k a
          | none => restoreSeq s0 p a
        Agent.newChunk { b with core := id, slot := k, husked := none, regs := due b.regs }
  let n := huskGet s p 0 1
  let s := dropEnded h (rawWrite s id p [BitVec.ofNat 8 (n / 4 * 4 + 3)])
  { s with husks := s.husks.filter (·.at_ != h.at_) }

/-- The context that a husk in memory holds: what HUSK saved there, or, where the husk has been copied, what it saved under the
header's launch and logical cores. A husk of none is not SAVED (DESIGN CHOICE, notes/assumptions/42.md). -/
def huskAt (s : State) (va : Addr) : Option Husk :=
  let n := huskGet s va 0 64
  let lcs := (List.range (field n 179 176)).map fun k => field n (104 + 18 * k + 17) (104 + 18 * k)
  (s.husks.find? (·.at_ == va)).orElse fun _ =>
    s.husks.find? fun h => h.lcs == lcs && h.lseq == field n 223 192 && h.queue == field n 185 180
/-- A thread of the husk's logical cores runs in a view, or has a world: it stays in its package (R67, R84). -/
def huskTied (s : State) (h : Husk) : Bool :=
  let mine (launch lcore : Nat) : Bool := launch == h.launch && h.lcs.contains lcore
  (s.allAgents.any fun a => mine a.launch a.lcore && a.tag != 0 && a.state != .done && a.state != .failed) ||
    (launchOf s h.launch).worlds.any fun w => mine h.launch w.lcore && w.state != .resolved

def execUnhusk (g : GOp) (p : BitVec 4) (s : State) : Res := issue onX (do
  inSupervisor
  let va ← readP p
  require (va.toNat % 65536 = 0) cAlign va
  reachRange (rangeFuel huskSize) va huskSize rR
  betweenChunks
  let s ← get
  if hasUser s s.core.id then writeOp g 1
  else if huskGet s va 0 1 % 4 ≠ 2 then writeOp g 2
  else match huskAt s va with
    | none => writeOp g 2
    | some h =>
      let l := launchOf s h.launch
      if l.phase ≠ .running then writeOp g 3
      else
        require (spanPart s s.core.id == some l.part && (!huskTied s h || pkgOf s.core.id == pkgOf h.core.id)) cRights va
        modify (restoreHusk va h)
        writeOp g 0) s

/-! Halt groups (R356 to R358). -/

def execHaltg (g : GOp) (s : State) : Res := issue onX (do
  inSupervisor
  let v ← readOp g
  require (v.toNat < 2 ^ 17) cIllegal
  let groups := v.setWidth 16
  modify fun s =>
    if v.getLsbD 16 then s.mapCores fun c =>
      if spanPart s c.id = spanPart s s.core.id then
        { c with haltedBy := c.haltedBy &&& ~~~groups, haltDue := c.haltDue &&& ~~~groups }
      else c
    else trigger groups s.core.id s) s

/-- HALT_GROUP_MEMBER_HALT (R357): a member of a triggered group stops at an instruction boundary. -/
def execHaltGroupMemberHalt (core : Nat) (s : State) : Res := event (fun s =>
  s.modCore core fun c => { c with haltedBy := c.haltedBy ||| c.haltDue, haltDue := 0 }) s

/-- HOST_DEBUG_HALT (R357). -/
def execHostDebugHalt (core : Nat) (s : State) : Res := event (haltCore core) s

/-- CORE_RESUME (R358): the host releases the core. -/
def execCoreResume (core : Nat) (s : State) : Res := event (fun s =>
  s.modCore core fun c => { c with halted := false, haltedBy := 0, haltDue := 0 }) s

/-- The queue of a record's partition has room for it (R345). -/
def recordRoom (s : State) (r : TrapRec) : Bool :=
  match rawRead s r.core (s.getCore r.core).priv.trapq 12 with
  | none => false
  | some n => decide ((field n 63 32 + 2 ^ 32 - field n 95 64) % 2 ^ 32 < (if r.kind = 2 then 256 else 254))
/-- TRAP_RECORD_RETRY (R345): the oldest of the records that wait in their units for which there is room is queued. -/
def execTrapRecordRetry (s : State) : Res := event (fun s =>
  match (List.range s.trapWait.length).find? fun k => (s.trapWait[k]?).any (recordRoom s) with
  | none => s
  | some k => match s.trapWait[k]? with
    | some r => queueRecord r { s with trapWait := s.trapWait.eraseIdx k }
    | none => s) s

/-- ILLEGAL_INSN (R189): a word or chain that is no instruction; no part of it takes effect. -/
def execIllegalInsn (cause : Byte) (addr : Addr) (s : State) : Res := runBody (fault cause addr : Run Unit) s

end Sys2Proof.Machine
end

