-- ==== Sys2Proof/Machine/Integer.lean ====
section
/-! DEFINITION. Integer, address and predicate instructions (spec/11 R207 to R213). -/

namespace Sys2Proof.Machine

/-! What the operations compute, on 64-bit values. -/

def signedLe (x y : Word) : Bool := x.sle y
def minS (x y : Word) : Word := if x.sle y then x else y
def maxS (x y : Word) : Word := if x.sle y then y else x
def minU (x y : Word) : Word := if x.ule y then x else y
def maxU (x y : Word) : Word := if x.ule y then y else x
/-- The high 64 bits of the signed and of the unsigned 128-bit product. -/
def mulHi (x y : Word) : Word := BitVec.ofInt 64 (x.toInt * y.toInt / 2 ^ 64)
def mulHiU (x y : Word) : Word := BitVec.ofNat 64 (x.toNat * y.toNat / 2 ^ 64)
/-- The carry-less product: bit k is the XOR of x[i] AND y[j] over i + j = k. -/
def carryless (x y : Word) : Nat :=
  (List.range 64).foldl (fun n i => if y.getLsbD i then n ^^^ (x.toNat * 2 ^ i) else n) 0
def clmulLo (x y : Word) : Word := BitVec.ofNat 64 (carryless x y)
def clmulHi (x y : Word) : Word := BitVec.ofNat 64 (carryless x y / 2 ^ 64)
/-- A shift amount is y[5:0]. -/
def shAmt (y : Word) : Nat := y.toNat % 64
def shl (x y : Word) : Word := x <<< shAmt y
def shr (x y : Word) : Word := x >>> shAmt y
def sar (x y : Word) : Word := x.sshiftRight (shAmt y)
def rol (x y : Word) : Word := x.rotateLeft (shAmt y)
/-- The divisions of R208 for a divisor that is not 0; −2^63 / −1 wraps. -/
def divS (x y : Word) : Word := x.sdiv y
def remS (x y : Word) : Word := x.srem y
def divU (x y : Word) : Word := x / y
def remU (x y : Word) : Word := x % y
def absW (x : Word) : Word := if x.slt 0 then 0 - x else x
def popcW (x : Word) : Word := BitVec.ofNat 64 (popcount 64 x.toNat)
def clzW (x : Word) : Word := if x = 0 then 64 else BitVec.ofNat 64 (63 - Nat.log2 x.toNat)
def ctzW (x : Word) : Word :=
  BitVec.ofNat 64 (((List.range 64).find? fun i => x.getLsbD i).getD 64)
def bswapW (x : Word) : Word := BitVec.ofNat 64 (ofBytes (toBytes 8 x.toNat).reverse)
/-- zext(b[pos + len − 1 : pos]), len = len1 + 1. -/
def extrW (b : Word) (pos len1 : BitVec 6) : Word :=
  BitVec.ofNat 64 (b.toNat / 2 ^ pos.toNat % 2 ^ (len1.toNat + 1))
/-- a with a[pos + len − 1 : pos] := b[len − 1 : 0]. -/
def insrW (a b : Word) (pos len1 : BitVec 6) : Word :=
  let m := BitVec.ofNat 64 ((2 ^ (len1.toNat + 1) - 1) * 2 ^ pos.toNat)
  (a &&& ~~~m) ||| ((b <<< pos.toNat) &&& m)

/-- A division: DIVIDE_ZERO leaves the destination unwritten (R208). -/
def runDiv (r : RR) (f : Word → Word → Word) : Run Unit :=
  runRR r fun x y => if y = 0 then throw (.utrap cDivZero) else return f x y

def execAdd (r : RR) (s : State) : Res := issue onAll (pureRR r (fun x y => x + y)) s
def execSub (r : RR) (s : State) : Res := issue onAll (pureRR r (fun x y => x - y)) s
def execAnd (r : RR) (s : State) : Res := issue onAll (pureRR r (fun x y => x &&& y)) s
def execOr (r : RR) (s : State) : Res := issue onAll (pureRR r (fun x y => x ||| y)) s
def execXor (r : RR) (s : State) : Res := issue onAll (pureRR r (fun x y => x ^^^ y)) s
def execAndn (r : RR) (s : State) : Res := issue onAll (pureRR r (fun x y => x &&& ~~~y)) s
def execMin (r : RR) (s : State) : Res := issue onAll (pureRR r minS) s
def execMax (r : RR) (s : State) : Res := issue onAll (pureRR r maxS) s
def execMinu (r : RR) (s : State) : Res := issue onAll (pureRR r minU) s
def execMaxu (r : RR) (s : State) : Res := issue onAll (pureRR r maxU) s
def execMul (r : RR) (s : State) : Res := issue onAll (pureRR r (fun x y => x * y)) s
def execMulh (r : RR) (s : State) : Res := issue onAll (pureRR r mulHi) s
def execMulhu (r : RR) (s : State) : Res := issue onAll (pureRR r mulHiU) s
def execClmul (r : RR) (s : State) : Res := issue onAll (pureRR r clmulLo) s
def execClmulh (r : RR) (s : State) : Res := issue onAll (pureRR r clmulHi) s
def execShl (r : RR) (s : State) : Res := issue onAll (pureRR r shl) s
def execShr (r : RR) (s : State) : Res := issue onAll (pureRR r shr) s
def execSar (r : RR) (s : State) : Res := issue onAll (pureRR r sar) s
def execRol (r : RR) (s : State) : Res := issue onAll (pureRR r rol) s
def execDiv (r : RR) (s : State) : Res := issue onAll (runDiv r divS) s
def execDivu (r : RR) (s : State) : Res := issue onAll (runDiv r divU) s
def execRem (r : RR) (s : State) : Res := issue onAll (runDiv r remS) s
def execRemu (r : RR) (s : State) : Res := issue onAll (runDiv r remU) s

/-! Format RU, and the bit-field instructions (R209). -/

def execMov (r : RU) (s : State) : Res := issue onAll (pureRU r (fun x => x)) s
def execNeg (r : RU) (s : State) : Res := issue onAll (pureRU r (fun x => 0 - x)) s
def execAbs (r : RU) (s : State) : Res := issue onAll (pureRU r absW) s
def execPopc (r : RU) (s : State) : Res := issue onAll (pureRU r popcW) s
def execClz (r : RU) (s : State) : Res := issue onAll (pureRU r clzW) s
def execCtz (r : RU) (s : State) : Res := issue onAll (pureRU r ctzW) s
def execBswap (r : RU) (s : State) : Res := issue onAll (pureRU r bswapW) s

def execExtr (d b : GOp) (pos len1 : BitVec 6) (s : State) : Res := issue onAll (do
  writeOp d (extrW (← readOp b) pos len1)) s

def execInsr (a : GReg) (b : GOp) (pos len1 : BitVec 6) (s : State) : Res := issue onAll (do
  let x ← readG a
  let y ← readOp b
  writeG a (insrW x y pos len1)) s

/-- SEL (R209): both sources are read at issue. -/
def execSel (k : BitVec 3) (d b : GOp) (c : GReg) (s : State) : Res := issue onAll (do
  let x ← readOp b
  let y ← readG c
  writeOp d (if ← readQ k then x else y)) s

/-! Immediates (R210). -/

def execAddi (g : GReg) (imm : Word) (s : State) : Res := issue onAll (do
  writeG g ((← readG g) + imm)) s
def execLdi (g : GOp) (imm : Word) (s : State) : Res := issue onAll (writeOp g imm) s
def execLdih (g : GReg) (imm : BitVec 32) (s : State) : Res := issue onAll (do
  writeG g (imm ++ (← readG g).setWidth 32)) s
def execShlImm (g : GReg) (n : BitVec 6) (s : State) : Res := issue onAll (do
  writeG g (shl (← readG g) (n.setWidth 64))) s
def execShrImm (g : GReg) (n : BitVec 6) (s : State) : Res := issue onAll (do
  writeG g (shr (← readG g) (n.setWidth 64))) s
def execSarImm (g : GReg) (n : BitVec 6) (s : State) : Res := issue onAll (do
  writeG g (sar (← readG g) (n.setWidth 64))) s
def execRolImm (g : GReg) (n : BitVec 6) (s : State) : Res := issue onAll (do
  writeG g (rol (← readG g) (n.setWidth 64))) s
def execPaddi (p : BitVec 4) (imm : Word) (s : State) : Res := issue onAll (do
  writeP p ((← readP p) + imm.signExtend 80)) s

/-! Compares (R211, R212). -/

/-- An optional g operand; absent it is g0. -/
def readOpt (c : Option GReg) : Run Word :=
  match c with
  | some n => readG n
  | none => return 0

def execCmp (cc : BitVec 3) (q : QDst) (b : GOp) (c : Option GReg) (s : State) : Res := issue onAll (do
  let x ← readOp b
  let y ← readOpt c
  writeQDst q (cmpHolds cc x y)) s
def execCmpi (cc : BitVec 3) (q : QDst) (b : GOp) (imm : Word) (s : State) : Res := issue onAll (do
  writeQDst q (cmpHolds cc (← readOp b) imm)) s
def execPcmp (cc : BitVec 2) (q : QDst) (b : BitVec 4) (c : Option (BitVec 4)) (s : State) : Res := issue onAll (do
  let x ← readP b
  let y ← match c with
    | some n => readP n
    | none => pure 0
  writeQDst q (pcmpHolds cc x y)) s

/-! Addresses and predicates (R212, R213). -/

def execPadd (r : PaddArgs) (s : State) : Res := issue onAll (do
  match r with
  | .two a g => do
    let x ← readP a
    let y ← readOp g
    writeP a (x + y.signExtend 80)
  | .three a b c => do
    let x ← readP b
    let y ← readG c
    writeP a (x + y.signExtend 80)) s
def execPset (p : BitVec 4) (g : GOp) (c : Option GReg) (s : State) : Res := issue onAll (do
  let x ← readOp g
  let y ← readOpt c
  writeP p (y.setWidth 16 ++ x)) s
def execPget (g : GOp) (p : BitVec 4) (s : State) : Res := issue onAll (do
  writeOp g ((← readP p).setWidth 64)) s
def execPgetHi (g : GOp) (p : BitVec 4) (s : State) : Res := issue onAll (do
  writeOp g (((← readP p).extractLsb' 64 16).setWidth 64)) s

/-- PMAKE (R213). -/
def pmake (b c : Word) : Addr :=
  if 2 ^ 18 ≤ b.toNat ∨ 2 ^ 60 ≤ c.toNat then BitVec.ofNat 80 (3 * 2 ^ 78)
  else BitVec.ofNat 80 (placeAddr b.toNat c.toNat)
def execPmake (p : BitVec 4) (g : GOp) (c : Option GReg) (s : State) : Res := issue onAll (do
  let x ← readOp g
  let y ← readOpt c
  writeP p (pmake x y)) s

def execQand (a b : BitVec 3) (s : State) : Res := issue onAll (do
  writeQ a ((← readQ a) && (← readQ b))) s
def execQor (a b : BitVec 3) (s : State) : Res := issue onAll (do
  writeQ a ((← readQ a) || (← readQ b))) s
def execQnot (a : QDst) (b : BitVec 3) (s : State) : Res := issue onAll (do
  writeQDst a (!(← readQ b))) s
def execQset (q : QDst) (v : Bool) (s : State) : Res := issue onAll (writeQDst q v) s

end Sys2Proof.Machine
end

