-- ==== Sys2Proof/Machine/Float.lean ====
section
/-! DEFINITION. Scalar float instructions (spec/11 R214 to R219). -/

namespace Sys2Proof.Machine

/-- The value in the low bits of a g register (R214). -/
def floatIn (t : Fmt) (v : Word) : Val := decodeF t (v.toNat % 2 ^ t.bits)

/-- One rounding in the sampled mode; the higher bits of the result are 0 (R214, R215). -/
def roundOut (t : Fmt) (x : Val) : Run Word := do return BitVec.ofNat 64 (← encodeNow t x false)

/-- Under RDN an exact zero sum is −0 (R122). -/
def isRdn (s : State) : Bool := roundMode s = 3

def runF2 (t : Fmt) (r : RR) (f : Bool → Val → Val → Val) : Run Unit :=
  runRR r fun x y => do roundOut t (f (isRdn (← get)) (floatIn t x) (floatIn t y))
def faddV (rdn : Bool) (x y : Val) : Val := Val.add rdn x y
def fsubV (rdn : Bool) (x y : Val) : Val := Val.add rdn x y.negate
def fmulV (_ : Bool) (x y : Val) : Val := Val.mul x y
def fdivV (_ : Bool) (x y : Val) : Val := Val.div x y

/-- FFMA: a + b × c with one rounding. -/
def runFfma (t : Fmt) (a : GReg) (b : GOp) (c : GReg) : Run Unit := do
  let x ← readG a
  let y ← readOp b
  let z ← readG c
  writeG a (← roundOut t (Val.add (isRdn (← get)) (floatIn t x) (Val.mul (floatIn t y) (floatIn t z))))
def runFsqrt (t : Fmt) (r : RU) : Run Unit := runRU r fun x => roundOut t (Val.sqrt (floatIn t x))

/-- Whether `x` comes before `y`, with −0 before +0. -/
def fbefore (x y : Val) : Bool := decide (x.cmp y < 0) || (x.cmp y == 0 && x.neg && !y.neg)

/-- FMIN and FMAX (R216): the chosen operand's bits unchanged, or the canonical NaN. -/
def fchoose (t : Fmt) (smaller : Bool) (x y : Word) : Word :=
  let a := floatIn t x
  let b := floatIn t y
  let low (v : Word) : Word := BitVec.ofNat 64 (v.toNat % 2 ^ t.bits)
  if a.isNan && b.isNan then BitVec.ofNat 64 t.nan
  else if a.isNan then low y
  else if b.isNan then low x
  else if fbefore b a == smaller then low y else low x

/-- FCMP (R217). -/
def runFcmp (t : Fmt) (cc : BitVec 2) (q : QDst) (b : GOp) (c : Option GReg) : Run Unit := do
  let x ← readOp b
  let y ← readOpt c
  writeQDst q (fcmpHolds cc (floatIn t x) (floatIn t y))

/-! F64 -/
def execFaddF64 (r : RR) (s : State) : Res := issue onXA (runF2 f64 r faddV) s
def execFsubF64 (r : RR) (s : State) : Res := issue onXA (runF2 f64 r fsubV) s
def execFmulF64 (r : RR) (s : State) : Res := issue onXA (runF2 f64 r fmulV) s
def execFdivF64 (r : RR) (s : State) : Res := issue onXA (runF2 f64 r fdivV) s
def execFfmaF64 (a : GReg) (b : GOp) (c : GReg) (s : State) : Res := issue onXA (runFfma f64 a b c) s
def execFsqrtF64 (r : RU) (s : State) : Res := issue onXA (runFsqrt f64 r) s
def execFminF64 (r : RR) (s : State) : Res := issue onXA (pureRR r (fchoose f64 true)) s
def execFmaxF64 (r : RR) (s : State) : Res := issue onXA (pureRR r (fchoose f64 false)) s
def execFcmpF64 (cc : BitVec 2) (q : QDst) (b : GOp) (c : Option GReg) (s : State) : Res :=
  issue onXA (runFcmp f64 cc q b c) s

/-! F32 -/
def execFaddF32 (r : RR) (s : State) : Res := issue onXA (runF2 f32 r faddV) s
def execFsubF32 (r : RR) (s : State) : Res := issue onXA (runF2 f32 r fsubV) s
def execFmulF32 (r : RR) (s : State) : Res := issue onXA (runF2 f32 r fmulV) s
def execFdivF32 (r : RR) (s : State) : Res := issue onXA (runF2 f32 r fdivV) s
def execFfmaF32 (a : GReg) (b : GOp) (c : GReg) (s : State) : Res := issue onXA (runFfma f32 a b c) s
def execFsqrtF32 (r : RU) (s : State) : Res := issue onXA (runFsqrt f32 r) s
def execFminF32 (r : RR) (s : State) : Res := issue onXA (pureRR r (fchoose f32 true)) s
def execFmaxF32 (r : RR) (s : State) : Res := issue onXA (pureRR r (fchoose f32 false)) s
def execFcmpF32 (cc : BitVec 2) (q : QDst) (b : GOp) (c : Option GReg) (s : State) : Res :=
  issue onXA (runFcmp f32 cc q b c) s

/-! F16 -/
def execFaddF16 (r : RR) (s : State) : Res := issue onXA (runF2 f16 r faddV) s
def execFsubF16 (r : RR) (s : State) : Res := issue onXA (runF2 f16 r fsubV) s
def execFmulF16 (r : RR) (s : State) : Res := issue onXA (runF2 f16 r fmulV) s
def execFdivF16 (r : RR) (s : State) : Res := issue onXA (runF2 f16 r fdivV) s
def execFfmaF16 (a : GReg) (b : GOp) (c : GReg) (s : State) : Res := issue onXA (runFfma f16 a b c) s
def execFsqrtF16 (r : RU) (s : State) : Res := issue onXA (runFsqrt f16 r) s
def execFminF16 (r : RR) (s : State) : Res := issue onXA (pureRR r (fchoose f16 true)) s
def execFmaxF16 (r : RR) (s : State) : Res := issue onXA (pureRR r (fchoose f16 false)) s
def execFcmpF16 (cc : BitVec 2) (q : QDst) (b : GOp) (c : Option GReg) (s : State) : Res :=
  issue onXA (runFcmp f16 cc q b c) s

/-! Bf16 -/
def execFaddBf16 (r : RR) (s : State) : Res := issue onXA (runF2 bf16 r faddV) s
def execFsubBf16 (r : RR) (s : State) : Res := issue onXA (runF2 bf16 r fsubV) s
def execFmulBf16 (r : RR) (s : State) : Res := issue onXA (runF2 bf16 r fmulV) s
def execFdivBf16 (r : RR) (s : State) : Res := issue onXA (runF2 bf16 r fdivV) s
def execFfmaBf16 (a : GReg) (b : GOp) (c : GReg) (s : State) : Res := issue onXA (runFfma bf16 a b c) s
def execFsqrtBf16 (r : RU) (s : State) : Res := issue onXA (runFsqrt bf16 r) s
def execFminBf16 (r : RR) (s : State) : Res := issue onXA (pureRR r (fchoose bf16 true)) s
def execFmaxBf16 (r : RR) (s : State) : Res := issue onXA (pureRR r (fchoose bf16 false)) s
def execFcmpBf16 (cc : BitVec 2) (q : QDst) (b : GOp) (c : Option GReg) (s : State) : Res :=
  issue onXA (runFcmp bf16 cc q b c) s

/-! FCVT (R218). -/

/-- The value of an operand in a conversion code: 0 to 3 float, 4 .i64, 5 .ui64. -/
def cvtIn (src : Nat) (v : Word) : Val :=
  match fmtOf src with
  | some t => if src < 4 then floatIn t v else if src = 4 then .ofInt v.toInt else .ofInt (v.toNat : Int)
  | none => .ofInt (v.toNat : Int)

/-- round_to(int, v, r) clamped; one call of round_to (R119). -/
def toIntNow (lo hi : Int) (x : Val) : Run Word := do
  let s ← get
  let d := drawsOf s
  let mode := roundMode s
  set (setSrn (d.after mode x).n s)
  return BitVec.ofInt 64 (encodeInt lo hi x mode d.z)

def cvtNow (dst src : Nat) (sat : Bool) (v : Word) : Run Word :=
  if dst < 4 then
    match fmtOf dst with
    | some t => do return BitVec.ofNat 64 (← encodeNow t (cvtIn src v) sat)
    | none => return 0
  else
    let lo : Int := if dst = 4 then -2 ^ 63 else 0
    let hi : Int := if dst = 4 then 2 ^ 63 - 1 else 2 ^ 64 - 1
    if src < 4 then toIntNow lo hi (cvtIn src v)
    else return BitVec.ofInt 64 (clampInt lo hi (cvtIn src v))

def execFcvt (dst src : BitVec 3) (sat : Bool) (d b : GOp) (s : State) : Res := issue onXA (do
  let x ← readOp b
  writeOp d (← cvtNow dst.toNat src.toNat sat x)) s

/-! FCLASS and FMOV (R219). -/

def ffmt : FFmt → Fmt
  | .f64 => Machine.f64 | .f32 => Machine.f32 | .f16 => Machine.f16 | .bf16 => Machine.bf16

def execFclass (f : FFmt) (r : RU) (s : State) : Res := issue onXA
  (pureRU r fun x => BitVec.ofNat 64 (2 ^ classBit (ffmt f) (floatIn (ffmt f) x))) s
def execFmov (f : FFmt) (r : RU) (s : State) : Res := issue onXA
  (pureRU r fun x => BitVec.ofNat 64 (x.toNat % 2 ^ (ffmt f).bits)) s

end Sys2Proof.Machine
end

