-- ==== Sys2Proof/Machine/VFile.lean ====
section
/-! DEFINITION. What the vector unit computes: elements, masks, and each operation on the vector file
(spec/12 R229, R230, R234 to R249). Poison travels with the elements (R364). -/

namespace Sys2Proof.Machine

/-- The element type that VTYPE names (R229): format code, width. -/
structure VTy where
  code : Nat
  w : Nat
  deriving DecidableEq, Repr

def vtyOf (vtype : Word) : VTy :=
  let c := field vtype.toNat 3 0
  { code := c, w := if c = 6 ∨ c = 7 then 8 * 2 ^ field vtype.toNat 7 6 else codeBits c }

def VTy.n (t : VTy) : Nat := 2048 / t.w
/-- One of the four floating-point types of arithmetic. -/
def VTy.isFloat (t : VTy) : Bool := decide (t.code < 4)
def VTy.isInt (t : VTy) : Bool := t.code = 6 || t.code = 7
def VTy.fp8 (t : VTy) : Bool := t.code = 4 || t.code = 5
def VTy.fmt (t : VTy) : Fmt := (fmtOf t.code).getD f64

/-- An element with its poison mark. -/
abbrev El := Nat × Bool

/-- The vector file as an operation sees it. -/
structure VF where
  v : Vector VReg 32
  p : Vector (BitVec 256) 32
  m : Vector Word 8
  mp : Byte
  deriving DecidableEq, Repr

def Core.vf (c : Core) : VF := { v := c.vregs, p := c.vpois, m := c.vmask, mp := c.mpois }

/-- Element i of a register occupies bits w × i + w − 1 to w × i (R230). -/
def elemsOf (w : Nat) (v : VReg) (p : BitVec 256) : List El :=
  (List.range (2048 / w)).map fun i =>
    ((v.extractLsb' (w * i) w).toNat, decide (p.extractLsb' (w / 8 * i) (w / 8) ≠ 0))
def VF.elems (f : VF) (w : Nat) (r : BitVec 5) : List El := elemsOf w f.v[r.toNat] f.p[r.toNat]

/-- Numbers of `w` bits packed from bit 0. -/
def pack (w : Nat) : List Nat → Nat
  | [] => 0
  | x :: l => x % 2 ^ w + 2 ^ w * pack w l
def vregOf (w : Nat) (l : List El) : VReg := BitVec.ofNat 2048 (pack w (l.map (·.1)))
def poisOf (w : Nat) (l : List El) : BitVec 256 :=
  BitVec.ofNat 256 (pack (w / 8) (l.map fun e => if e.2 then 2 ^ (w / 8) - 1 else 0))

/-- The governing mask: all ones for MINOR 0 (R230). -/
def VF.gov (f : VF) (gm : BitVec 3) : Word := if gm = 0 then BitVec.allOnes 64 else f.m[gm.toNat]
def active (w : Nat) (g : Word) (i : Nat) : Bool := g.getLsbD (i * w / 32)
def actives (t : VTy) (g : Word) : List Bool := (List.range t.n).map (active t.w g)
def activeCount (t : VTy) (g : Word) : Nat := ((actives t g).filter id).length

/-- A masked-off element keeps its old bits. -/
def mergeMask : List Bool → List El → List El → List El
  | a :: as, o :: os, n :: ns => (if a then n else o) :: mergeMask as os ns
  | _, _, _ => []

/-- What an operation answers: the file, the stream of counts, the value for a g register with its poison,
and ESC_EDGE (R117). -/
structure VOut where
  f : VF
  d : Draws
  g : Option (Word × Bool)
  esc : Bool
  deriving DecidableEq, Repr

/-- DEDUCED, notes/assumptions/22.md. -/
def VF.put (f : VF) (r : BitVec 5) (v : VReg) (p : BitVec 256) : VF :=
  { f with v := f.v.set r.toNat v, p := f.p.set r.toNat p }
def VF.putElems (f : VF) (w : Nat) (r : BitVec 5) (l : List El) : VF := f.put r (vregOf w l) (poisOf w l)
def VF.putMask (f : VF) (k : BitVec 3) (m : Word) (p : Bool) : VF :=
  { f with
    m := f.m.set k.toNat m
    mp := if p then f.mp ||| (1#8 <<< k.toNat) else f.mp &&& ~~~(1#8 <<< k.toNat) }

/-- Elements computed in ascending order with the stream of counts; only active ones draw (R121). -/
def mapDraw {α : Type} (f : α → Draws → Nat × Draws) : List Bool → List (α × Bool) → Draws → List El × Draws
  | a :: as, (x, p) :: l, d =>
    let r := if a then f x d else (0, d)
    let rest := mapDraw f as l r.2
    ((r.1, p) :: rest.1, rest.2)
  | _, _, d => ([], d)

def encD (t : Fmt) (mode : RMode) (x : Val) (d : Draws) : Nat × Draws := (encodeF t x mode false d.z, d.after mode x)

/-! Arithmetic, bitwise, shifts (R235, R236). -/

inductive VBin where
  | add | sub | mul | div | min | max | and | or | xor | shl | shr | sar
  deriving DecidableEq, Repr

/-- The least or greatest of two encodings: R216 for floats, the class's signedness for integers. -/
def vless (t : VTy) (smaller : Bool) (x y : Nat) : Nat :=
  if t.isFloat then (fchoose t.fmt smaller (BitVec.ofNat 64 x) (BitVec.ofNat 64 y)).toNat
  else
    let le := if t.code = 6 then decide (toSigned t.w x ≤ toSigned t.w y) else decide (x ≤ y)
    if le == smaller then x else y

def vbin (op : VBin) (t : VTy) (mode : RMode) (x y : Nat) (d : Draws) : Nat × Draws :=
  let w := t.w
  let fx := decodeF t.fmt x
  let fy := decodeF t.fmt y
  let rdn : Bool := mode = 3#3
  let k := Nat.min y w
  match op with
  | .add => if t.isFloat then encD t.fmt mode (Val.add rdn fx fy) d else ((x + y) % 2 ^ w, d)
  | .sub => if t.isFloat then encD t.fmt mode (Val.add rdn fx fy.negate) d else ((x + 2 ^ w - y) % 2 ^ w, d)
  | .mul => if t.isFloat then encD t.fmt mode (Val.mul fx fy) d else (x * y % 2 ^ w, d)
  | .div => encD t.fmt mode (Val.div fx fy) d
  | .min => (vless t true x y, d)
  | .max => (vless t false x y, d)
  | .and => (x &&& y, d)
  | .or => (x ||| y, d)
  | .xor => (x ^^^ y, d)
  | .shl => (x * 2 ^ k % 2 ^ w, d)
  | .shr => (x / 2 ^ k, d)
  | .sar => (intBits w (toSigned w x / (2 ^ k : Nat)), d)

/-- Pairs of elements; the poison of either is the pair's. -/
def pairEls (a b : List El) : List ((Nat × Nat) × Bool) := (a.zip b).map fun x => ((x.1.1, x.2.1), x.1.2 || x.2.2)

/-- The operands x, y and the destination (R198). -/
def VF.operands (f : VF) (w : Nat) : VV → BitVec 5 × List El × List El
  | .two a b => (a.setWidth 5, f.elems w (a.setWidth 5), f.elems w (b.setWidth 5))
  | .three a b c => (a, f.elems w b, f.elems w c)
  | .imm a b c => (a, f.elems w b, List.replicate (2048 / w) (c.toNat, false))

def VF.bin (f : VF) (op : VBin) (t : VTy) (mode : RMode) (gm : BitVec 3) (r : VV) (d : Draws) : VOut :=
  let act := actives t (f.gov gm)
  let (a, x, y) := f.operands t.w r
  let z := mapDraw (fun p d => vbin op t mode p.1 p.2 d) act (pairEls x y) d
  { f := f.putElems t.w a (mergeMask act (f.elems t.w a) z.1), d := z.2, g := none, esc := false }

def VF.fma (f : VF) (t : VTy) (mode : RMode) (gm : BitVec 3) (a b c : BitVec 5) (d : Draws) : VOut :=
  let act := actives t (f.gov gm)
  let old := f.elems t.w a
  let xs := (old.zip (pairEls (f.elems t.w b) (f.elems t.w c))).map fun x => ((x.1.1, x.2.1), x.1.2 || x.2.2)
  let one (x : Nat × Nat × Nat) (d : Draws) : Nat × Draws :=
    if t.isFloat then
      encD t.fmt mode (Val.add (decide (mode = 3#3)) (decodeF t.fmt x.1)
        (Val.mul (decodeF t.fmt x.2.1) (decodeF t.fmt x.2.2))) d
    else ((x.1 + x.2.1 * x.2.2) % 2 ^ t.w, d)
  let z := mapDraw one act xs d
  { f := f.putElems t.w a (mergeMask act old z.1), d := z.2, g := none, esc := false }

def VF.sqrt (f : VF) (t : VTy) (mode : RMode) (gm : BitVec 3) (a b : BitVec 5) (d : Draws) : VOut :=
  let act := actives t (f.gov gm)
  let z := mapDraw (fun x d => encD t.fmt mode (Val.sqrt (decodeF t.fmt x)) d) act (f.elems t.w b) d
  { f := f.putElems t.w a (mergeMask act (f.elems t.w a) z.1), d := z.2, g := none, esc := false }

/-! Compare, select, move, broadcast (R237, R238). -/

def vcond (t : VTy) (cc : BitVec 3) (x y : Nat) : Bool :=
  if t.isFloat then
    let a := decodeF t.fmt x
    let b := decodeF t.fmt y
    let un := a.isNan || b.isNan
    match cc.toNat with
    | 0 => !un && a.cmp b == 0
    | 1 => un || a.cmp b != 0
    | 2 => !un && decide (a.cmp b < 0)
    | 3 => !un && decide (0 ≤ a.cmp b)
    | 6 => !un && decide (a.cmp b ≤ 0)
    | _ => un
  else
    let lt := if t.code = 6 then decide (toSigned t.w x < toSigned t.w y) else decide (x < y)
    match cc.toNat with
    | 0 => x == y
    | 1 => x != y
    | 2 => lt
    | 3 => !lt
    | 4 => decide (x < y)
    | 5 => decide (y ≤ x)
    | _ => lt || x == y

/-- The conditions that a type has (R237). -/
def vcondOk (t : VTy) (cc : BitVec 3) : Bool :=
  (t.isFloat && !(cc.toNat = 4 || cc.toNat = 5)) || (t.isInt && !(cc.toNat = 7))

/-- Bit j of the mask: the condition for every element of lane j; 0 where the lane holds no active one. -/
def laneBits (w : Nat) (act res : List Bool) : Word :=
  BitVec.ofNat 64 (pack 1 ((List.range 64).map fun j =>
    let els := if w = 64 then [j / 2] else (List.range (32 / w)).map (32 / w * j + ·)
    let on := els.any fun i => (act[i]?).getD false
    let all := els.all fun i => !(act[i]?).getD false || (res[i]?).getD false
    if on && all then 1 else 0))

def VF.cmp (f : VF) (t : VTy) (gm cc md : BitVec 3) (b c : BitVec 5) : VF :=
  let act := actives t (f.gov gm)
  let xs := pairEls (f.elems t.w b) (f.elems t.w c)
  f.putMask md (laneBits t.w act (xs.map fun x => vcond t cc x.1.1 x.1.2))
    ((act.zip xs).any fun x => x.1 && x.2.2)

/-- VSEL: every lane follows its own mask bit. -/
def VF.sel (f : VF) (gm : BitVec 3) (a b c : BitVec 5) : VF :=
  let g := f.gov gm
  let act := (List.range 64).map fun j => g.getLsbD j
  f.putElems 32 a (mergeMask act (f.elems 32 c) (f.elems 32 b))

def VF.mov (f : VF) (t : VTy) (gm : BitVec 3) (a b : BitVec 5) : VF :=
  f.putElems t.w a (mergeMask (actives t (f.gov gm)) (f.elems t.w a) (f.elems t.w b))

def VF.bcast (f : VF) (t : VTy) (gm : BitVec 3) (a : BitVec 5) (g : Word) : VF :=
  f.putElems t.w a (mergeMask (actives t (f.gov gm)) (f.elems t.w a)
    (List.replicate t.n (g.toNat % 2 ^ t.w, false)))

/-! Reductions and scans (R242 to R244). -/

/-- The identity of an operation in a type. -/
def vident (t : VTy) (op : BitVec 3) : Nat :=
  let ones := 2 ^ t.w - 1
  match op.toNat with
  | 0 => if t.isFloat then bitsOf t.fmt (.zero true) else 0
  | 1 => if t.isFloat then bitsOf t.fmt (.fin false 1 0) else 1
  | 2 => if t.isFloat then bitsOf t.fmt (.inf false) else if t.code = 6 then 2 ^ (t.w - 1) - 1 else ones
  | 3 => if t.isFloat then bitsOf t.fmt (.inf true) else if t.code = 6 then 2 ^ (t.w - 1) else 0
  | 4 => ones
  | _ => 0

/-- A step that rounds: a float sum or product. Under SR it takes one count whatever its value. -/
def rounds (t : VTy) (op : BitVec 3) : Bool := t.isFloat && decide (op.toNat < 2)

def vstep (t : VTy) (op : BitVec 3) (mode : RMode) (x y : El) (d : Draws) : El × Draws :=
  let k : VBin := match op.toNat with
    | 0 => .add | 1 => .mul | 2 => .min | 3 => .max | 4 => .and | 5 => .or | _ => .xor
  ((((vbin k t mode x.1 y.1 d).1), x.2 || y.2), if rounds t op && mode = 5#3 then { d with n := d.n + 1 } else d)

/-- One level of the canonical pairwise tree (R125). -/
def redLevel (f : El → El → Draws → El × Draws) : List El → Draws → List El × Draws
  | a :: b :: l, d =>
    let r := f a b d
    let rest := redLevel f l r.2
    (r.1 :: rest.1, rest.2)
  | l, d => (l, d)
def redTree (f : El → El → Draws → El × Draws) : Nat → List El → Draws → El × Draws
  | 0, l, d => (l.headD (0, false), d)
  | n + 1, l, d =>
    let r := redLevel f l d
    redTree f n r.1 r.2

/-- A reduction's result as a g value (R214, R243). -/
def gValue (t : VTy) (x : Nat) : Word := if t.code = 6 then sext64 t.w x else BitVec.ofNat 64 x

def VF.red (f : VF) (t : VTy) (mode : RMode) (gm op : BitVec 3) (b : BitVec 5) (d : Draws) : VOut :=
  let act := actives t (f.gov gm)
  let els := mergeMask act (List.replicate t.n (vident t op, false)) (f.elems t.w b)
  let r := redTree (vstep t op mode) 8 els d
  { f := f, d := r.2, g := some (gValue t r.1.1, r.1.2), esc := false }

def scanFrom (f : El → El → Draws → El × Draws) : El → List Bool → List El → List El → Draws → List El × Draws
  | run, a :: as, o :: os, x :: xs, d =>
    if a then
      let r := f run x d
      let rest := scanFrom f r.1 as os xs r.2
      (r.1 :: rest.1, rest.2)
    else
      let rest := scanFrom f run as os xs d
      (o :: rest.1, rest.2)
  | _, _, _, _, d => ([], d)

def VF.scan (f : VF) (t : VTy) (mode : RMode) (gm op : BitVec 3) (a b : BitVec 5) (d : Draws) : VOut :=
  let r := scanFrom (vstep t op mode) (vident t op, false) (actives t (f.gov gm)) (f.elems t.w a) (f.elems t.w b) d
  { f := f.putElems t.w a r.1, d := r.2, g := none, esc := false }

/-! Permutation (R245). -/

def VF.perm (f : VF) (t : VTy) (gm : BitVec 3) (a b c : BitVec 5) (both : Bool) : VF :=
  let old := f.elems t.w a
  let src := if both then f.elems t.w b ++ old else f.elems t.w b
  let new := (f.elems t.w c).map fun i =>
    let x := (src[i.1 % src.length]?).getD (0, false)
    (x.1, x.2 || i.2)
  f.putElems t.w a (mergeMask (actives t (f.gov gm)) old new)

/-! Conversion and quantisation (R246, R247). -/

/-- The exact value of an element. -/
def VTy.val (t : VTy) (x : Nat) : Val :=
  match fmtOf t.code with
  | some fm => decodeF fm x
  | none => if t.code = 6 then .ofInt (toSigned t.w x) else .ofInt (x : Nat)

def VF.cvt (f : VF) (t : VTy) (mode : RMode) (gm : BitVec 3) (fc : Nat) (sat : Bool) (a b : BitVec 5) (d : Draws) :
    VOut :=
  let wf := codeBits fc
  let n := Nat.min t.n (2048 / wf)
  let z := mapDraw (fun x d => (encodeCode fc (t.val x) mode sat d.z, d.after mode (t.val x)))
    (actives t (f.gov gm)) ((f.elems t.w b).take n) d
  { f := f.putElems wf a (z.1 ++ List.replicate (2048 / wf - n) (0, false)), d := z.2, g := none, esc := false }

def qntE : Nat → Nat
  | 4 => 8 | 5 => 15 | 6 => 6 | 7 => 7 | _ => 2

/-- floor(log2 |x|) of an active finite element that is not 0. -/
def topOf (act : Bool) (x : Val) : Option Int :=
  match x with
  | .fin _ m e => if act && m ≠ 0 then some ((Nat.log2 m : Int) + e) else none
  | _ => none

/-- The scale code of a block. -/
def qntScale (fc : Nat) (acts : List Bool) (xs : List Val) : Nat :=
  match (acts.zip xs).filterMap fun x => topOf x.1 x.2 with
  | [] => 127
  | t :: ts => (max 0 (min 254 (ts.foldl max t - (qntE fc : Int) + 127))).toNat

/-- One block: its encoded bytes, its scale code, ESC_EDGE. -/
def qntBlock (fc : Nat) (mode : RMode) (sat : Bool) (acts : List Bool) (xs : List Val) (d : Draws) :
    List Byte × Nat × Bool × Draws :=
  let c := qntScale fc acts xs
  let ys := (acts.zip xs).map fun x => if x.1 then Val.scale x.2 (.fin false 1 (127 - (c : Int))) else .zero false
  if fc = 8 then
    let r := encodeI4x 32 0 mode sat d ys
    (ofNibbles r.1, c, r.2.1, r.2.2)
  else
    let r := encodeAll fc mode sat d ys
    (r.1.map (BitVec.ofNat 8), c, false, r.2)

def qntBlocks (fc : Nat) (mode : RMode) (sat : Bool) : Nat → List Bool → List El → (Nat → Val) → Draws →
    List (List Byte × Nat × Bool × Bool) × Draws
  | 0, _, _, _, d => ([], d)
  | n + 1, acts, els, val, d =>
    let now := els.take 32
    let (bs, c, esc, d1) := qntBlock fc mode sat (acts.take 32) (now.map fun e => val e.1) d
    let rest := qntBlocks fc mode sat n (acts.drop 32) (els.drop 32) val d1
    ((bs, c, esc, ((acts.take 32).zip now).any fun x => x.1 && x.2.2) :: rest.1, rest.2)

def VF.qnt (f : VF) (t : VTy) (mode : RMode) (gm : BitVec 3) (fc : Nat) (sat : Bool) (a b : BitVec 5) (d : Draws) :
    VOut :=
  let r := qntBlocks fc mode sat (t.n / 32) (actives t (f.gov gm)) (f.elems t.w b) t.val d
  let body := r.1.flatMap fun x => x.1.map fun (y : Byte) => (y.toNat, x.2.2.2)
  let scales := r.1.map fun x => (x.2.1, x.2.2.2)
  let half := body ++ List.replicate (128 - body.length) (0, false)
  { f := f.putElems 8 a (half ++ scales ++ List.replicate (128 - scales.length) (0, false)), d := r.2, g := none,
    esc := r.1.any fun x => x.2.2.1 }

/-! COMPRESS (R248). -/

/-- Whether the magnitude of `x` lies above that of `y`. -/
def magAbove (x y : Val) : Bool :=
  match x, y with
  | .nan, .nan => false
  | .nan, _ => true
  | _, .nan => false
  | .inf _, .inf _ => false
  | .inf _, _ => true
  | _, .inf _ => false
  | .fin _ m e, .fin _ n h => decide (0 < Val.cmp (.fin false m e) (.fin false n h))

/-- The places of the two kept elements of a group of four, ascending. -/
def keptOf (xs : List Val) : List Nat :=
  (List.range 4).filter fun i =>
    let x := (xs[i]?).getD .nan
    ((List.range 4).filter fun j =>
      let y := (xs[j]?).getD .nan
      j != i && (magAbove y x || (!magAbove x y && decide (j < i)))).length < 2

def compressGroups (val : Nat → Val) : Nat → List El → List El × List El
  | 0, _ => ([], [])
  | n + 1, els =>
    let now := els.take 4
    let ks := keptOf (now.map fun e => val e.1)
    let p := now.any (·.2)
    let rest := compressGroups val n (els.drop 4)
    (ks.map (fun i => ((now[i]?).getD (0, false))) ++ rest.1, ks.map (fun i => (i, p)) ++ rest.2)

/-- Groups of `k` metadata pairs as one byte each. -/
def metaBytes : Nat → List El → List El
  | 0, _ => []
  | n + 1, l => (pack 2 ((l.take 4).map (·.1)), (l.take 4).any (·.2)) :: metaBytes n (l.drop 4)

def VF.compress (f : VF) (t : VTy) (a b : BitVec 5) : VF :=
  let r := compressGroups t.val (t.n / 4) (f.elems t.w b)
  let kept := r.1
  let low := BitVec.ofNat 1024 (pack t.w (kept.map (·.1)))
  let lowP := BitVec.ofNat 128 (pack (t.w / 8) (kept.map fun e => if e.2 then 2 ^ (t.w / 8) - 1 else 0))
  let mb := metaBytes (t.n / 8) r.2
  let high := BitVec.ofNat 1024 (pack 8 (mb.map (·.1)))
  let highP := BitVec.ofNat 128 (pack 1 (mb.map fun e => if e.2 then 1 else 0))
  f.put a (high ++ low) (highP ++ lowP)

/-! Masks (R249). -/

def VF.maskOp (f : VF) (op : Word → Word → Word) (r : MM) : VF :=
  let (a, x, y) : BitVec 3 × BitVec 3 × BitVec 3 := match r with
    | .two a b => (a, a, b)
    | .three a b c => (a, b, c)
  f.putMask a (op f.m[x.toNat] f.m[y.toNat]) (f.mp.getLsbD x.toNat || f.mp.getLsbD y.toNat)

/-- The elements of a load that have their bytes: each is written whole. -/
def VF.load (f : VF) (w : Nat) (a : BitVec 5) (els : List (Nat × El)) : VF :=
  f.putElems w a (els.foldl (fun l e => l.set e.1 e.2) (f.elems w a))

/-! Types each instruction accepts (R234). -/

def vtypeOk (t : VTy) : Instr → Bool
  | .vadd .. | .vsub .. | .vmul .. | .vfma .. | .vmin .. | .vmax .. => t.isFloat || t.isInt
  | .vdiv .. | .vsqrt .. => t.isFloat
  | .vqnt _ f .. => t.isFloat && decide (4 ≤ f.toNat) && decide (f.toNat ≤ 8)
  | .vshuf .. => (t.isFloat || t.isInt) && t.w != 8
  | .vshl .. | .vshr .. | .vsar .. => t.isInt
  | .vcmp _ cc .. => vcondOk t cc
  | .vred _ op .. | .vscan _ op .. => op.toNat ≠ 7 && (!t.fp8 || decide (4 ≤ op.toNat))
  | .vcvt _ f .. => decide (f.toNat < 8)
  | .compress .. => (t.isFloat && t.w = 16) || t.fp8 || (t.isInt && t.w = 8)
  | _ => true

/-- The quarter-slots of an instruction (R232). -/
def vcost (t : VTy) (act : Nat) : Instr → Nat
  | .mand .. | .mor .. | .mnot .. | .mpop .. => 0
  | .vmul .. | .vfma .. => if t.isInt && t.w = 64 then 8 else 4
  | .vperm .. | .vshuf .. | .vcvt .. | .vqnt .. | .compress .. => 8
  | .vred .. => 12
  | .vscan .. => 16
  | .vdiv .. | .vsqrt .. => if t.w = 64 then 64 else 32
  | .vgather .. | .vscatter .. => max 4 (ceilDiv act 4)
  | _ => 4

/-- What the unit does when it executes a queued instruction. Vector stores have acted at issue. -/
def vrun (i : Instr) (t : VTy) (mode : RMode) (g : Word) (els : List (Nat × El)) (d : Draws) (f : VF) : VOut :=
  let same (f : VF) : VOut := { f := f, d := d, g := none, esc := false }
  match i with
  | .mand r => same (f.maskOp (· &&& ·) r)
  | .mor r => same (f.maskOp (· ||| ·) r)
  | .mnot a b => same (f.maskOp (fun x _ => ~~~x) (.three a b b))
  | .mpop _ b =>
    { f := f, d := d, g := some (BitVec.ofNat 64 (popcount 64 f.m[b.toNat].toNat), f.mp.getLsbD b.toNat), esc := false }
  | .compress a b => same (f.compress t a b)
  | .vadd gm r => f.bin .add t mode gm r d
  | .vsub gm r => f.bin .sub t mode gm r d
  | .vmul gm r => f.bin .mul t mode gm r d
  | .vfma gm a b c => f.fma t mode gm a b c d
  | .vdiv gm r => f.bin .div t mode gm r d
  | .vsqrt gm a b => f.sqrt t mode gm a b d
  | .vmin gm r => f.bin .min t mode gm r d
  | .vmax gm r => f.bin .max t mode gm r d
  | .vand gm r => f.bin .and t mode gm r d
  | .vor gm r => f.bin .or t mode gm r d
  | .vxor gm r => f.bin .xor t mode gm r d
  | .vshl gm r => f.bin .shl t mode gm r d
  | .vshr gm r => f.bin .shr t mode gm r d
  | .vsar gm r => f.bin .sar t mode gm r d
  | .vcmp gm cc md b c => same (f.cmp t gm cc md b c)
  | .vsel gm a b c => same (f.sel gm a b c)
  | .vmov gm a b => same (f.mov t gm a b)
  | .vbcast gm a _ => same (f.bcast t gm a g)
  | .vld _ a _ _ => same (f.load t.w a els)
  | .vlds _ a _ _ => same (f.load t.w a els)
  | .vgather _ a _ _ => same (f.load t.w a els)
  | .vred gm op _ b => f.red t mode gm op b d
  | .vscan gm op a b => f.scan t mode gm op a b d
  | .vperm gm a b c => same (f.perm t gm a b c false)
  | .vshuf gm a b c => same (f.perm t gm a b c true)
  | .vcvt gm fc sat a b => f.cvt t mode gm fc.toNat sat a b d
  | .vqnt gm fc sat a b => f.qnt t mode gm fc.toNat sat a b d
  | _ => same f

end Sys2Proof.Machine
end

