-- ==== Sys2Proof/Machine/Vector.lean ====
section
/-! DEFINITION. Vector instructions at issue, the vector queue and the lane groups (spec/12 R228 to R249;
spec/20 R322, R323). -/

namespace Sys2Proof.Machine

/-! The file and its holder (R228). -/

/-- The slot of the thread on whose behalf the agent issues. -/
def holderSlot (s : State) : Nat := ((s.owner s.cur).slot).getD 0

/-- The registers that differ between two files, as `setVreg` numbers them. -/
def changedRegs (f g : VF) : List (Nat × VReg × BitVec 256) :=
  ((List.range 32).filterMap fun n =>
    if h : n < 32 then
      if f.v[n] = g.v[n] ∧ f.p[n] = g.p[n] then none else some (n, f.v[n], f.p[n])
    else none) ++
  (List.range 8).filterMap fun n =>
    if h : n < 8 then
      if f.m[n] = g.m[n] ∧ f.mp.getLsbD n = g.mp.getLsbD n then none
      else some (32 + n, f.m[n].setWidth 2048, if f.mp.getLsbD n then 1 else 0)
    else none

/-- One register, or mask, as it was. -/
def VF.restore (f : VF) (u : Nat × VReg × BitVec 256) : VF :=
  if h : u.1 < 32 then { f with v := f.v.set u.1 u.2.1, p := f.p.set u.1 u.2.2 }
  else
    let k := (u.1 - 32) % 8
    { f with
      m := f.m.set k (u.2.1.setWidth 64) (by omega)
      mp := if u.2.2 = 0 then f.mp &&& ~~~(1#8 <<< k) else f.mp ||| (1#8 <<< k) }
/-- What open chunks, newest first, would leave of the file if they were squashed now: the file changes from `f` to `g` by
`op`, which is not theirs, and a squash keeps what it does (R231). -/
def reviseUndo (op : VF → VF) : VF → VF → List Chunk → List Chunk
  | _, _, [] => []
  | f, g, c :: l =>
    let f' := c.vundo.foldl VF.restore f
    let g' := op f'
    { c with vundo := changedRegs g' g } :: reviseUndo op f' g' l
/-- The file of a core changes by something that is not of the agents but `tid`. -/
def othersKeep (core tid : Nat) (seq : Seq) (op : VF → VF) (s : State) : State :=
  let f := (s.getCore core).vf
  s.mapAgents fun a =>
    let cs := a.chunk :: a.ended.reverse
    if a.core = core ∧ ¬ (a.tid = tid ∧ a.seq = seq) ∧ cs.any (fun c => !c.vundo.isEmpty) then
      match reviseUndo op f (op f) cs with
      | c :: l => { a with chunk := c, ended := l.reverse }
      | [] => a
    else a

def VF.zero : VF := { v := Vector.replicate 32 0, m := Vector.replicate 8 0, p := Vector.replicate 32 0, mp := 0 }
def Core.withFile (k : Core) (f : VF) : Core := { k with vregs := f.v, vmask := f.m, vpois := f.p, mpois := f.mp }

/-- A VSETT of the open chunk has released the file, and its queue is empty: the thread takes it anew, as zeros (R228)
(DEDUCED, notes/assumptions/21.md). -/
def freshFile (s : State) : State :=
  let c := s.cur.chunk
  let s := othersKeep s.core.id s.cur.tid s.cur.seq (fun _ => VF.zero) s
  { s with
    core := s.core.withFile VF.zero
    cur := { s.cur with
      regs := { s.cur.regs with vtype := 0 }
      chunk := { c with
        vrel := false, vfirst := some (c.vfirst.getD s.core.vnext), vundo := changedRegs s.core.vf VF.zero ++ c.vundo } } }

/-- Makes the slot holder, or waits for the file; a new holder finds zeros, and its type is binary64. The instructions that an
earlier holder left in the queue complete first, and under QUANTUM the release that an ended chunk holds. -/
def acquireFile : Run Unit := do
  let s ← get
  if s.core.vfree then stalled .vector
  match s.core.vholder with
  | some k =>
    if k ≠ holderSlot s then stalled .vector
    if s.cur.ended.any (·.vrel) then stalled .quantum
    if s.cur.chunk.vrel then
      if !s.core.vqueue.isEmpty then stalled .vector
      modify freshFile
  | none =>
    if !s.core.vqueue.isEmpty then stalled .vector
    modify fun s =>
      let s := othersKeep s.core.id s.cur.tid s.cur.seq (fun _ => VF.zero) s
      { s with
        core := { s.core.withFile VF.zero with vholder := some (holderSlot s) }
        cur := { s.cur with
          regs := { s.cur.regs with vtype := 0 }
          chunk := { s.cur.chunk with start := { s.cur.chunk.start with vtype := 0 } } } }

/-- What the mask, an index vector or the data of a store will be: the queue has run
(DESIGN CHOICE, notes/assumptions/20.md). -/
def queueRun : Run Unit := do
  if !(← get).core.vqueue.isEmpty then stalled .vector

/-- The type that the sequencer has named, one that the instruction accepts (R234). -/
def sampleType (i : Instr) : Run VTy := do
  let s ← get
  let t := vtyOf s.cur.regs.vtype
  require (vtypeOk t i) cIllegal
  return t

/-- Whether an instruction draws counts of stochastic rounding (R121). -/
def drawsCounts (t : VTy) : Instr → Bool
  | .vadd .. | .vsub .. | .vmul .. | .vfma .. | .vdiv .. | .vsqrt .. => t.isFloat
  | .vred _ op .. | .vscan _ op .. => rounds t op
  | .vcvt .. | .vqnt .. => true
  | _ => false

/-- Enters the queue with what the instruction has sampled. Under SR its counts are reserved: those of the elements
that it rounds. -/
def enqueue (i : Instr) (t : VTy) (g : Word) (elems : List (Nat × Nat)) (data : List (Nat × Byte × Bool))
    (lines act : Nat) : Run Unit := do
  let s ← get
  if Config.vqSize ≤ s.core.vqueue.length then stalled .vector
  let d := drawsOf s
  let mode := roundMode s
  if mode = 5#3 && drawsCounts t i then
    queueRun
    modify (setSrn (vrun i t mode g [] d s.core.vf).d.n)
  let o : VOp :=
    { id := s.core.vnext, tid := s.cur.tid, owner := ownerTid s.cur, seq := s.cur.seq, instr := i, vtype := s.cur.regs.vtype, mode := mode
      base := d.base, srn := d.n, g := g, elems := elems, data := data, lines := lines, need := vcost t act i }
  modify fun s => { s with
    core := { s.core with vqueue := s.core.vqueue ++ [o], vnext := s.core.vnext + 1 }
    cur := { s.cur with chunk := { s.cur.chunk with vfirst := some (s.cur.chunk.vfirst.getD o.id) } } }

/-- An instruction that works in the file alone. -/
def runVec (i : Instr) : Run Unit := do
  acquireFile
  let t ← sampleType i
  enqueue i t 0 [] [] 0 0

def onVec : Legal := { x := true, a := true, m := false, s := false }
def vec (i : Instr) (s : State) : Res := issue onVec (runVec i) s

/-- The value of VRED or MPOP goes to a g register from the queue, or at once to a port (R243). -/
def runToG (i : Instr) (g : GOp) : Run Unit := do
  acquireFile
  let t ← sampleType i
  match g with
  | .reg _ => enqueue i t 0 [] [] 0 0
  | .port d => do
    queueRun
    let s ← get
    let r := vrun i t (roundMode s) 0 [] (drawsOf s) s.core.vf
    modify (setSrn r.d.n)
    match r.g with
    | some (v, p) => do
      require (!p) cUncorrectable
      portWrite d v
    | none => pure ()

/-! VSETT (R229). -/

/-- A descriptor that VSETT accepts on a sequencer. -/
def vsettOk (v : Word) (onA : Bool) : Bool :=
  let n := v.toNat
  if bit n 8 then n == 256 && !onA
  else
    field n 63 9 == 0 && field n 5 4 == 0 && decide (field n 3 0 < 8) &&
      (field n 7 6 == 0 || field n 3 0 == 6 || field n 3 0 == 7)

def execVsett (g : GOp) (s : State) : Res := issue onVec (do
  let v ← readOp g
  require (vsettOk v (decide ((← get).cur.seq = .a))) cIllegal
  acquireFile
  if bit v.toNat 8 then modify fun s => s.modCur fun a => { a with chunk := { a.chunk with vrel := true } }
  else modify fun s => s.modCur fun a => { a with regs := { a.regs with vtype := v } }) s

/-! Mask instructions and COMPRESS. -/
def execMand (r : MM) (s : State) : Res := vec (.mand r) s
def execMor (r : MM) (s : State) : Res := vec (.mor r) s
def execMnot (a b : BitVec 3) (s : State) : Res := vec (.mnot a b) s
def execMpop (g : GOp) (m : BitVec 3) (s : State) : Res := issue onVec (runToG (.mpop g m) g) s
def execCompress (a b : BitVec 5) (s : State) : Res := vec (.compress a b) s

/-! Arithmetic, bitwise, shifts. -/
def execVadd (gm : BitVec 3) (r : VV) (s : State) : Res := vec (.vadd gm r) s
def execVsub (gm : BitVec 3) (r : VV) (s : State) : Res := vec (.vsub gm r) s
def execVmul (gm : BitVec 3) (r : VV) (s : State) : Res := vec (.vmul gm r) s
def execVfma (gm : BitVec 3) (a b c : BitVec 5) (s : State) : Res := vec (.vfma gm a b c) s
def execVdiv (gm : BitVec 3) (r : VV) (s : State) : Res := vec (.vdiv gm r) s
def execVsqrt (gm : BitVec 3) (a b : BitVec 5) (s : State) : Res := vec (.vsqrt gm a b) s
def execVmin (gm : BitVec 3) (r : VV) (s : State) : Res := vec (.vmin gm r) s
def execVmax (gm : BitVec 3) (r : VV) (s : State) : Res := vec (.vmax gm r) s
def execVand (gm : BitVec 3) (r : VV) (s : State) : Res := vec (.vand gm r) s
def execVor (gm : BitVec 3) (r : VV) (s : State) : Res := vec (.vor gm r) s
def execVxor (gm : BitVec 3) (r : VV) (s : State) : Res := vec (.vxor gm r) s
def execVshl (gm : BitVec 3) (r : VV) (s : State) : Res := vec (.vshl gm r) s
def execVshr (gm : BitVec 3) (r : VV) (s : State) : Res := vec (.vshr gm r) s
def execVsar (gm : BitVec 3) (r : VV) (s : State) : Res := vec (.vsar gm r) s

/-! Compare, select, move, broadcast. -/
def execVcmp (gm cc md : BitVec 3) (b c : BitVec 5) (s : State) : Res := vec (.vcmp gm cc md b c) s
def execVsel (gm : BitVec 3) (a b c : BitVec 5) (s : State) : Res := vec (.vsel gm a b c) s
def execVmov (gm : BitVec 3) (a b : BitVec 5) (s : State) : Res := vec (.vmov gm a b) s
def execVbcast (gm : BitVec 3) (a : BitVec 5) (g : GOp) (s : State) : Res := issue onVec (do
  acquireFile
  let t ← sampleType (.vbcast gm a g)
  let v ← readOp g
  enqueue (.vbcast gm a g) t v [] [] 0 0) s

/-! Reductions, scans, permutation, conversion. -/
def execVred (gm op : BitVec 3) (g : GOp) (b : BitVec 5) (s : State) : Res := issue onVec (runToG (.vred gm op g b) g) s
def execVscan (gm op : BitVec 3) (a b : BitVec 5) (s : State) : Res := vec (.vscan gm op a b) s
def execVperm (gm : BitVec 3) (a b c : BitVec 5) (s : State) : Res := vec (.vperm gm a b c) s
def execVshuf (gm : BitVec 3) (a b c : BitVec 5) (s : State) : Res := vec (.vshuf gm a b c) s
def execVcvt (gm : BitVec 3) (f : BitVec 4) (sat : Bool) (a b : BitVec 5) (s : State) : Res :=
  vec (.vcvt gm f sat a b) s
def execVqnt (gm : BitVec 3) (f : BitVec 4) (sat : Bool) (a b : BitVec 5) (s : State) : Res :=
  vec (.vqnt gm f sat a b) s

/-! Vector memory instructions (R239 to R241). -/

/-- The active elements with their addresses, every one checked in ascending order. -/
def reachElems (need : Rights) (size : Nat) : List (Nat × Addr) → Run (List (Nat × Addr × Acc))
  | [] => return []
  | (i, ea) :: l => do
    let a ← reachAligned ea size need
    return (i, ea, a) :: (← reachElems need size l)

/-- The address of element `i`: consecutive, with a stride, or through an index vector. -/
inductive VAddr where
  | unit (disp : Word)
  | stride (g : Word)
  | index (v : BitVec 5)
  deriving DecidableEq, Repr

def elemAddr (t : VTy) (c : Core) (base : Addr) (i : Nat) : VAddr → Addr
  | .unit disp => base + disp.signExtend 80 + BitVec.ofNat 80 (t.w / 8 * i)
  | .stride g => base + BitVec.ofNat 80 i * g.signExtend 80
  | .index v =>
    let x := ((c.vf.elems t.w v)[i]?).getD (0, false)
    base + BitVec.ofInt 80 ((t.w / 8 : Nat) * toSigned t.w x.1)

def vecElems (t : VTy) (gm : BitVec 3) (base : Addr) (how : VAddr) : Run (List (Nat × Addr)) := do
  let s ← get
  let g := s.core.vf.gov gm
  return ((List.range t.n).filter (active t.w g)).map fun i => (i, elemAddr t s.core base i how)

/-- The byte offset in a register of element `i`. -/
def bytesAt (t : VTy) (i : Nat) (v : Nat) (p : Bool) : List (Nat × Byte × Bool) :=
  (List.range (t.w / 8)).zip (toBytes (t.w / 8) v) |>.map fun x => (i * (t.w / 8) + x.1, x.2, p)

/-- Reads the elements whose home lies in the package, as plain loads, poison included. -/
def loadLocal (t : VTy) : List (Nat × Addr × Acc) → Run (List (Nat × Byte × Bool))
  | [] => return []
  | (i, _, a) :: l => do
    let s ← get
    if a.pkg = s.pkg then
      let p := meetsPoison s a.key (t.w / 8)
      let v ← plainFetch a.key (t.w / 8)
      return bytesAt t i v p ++ (← loadLocal t l)
    else loadLocal t l

/-- The elements from other packages: those that the agent's own unsent stores give, and the rest (R133). -/
def loadOut (t : VTy) : List (Nat × Addr × Acc) → Run (List (Nat × Byte × Bool) × List (Nat × Addr × Acc))
  | [] => return ([], [])
  | (i, ea, a) :: l => do
    let s ← get
    if a.pkg = s.pkg then loadOut t l
    else do
      if sbCovers s ea a.key (t.w / 8) then throw (.rivalFail cEscape)
      let own ← ownPosted ea a.key (t.w / 8)
      let rest ← loadOut t l
      match own with
      | some v => return (bytesAt t i v false ++ rest.1, rest.2)
      | none => return (rest.1, (i, ea, a) :: rest.2)

/-- Sends for one line of a queued load. -/
def sendLine (op : Nat) (va : Addr) (key home pkg : Nat) : Run Unit :=
  modify (putLoad (remoteLoad (.vec op) va { key := 64 * lineOf key, home := home, pkg := pkg } 64 false none false true) home false)

/-- What is left to send is kept, and the instruction stays at issue (R132, R134). -/
def stage {α : Type} (x : Staged) (on : BlockedOn) : Run α := do
  modify fun s => s.modCur fun a => { a with staged := some x }
  keepStalled on
def staged? : Run (Option Staged) := do return (← get).cur.staged
def unstage : Run Unit := modify fun s => s.modCur fun a => { a with staged := none }

/-- Sends for the lines of a queued load, of which no more than the bound are out (R134). -/
def sendAll (op : Nat) : List (Addr × Nat × Nat × Nat) → Run Unit
  | [] => unstage
  | x :: l => do
    if Config.maxRemoteLoads ≤ (← get).cur.loads.length then stage (.load op (x :: l)) .loads
    sendLine op x.1 x.2.1 x.2.2.1 x.2.2.2
    sendAll op l

def runVload (i : Instr) (gm : BitVec 3) (b : PBase) (how : VAddr) : Run Unit := do
  if let some (.load op ls) ← staged? then
    sendAll op ls
    return
  acquireFile
  let t ← sampleType i
  let indexed := match how with | .index _ => true | _ => false
  if gm ≠ 0 || indexed then queueRun
  let base ← baseAddr b false
  let els ← reachElems rR (t.w / 8) (← vecElems t gm base how)
  let s ← get
  if els.any fun e => e.2.2.pkg ≠ s.pkg then loadBetween
  let own ← loadLocal t els
  let (posted, out) ← loadOut t els
  let firsts := out.foldl (fun l x => if l.any (fun (y : Addr × Acc) => lineOf y.2.key == lineOf x.2.2.key) then l else l ++ [x.2]) []
  let op := (← get).core.vnext
  enqueue i t 0 (out.map fun x => (x.1, x.2.2.key)) (own ++ posted) firsts.length els.length
  sendAll op (firsts.map fun x => (x.1, x.2.key, x.2.home, x.2.pkg))

/-- The element stores of one line, the later bytes over the earlier ones. -/
def lineStores (l : List OutLine) : List OutLine :=
  l.foldl (fun acc x =>
    match acc.find? fun y => lineOf y.key == lineOf x.key with
    | none => acc ++ [x]
    | some _ => acc.map fun y =>
      if lineOf y.key = lineOf x.key then
        { y with
          cells := mergeCells y.cells x.cells, clean := mergeMarks y.clean x.clean x.pois
          pois := mergeMarks y.pois x.pois x.clean }
      else y) []

/-- A store within the chunk of elements of the own package: address, home and key, bytes and poison of each. -/
def storeOwn : List (Addr × (Nat × Nat) × List Byte × Bool) → Run Unit
  | [] => pure ()
  | (va, at_, bs, p) :: l => do
    bufferStore at_.1 va at_.2 bs
    if p then modify fun s => s.modCur fun g => { g with chunk := { g.chunk with
      wpois := insertNat (wordOf at_.2) g.chunk.wpois } }
    storeOwn l

/-- An element store of VSTS or VSCATTER in the own package: an event of its own, under QUANTUM at the quantum's end (R167,
R240). -/
def landElem (va : Addr) (key : Nat) (bs : List Byte) (pois : Bool) : Run Unit := do
  roomForLine key
  unreserved key
  rangeFree key bs.length
  let cells := cellsAt key bs
  let ps := if pois then [wordOf key] else []
  modify fun s =>
    if s.launch.mode = .quantum ∧ s.cur.seq ≠ .s then
      s.modCur fun a => { a with ended := a.ended ++ [{ Chunk.empty a.regs with
        count := 1, wbuf := cells.reverse, wclean := wholeWords cells, wpois := ps, grans := [va.toNat / 65536] }] }
    else poisonWords s.pkg s.cur.tag ps (writeHome s s.pkg s.cur.tag s.cur.tid cells)

/-- Posts the lines of a vector store, and then stores what is left for its own package; where the journal is full, those left
wait with the instruction at issue (R132). -/
def postAll (i : Instr) (t : VTy) (own : List (Addr × (Nat × Nat) × List Byte × Bool)) (active : Nat) : List OutLine → Run Unit
  | [] => do
    storeOwn own
    enqueue i t 0 [] [] 0 active
    unstage
  | x :: l => do
    let s ← get
    if !buffered s && decide (Config.journalSize ≤ (s.core.places[s.cur.place]).entries.length) then
      stage (.store (x :: l) own active) .journal
    sendOut { key := x.key, home := x.home, pkg := x.pkg } x.va (.store x.cells x.clean x.pois) false x.cells.length
    postAll i t own active l

/-- Stores the active elements: VST within the chunk, VSTS and VSCATTER between chunks, element by element. -/
def runVstore (i : Instr) (gm : BitVec 3) (a : BitVec 5) (b : PBase) (how : VAddr) (apart : Bool) : Run Unit := do
  if let some (.store ls own n) ← staged? then
    postAll i (vtyOf (← get).cur.regs.vtype) own n ls
    return
  acquireFile
  let t ← sampleType i
  if Config.vqSize ≤ (← get).core.vqueue.length then stalled .vector
  queueRun
  let n := t.w / 8
  let base ← baseAddr b true
  let els ← reachElems rW n (← vecElems t gm base how)
  els.forM fun e => hazard e.2.2.key n
  let s ← get
  if apart || els.any (fun e => e.2.2.pkg ≠ s.pkg) then betweenChunks
  let data := s.core.vf.elems t.w a
  let stores := els.map fun e =>
    let x := (data[e.1]?).getD (0, false)
    (e.2.1, e.2.2, toBytes n x.1, x.2)
  let own := (stores.filter fun c => c.2.1.pkg == s.pkg).map fun c => (c.1, (c.2.1.home, c.2.1.key), c.2.2.1, c.2.2.2)
  if apart then own.forM fun c => landElem c.1 c.2.1.2 c.2.2.1 c.2.2.2
  let out := (stores.filter fun c => c.2.1.pkg != s.pkg).map fun c =>
    let cells := cellsAt c.2.1.key c.2.2.1
    { pkg := c.2.1.pkg, home := c.2.1.home, va := c.1, key := c.2.1.key, cells := cells, clean := wholeWords cells
      pois := if c.2.2.2 then [wordOf c.2.1.key] else [] : OutLine }
  postAll i t (if apart then [] else own) els.length (lineStores out)

def execVld (gm : BitVec 3) (a : BitVec 5) (base : PBase) (disp : Word) (s : State) : Res :=
  issue onVec (runVload (.vld gm a base disp) gm base (.unit disp)) s
def execVlds (gm : BitVec 3) (a : BitVec 5) (base : PBase) (c : GReg) (s : State) : Res :=
  issue onVec (do runVload (.vlds gm a base c) gm base (.stride (← readG c))) s
def execVgather (gm : BitVec 3) (a : BitVec 5) (base : PBase) (c : BitVec 5) (s : State) : Res :=
  issue onVec (runVload (.vgather gm a base c) gm base (.index c)) s
def execVst (gm : BitVec 3) (a : BitVec 5) (base : PBase) (disp : Word) (s : State) : Res :=
  issue onVec (runVstore (.vst gm a base disp) gm a base (.unit disp) false) s
def execVsts (gm : BitVec 3) (a : BitVec 5) (base : PBase) (c : GReg) (s : State) : Res :=
  issue onVec (do runVstore (.vsts gm a base c) gm a base (.stride (← readG c)) true) s
def execVscatter (gm : BitVec 3) (a : BitVec 5) (base : PBase) (c : BitVec 5) (s : State) : Res :=
  issue onVec (runVstore (.vscatter gm a base c) gm a base (.index c) true) s

/-! The queue and the lane groups. -/

/-- The elements of a load for which every byte has come. -/
def loadedElems (o : VOp) (t : VTy) : List (Nat × El) :=
  (List.range t.n).filterMap fun i =>
    let bs := (List.range (t.w / 8)).map fun j => (o.data.find? fun x => x.1 == i * (t.w / 8) + j).map (·.2)
    if bs.all (·.isSome) then
      some (i, ofBytes (bs.map fun b => (b.getD (0, false)).1), bs.any fun b => (b.getD (0, false)).2)
    else none

/-- The registers with the value of VRED or MPOP. -/
def giveG (n : GReg) (v : Word) (pois : Bool) (r : Regs) : Regs :=
  let r := r.setG n v
  if pois ∧ n ≠ 0 then { r with gpois := r.gpois ||| (1#64 <<< n.toNat) } else r

/-- What the execution of a queued instruction leaves in its agent's chunks, newest first: its chunk notes what it overwrote
in the file, and later ones begin with the register that it wrote (R128). -/
def markOp (id : Nat) (old : List (Nat × VReg × BitVec 256)) (f : Regs → Regs) : List Chunk → List Chunk
  | [] => []
  | c :: l =>
    if c.vfirst.any (· ≤ id) then { c with vundo := old ++ c.vundo } :: l
    else { c with start := f c.start } :: markOp id old f l
def Agent.vdone (id : Nat) (old : List (Nat × VReg × BitVec 256)) (f : Regs → Regs) (a : Agent) : Agent :=
  match markOp id old f (a.chunk :: a.ended.reverse) with
  | c :: l => { a with regs := f a.regs, chunk := c, ended := l.reverse }
  | [] => a

/-- VECTOR_QUEUE_EXECUTE (R231): the head has its quarter-slots and its bytes, and is executed. -/
def runQueueHead (core : Nat) (s : State) : State :=
  let c := s.getCore core
  match c.vqueue with
  | [] => s
  | o :: rest =>
    if o.need ≠ 0 ∨ o.lines ≠ 0 then s
    else
      let t := vtyOf o.vtype
      let r := vrun o.instr t o.mode o.g (loadedElems o t) { base := o.base, n := o.srn } c.vf
      let old := changedRegs c.vf r.f
      let op (f : VF) : VF := (vrun o.instr t o.mode o.g (loadedElems o t) { base := o.base, n := o.srn } f).f
      let s := othersKeep core o.tid o.seq op s
      let s := s.modCore core fun c => freeVector { c.withFile r.f with vqueue := rest }
      let give : Regs → Regs := match r.g, vopDest o.instr with
        | some (v, p), some n => giveG n v p
        | _, _ => id
      let s := s.modAgent o.tid fun a => if a.seq = o.seq then a.vdone o.id old give else a
      if r.esc then s.modAgent o.owner (Agent.modRegs · fun g => { g with anomaly := g.anomaly ||| escEdge }) else s

def execVectorQueueExecute (core : Nat) (s : State) : Res := event (runQueueHead core) s

/-- A core is backlogged while its queue head waits for quarter-slots (R323). -/
def Core.backlogged (c : Core) : Bool :=
  match c.vqueue with
  | [] => false
  | o :: _ => decide (o.need ≠ 0)
def Core.share (c : Core) : Nat := field c.priv.vshare.toNat 7 0
def Core.grant (c : Core) : Core :=
  match c.vqueue with
  | [] => c
  | o :: l => { c with vqueue := { o with need := o.need - 1 } :: l }

/-- One free lane group: to the backlogged core with a share and the largest credit, ties to the lower core; else to
the cores with share 0 in turn. -/
def grantGroup (cluster total : Nat) (s : State) : State :=
  let cs := (List.range 4).map fun i => s.getCore (4 * cluster + i)
  let able := cs.filter fun c => c.backlogged && c.share ≠ 0
  match able with
  | c :: l =>
    let best := l.foldl (fun (b c : Core) => if b.credit < c.credit then c else b) c
    s.modCore best.id fun c => { c.grant with credit := c.credit - total }
  | [] =>
    let last := (aget cluster s.laneTurn).getD 3
    let order := (List.range 4).map fun i => 4 * cluster + (last + 1 + i) % 4
    match order.find? fun k => (s.getCore k).backlogged && (s.getCore k).share = 0 with
    | none => s
    | some k => { s.modCore k Core.grant with laneTurn := aset cluster (k % 4) s.laneTurn }

/-- LANE_GROUP_GRANT (R323): one cycle of a cluster's arbiter. -/
def grantCycle (cluster : Nat) (s : State) : State :=
  let ids := (List.range 4).map (4 * cluster + ·)
  let total := (ids.map fun k => (s.getCore k).share).foldl (· + ·) 0
  let s := ids.foldl (fun s k => s.modCore k fun c =>
    { c with credit := if c.backlogged then (if c.share = 0 then c.credit else c.credit + 4 * c.share) else min c.credit 0 }) s
  let g := grantGroup cluster total
  g (g (g (g s)))

def execLaneGroupGrant (cluster : Nat) (s : State) : Res := event (grantCycle cluster) s

end Sys2Proof.Machine
end

