-- ==== Sys2Proof/Machine/Fabric.lean ====
section
/-! DEFINITION. The fabric: neighbour ports, posted requests, remote loads, bulk packets, package reset, incarnations
(spec/04 R107; spec/06 R130, R132 to R137; spec/07 R142 to R147; spec/23 R365). -/

namespace Sys2Proof.Machine

/-! Neighbour ports (R107). -/

/-- NEIGHBOUR_PORT_DELIVERY: a word enters the FIFO, in the order of the port. -/
def execNeighbourPortDelivery (k : Nat) (s : State) : Res := event (fun s =>
  match s.launch.portq[k]? with
  | none => s
  | some (n, d, w) =>
    let first := !(s.launch.portq.take k).any fun m => m.1 == n && m.2.1 == d
    if h : d < 4 then
      if first ∧ ((s.getLc n).ports[d]).length < 4 then
        (s.modLaunch fun l => { l with portq := l.portq.eraseIdx k }).modLc n fun lc =>
          { lc with ports := lc.ports.set d (lc.ports[d] ++ [w]) }
      else s
    else s) s

/-! Package reset (R147, R359). -/

/-- The physical addresses of a package's memory. -/
def memOf (s : State) (pkg : Nat) : Nat × Nat := (memBelow s pkg, memBelow s (pkg + 1))
/-- The words of a package are FULL: of its memory, and of the local spaces of its logical cores (R93). -/
def fillPackage (pkg : Nat) (s : State) : State :=
  let (lo, hi) := memOf s pkg
  let kept (l : Launch) (k : Nat) : Bool :=
    pkgOf ((((launchLcs s l.id).find? (·.id == localCore k)).map (·.core)).getD (placeOf s (localCore k))) != pkg
  let clear (l : Launch) : Launch := { l with lempty := l.lempty.filter (kept l) }
  { s with
    empty := s.empty.filter fun k => decide (k < lo) || decide (hi ≤ k)
    launch := clear s.launch, launches := s.launches.map clear }
/-- What arbiters have left when a package resets; where both copies are lost, a launch whose exchange is under way ends
(R156). -/
def loseArbiters (pkg : Nat) (s : State) : State :=
  let left (c : Option (Nat × Nat)) : Option (Nat × Nat) := c.filter fun x => x.1 / 4 != pkg
  (partsOf s).foldl (fun s part =>
    let a := arbiterOf s part
    if left a.primary = a.primary ∧ left a.standby = a.standby then s
    else
      let s := setArbiter { a with primary := left a.primary, standby := left a.standby } s
      if (left a.primary).isSome || (left a.standby).isSome then s
      else (((s.launch :: s.launches).filter (·.part == part)).map (·.id)).foldl (fun s l => endExchange l s) s) s

/-- The flits in a package, on its links too, are lost at its reset: what its own cores sent is gone with them, with an answer
that a load waits for; any other message its source sends again (DESIGN CHOICE, notes/assumptions/44.md). -/
def loseFlits (pkg : Nat) (s : State) : State :=
  let lost := (s.flits ++ s.links.flatMap (·.held)).filter (·.pkg == pkg)
  let own := (lost.filter fun f => pkgOf f.src == pkg).map (·.cargo)
  let unheld (l : Link) : Link :=
    let k := l.held.filter (·.pkg != pkg)
    if k = l.held then l else { l with held := k, failed := 0 }
  let unanswered (a : Agent) : Agent :=
    { a with loads := a.loads.map fun l => if own.contains (.reply a.tid l.id) then { l with value := none } else l }
  let s := { s with
    flits := s.flits.filter (·.pkg != pkg), links := s.links.map unheld, net := s.net.filter fun m => !m.cargo.any own.contains }
  (lost.filter fun f => pkgOf f.src != pkg).foldl (fun s f => inject f.cargo f.src f.dst s) (s.mapAgents unanswered)

/-- The package stands as after reset: its compute dies are held, its cores and all that ran on them are lost, and its words
are FULL. The minimum security version in its fuses is in force (DEDUCED, notes/assumptions/43.md). -/
def resetPackage (pkg : Nat) (s : State) : State :=
  let mine (core : Nat) : Bool := pkgOf core == pkg
  let s := fillPackage pkg (loseArbiters pkg (loseFlits pkg s))
  let s := s.modPkg pkg fun p => { Package.new pkg with
    inc := p.inc, cmask := p.cmask, lmask := p.lmask, smask := p.smask, fuses := p.fuses, rejoin := p.rejoin || !p.inReset
    tagLines := l2Lines p.cmask
    mgmt := { Mgmt.reset with minSvn := p.mgmt.fuseSvn, fuseSvn := p.mgmt.fuseSvn } }
  let lost (a : Agent) : Bool := mine a.core && (a.seq == .a || a.seq == .m || a.seq == .s)
  let out (a : Agent) : Agent :=
    if mine a.core ∧ a.husked.isNone then
      { a with slot := none, wait := none, loads := [], gate := false, rel := none, relStore := [] }
    else a
  { s with
    core := if mine s.core.id then Core.new s.core.id else s.core
    cores := s.cores.filter fun c => !mine c.id
    cur := out s.cur
    agents := (s.agents.filter fun a => !lost a).map out
    packets := s.packets.filter fun p => !mine p.core
    tuc := s.tuc.filter fun x => x.1 / 8 != pkg
    dieqs := s.dieqs.filter fun q => q.die / 4 != pkg
    paddocked := s.paddocked.filter fun r => !mine r.core }
def execPackageReset (pkg : Nat) (s : State) : Res := event (resetPackage pkg) s

/-- SPAN_LINK_RETRAIN (R365): after eight failed resends, and the flit is then sent again; a link that fails three times is disabled, and the packages
at its ends reset. -/
def execSpanLinkRetrain (link : Nat) (ok : Bool) (s : State) : Res := event (fun s =>
  match getLink s link with
  | none => s
  | some l =>
    let both (k : Fin 8) (s : State) : State := countErr l.pkgB k (countErr l.pkgA k s)
    if l.disabled ∨ l.failed < retrainAfter then s
    else
      let s := both 3 s
      if ok then countErr (((l.held.head?).map (·.pkg)).getD l.pkgA) 2 (modLink link (fun l => { l with failed := 0, retrains := 0 }) s)
      else if l.retrains < 2 then modLink link (fun l => { l with retrains := l.retrains + 1 }) s
      else
        let s := both 4 (modLink link (fun l => { l with disabled := true, retrains := 3 }) s)
        let off (n : Nat) (p : Package) : Package := { p with lmask := p.lmask &&& ~~~(1#12 <<< n) }
        let s := (s.modPkg l.pkgA (off (linkNumber l l.pkgA))).modPkg l.pkgB (off (linkNumber l l.pkgB))
        resetPackage l.pkgB (resetPackage l.pkgA s)) s

/-! Posted requests (R132, R145, R146). -/

def Place.entry? (p : Place) (k : Nat) : Option JEntry := p.entries.find? fun e => e.id.entry == k

def postedOf (e : JEntry) : Posted :=
  { id := e.id, tid := e.tid, launch := e.launch, seq := e.seq, pkg := e.pkg, home := e.home, va := e.va, key := e.key
    req := e.req, released := e.released }

/-- The message carries the incarnation that the sender holds for the home's package (R147). -/
def dispatch (e : JEntry) (s : State) : State := inLaunch e.launch e.id.lcore (fun s =>
  sendMsg (.posted (postedOf e) (s.getPkg e.pkg).inc) e.id.core (s.getLc e.home).core s) s

/-- An entry to the same line that is not yet performed goes before (R132). -/
def entryFirst (p : Place) (e : JEntry) : Bool :=
  !(p.entries.takeWhile fun x => x.id != e.id).any fun x => lineOf x.key == lineOf e.key

/-- An atomic of the agent to the same bytes is not yet performed: it goes before (R137). -/
def atomicFirst (s : State) (core place : Nat) (e : JEntry) : Bool :=
  s.allAgents.any fun a => a.core == core && a.place.val == place && a.loads.any fun l =>
    l.atomic.isSome && l.value.isNone && e.req.meets l.key l.size

/-- POSTED_STORE_SEND (R132): the entry leaves the combining buffer under the agent's next sequence number. The store of a
release under way stays until that is over (R136). -/
def execPostedStoreSend (core place entry : Nat) (s : State) : Res := event (fun s =>
  if h : place < 7 then
    let p := (s.getCore core).places[place]
    match p.entry? entry with
    | none => s
    | some e =>
      if e.sent ∨ e.hold ∨ !entryFirst p e ∨ atomicFirst s core place e then s
      else
        let e' := { e with sent := true, id := { e.id with seqn := p.seqn } }
        let s := s.modPlace core ⟨place, h⟩ fun p => { p with
          entries := modFirst (fun x => x.id.entry == entry) (fun _ => e') p.entries
          seqn := p.seqn + 1
          posted := aset e.pkg ((aget e.pkg p.posted).getD 0 + 1) p.posted }
        releaseAt core place (dispatch e' s)
  else s) s

/-- POSTED_RESEND_TIMEOUT (R145): no acknowledgement has come; the request is sent again. -/
def execPostedResendTimeout (core place entry : Nat) (s : State) : Res := event (fun s =>
  if h : place < 7 then
    match ((s.getCore core).places[place]).entry? entry with
    | none => s
    | some e => if e.sent then dispatch e s else s
  else s) s

/-- The entry is free; a release of its agent may go on (R136). -/
def freeEntry (id : PostId) (s : State) : State :=
  if h : id.place < 7 then
    releaseAt id.core id.place (s.modPlace id.core ⟨id.place, h⟩ fun p =>
      { p with entries := p.entries.filter fun e => e.id != id })
  else s

/-! At the home. -/

/-- The core of a logical core of the launch in front is halted. -/
def homeHalted (s : State) (home : Nat) : Bool := coreHalted (s.getCore (s.getLc home).core)
def homeAway (s : State) (home : Nat) : Bool := (s.getLc home).away
/-- A home still has a request to apply that it acknowledged while it was halted: later ones, and loads, wait for it (R146). -/
def homeQueued (core : Nat) (net : List Msg) : Bool := net.any fun m => match m with
  | .queued _ c => c == core
  | _ => false

/-- The package has not rejoined the span since its reset: what goes to it waits in the fabric (R147). -/
def down (s : State) (pkg : Nat) : Bool := (s.getPkg pkg).inReset || (s.getPkg pkg).rejoin
def dropNet (k : Nat) (s : State) : State := { s with net := s.net.eraseIdx k }
/-- A message that carries another incarnation than its receiver's is dropped and counted (R147). -/
def staleNet (pkg k : Nat) (s : State) : State := countErr pkg 5 (dropNet k s)

/-- POSTED_REQUEST_ARRIVAL (R145 to R147): each request is applied once; a halted home acknowledges it at once and applies it,
in the order of arrival, when it runs again. -/
def postedArrival (k : Nat) (s : State) : State :=
  match s.net[k]? with
  | some (.posted m inc) => inLaunch m.launch m.id.lcore (fun s =>
    if down s m.pkg ∨ inTransit s (.posted m.id) then s
    else if inc ≠ (s.getPkg m.pkg).inc then staleNet m.pkg k s
    else
      let w := windowOf s m
      let core := (s.getLc m.home).core
      match w.applied.find? (·.1 == m.id) with
      | some x => respond m x.2 core (dropNet k s)
      | none =>
        if homeAway s m.home then s
        else if tooOld w m then countErr m.pkg 6 (dropNet k s)
        else if homeHalted s m.home then
          respond m 0 core (remember m 0 { dropNet k s with net := (dropNet k s).net ++ [.queued m core] })
        else if homeQueued core s.net then s
        else match applyPosted m (dropNet k s) with
        | .notYet => s
        | .absent => raiseAbsent m.id.core m.va s
        | .done s c => respond m c core (performed m (remember m c s))) s
  | some (.queued m core) => inLaunch m.launch m.id.lcore (fun s =>
    if down s m.pkg ∨ coreHalted (s.getCore core) ∨ homeAway s m.home ∨ homeQueued core (s.net.take k) then s
    else match applyPosted m (dropNet k s) with
    | .notYet => s
    | .absent => raiseAbsent m.id.core m.va s
    | .done s c => if c = 0 then performed m s else respond m c core (performed m s)) s
  | _ => s
def execPostedRequestArrival (k : Nat) (s : State) : Res := event (postedArrival k) s

/-- POSTED_ACK_ARRIVAL (R132): the entry is free. -/
def execPostedAckArrival (k : Nat) (s : State) : Res := event (fun s =>
  match s.net[k]? with
  | some (.ack id inc) =>
    if down s (pkgOf id.core) ∨ inTransit s (.ack id) then s
    else if inc ≠ (s.getPkg (pkgOf id.core)).inc then staleNet (pkgOf id.core) k s
    else freeEntry id (dropNet k s)
  | _ => s) s

/-- A posted store among the items of its launch (R347). -/
def storeItem (m : PostId) (fate : Bool) (cause : Byte) : Item :=
  { seqn := m.seqn, lcore := m.lcore, sub := m.entry, ridx := 0, kind := 3, fate := fate, cause := cause }
def metEntry (id : PostId) (cause : Byte) (s : State) : State :=
  metItem (storeItem id true cause) (.entry id.core id.place id.entry) s

/-- An asynchronous fault of the thread that posted a request; its agent may have gone since. -/
def postedFault (m : Posted) (cause : Byte) (s : State) : State :=
  match s.getAgent m.tid with
  | some _ => faultNamed m.id.entry m.tid cause 0 m.va s
  | none => endLaunch { recordOf s (Agent.new 0) 2 cause 0 m.va m.seq with
      name := m.id.entry, lcore := m.id.lcore, core := m.id.core } 1 s

/-- REMOTE_REFUSED (R146): an asynchronous fault of the issuing thread, or of a released saddlebag entry (R78). -/
def execRemoteRefused (k : Nat) (s : State) : Res := event (fun s =>
  match s.net[k]? with
  | some (.refusal m cause inc) => inLaunch m.launch m.id.lcore (fun s =>
    if down s (pkgOf m.id.core) ∨ inTransit s (.refusal m.id) then s
    else if inc ≠ (s.getPkg (pkgOf m.id.core)).inc then staleNet (pkgOf m.id.core) k s
    else
      let s := metEntry m.id cause (freeEntry m.id (dropNet k s))
      match m.released with
      | some r => releasedFault r cause m.va s m.id.entry
      | none => postedFault m cause s) s
  | _ => s) s

/-- FLUSH_MARKER_ARRIVAL (R136): the marker is answered once every store it counts has been performed. -/
def execFlushMarkerArrival (k : Nat) (s : State) : Res := event (fun s =>
  match s.net[k]? with
  | some (.marker core place pkg count inc) =>
    if down s pkg ∨ inTransit s (.marker core place pkg) then s
    else if inc ≠ (s.getPkg pkg).inc then staleNet pkg k s
    else if uncounted s core place pkg < count then s
    else sendMsg (.answer core place pkg (s.getPkg (pkgOf core)).inc) (markerCore pkg) core
      { dropNet k s with windows := counted core place pkg count s.windows }
  | _ => s) s

/-- The first marker out to a package. -/
def dropMarker (pkg : Nat) : List (Nat × Bool) → List (Nat × Bool)
  | [] => []
  | m :: l => if m.1 = pkg then l else m :: dropMarker pkg l

/-- FLUSH_MARKER_ANSWER (R136). -/
def execFlushMarkerAnswer (k : Nat) (s : State) : Res := event (fun s =>
  match s.net[k]? with
  | some (.answer core place pkg inc) =>
    if down s (pkgOf core) ∨ inTransit s (.answer core place pkg) then s
    else if inc ≠ (s.getPkg (pkgOf core)).inc then staleNet (pkgOf core) k s
    else if h : place < 7 then
      releaseAt core place ((dropNet k s).modPlace core ⟨place, h⟩ fun p => { p with markers := dropMarker pkg p.markers })
    else dropNet k s
  | _ => s) s

/-! Remote loads and atomics (R134, R137, R142). -/

def modLoad (id : Nat) (f : RLoad → RLoad) (a : Agent) : Agent := { a with loads := modFirst (·.id == id) f a.loads }

/-- The poisoned words among the bytes of an access. -/
def poisBits (s : State) (pkg key n : Nat) : BitVec 8 :=
  BitVec.ofNat 8 ((List.range (max 1 (n / 8))).foldl (fun b i => if poisoned s pkg 0 (key + 8 * i) then b + 2 ^ i else b) 0)

/-- Two accesses of an agent to the same bytes keep their order where one of them is an atomic (R137), or both are loads
that R130 orders; two accesses to one ring do. -/
def RLoad.ordered (e l : RLoad) : Bool :=
  match e.ring, l.ring with
  | some x, some y => x.1 == y.1 && x.2.1 == y.2.1
  | none, none => (e.atomic.isSome || l.atomic.isSome || (!e.plain && !l.plain)) && e.meets l.key l.size
  | _, _ => false
/-- An earlier access of the agent, not yet performed, goes before. -/
def earlierLoad (a : Agent) (l : RLoad) : Bool :=
  (a.loads.takeWhile (·.id != l.id)).any fun e => e.value.isNone && e.ordered l

/-- The access has been performed, and its answer is on its way back from its home. -/
def gotLoad (a : Agent) (l : RLoad) (home v : Nat) (p : BitVec 8) (fault : Byte) (s : State) : State :=
  inject (.reply a.tid l.id) home a.core
    (s.modAgent a.tid (modLoad l.id fun l => { l with value := some v, pois := p, fault := fault }))

/-- TKT and RFILL at the ring of another package: they check it, and TKT blocks while it is full (R106, R227). -/
def ringArrival (a : Agent) (l : RLoad) (n : Nat) (h : BitVec 3) (ticket : Option Nat) (s : State) : State :=
  let hd := getHandle s n h
  let home := (s.getLc n).core
  let act (f : Handle → Handle) (v : Nat) : State :=
    if !replayMay s a.lcore (seqCode a.seq) 2 true then s
    else gotLoad a l home v 0 0 (modHandle n h f (logEvent s a.lcore (seqCode a.seq) 2 (siteRing n h.toNat)))
  match ticket with
  | none =>
    if hd.mode ≠ 2 then gotLoad a l home 0 0 cHandle s
    else if hd.c + hd.nslot ≤ hd.t then s
    else act (fun hd => { hd with t := hd.t + 1 }) hd.t
  | some t =>
    if hd.mode = 2 ∧ hd.k ≤ t ∧ t < hd.t ∧ hd.marks.contains t = false then act (fun hd => { hd with marks := t :: hd.marks }) 0
    else gotLoad a l home 0 0 cHandle s

/-- The home logical core of a remote access: that of its ring, or of its page as it stands now. -/
def loadHome (s : State) (a : Agent) (l : RLoad) : Option Nat :=
  match l.ring with
  | some (n, _, _) => some n
  | none => (rawAcc s a.core l.addr).map (·.home)

/-- REMOTE_ACCESS_ARRIVAL (R134, R137, R142): the access is performed at its home once it has come there. It waits while its
home is away or halted (R146, R354), while LDSYNC finds its word EMPTY (R223), and for an earlier access of its agent to the
same bytes (R130). -/
def remoteArrival (tid id : Nat) (s : State) : State := onAgent tid (fun a s =>
  match a.loads.find? fun l => l.id == id && l.value.isNone with
  | none => s
  | some l =>
    let home := (loadHome s a l).getD a.lcore
    let core := (s.getLc home).core
    if down s l.pkg ∨ inTransit s (.load tid id) ∨ homeAway s home ∨ homeHalted s home ∨ homeQueued core s.net ∨
      earlierLoad a l then s
    else match l.ring with
    | some (n, h, t) => ringArrival a l n h t s
    | none =>
      let got (v : Nat) (p : BitVec 8) (s : State) : State := gotLoad a l core v p 0 s
      match l.atomic with
      | none =>
        if l.dst = .sync false ∧ emptyView s l.pkg 0 l.key then s
        else got (ofBytes (readViewN s l.pkg 0 l.key l.size)) (poisBits s l.pkg l.key l.size) s
      | some (op, c, cmp) =>
        if poisoned s l.pkg 0 l.key then got 0 1 s
        else if homeBusy s l.pkg l.key 8 ∨ (a.seq ≠ .s ∧ !replayMay s a.lcore (seqCode a.seq) 2) then s
        else
          let s := if a.seq = .s then s else logEvent s a.lcore (seqCode a.seq) 2 (siteLine l.key)
          let old := BitVec.ofNat 64 (ofBytes (readViewN s l.pkg 0 l.key 8))
          let s := writeHome s l.pkg 0 0
            ((List.range 8).zip (toBytes 8 (atomicNew op old c cmp).toNat) |>.map fun ib => (l.key + ib.1, ib.2))
          let s := match if l.rel then widxAt s a.core l.key else none with
            | some (part, q) => readWidx part q s
            | none => s
          got old.toNat 0 s) s
def execRemoteAccessArrival (tid id : Nat) (s : State) : Res := event (remoteArrival tid id) s

/-- The bytes of a line for a queued vector load, with their poison. -/
def giveLine (op key v : Nat) (pois : BitVec 8) (tid : Nat) (c : Core) : Core :=
  { c with vqueue := c.vqueue.map fun o =>
    if o.id = op ∧ o.tid = tid then
      let w := (vtyOf o.vtype).w / 8
      let new := o.elems.flatMap fun e =>
        if lineOf e.2 = lineOf key then
          (List.range w).map fun j => (e.1 * w + j, byteOf v ((e.2 + j) % 64), pois.getLsbD ((e.2 + j) % 64 / 8))
        else []
      { o with data := o.data ++ new, lines := o.lines - 1 }
    else o }

def Regs.give (d : LDst) (signed : Bool) (n v : Nat) (r : Regs) : Regs :=
  match d with
  | .g k => r.setG k (extend signed n v)
  | .pair k => (r.setG k (BitVec.ofNat 64 v)).setG (k + 1) (BitVec.ofNat 64 (v / 2 ^ 64))
  | .hi k => r.setG k (BitVec.ofNat 64 (v / 2 ^ 64))
  | .p k => { r with p := r.p.set k.toNat (BitVec.ofNat 80 v) }
  | _ => r
/-- What is left of an access's destination once a later one has returned: program order decides (R134). -/
def RLoad.after (l : RLoad) (id : Nat) (d : LDst) : LDst := if id < l.id then l.dst.over d else d
/-- A chunk at whose start the access was out finds its value when it runs again (R128). -/
def Chunk.give (l : RLoad) (v : Nat) (c : Chunk) : Chunk :=
  match aget l.id c.outs with
  | some d => { c with
      start := c.start.give d l.signed l.size v
      outs := (c.outs.filter (·.1 != l.id)).map fun x => (x.1, { l with dst := d }.after x.1 x.2) }
  | none => c

/-- The value of a remote access goes where it belongs; none while a port has no room. A word for a port is sent now, behind
what the agent has sent there since (DESIGN CHOICE, notes/assumptions/15.md). -/
def giveLoad (a : Agent) (l : RLoad) (v : Nat) (s : State) : Option State :=
  match l.dst with
  | .vec op => some (s.modCore a.core (giveLine op l.key v l.pois a.tid))
  | .port d =>
    let n := neighbour (max 1 s.launch.l) s.launch.w a.lcore d
    let i := dirIx (opposite d)
    if portHeld s n i < 4 then
      some (s.modLaunch fun k => { k with portq := k.portq ++ [(n, i.val, extend l.signed l.size v)] })
    else none
  | d =>
    if d.isP && v / 2 ^ 80 != 0 then some (faultAt a.tid cAlign l.pc l.addr s)
    else some (s.modAgent a.tid fun a => { a with regs := a.regs.give d l.signed l.size v })

/-- The load is no longer out; the acquire, the last of them, opens the gate (R135). One that LDSYNC waits for stays until that
runs again. -/
def loadOver (l : RLoad) (v : Nat) (a : Agent) : Agent :=
  if l.dst = .sync false then { a with loads := a.loads.map fun e => if e.id = l.id then { e with dst := .sync true, value := some v } else e }
  else
    let last := (a.loads.map (·.id)).foldl Nat.max 0 == l.id
    { a with
      loads := (a.loads.filter (·.id != l.id)).map fun e => { e with dst := l.after e.id e.dst }
      gate := a.gate && !last
      chunk := a.chunk.give l v, ended := a.ended.map (·.give l v) }

/-- REMOTE_LOAD_RETURN (R134): a scalar access that met poison faults (R364). A release that waits for it goes on. -/
def loadReturn (tid id : Nat) (s : State) : State := onAgent tid (fun a s =>
  match a.loads.find? (·.id == id) with
  | none => s
  | some l =>
    match if inTransit s (.reply tid id) || l.dst == .sync true then none else l.value with
    | none => s
    | some v =>
      let out (s : State) : State := advanceRelease tid (s.modAgent tid (loadOver l v))
      if l.fault ≠ 0 then out (faultAt tid l.fault l.pc 0 s)
      else if l.pois ≠ 0 ∧ l.dst.scalar then out (faultAt tid cUncorrectable l.pc l.addr s)
      else match giveLoad a l v s with
      | some s => out s
      | none => s) s
def execRemoteLoadReturn (tid id : Nat) (s : State) : Res := event (loadReturn tid id) s

/-! Bulk packets (R144). -/

def modPacket (k : Nat) (f : Packet → Packet) (s : State) : State := { s with packets := s.packets.modify k f }
/-- The packet that a flit has brought to one of its ends, or a notice, request or grant for it. -/
def packetAt (k : Nat) (s : State) : Option Packet := (s.packets[k]?).filter fun p => !inTransit s (.packet p.id)
/-- Its next message leaves: for the receiver, or for the source. -/
def packetSend (k : Nat) (p : Packet) (st : PkState) (back : Bool) (s : State) : State :=
  inject (.packet p.id) (if back then p.dstCore else p.core) (if back then p.core else p.dstCore) (modPacket k (fun p => { p with st := st }) s)

/-- The launch for which a packet travels; none where its command is no more. -/
def packetOf (s : State) (p : Packet) : Option Nat :=
  match p.unit with
  | some (l, _, _) => some l
  | none => ((s.getCore p.core).walker.find? (·.id == p.cmd)).map (·.launch)
/-- The lines of a packet, or its unit, are at the receiver. -/
def takePacket (p : Packet) (s : State) : State :=
  match p.unit with
  | some (l, u, x) => inLaunch l p.dstLc (modXch u fun e => { e with units := e.units ++ [x] }) s
  | none => modCmd p.core p.cmd (fun w => { w with landing := w.landing ++ p.lines }) s

/-- BULK_PACKET_ARRIVAL: the packet is taken whole, or dropped; a reserved one is never dropped. For a logical core that
is away no packet leaves (R354). One that carries another incarnation is lost, and counted (R147). -/
def execBulkPacketArrival (k : Nat) (room : Bool) (s : State) : Res := event (fun s =>
  match packetAt k s with
  | none => s
  | some p =>
    match packetOf s p with
    | none => { s with packets := s.packets.eraseIdx k }
    | some l =>
      if p.st ≠ .sent ∨ down s p.dstPkg ∨ ((launchLcs s l).any fun lc => lc.id == p.dstLc && lc.away) then s
      else if p.inc ≠ (s.getPkg p.dstPkg).inc then
        let s := countErr p.dstPkg 5 (modPacket k (fun p => { p with st := .lost }) s)
        if p.unit.isSome then s else modCmd p.core p.cmd (fun w => { w with cause := cRestarted }) s
      else if room ∨ p.reserved then takePacket p { s with packets := s.packets.eraseIdx k }
      else packetSend k p .dropped true s) s

/-- DROP_NOTICE_ARRIVAL: the source sends a reservation request. -/
def execDropNoticeArrival (k : Nat) (s : State) : Res := event (fun s =>
  match packetAt k s with
  | some p => if p.st = .dropped then packetSend k p .requested false s else s
  | none => s) s

/-- RESERVATION_REQUEST_ARRIVAL: the receiver grants space for the packet. -/
def execReservationRequestArrival (k : Nat) (s : State) : Res := event (fun s =>
  match packetAt k s with
  | some p => if p.st = .requested then packetSend k p .granted true s else s
  | none => s) s

/-- GRANT_ARRIVAL: the source sends the packet again, marked reserved. -/
def execGrantArrival (k : Nat) (s : State) : Res := event (fun s =>
  match packetAt k s with
  | some p => if p.st = .granted then
      packetSend k p .sent false (modPacket k (fun p => { p with reserved := true }) s) else s
  | none => s) s

/-- GRANT_EXPIRY: an unused grant has run out; the source requests a new one. -/
def execGrantExpiry (k : Nat) (s : State) : Res := event (fun s =>
  match packetAt k s with
  | some p => if p.st = .granted then packetSend k p .requested false s else s
  | none => s) s

/-! Incarnations (R147). -/

/-- The record of a journal entry or a load that a restart of its peer has ended. -/
def restartRecord (s : State) (tid lcore name core : Nat) (addr : Addr) (seq : Seq) : TrapRec :=
  let r := match s.getAgent tid with
    | some a => recordOf s a 0 cRestarted 0 addr a.seq
    | none => { recordOf s (Agent.new 0) 0 cRestarted 0 addr seq with lcore := lcore }
  { r with name := name, core := core }

/-- NAME of a load (R344): R344 gives numbers for g registers alone (DESIGN CHOICE, notes/assumptions/45.md). -/
def loadName : LDst → Nat
  | .g n => 64 + n.toNat
  | .pair n => 64 + n.toNat
  | .hi n => 64 + n.toNat
  | .p n => 32 + n.toNat
  | .port d => 48 + (dirIx d).val
  | .vec _ => 52
  | .sync _ => 53

/-- The journal entries of a core to the package are reported, listed and freed. -/
def restartPlaces (pkg core : Nat) (s : State) : State :=
  let es := (s.getCore core).places.toList.flatMap fun p => p.entries.filter fun e => e.pkg == pkg
  let s := es.foldl (fun s e => inLaunch e.launch e.id.lcore (fun s =>
    metEntry e.id cRestarted (queueRecord (restartRecord s e.tid e.id.lcore e.id.entry core e.va e.seq) s)) s) s
  let s := s.modCore core fun c => { c with places := c.places.map fun p => { p with
    entries := p.entries.filter fun e => e.pkg != pkg
    posted := p.posted.filter fun x => x.1 != pkg
    markers := p.markers.filter fun x => x.1 != pkg } }
  (List.range 7).foldl (fun s i => releaseAt core i s) s

/-- A load among the items of its launch: none of the kinds of R347 is a load's own, and it is listed as its thread's
(DESIGN CHOICE, notes/assumptions/45.md). -/
def loadItem (lcore : Nat) : Item :=
  { seqn := 0, lcore := lcore, sub := 0, ridx := 0, kind := 1, fate := true, cause := cRestarted }

/-- An agent's loads from the package complete with 0, are reported and listed; a request of the old incarnation that is
still under way is dropped and counted. -/
def restartLoads (pkg tid : Nat) (s : State) : State :=
  match s.getAgent tid with
  | none => s
  | some a => (a.loads.filter fun l => l.pkg == pkg && l.dst != .sync true).foldl (fun s l => onAgent tid (fun a s =>
      let s := metItem (loadItem a.lcore) .met (queueRecord (restartRecord s tid a.lcore (loadName l.dst) a.core l.addr a.seq) s)
      let s := if l.value.isNone ∧ l.inc ≠ (s.getPkg pkg).inc then countErr pkg 5 s else s
      match giveLoad a { l with pois := 0 } 0 s with
      | some s => advanceRelease tid (s.modAgent tid (loadOver l 0))
      | none => s.modAgent tid (modLoad l.id fun l => { l with value := some 0, pois := 0, fault := 0 })) s) s

/-- A launch with logical cores on the package ends. -/
def restartLaunch (pkg id : Nat) (s : State) : State :=
  let l := launchOf s id
  match (launchLcs s id).find? fun lc => decide (lc.id < l.l) && pkgOf lc.core == pkg with
  | none => s
  | some lc =>
    if l.phase ≠ .running then s
    else inLaunch id lc.id (fun s =>
      endLaunch { recordOf s (Agent.new 0) 2 cRestarted 0 0 .s with lcore := lc.id, core := lc.core } 1 s) s

/-- What a package had queued, and its replies: none is applied once its new incarnation is known. An acknowledgement finds
its entry freed. -/
def ofPackage (pkg : Nat) : Msg → Bool
  | .queued m _ => m.pkg == pkg
  | .refusal m _ _ => m.pkg == pkg
  | .answer _ _ p _ => p == pkg
  | _ => false

/-- INCARNATION_CHANGE: a package that was reset rejoins under its next incarnation. -/
def incarnation (pkg : Nat) (s : State) : State :=
  let p := s.getPkg pkg
  if !p.rejoin ∨ p.inReset then s
  else
    let s := s.modPkg pkg fun p => { p with inc := p.inc + 1, rejoin := false }
    let s := { s with
      net := s.net.filter fun m => !ofPackage pkg m
      windows := s.windows.filter fun w => !(w.pkg == pkg || pkgOf w.core == pkg) }
    let s := (s.allCores.map (·.id)).foldl (fun s c => restartPlaces pkg c s) s
    let s := (s.allAgents.map (·.tid)).foldl (fun s t => restartLoads pkg t s) s
    ((s.launch :: s.launches).map (·.id)).foldl (fun s l => restartLaunch pkg l s) s
def execIncarnationChange (pkg : Nat) (s : State) : Res := event (incarnation pkg) s

end Sys2Proof.Machine
end

