-- ==== Sys2Proof/Machine/Launches.lean ====
section
/-! DEFINITION. User queues, launches from packet to completion record, placement (spec/20 R310 to R319; spec/22 R346 to
R348; spec/08 R166). -/

namespace Sys2Proof.Machine

/-! Queues (R310 to R312). -/

/-- QUEUE_NOTIFY (R312, R370): a write to the notify register at an offset of BAR 0: partition i, queue k at 256i + 4k. -/
def execQueueNotify (pkg off : Nat) (s : State) : Res := event (fun s =>
  match (s.getPkg pkg).plan[off / 256]? with
  | some x => if off % 4 = 0 then readWidx x.2.toNat (off % 256 / 4) s else s
  | none => s) s

def allLaunches (s : State) : List Launch := s.launch :: s.launches
def modLaunchId (id : Nat) (f : Launch → Launch) (s : State) : State :=
  if s.launch.id = id then s.modLaunch f else { s with launches := modFirst (·.id == id) f s.launches }

/-- A launch of the queue that has been taken from it and has not yet been started or refused. -/
def building (l : Launch) : Bool := l.phase == .dispatched || l.phase == .admitted || l.phase == .reserved

/-- The next packet of a queue: its descriptor, RIDX, and the packet's address; none where nothing is to be served. -/
def nextPacket (s : State) (part queue : Nat) : Option (Nat × Addr) :=
  match rawRead s (procCore s part) (descAddr s part queue) 64,
      (s.pkts.find? (·.part == part)).bind fun p => aget queue p.widx with
  | some d, some w =>
    let ridx := field d 223 192
    let logn := field d 135 128
    if bit d 159 ∧ ¬ bit d 158 ∧ 1 ≤ logn ∧ logn ≤ 16 ∧ w.toNat ≠ ridx ∧
        ¬ (allLaunches s).any (fun l => l.part == part && l.queue == queue && building l) then
      some (ridx, BitVec.ofNat 80 (field d 79 0) + BitVec.ofNat 80 (64 * (ridx % 2 ^ logn)))
    else none
  | _, _ => none

/-- The queue of a partition that is served next: queues in ascending number from the one whose turn it is. -/
def nextQueue (s : State) (part : Nat) : Option (Nat × Nat × Addr) :=
  let turn := ((s.pkts.find? (·.part == part)).map (·.turn)).getD 0
  (List.range 64).findSome? fun i =>
    let q := (turn + i) % 64
    (nextPacket s part q).map fun x => (q, x.1, x.2)

/-- A completion record can stand there (R316). -/
def crecOk (s : State) (part : Nat) (crec : Addr) : Bool :=
  let a := crec.toNat
  a % 64 == 0 && decide (a / 2 ^ 78 < 2) &&
  (pageEntry s (s.getCore (procCore s part)) a).any fun n => bit n 28

/-- The predecessor's status as PREDW gives it (R296, R346). -/
def predWord (w : Word) : Word := if w &&& 0xFF = 0 then 0 else w

/-- The packet before this one in its queue (R32). -/
def predOf (s : State) (part queue lseq : Nat) : Option Launch :=
  (allLaunches s).find? fun l => l.phase != .none && l.part == part && l.queue == queue && (l.lseq + 1) % 2 ^ 32 == lseq

def nextLaunchId (s : State) : Nat := ((allLaunches s).map (·.id)).foldl Nat.max 0 + 1

/-- The processor of a partition asks the translation unit for a page (R336). -/
def procAsk (part : Nat) (va : Addr) (s : State) : State :=
  s.modCore (procCore s part) fun c => { c with asked := some (c.asked.getD va) }

/-- The next packet of a partition is taken, or its queue stops at it (R313, R316). Where its page has no entry the processor
asks for one, and the turn goes to the next queue. -/
def dispatchPart (part : Nat) (s : State) : State :=
  match nextQueue s part with
  | none => s
  | some (q, ridx, at_) =>
    let s := modProc part (fun p => { p with turn := (q + 1) % 64 }) s
    match rawRead s (procCore s part) at_ 64 with
    | none => procAsk part at_ s
    | some x =>
      let crec := BitVec.ofNat 80 (field x 511 432)
      let ty := field x 7 0
      if (ty ≠ 1 ∧ ty ≠ 2) ∨ field x 207 16 ≠ 0 ∨ field x 13 8 ≠ 0 ∨ !crecOk s part crec then
        let d := descAddr s part q + 19
        let b := (rawRead s (procCore s part) d 1).getD 0
        rawWrite s (procCore s part) d [BitVec.ofNat 8 b ||| 0x40]
      else
        let pred := match predOf s part q ridx with
          | some p => p.word.map predWord
          | none => some 0
        let l : Launch := { Launch.none with
          id := nextLaunchId s, queue := q, lseq := ridx, part := part, phase := .dispatched, crec := crec
          args := BitVec.ofNat 80 (field x 431 352), tmpl := BitVec.ofNat 80 (field x 351 272)
          jkey := BitVec.ofNat 64 (field x 271 208), af := bit x 15, rf := bit x 14, fence := ty == 2, pred := pred }
        { s with launches := s.launches ++ [l] }
/-- PACKET_DISPATCH: every partition serves its own queues (R310). -/
def packetDispatch (s : State) : State := (partsOf s).foldl (fun s part => dispatchPart part s) s
def execPacketDispatch (s : State) : Res := event packetDispatch s

/-- RIDX goes past the packet (R310, R316). -/
def advanceRidx (l : Launch) (s : State) : State :=
  rawWrite s (procCore s l.part) (descAddr s l.part l.queue + 24) (toBytes 4 ((l.lseq + 1) % 2 ^ 32))

/-- The launch is refused: no seed runs, and its record gets the status. -/
def refuse (l : Launch) (status : Byte) (s : State) : State :=
  advanceRidx l (modLaunchId l.id (fun l => { l with phase := .final, status := status, reserved := [] }) s)

def stInvalid : Byte := 2
def stShape : Byte := 3
def stLease : Byte := 4
def stDiverged : Byte := 5

/-- Every earlier launch of the queue has ended and its record is final (R317). -/
def earlierOver (s : State) (l : Launch) : Bool :=
  (allLaunches s).all fun k => k.id == l.id || k.phase == .none || k.part != l.part || k.queue != l.queue || k.id > l.id ||
    k.phase == .ended

/-! Templates (R314, R315). -/

def widthsOf (t : Nat) : List Nat := (List.range 5).map fun k => field t (224 + 32 * k + 31) (224 + 32 * k)

/-- Each width that is not zero divides L, and the next one above it that is not zero. -/
def widthsOk (l : Nat) (ws : List Nat) : Bool :=
  let nz := ws.filter (· != 0)
  nz.all (fun w => l % w == 0) && (nz.zip (nz.drop 1)).all fun x => x.2 % x.1 == 0

def leaseField (t k : Nat) : Nat := field t (512 + 192 * k + 191) (512 + 192 * k)

/-- DEDUCED, notes/assumptions/47.md. -/
def templateOk (t : Nat) : Bool :=
  let n := field t 64 61
  field t 511 464 == 0 && field t 223 67 == 0 && decide (n ≤ 8) && decide (255 ≤ field t 57 42) &&
  decide (1 ≤ field t 41 36) && !bit t 384 && widthsOk (field t 17 0 + 1) (widthsOf t) &&
  (List.range 8).all fun k => field (leaseField t k) 127 80 == 0 && field (leaseField t k) 191 181 == 0

/-- A lease rounded outward to granules: first granule, count, rights (R315). -/
def leaseOf (e : Nat) : Nat × Nat × Rights :=
  let base := field e 79 0
  let len := field e 175 128
  (base / 65536, if len = 0 then 0 else (base % 65536 + len + 65535) / 65536, BitVec.ofNat 5 (field e 180 176))

def modeOf : Nat → Mode
  | 0 => .free | 1 => .record | 2 => .replay | _ => .quantum
def modeCode : Mode → Nat
  | .free => 0 | .record => 1 | .replay => 2 | .quantum => 3

/-- What the template gives the launch. -/
def fromTemplate (t : Nat) (l : Launch) : Launch :=
  { l with
    l := field t 17 0 + 1, w := field t 35 18 + 1, lsize := 4096 * field t 41 36, count := field t 57 42 + 1
    mode := modeOf (field t 59 58), matrix := bit t 60, place := field t 66 65
    entry := BitVec.ofNat 80 (field t 463 384), widths := widthsOf t
    leases := (List.range (field t 64 61)).map fun k => leaseOf (leaseField t k) }

/-! Placement (R319). -/

/-- The enabled cores of a span partition, cluster by cluster, die by die, package by package. -/
def walk (s : State) (part : Nat) : List Nat :=
  (s.packages.flatMap fun p => (List.range 576).map fun i => 576 * p.id + i).filter fun c =>
    coreEnabled s c && spanPart s c == some part && !(s.getPkg (pkgOf c)).inReset

/-- Logical cores that one physical core takes. -/
def perCore (l : Launch) : Nat := if l.matrix then 1 else min 4 (252 * 1024 / max 1 l.lsize)

/-- A launch holds its cores from its reservation to its end. -/
def holds (l : Launch) : Bool :=
  l.phase == .reserved || l.phase == .running || l.phase == .stopping || l.phase == .accounting || l.phase == .final
def coreTaken (s : State) (core : Nat) : Bool :=
  (allLaunches s).any fun l => holds l && (launchLcs s l.id).any fun lc => lc.core == core

/-- Room of the cores that meet `p`, from a place in the line of slots on. -/
def roomIn (slots : List Nat) (from_ : Nat) (p : Nat → Bool) : Nat := ((slots.drop from_).filter p).length

/-- The unit of a level that holds a core (R34, R319). -/
def unitOf : Nat → Nat → Nat
  | 1, c => clusterOf c
  | 2, c => dieOf c
  | _, c => pkgOf c

/-- Where a group of `w` logical cores starts: here, or at the next unit of its level that takes it whole, as long as
the rest still finds room. -/
def startGroup (slots : List Nat) (left : Nat) (lvl w here : Nat) : Nat :=
  match slots[here]? with
  | none => here
  | some c =>
    if w ≤ roomIn slots here (fun x => unitOf lvl x == unitOf lvl c) then here
    else
      let starts := (List.range slots.length).filter fun j =>
        decide (here < j) && (slots[j]?).map (unitOf lvl) != (slots[j - 1]?).map (unitOf lvl)
      match starts.find? fun j => match slots[j]? with
        | some d => decide (w ≤ roomIn slots j fun x => unitOf lvl x == unitOf lvl d)
        | none => false with
      | some j => if left ≤ slots.length - j then j else here
      | none => here

/-- Packed placement, one logical core after another. -/
def packed (slots : List Nat) (l : Nat) (ws : List Nat) : Nat → Nat → Nat → List Nat
  | 0, _, _ => []
  | n + 1, i, here =>
    let groups : List (Nat × Nat) := (3, 1024) :: [3, 2, 1].map fun k => (k, (ws[k]?).getD 0)
    let here := groups.foldl (fun h g =>
      if g.2 ≠ 0 ∧ i % g.2 = 0 then
        startGroup slots (l - i) g.1 (min g.2 (l - i)) h
      else h) here
    (slots[here]?).getD 0 :: packed slots l ws n (i + 1) (here + 1)

/-- The next core of a unit in turn that has room, and the unit's turn afterwards. -/
def turnIn (cores : List Nat) (cap turn : Nat) (used : List (Nat × Nat)) : Option (Nat × Nat) :=
  ((List.range cores.length).find? fun i =>
    match cores[(turn + i) % cores.length]? with
    | some c => decide ((aget c used).getD 0 < cap)
    | none => false).bind fun i =>
      (cores[(turn + i) % cores.length]?).map fun c => (c, (turn + i + 1) % cores.length)

/-- Spread placement: logical core i to unit i mod N, or the next unit with room. Units of one core take another logical core
once every core with room has one as well. -/
def spread (units : List (List Nat)) (cap : Nat) : Nat → Nat → List (Nat × Nat) → List (Nat × Nat) → List Nat
  | 0, _, _, _ => []
  | n + 1, i, used, turns =>
    let k := units.length
    let least := (units.flatMap fun cs => cs.map fun c => (aget c used).getD 0).foldl Nat.min cap
    let cap' := if units.all (·.length ≤ 1) then min cap (least + 1) else cap
    match (List.range k).findSome? fun j =>
        let u := (i + j) % k
        ((units[u]?).bind fun cs => turnIn cs cap' ((aget u turns).getD 0) used).map fun x => (u, x.1, x.2) with
    | some (u, c, t) => c :: spread units cap n (i + 1) (aset c ((aget c used).getD 0 + 1) used) (aset u t turns)
    | none => 0 :: spread units cap n (i + 1) used turns

def groupBy (f : Nat → Nat) (cs : List Nat) : List (List Nat) := (cs.map f).eraseDups.map fun u => cs.filter fun c => f c == u

/-- The partition's dies, package by package, each with its enabled cores. -/
def dieUnits (s : State) (part : Nat) (cores : List Nat) : List (List Nat) :=
  let dies := (s.packages.filter (!·.inReset)).flatMap fun p => (List.range 4).map fun d => 4 * p.id + d
  (dies.filter fun d => spanPart s (144 * d) == some part).map fun d => cores.filter fun c => dieOf c == d

/-- The cores of the logical cores 0 to L − 1: the partition's enabled cores count, and one that another launch holds has
reached its count. -/
def placement (s : State) (l : Launch) (taken : Nat → Bool) : List Nat :=
  let cores := walk s l.part
  let cap := perCore l
  let used := (cores.filter taken).map fun c => (c, cap)
  match l.place with
  | 0 => packed ((cores.filter fun c => !taken c).flatMap fun c => List.replicate cap c) l.l l.widths l.l 0 0
  | 1 => spread (cores.map fun c => [c]) cap l.l 0 used []
  | 2 => spread (dieUnits s l.part cores) cap l.l 0 used []
  | _ => spread (groupBy pkgOf cores) cap l.l 0 used []

/-- The dies whose units hold the boards of the launch (R51): that of each team's lowest logical core. -/
def boardDies (l : Launch) (pl : List Nat) : List Nat :=
  l.widths.flatMap fun w => if w = 0 then [] else (List.range (l.l / w)).map fun i => dieOf ((pl[w * i]?).getD 0)
/-- Boards of other launches at a unit, those reserved for launches that have not started included. -/
def boardsAt (s : State) (die : Nat) : Nat :=
  (((allLaunches s).filter holds).map fun l =>
    (l.boards.filter fun b => b.unit == die && !b.ended).length + l.reserved.count die).foldl (· + ·) 0
def boardsFit (s : State) (dies : List Nat) : Bool :=
  dies.eraseDups.all fun d => decide ((dies.filter (· == d)).length + boardsAt s d ≤ Config.boardsPerUnit)

/-- The launch fits the partition when it stands empty (R316, step 3). -/
def shapeFits (s : State) (l : Launch) : Bool :=
  let cores := walk s l.part
  decide (l.l ≤ perCore l * cores.length) &&
    let dies := boardDies l (placement s l fun _ => false)
    dies.eraseDups.all fun d => decide ((dies.filter (· == d)).length ≤ Config.boardsPerUnit)

/-! The steps of R316. -/

def firstIn (s : State) (p : Launch → Bool) : Option Launch := (allLaunches s).find? p

/-- LAUNCH_ADMIT: steps 1 to 3. A fence-only packet is done once its fence is satisfied. -/
def launchAdmit (s : State) : State :=
  match firstIn s fun l => l.phase == .dispatched && (!l.af || earlierOver s l) with
  | none => s
  | some l =>
    if l.fence then refuse l 0 s
    else if l.tmpl.toNat % 64 ≠ 0 then refuse l stInvalid s
    else match rawRead s (procCore s l.part) l.tmpl 256 with
    | none => refuse l stInvalid s
    | some t =>
      if !templateOk t then refuse l stInvalid s
      else
        let l := fromTemplate t l
        if shapeFits s l then modLaunchId l.id (fun _ => { l with phase := .admitted }) s else refuse l stShape s
def execLaunchAdmit (s : State) : Res := event launchAdmit s

/-- Cores of the partition that no launch holds. -/
def freeCores (s : State) (l : Launch) : List Nat := (walk s l.part).filter fun c => !coreTaken s c
def capacityFree (s : State) (l : Launch) : Bool :=
  decide (l.l ≤ perCore l * (freeCores s l).length) && boardsFit s (boardDies l (placement s l (coreTaken s)))

/-- LAUNCH_CAPACITY_RESERVE: step 4, cores and boards. -/
def capacityReserve (s : State) : State :=
  match firstIn s fun l => l.phase == .admitted && capacityFree s l with
  | none => s
  | some l =>
    let pl := placement s l (coreTaken s)
    let lcs := ((List.range l.l).zip pl).map fun ic => { LCore.new ic.1 with core := ic.2 }
    modLaunchId l.id (fun l => { l with phase := .reserved, lcores := lcs, reserved := boardDies l pl }) s
def execLaunchCapacityReserve (s : State) : Res := event capacityReserve s

/-- It may start: with AF 0 from its predecessor's HINTS or end on (R32, R317). -/
def mayStart (s : State) (l : Launch) : Bool :=
  l.phase == .reserved && match predOf s l.part l.queue l.lseq with
    | some p => p.phase == .ended || (!l.af && p.hinted)
    | none => true

/-- The first granule of the launch's leases that is not resident. -/
def leaseMissing (s : State) (l : Launch) : Option Nat :=
  l.leases.findSome? fun e => (List.range e.2.1).findSome? fun i =>
    if (pageEntry s (s.getCore (procCore s l.part)) (65536 * (e.1 + i))).isNone then some (65536 * (e.1 + i)) else none
def leaseResident (s : State) (l : Launch) : Bool := (leaseMissing s l).isNone
/-- A launch that may start: one whose granules are resident before others. -/
def nextStart (s : State) : Option Launch :=
  (firstIn s fun l => mayStart s l && leaseResident s l).orElse fun _ => firstIn s (mayStart s)

/-- The innermost team's level and width: the lowest level whose width is not zero (R315). -/
def levelsOf (l : Launch) : List (Nat × Nat) := ((List.range 5).zip l.widths).filter fun x => x.2 != 0

/-- The identities of the boards of a level stand after those of the levels below. -/
def boardUid (l : Launch) (lvl i : Nat) : Nat :=
  l.id * 2 ^ 32 + (((levelsOf l).filter fun x => decide (x.1 < lvl)).map fun x => l.l / x.2).foldl (· + ·) 0 + i

def launchBoards (l : Launch) (pl : List Nat) : List Board :=
  (levelsOf l).flatMap fun (x : Nat × Nat) => (List.range (l.l / x.2)).map fun i =>
    { uid := boardUid l x.1 i, val := BitVec.ofNat 32 (x.1 * 2 ^ 29 + i), level := x.1, unit := dieOf ((pl[x.2 * i]?).getD 0)
      parent := ((levelsOf l).find? fun y => decide (x.1 < y.1)).map fun y => boardUid l y.1 (x.2 * i / y.2)
      world := none, inst := 0, comm := false, sigs := Vector.replicate 64 SigCell.quiet, handler := none, seqn := 0
      serving := false, cycle := [], trapInst := 0, paused := false, ended := false, xch := none }

/-- The entry seed of logical core n (R298). -/
def entrySeed (l : Launch) (tid n core : Nat) : Agent :=
  let z := Regs.zero
  let regs := { z with
    pc := l.entry, p := z.p.set 15 (BitVec.ofNat 80 (placeAddr n 0)), g := z.g.set 1 (BitVec.ofNat 64 n) }
  let team := (levelsOf l).head?.map fun x => (boardUid l x.1 (n / x.2), BitVec.ofNat 32 (x.1 * 2 ^ 29 + n / x.2))
  { Agent.new tid with
    launch := l.id, core := core, lcore := n, regs := regs, state := .ready, team := team.map (·.1)
    teamVal := (team.map (·.2)).getD noTeam, chunk := Chunk.empty regs }

/-- The registers that the processor loads into a core of the launch (R309, R315, R324)
(DESIGN CHOICE, notes/assumptions/46.md). -/
def loadPriv (l : Launch) (p : Priv) : Priv :=
  let d := Config.queueDomain l.part l.queue
  let ls := l.leases
  { p with
    dom := (if d = 0xFFFF#16 then 0xFFFE#16 else d).setWidth 64
    quantum := BitVec.ofNat 64 (modeCode l.mode * 2 ^ 17 + l.count)
    olog := Config.queueLog l.part l.queue, ologn := Config.queueLogSize l.part l.queue
    lease := Vector.ofFn fun i => ((ls[i.val]?).map fun e => BitVec.ofNat 80 (65536 * e.1 + e.2.2.toNat)).getD 0
    leasen := Vector.ofFn fun i => ((ls[i.val]?).map fun e => BitVec.ofNat 64 (e.2.1 % 2 ^ 32)).getD 0 }

/-- A core as the launch finds it (R250). -/
def startCore (l : Launch) (c : Core) : Core := { c with priv := loadPriv l c.priv, mx := Matrix.zero }

/-- The local spaces: zero but for ARGP in each frame area (R88, R318). -/
def argCells (l : Launch) (lcs : List LCore) : List Host.Cell :=
  lcs.foldl (fun m lc => ((List.range 16).zip (toBytes 16 l.args.toNat)).foldl
    (fun m ib => writeCell m (placeAddr lc.id (48 + ib.1)) ib.2) m) []

/-- Teamless entry seeds wait in the queue of their core's die. -/
def queueEntry (a : Agent) (s : State) : State :=
  if a.team.isNone then enqueueSeed (dieOf a.core) a.tid s else s

/-- The frame of each granule of the leases, as it is now. -/
def codeFrames (s : State) (l : Launch) : List (Nat × Nat) :=
  (l.leases.flatMap fun e => (List.range e.2.1).map (e.1 + ·)).filterMap fun g =>
    (pageEntry s (s.getCore (procCore s l.part)) (65536 * g)).map fun n => (g, physOf n (65536 * g) / 65536)

/-- A core that was reserved has been disabled or reset since (R369). -/
def coreLost (s : State) (l : Launch) : Bool :=
  let cores := walk s l.part
  l.lcores.any fun lc => !cores.contains lc.core

/-- LAUNCH_START: steps 5 to 7. A launch that has lost a core it had reserved goes back to step 2, and is placed on enabled
cores (DESIGN CHOICE, notes/assumptions/68.md). The pager is asked for a granule that is not resident, and the launch is refused where it
gives up (DESIGN CHOICE, notes/assumptions/68.md). -/
def launchStart (s : State) : State :=
  match nextStart s with
  | none => s
  | some l =>
    if coreLost s l then modLaunchId l.id (fun l => { l with phase := .dispatched, lcores := [], reserved := [] }) s
    else match leaseMissing s l with
    | some va => if Config.mishap s.cycle 8 then refuse l stLease s else procAsk l.part (BitVec.ofNat 80 va) s
    | none =>
      let lcs := l.lcores
      let seeds := ((List.range lcs.length).zip lcs).map fun il => entrySeed l (s.nextTid + il.1) il.2.id il.2.core
      let boards := launchBoards l (lcs.map (·.core))
      let s := lcs.foldl (fun s lc => s.modCore lc.core (startCore l)) s
      let s := modLaunchId l.id (fun l => { l with
        phase := .running, image := s.mem, frames := codeFrames s l, lmem := argCells l lcs, boards := boards, reserved := [], nextUid := boards.length }) s
      let s := { s with agents := s.agents ++ seeds, nextTid := s.nextTid + seeds.length }
      let s := seeds.foldl (fun s a => queueEntry a s) s
      let s := inLaunch l.id 0 (fun s => boards.foldl (fun s b =>
        s.modBoard b.uid fun b => { b with xch := some (newExchange s b) }) s) s
      advanceRidx l s
def execLaunchStart (s : State) : Res := event launchStart s

/-! The end of a launch (R31, R348). -/

/-- Issued tile operations and queued vector instructions of a launch's cores have finished. -/
def unitsQuiet (s : State) (id : Nat) : Bool :=
  (launchLcs s id).all fun lc =>
    let c := s.getCore lc.core
    c.mx.ops.all (·.finished) && c.vqueue.isEmpty

/-- Items in ascending LCORE, then in ascending SEQN; equal ones keep their order. -/
def insertItem (x : Item × InFlight) : List (Item × InFlight) → List (Item × InFlight)
  | [] => [x]
  | y :: l =>
    if x.1.lcore < y.1.lcore ∨ (x.1.lcore = y.1.lcore ∧ x.1.seqn.toNat < y.1.seqn.toNat) then x :: y :: l
    else y :: insertItem x l
def sortItems (l : List (Item × InFlight)) : List (Item × InFlight) := l.foldl (fun m x => insertItem x m) []

def mkItem (kind seqn lcore sub ridx : Nat) (cause : Byte) : Item :=
  { seqn := BitVec.ofNat 32 seqn, lcore := lcore, sub := sub, ridx := ridx, kind := kind, fate := true, cause := cause }

/-- Group 1: accepted walker commands. -/
def cmdItems (s : State) (id : Nat) : List (Item × InFlight) :=
  s.allCores.flatMap fun c => (c.walker.filter (·.launch == id)).map fun w =>
    (mkItem 2 w.seqn w.lcore w.d 0 w.cause, .cmd c.id w.id)

/-- Group 2: journal entries; one not yet sent will carry the next numbers of its place. -/
def entryItems (s : State) (id : Nat) : List (Item × InFlight) :=
  s.allCores.flatMap fun c => ((List.range 7).zip c.places.toList).flatMap fun ip =>
    let mine := ip.2.entries.filter (·.launch == id)
    mine.map fun e =>
      let unsent := (ip.2.entries.takeWhile fun x => x.id != e.id).filter fun x => !x.sent
      let seq := if e.sent then e.id.seqn.toNat else ip.2.seqn.toNat + unsent.length
      (mkItem 3 (seq % 2 ^ 32) e.id.lcore e.id.entry 0 0, .entry c.id ip.1 e.id.entry)

/-- Group 3: exchange units on their way, and those that are never sent. -/
def unitItems (s : State) : List (Item × InFlight) :=
  s.launch.boards.flatMap fun b =>
    match b.xch with
    | none => []
    | some x =>
      let p := x.ranks.length
      ((List.range p).zip x.ranks).flatMap fun rn =>
        let q := xpartOf s b.uid rn.2
        if q.state = .idle ∨ q.state = .done then []
        else (List.range p).flatMap fun d =>
          let total := stated s b.uid x rn.1 d + overUnits s b.uid x rn.1 d
          let fly := ((unitsLeft s b.uid x).filter fun u => u.src == rn.1 && u.dst == d).map (·.idx)
          let sent := listAt q.units d
          ((List.range total).filter fun i => fly.contains i || decide (sent ≤ i)).map fun i =>
            (mkItem 4 i rn.2 d 0 0, .unit b.uid rn.1 d i)

/-- Items of a kind that met their fate before the launch's end was accounted for. -/
def metOf (l : Launch) (kind : Nat) : List (Item × InFlight) := l.pending.filter fun x => x.2 == .met && x.1.kind == kind

/-- LAUNCH_FAULT_STOP: what its cores had issued to their units has finished, and what is in flight is taken down
(DEDUCED, notes/assumptions/48.md). -/
def faultStop (s : State) : State :=
  match firstIn s fun l => l.phase == .stopping && unitsQuiet s l.id with
  | none => s
  | some l => inLaunch l.id 0 (fun s =>
      let p := sortItems (cmdItems s l.id) ++ sortItems (entryItems s l.id ++ metOf s.launch 3) ++ sortItems (unitItems s) ++
        metOf s.launch 5 ++ metOf s.launch 1
      s.modLaunch fun l => { l with phase := .accounting, pending := p }) s
def execLaunchFaultStop (s : State) : Res := event faultStop s

/-- What was in flight has been completed since. -/
def InFlight.over (s : State) : InFlight → Bool
  | .met => false
  | .cmd core id => !(s.getCore core).walker.any (·.id == id)
  | .entry core place k =>
    !((s.getCore core).places.toList[place]?).any fun p => p.entries.any fun e => e.id.entry == k && e.launch == s.launch.id
  | .unit uid src dst idx =>
    match (s.getBoard uid).bind (·.xch) with
    | some x => !((unitsLeft s uid x).any fun u => u.src == src && u.dst == dst && u.idx == idx) &&
        ((x.ranks[src]?).any fun n => decide (idx < listAt (xpartOf s uid n).units dst))
    | none => false

/-- A packet with the unit has been lost (R147). -/
def unitLost (s : State) (uid src dst idx : Nat) : Bool :=
  s.packets.any fun p => p.st == .lost && (p.unitOf s uid).any fun u => u.src == src && u.dst == dst && u.idx == idx
/-- The cause that an item has met of its own since it was taken down: a peer that restarted, or an arbiter whose copies are
both lost (R147, R156), takes exchange units down with it. -/
def ownCause (s : State) (i : Item) : InFlight → Byte
  | .met => i.cause
  | .cmd core id => (((s.getCore core).walker.find? (·.id == id)).map (·.cause)).getD i.cause
  | .entry _ _ _ => i.cause
  | .unit uid src dst idx =>
    if unitLost s uid src dst idx || s.launch.fatal.any (·.cause == cRestarted) then cRestarted else i.cause

/-- Group 4: LIVE rivals, world by world, and each rival's saddlebag, which one that has ended DONE may still hold (R83). -/
def rivalItems (s : State) : List Item :=
  let ws := s.launch.worlds.filter fun w => w.state != .resolved
  let lcs := ws.foldl (fun l w => insertNat w.lcore l) []
  let ids := lcs.flatMap fun n => ((ws.filter (·.lcore == n)).map (·.wid)).foldl (fun l x => insertNat x l) []
  ids.flatMap fun wid => match s.getWorld wid with
    | none => []
    | some w => w.rivals.flatMap fun r =>
      let cause := ((s.getAgent r.tid).map (·.failCause)).getD 0
      (if r.code = .live then [mkItem 7 0 w.lcore 0 r.idx cause] else []) ++
        r.sb.map fun e => mkItem 5 0 e.lcore e.sub e.ridx 0

/-- A world that the launch's end leaves RESOLVED, with no view (R83). -/
def endWorld (w : World) : World :=
  { w with
    state := .resolved, committing := none, claims := []
    rivals := w.rivals.map fun r => { r with code := if r.code = .live then .failed else r.code, sb := [], tag := 0 } }

/-- Tasks that a SPAWN put into a die queue, its ring or its holding buffer, and that no take has returned. -/
def waitingTasks (s : State) : List Nat :=
  s.dieqs.flatMap fun q => ((q.entries ++ q.ring ++ q.holding.map (·.1)).filter fun e => e.origin != noOrigin).map (·.tid)

/-- Groups 5 and 6: seeds, and spawned tasks that still wait. -/
def seedItems (s : State) (id : Nat) (met : List (Item × InFlight)) : List Item :=
  let w := waitingTasks s
  let open_ := s.allAgents.filter fun a => a.launch == id && a.seq == .x && a.state != .done && a.state != .failed &&
    !(a.rival && (a.world.bind s.getWorld).any fun w => w.rivals.any fun r => r.idx == a.ridx && r.code == .live)
  let item (k : Nat) (a : Agent) : Item × InFlight :=
    (mkItem k (if k = 6 then a.key.toNat % 2 ^ 32 else 0) a.lcore 0 0 a.failCause, .cmd 0 0)
  (sortItems ((open_.filter fun a => !w.contains a.tid).map (item 1) ++ met)).map (·.1) ++
    (sortItems ((open_.filter fun a => w.contains a.tid).map (item 6))).map (·.1)

/-- What a launch that has ended leaves behind is cleared away. What a halted home has acknowledged stays, and is applied when
that home runs again (R31, R146). -/
def clearLaunch (id : Nat) (s : State) : State :=
  let tids := (s.allAgents.filter (·.launch == id)).map (·.tid)
  let s := tids.foldl (fun s t => leaveSlot t s) s
  let s := s.mapAgents fun a =>
    if a.launch = id ∧ a.seq = .x ∧ a.state ≠ .done then
      { a with state := .failed, queued := false, husked := none, loads := [], gate := false } else a
  let s := s.mapCores fun c => { c with
    walker := c.walker.filter (·.launch != id)
    vqueue := c.vqueue.filter fun o => !tids.contains o.tid
    places := c.places.map fun p => { p with entries := p.entries.filter (·.launch != id) } }
  let s := s.launch.views.foldl (fun s v => discardView v.pkg v.tag s) s
  let mine : Msg → Bool
    | .posted m _ => m.launch == id
    | .refusal m _ _ => m.launch == id
    | _ => false
  let kept (p : Packet) : Bool := match p.unit with
    | some (l, _, _) => l != id
    | none => (s.getCore p.core).walker.any (·.id == p.cmd)
  { s.modLaunch (fun l => { l with
      portq := [], boardq := [], worlds := l.worlds.map endWorld, boards := l.boards.map fun b => { b with ended := true, xch := none } }) with
    net := s.net.filter fun m => !mine m
    packets := s.packets.filter kept
    pins := s.pins.filter (·.launch != id)
    dieqs := s.dieqs.map fun q => { q with
      entries := q.entries.filter fun e => !tids.contains e.tid
      holding := q.holding.filter fun e => !tids.contains e.1.tid } }

/-- Every seed of a running launch has ended, and what it issued has completed, the queues of its cores' units included
(R233, R266). -/
def ranOut (s : State) (l : Launch) : Bool :=
  l.phase == .running && s.allAgents.all (fun a => a.launch != l.id || a.seq != .x || a.state == .done || a.state == .failed) &&
  unitsQuiet s l.id && l.boardq.isEmpty && s.allCores.all fun c => c.walker.all (·.launch != l.id) && c.places.toList.all fun p =>
    p.entries.all (·.launch != l.id)

/-- LAUNCH_ITEM_ACCOUNTING (R348): every item that is left is completed or failed; a launch whose seeds have all ended
has none but those that failed before. A failed entry of a saddlebag that was being released stands behind the LIVE rivals and
theirs (DESIGN CHOICE, notes/assumptions/48.md). -/
def accounting (s : State) : State :=
  match firstIn s fun l => l.phase == .accounting with
  | some l => inLaunch l.id 0 (fun s =>
      let l := s.launch
      let flown := (l.pending.filter fun x => x.1.kind != 1 && x.1.kind != 5).map fun x =>
        if x.2.over s then { x.1 with fate := false, cause := 0 } else { x.1 with cause := ownCause s x.1 x.2 }
      let items := flown ++ rivalItems s ++ (metOf l 5).map (·.1) ++ seedItems s l.id (metOf l 1)
      let s := s.modLaunch fun l => { l with items := l.items ++ items, pending := [] }
      (clearLaunch l.id s).modLaunch fun l => { l with phase := .final }) s
  | none =>
    match firstIn s (ranOut s) with
    | some l => inLaunch l.id 0 (fun s => (clearLaunch l.id s).modLaunch fun l => { l with
        phase := .final
        items := l.items ++ (sortItems (metOf l 3) ++ metOf l 5 ++ sortItems (metOf l 1)).map (·.1)
        pending := [] }) s
    | none => s
def execLaunchItemAccounting (s : State) : Res := event accounting s

/-- An item entry (R347). -/
def Item.bytes (i : Item) : List Byte :=
  toBytes 16 (i.seqn.toNat * 2 ^ 96 + i.lcore % 2 ^ 18 * 2 ^ 78 + i.sub % 2 ^ 10 * 2 ^ 68 + i.ridx % 16 * 2 ^ 64
    + i.kind % 16 * 2 ^ 12 + (if i.fate then 256 else 0) + i.cause.toNat)

/-- The status word (R346). -/
def statusWord (l : Launch) (cap : Nat) : Word :=
  BitVec.ofNat 64 (l.items.length % 2 ^ 32 * 2 ^ 32 + 2 ^ 31 + (if cap < l.items.length then 2 ^ 30 else 0)
    + (if l.logTrunc then 2 ^ 29 else 0) + ((l.fatal.map fun r => r.cause.toNat).getD 0) * 256 + l.status.toNat)

/-- The header with its fields: the others keep their bits. -/
def crecHeader (old : Nat) (l : Launch) (w : Word) : Nat :=
  let fpc := (l.fatal.map fun r => r.pc.toNat).getD 0
  let flc := (l.fatal.map fun r => r.lcore).getD 0
  fpc * 2 ^ 432 + flc % 2 ^ 18 * 2 ^ 414 + field old 413 96 * 2 ^ 96 + l.lseq % 2 ^ 32 * 2 ^ 64 + w.toNat

/-- CREC_FINAL_WRITE (R346, R370): the entries, then the header with FINAL; the queue's vector is raised, and the
successor may read the status. No write of a launch goes to host memory, for which RF 1 would wait (R317)
(DEDUCED, notes/assumptions/45.md). -/
def crecFinal (s : State) : State :=
  match firstIn s fun l => l.phase == .final with
  | none => s
  | some l =>
    let core := procCore s l.part
    match rawRead s core l.crec 64 with
    | none => s
    | some old =>
      let cap := field old 191 160
      let w := statusWord l cap
      let s := ((List.range l.items.length).zip l.items).foldl (fun s ii =>
        if ii.1 < cap then rawWrite s core (l.crec + BitVec.ofNat 80 (64 + 16 * ii.1)) ii.2.bytes else s) s
      let s := rawWrite s core l.crec (toBytes 64 (crecHeader old l w))
      let s := modLaunchId l.id (fun l => { l with phase := .ended, word := some w }) s
      let follows (k : Launch) : Bool :=
        k.part == l.part && k.queue == l.queue && k.lseq == (l.lseq + 1) % 2 ^ 32 && k.phase != .none
      let tell (k : Launch) : Launch := if follows k then { k with pred := some (predWord w) } else k
      let pidx := ((partOf s core).map (·.1)).getD 0
      { s with
        launch := tell s.launch, launches := s.launches.map tell
        vectors := (pkgOf core, 64 * pidx + l.queue) :: s.vectors }
def execCrecFinalWrite (s : State) : Res := event crecFinal s

end Sys2Proof.Machine
end

