-- ==== Sys2Proof/Machine/Turn.lean ====
section
/-! DEFINITION. Which agents may issue, and whose turn is next (spec/01 R20; spec/08 R164, R167; spec/22 R345, R348,
R349). -/

namespace Sys2Proof.Machine

/-- The phase of an agent's launch. -/
def launchRuns (s : State) (id : Nat) : Bool :=
  (if id = s.launch.id then s.launch.phase else ((s.launches.find? (·.id == id)).map (·.phase)).getD .none) == .running

/-- A running core: not halted, enabled, out of reset (R357, R359, R369). -/
def coreRuns (s : State) (c : Core) : Bool :=
  !c.halted && c.haltedBy == 0 && coreEnabled s c.id && !(s.getPkg (pkgOf c.id)).inReset

/-- The rival's own world commits it now: it waits for the end of the commit (R75, R79). -/
def beingCommitted (s : State) (a : Agent) : Bool :=
  a.rival && ((s.launch :: s.launches).any fun l => l.worlds.any fun w => some w.wid == a.world && w.committing == some a.ridx)

/-- The agent holds a place on a running core of a running launch, no trap waits to be entered, and nothing but its own
instruction or an acquire can make it wait (R20, R25, R345, R348, R349). -/
def inPlace (s : State) (a : Agent) : Bool :=
  let c := s.getCore a.core
  if !coreRuns s c then false
  else match a.seq with
    | .s => c.sup
    | .x => launchRuns s a.launch && !c.sup && a.husked.isNone && a.state == .held && a.slot.isSome &&
        !a.killed && !beingCommitted s a && !trapDue a
    | _ => a.host.isSome && launchRuns s a.launch && !c.sup && a.husked.isNone && !a.stopped && !a.rested &&
        !beingCommitted s (s.owner a)
/-- No acquire of it is in flight (R135). -/
def canIssue (s : State) (a : Agent) : Bool := inPlace s a && !a.gate

/-- Instructions that an agent may retire in a quantum (R324). -/
def quantumCount (s : State) (a : Agent) : Nat := (s.getCore a.core).priv.quantum.toNat % 2 ^ 17

/-- Under QUANTUM: it has not come to the end of its quantum, or its request is the one that is served (R167). -/
def quantumLets (s : State) (l : Launch) (a : Agent) : Bool :=
  match l.quantum with
  | .run => decide (a.retired - a.qstart < quantumCount s a) && a.wait.isNone
  | .serve (t :: _) => t == a.tid
  | _ => false

/-- It keeps X for its logical core: it runs, or waits at issue for an acquire or a resource of its core (R19, R164)
(DESIGN CHOICE, notes/assumptions/29.md). -/
def keepsX (s : State) (a : Agent) : Bool :=
  inPlace s a && match a.wait with
    | none => true
    | some (.resource .world) => false
    | some (.resource .answer) => false
    | some (.resource _) => true
    | some (.blocked .replay) => true
    | some _ => false

/-- Threads that are not rivals come first, then rivals in ascending rival index (R164). -/
def rankX (a : Agent) : Nat := if a.rival then 1 + a.ridx else 0

/-- Under RECORD and REPLAY at most one thread of a logical core runs on X: the one that has it, else the first of
those that can run; where none can, each may test what it waits for. -/
def oneThread (s : State) (a : Agent) : Bool :=
  let able := s.allAgents.filter fun b => b.seq == .x && b.launch == a.launch && b.lcore == a.lcore && keepsX s b
  let has := ((launchLcs s a.launch).find? (·.id == a.lcore)).bind (·.runner)
  match able.find? fun b => has == some b.tid with
  | some b => b.tid == a.tid
  | none =>
    match able with
    | [] => true
    | b :: l => (l.foldl (fun (m b : Agent) => if rankX b < rankX m then b else m) b).tid == a.tid

/-- A chunk that is to run again under a reservation waits while another agent of its package has the arbiter's (R128)
(DESIGN CHOICE, notes/assumptions/12.md). -/
def awaitsArbiter (s : State) (a : Agent) : Bool :=
  decide (4 ≤ a.chunk.squashes) && a.chunk.count == 0 && !a.reserved &&
    s.allAgents.any fun b => b.tid != a.tid && pkgOf b.core == pkgOf a.core && reserving s b

/-- The agent may issue its next instruction. -/
def mayIssue (s : State) (a : Agent) : Bool :=
  canIssue s a && !awaitsArbiter s a && (a.seq == .s ||
    match (launchOf s a.launch).mode with
    | .free => true
    | .record | .replay => a.seq != .x || oneThread s a
    | .quantum => quantumLets s (launchOf s a.launch) a)

/-- An agent of a launch under QUANTUM takes an idle turn too, so that its launch comes in front at the quantum's end. -/
def takesTurn (s : State) (a : Agent) : Bool :=
  mayIssue s a || ((launchOf s a.launch).mode == .quantum && launchRuns s a.launch && a.seq != .s)

/-- The slots of a core in the order in which X serves them: after the one that issued last (R20). -/
def slotOrder (c : Core) : List Nat := [1, 2, 3, 4].map fun i => (c.lastSlot + i) % 4

/-- The thread has issued from its slot: X's order goes on after that one, and each other thread of the core that has
yielded its turn counts the slot (R20, R205). -/
def noteIssue (by_ : Agent) (s : State) : State :=
  match by_.seq, by_.slot with
  | .x, some k =>
    let seen (a : Agent) : Agent :=
      if a.core = by_.core ∧ a.tid ≠ by_.tid then { a with skip := a.skip.map fun l => k :: l }
      else a
    (s.modCore by_.core fun c => { c with lastSlot := k }).mapAgents seen
  | _, _ => s

/-- The arbiter's reservation for a chunk that has been squashed four times in a row (R128). -/
def grantReservation (s : State) : State :=
  let taken := s.allAgents.any fun b => pkgOf b.core == s.pkg && b.reserved && b.state == .held
  if 4 ≤ s.cur.chunk.squashes ∧ s.cur.chunk.count = 0 ∧ ¬ taken then
    s.modCur fun a => { a with chunk := { a.chunk with reserved := true } }
  else s

/-- The agent in front takes its turn: under RECORD and REPLAY it has X; a release of its own that waited goes on (R136). -/
def takeTurn (s : State) : State :=
  let s := grantReservation (advanceRelease s.cur.tid (s.modCur fun a => { a with skip := none }))
  if s.cur.seq = .x ∧ (s.launch.mode = .record ∨ s.launch.mode = .replay) then
    { s with lc := { s.lc with runner := some s.cur.tid } }
  else s

/-- After the turn: the agent has issued, or goes on waiting. -/
def endTurn (by_ : Agent) (s : State) : State :=
  if s.cur.tid ≠ by_.tid then s
  else if s.cur.wait.isNone then noteIssue by_ s
  else s.modCur fun a => { a with skip := by_.skip }

/-- Under QUANTUM its request has been served (R167). -/
def endServe (tid : Nat) (s : State) : State :=
  let served (l : Launch) : Launch := match l.quantum with
    | .serve (t :: ts) => if t = tid then { l with quantum := .serve ts } else l
    | _ => l
  s.modLaunch served

end Sys2Proof.Machine
end

