-- ==== Sys2Proof/Machine/Translation.lean ====
section
/-! DEFINITION. The translation units, the paddock's records, and the determinism modes' events (spec/21 R328 to R338;
spec/08 R164 to R167). -/

namespace Sys2Proof.Machine

/-! Translation units (R328, R330, R335, R336). -/

/-- TRANSLATION_REQUEST: the unit looks the granule up in the page table and refreshes its cache; where it finds no
entry it raises PAGE_ABSENT once, and waits; while that record waits for the trap queue, it takes no new work (R345). -/
def translationRequest (core : Nat) (va : Addr) (s : State) : State :=
  let g := va.toNat / 65536
  if unitStalled s core then s
  else match pageWalk s (s.getCore core) va.toNat with
  | some n => cacheEntry { s with absent := s.absent.filter (· != g) } core va.toNat n
  | none => raiseAbsent core va s
def execTranslationRequest (core : Nat) (va : Addr) (s : State) : Res := event (translationRequest core va) s

/-- The domain for which a core asks: its own, or none in supervisor state (R328, R349). -/
def askDid (c : Core) : Option (BitVec 16) := if c.sup then none else some (domDid c)

/-- TRANSLATION_REPLY: the entry enters the core's buffer. -/
def translationReply (core : Nat) (s : State) : State :=
  let c := s.getCore core
  match c.asked with
  | none => s
  | some va =>
    match pageEntry s c va.toNat with
    | none => s
    | some n => { s with absent := s.absent.filter (· != va.toNat / 65536) }.modCore core fun c =>
        { fillPlb c (plbOf (va.toNat / 65536) (askDid c) n) with asked := none }
def execTranslationReply (core : Nat) (s : State) : Res := event (translationReply core) s

/-! The paddock (R338). -/

/-- The bytes that a record's mask names, with their poison, at the key of its line. -/
def padCells (s : State) (at_ mask key : Nat) : List (Nat × Byte × Bool) :=
  ((List.range 64).filter (bit mask)).map fun i =>
    (key + i, readCell s.mem (at_ + 64 + i), poisoned s 0 0 (at_ + 64 + i))

/-- The line of a record lands: its bytes, the full-empty bits that its mask names, its poison. -/
def landRecord (pkg tag : Nat) (cells : List (Nat × Byte × Bool)) (key fe : Nat) (s : State) : State :=
  let s := writeHome s pkg tag 0 (cells.map fun c => (c.1, c.2.1))
  let s := ((List.range 8).filter (bit fe)).foldl (fun s i => setEmptyView s pkg tag (key + 8 * i) false) s
  ((cells.filter (·.2.2)).map fun c => wordOf c.1).eraseDups.foldl (fun s k => setPoison s pkg tag k true) s

def padAt (s : State) (r : PadRec) : Nat := padSlot (paddockBase (s.getCore r.core)) r.index
/-- The record carries a counter's increment. -/
def padCarries (s : State) (r : PadRec) : Bool := bit (readPhys s (padAt s r + 25) 1) 0
/-- Where the line of a record lands: its package, view tag and key, and its home. -/
def padPlace (s : State) (r : PadRec) : Option (Nat × Nat × Nat × Nat) :=
  (rawAcc s r.core (BitVec.ofNat 80 (readPhys s (padAt s r) 16))).map fun a =>
    (a.pkg, if a.pkg = pkgOf r.core then r.tag else 0, a.key, a.home)

/-- A record may be applied: nothing of what a line waits for at its home stands against it (R94), nor the log against its
increment (R166). -/
def recordMay (r : PadRec) (s : State) : Bool :=
  let s := focusLaunch r.launch r.lcore s
  match padPlace s r with
  | none => false
  | some (pkg, tag, key, home) =>
    let keys := (padCells s (padAt s r) (readPhys s (padAt s r + 16) 8) key).map (·.1)
    !(homeWaits s r.core home || keys.any (fun k => heldRange s k 1) || reservedKeys s pkg tag 0 keys) &&
    !((fullView s pkg tag key).any fun v => !v.gone && (viewRival s pkg tag).isNone) &&
    (!padCarries s r || replayMay s r.lcore (seqCode r.seq) 5)

/-- A record is applied, its increment after its line. A line of a discarded view is dropped; where the view has no copy of it
and none is free, its rival fails (R71). -/
def applyRecord (r : PadRec) (s : State) : State := inLaunch r.launch r.lcore (fun s =>
  let at_ := padAt s r
  let mask := readPhys s (at_ + 16) 8
  let fe := readPhys s (at_ + 24) 1
  let k := readPhys s (at_ + 28) 4
  match padPlace s r with
  | none => s
  | some (pkg, tag, key, _) =>
    let t := if tag ≠ 0 ∧ (s.getView pkg tag).isNone then s
      else match fullView s pkg tag key with
      | none => landRecord pkg tag (padCells s at_ mask key) key fe s
      | some v => if v.gone then s else match viewRival s pkg tag with
        | some (wid, idx) => failRival wid idx cExhausted 0 0 r.seq s
        | none => s
    if padCarries s r then
      let n := field k 17 0
      let c := field k 21 18
      incCounter n c (logEvent t r.lcore (seqCode r.seq) 5 (siteCounter n c))
    else t) s

/-- HEAD of a package's paddock stands at the oldest record that is left, else at TAIL. -/
def moveHead (core : Nat) (s : State) : State :=
  let base := paddockBase (s.getCore core)
  let tail := readPhys s (base + 8) 8
  let left := (s.paddocked.filter fun r => pkgOf r.core == pkgOf core).map (·.index)
  physBytes base (toBytes 8 ((minNat left).getD tail)) s

/-- Records are applied one after another, up to the first that has to wait. -/
def applyRecords : List PadRec → State → State
  | [], s => s
  | r :: l, s =>
    if recordMay r s then
      let s := applyRecord r s
      applyRecords l (moveHead r.core { s with paddocked := s.paddocked.filter (· != r) })
    else s

/-- PADDOCK_APPLY: once the page has an entry, its records are applied in paddock order. -/
def paddockApply (page : Nat) (s : State) : State :=
  applyRecords (s.paddocked.filter fun r => r.page == page && (pageEntry s (s.getCore r.core) (65536 * page)).isSome) s
def execPaddockApply (page : Nat) (s : State) : Res := event (paddockApply page) s

/-! Replay (R164, R166). -/

/-- The agents of a launch that could issue: threads in a slot, A and M. -/
def activeAgents (s : State) (id : Nat) : List Agent :=
  s.allAgents.filter fun a => a.launch == id && a.husked.isNone &&
    ((a.seq == .x && a.state == .held && a.slot.isSome) || ((a.seq == .a || a.seq == .m) && !a.stopped && !a.rested))

/-- The agent waits for a logged predecessor of its own event, or of its remote atomics. -/
def replayWait (a : Agent) : Bool :=
  a.wait == some (.blocked .replay) || (a.wait == some (.resource .loads) &&
    a.loads.all fun l => l.value.isNone && (l.atomic.isSome || l.ring.isSome))
/-- Every agent of the launch waits for a logged predecessor: with none on a core, the takes of its READY seeds do. -/
def allReplayWait (s : State) (id : Nat) : Bool :=
  (activeAgents s id).all replayWait &&
    (!(activeAgents s id).isEmpty || s.allAgents.any fun a => a.launch == id && a.state == .ready)

/-- REPLAY_DIVERGED: the launch ends with that status. -/
def replayDiverged (s : State) : State :=
  match firstIn s fun l => l.mode == .replay && l.phase == .running && allReplayWait s l.id with
  | none => s
  | some l => modLaunchId l.id (fun l => { l with phase := .stopping, status := stDiverged }) s
def execReplayDiverged (s : State) : Res := event replayDiverged s

/-! Quanta (R167, R321). -/

/-- The agent has come to the end of its quantum: it has retired its count, or it waits; a trap or an end that stands over
it waits for the quantum's end itself. -/
def atEnd (s : State) (a : Agent) : Bool :=
  decide (quantumCount s a ≤ a.retired - a.qstart) || a.wait.isSome || a.gate || a.killed || beingCommitted s a || trapDue a

/-- Agents in ascending logical core, with X, then A, then M (DESIGN CHOICE, notes/assumptions/28.md). -/
def inOrder (l : List Agent) : List Nat := sortKeyed (l.map fun a => ([a.lcore, seqCode a.seq, a.tid], a.tid))

/-- Every agent of the launch is at the end of its quantum, and none is in a husk. -/
def quantumOver (s : State) (id : Nat) : Bool :=
  (activeAgents s id).all (atEnd s) && !s.allAgents.any fun a => a.launch == id && a.husked.isSome && a.state == .held

/-- The chunks of the agent in front that ended in the quantum commit in order, as far as they can: one that waits stays for
the next quantum's end, and from the first that conflicts the agent runs again (R128). What its L1 copied before is older
than they are (R90). -/
def commitEnded : Nat → State → State
  | 0, s => s
  | n + 1, s =>
    match s.cur.ended with
    | [] => s
    | c :: l =>
      if c.conflict then squashFrom (c :: l ++ [s.cur.chunk]) s
      else if (commitWait c s).isSome then s
      else if lacksRoom s (newLines s (c.wlines ++ c.wbuf.map fun x => lineOf x.1)) then noRoom s
      else
        let s := s.modCur fun a => { a with ended := l, chunk := { a.chunk with l1 := [] } }
        commitEnded n (commitNow c s)

def modQuantum (id : Nat) (q : QPhase) (s : State) : State := modLaunchId id (fun l => { l with quantum := q }) s

/-- What agents of a core sent to its branch queues in the quantum, and the room that they made there, become visible. -/
def showBits (c : Core) : Core :=
  let sent (q : Seq) : List Bool := (c.bqSent.filter (·.1 == q)).map (·.2)
  { c with bqX := c.bqX ++ sent .x, bqA := c.bqA ++ sent .a, bqM := c.bqM ++ sent .m, bqSent := [], bqPops := [] }
/-- The room that a logical core made in its FIFOs becomes visible. -/
def showRoom (lc : LCore) : LCore := { lc with portPops := Vector.replicate 4 0 }
def showQuantum (id : Nat) (s : State) : State :=
  let cores := (launchLcs s id).map (·.core)
  inLaunch id 0 (fun s => { s with lc := showRoom s.lc }.modLaunch fun l => { l with lcores := l.lcores.map showRoom })
    (s.mapCores fun c => if cores.contains c.id then showBits c else c)

/-- The next phase of a launch's quantum: its agents have come to the end, the requests have been served, or what was
sent has been completed. -/
def quantumNext (l : Launch) (s : State) : State :=
  match l.quantum with
  | .run =>
    let tids := inOrder (s.allAgents.filter fun a => a.launch == l.id && !a.ended.isEmpty)
    let s := tids.foldl (fun s t => asAgent t (fun s => commitEnded s.cur.ended.length s) s) s
    let wants := (activeAgents s l.id).filter fun a => a.wait == some (.resource .quantum)
    modQuantum l.id (.serve (inOrder wants)) s
  | .serve [] => modQuantum l.id .drain s
  | .serve (_ :: ts) => modQuantum l.id (.serve ts) s
  | .drain =>
    let s := s.mapAgents fun a => if a.launch = l.id then { a with wait := none, qstart := a.retired } else a
    modQuantum l.id .run (showQuantum l.id s)

/-- A phase is over: in `serve` once no agent is left that can be served; who cannot is passed over. -/
def quantumPhaseOver (s : State) (l : Launch) : Bool :=
  l.mode == .quantum && l.phase == .running &&
  match l.quantum with
  | .run => quantumOver s l.id
  | .serve [] => true
  | .serve (t :: _) => !(s.getAgent t).any (canIssue s)
  | .drain => true

/-- QUANTUM_END. -/
def quantumEnd (s : State) : State :=
  match firstIn s (quantumPhaseOver s) with
  | none => s
  | some l => quantumNext l s
def execQuantumEnd (s : State) : Res := event quantumEnd s

end Sys2Proof.Machine
end

