-- ==== Sys2Proof/Machine/Bringup.lean ====
section
/-! DEFINITION. Bring-up, the capability list, the measurement log, failures in the field, checkpoints, heat, and the
host's window (spec/23 R359 to R372; spec/20 R325). -/

namespace Sys2Proof.Machine

/-! The capability list (R365 to R368). -/

def cores_ (p : Package) : Nat := 4 * popcount 144 p.cmask.toNat

/-- The header of an entry; every body has version 1 (DEDUCED, notes/assumptions/49.md). -/
def capHeader (id len next : Nat) : List Byte := toBytes 16 (next * 2 ^ 64 + len * 2 ^ 32 + 2 ^ 16 + id)

/-- The body of COUNTS. -/
def countsBody (p : Package) : List Byte :=
  let clusters := popcount 144 p.cmask.toNat
  let nstacks := popcount 8 p.smask.toNat
  toBytes 48 (p.cmask.toNat * 2 ^ 160 + p.lmask.toNat * 2 ^ 144 + p.smask.toNat * 2 ^ 128 + 4 * clusters * 2 ^ 96
    + 64 * nstacks * 2 ^ 64 + p.gen.toNat * 2 ^ 56 + popcount 12 p.lmask.toNat * 2 ^ 48 + nstacks * 2 ^ 40 + 4 * 2 ^ 32
    + clusters * 2 ^ 16 + cores_ p)

/-- The bytes of the capability list. -/
def capBytes (p : Package) : List Byte :=
  capHeader 1 64 0x40 ++ countsBody p ++ capHeader 2 16 0x50 ++ capHeader 3 16 0x60 ++
  capHeader 4 32 0x80 ++ toBytes 16 (32 * 2 ^ 16 + 255 * 2 ^ 8 + 4) ++
  capHeader 5 32 0xA0 ++ toBytes 16 (1024 * 2 ^ 16 + 2) ++ capHeader 6 16 0xB0 ++
  capHeader 7 80 0 ++ p.errcnt.toList.flatMap fun w => toBytes 8 w.toNat

/-! The measurement log (R361). -/

/-- An entry of the log, with MREG extended by its digest. -/
def extendLog (kind : Nat) (digest : List Byte) (m : Mgmt) : Mgmt :=
  { m with log := m.log ++ [(digest, kind)], mreg := sha256 (m.mreg ++ digest) }

/-- The 64 bytes of each entry: digest, event type, index. -/
def logBytes (m : Mgmt) : List Byte :=
  ((List.range m.log.length).zip m.log).flatMap fun ie =>
    ie.2.1 ++ toBytes 4 ie.2.2 ++ toBytes 4 ie.1 ++ List.replicate 24 0

def modMgmt (pkg : Nat) (f : Mgmt → Mgmt) (s : State) : State := s.modPkg pkg fun p => { p with mgmt := f p.mgmt }

/-- A new entry for the capability list as it stands now. -/
def logCaps (pkg : Nat) (s : State) : State :=
  modMgmt pkg (extendLog 5 (sha256 (capBytes (s.getPkg pkg)))) s

/-! Bring-up (R359, R360). -/

/-- The image passes every check of R360. -/
def imageOk (pkg : Nat) (m : Mgmt) (image : List Byte) : Bool :=
  let h := ofBytes (image.take 64)
  let blen := field h 127 64
  let modulus := (image.drop (64 + blen)).take 384
  field h 31 0 == 0x4C554D44 && field h 63 32 == 1 && field h 159 128 == 0 && field h 511 192 == 0 && blen % 64 == 0 &&
  image.length == 64 + blen + 768 && sha256 modulus == Config.fusedKeyHash pkg && decide (m.minSvn.toNat ≤ field h 191 160) &&
  signatureOk modulus ((image.drop (64 + blen + 384)).take 384) (image.take (64 + blen))

/-- The page-table alias, the paddock and the first trap queues that the management cores apply (R333, R343): in every core of
the package, the trap queue that of its partition. -/
def bootCores (pkg : Nat) (s : State) : State :=
  let t := Config.bootTable pkg
  let boot (s : State) (c : Core) : Core := { c with priv := { c.priv with
    ptbase := BitVec.ofNat 80 (t.1.toNat * 2 ^ 20 + (21 + t.2 % 12))
    paddock := BitVec.ofNat 80 ((Config.bootPaddock pkg).toNat * 2 ^ 30 + 1)
    trapq := BitVec.ofNat 80 ((Config.bootTrapq ((spanPart s c.id).getD 0)).toNat * 64) } }
  let s : State := { s with mem := (Config.bootCells pkg).foldl (fun m c => writeCell m c.1 c.2) s.mem }
  let s := s.mapCores fun c => if pkgOf c.id = pkg then boot s c else c
  (List.range 4).foldl (fun s d => s.modCore (576 * pkg + 144 * d) (boot s)) s

/-- The links of a package whose numbers a mask leaves out are off, at both ends. -/
def linksOff (pkg : Nat) (lmask : BitVec 12) (s : State) : State :=
  (linksOf pkg).foldl (fun s l =>
    if lmask.getLsbD (linkNumber l pkg) then s else closeLink l.id s) s

/-- The fuse map: a unit that has not passed its test is disabled, and the L2 has the slices that are left (R1 to R3). -/
def applyFuses (pkg : Nat) (s : State) : State :=
  let (c, l, m) := (s.getPkg pkg).fuses
  let s := s.modPkg pkg fun p => { p with
    cmask := p.cmask &&& c, lmask := p.lmask &&& l, smask := p.smask &&& m, tagLines := l2Lines (p.cmask &&& c) }
  linksOff pkg (s.getPkg pkg).lmask s

/-- The digest of a partition plan. -/
def planBytes (plan : List (BitVec 4 × Byte)) : List Byte := toOctets 32 (Config.planDigest plan).toNat

/-- The fuse map and what follows it; the five events in the order of their types; then the compute dies are released. -/
def bringUp (pkg : Nat) (image : List Byte) (s : State) : State :=
  let s := applyFuses pkg s
  let p := s.getPkg pkg
  let s := bootCores pkg s
  let s := modMgmt pkg (fun m =>
    extendLog 4 (planBytes p.plan) (extendLog 3 (toOctets 32 (Config.fuseDigest pkg m.minSvn).toNat)
      (extendLog 2 (sha256 image) (extendLog 1 (toOctets 32 (Config.romDigest pkg).toNat) m)))) s
  let s := logCaps pkg s
  let want := Config.imageMinSvn image
  s.modPkg pkg fun p => { p with
    inReset := false
    mgmt := { p.mgmt with
      verified := true, fetching := false, fuseSvn := if p.mgmt.fuseSvn.ult want then want else p.mgmt.fuseSvn } }

/-- FIRMWARE_VERIFY: an image that fails is never run, and the compute dies stay in reset. A span has no package beyond its 128
(R4). -/
def firmwareVerify (pkg : Nat) (image : List Byte) (s : State) : State :=
  let p := s.getPkg pkg
  if p.mgmt.verified || !p.mgmt.fetching || decide (128 ≤ pkg) then s
  else if imageOk pkg p.mgmt image then bringUp pkg image s
  else modMgmt pkg (fun m => { m with fetching := false }) s
def execFirmwareVerify (pkg : Nat) (image : List Byte) (s : State) : Res := event (firmwareVerify pkg image) s

/-- FIRMWARE_RETRY (R359): after 10 s without a verified image the management cores fetch again. -/
def execFirmwareRetry (pkg : Nat) (s : State) : Res := event (fun s =>
  modMgmt pkg (fun m => if m.verified then m else { m with fetching := true }) s) s

/-! Attestation (R362). -/

/-- An answer in the management mailbox. -/
def reply (pkg : Nat) (bs : List Byte) (s : State) : State :=
  raiseVector pkg 5 (modMgmt pkg (fun m => { m with replies := bs :: m.replies }) s)

/-- What the signature of a reply signs. -/
def attestDigest (p : Package) (nonce : List Byte) : List Byte := sha256 (nonce ++ p.mgmt.mreg ++ sha256 (capBytes p))

/-- The modulus of a package's device identity key (R362). -/
def deviceModulus (pkg : Nat) : Nat := 2 ^ 3071 + (Config.deviceKey pkg).1.toNat
/-- A package's signature over a message, at the `n`-th such choice (R362). -/
def deviceSign (pkg n : Nat) (message : List Byte) : List Byte :=
  pssSign (deviceModulus pkg) (Config.deviceKey pkg).2.toNat (toOctets 32 (Config.deviceSalt pkg n).toNat) message

/-- ATTESTATION_REQUEST: a nonce of 32 bytes is answered with the log, MREG and a signature. -/
def execAttestationRequest (pkg : Nat) (nonce : List Byte) (s : State) : Res := event (fun s =>
  let p := s.getPkg pkg
  if nonce.length ≠ 32 then s
  else
    let sig := deviceSign pkg s.choice (attestDigest p nonce)
    { reply pkg (logBytes p.mgmt ++ p.mgmt.mreg ++ sig) s with choice := s.choice + 1 }) s

/-- IDENTITY_CERT_REQUEST. -/
def execIdentityCertRequest (pkg : Nat) (s : State) : Res := event (fun s => reply pkg (Config.deviceCert pkg) s) s

/-! Partitions (R325). -/

/-- One to four sets of whole dies that divide the package, each in a span partition of its own
(DEDUCED, notes/assumptions/51.md). -/
def planOk (plan : List (BitVec 4 × Byte)) : Bool :=
  decide (1 ≤ plan.length) && decide (plan.length ≤ 4) && plan.all (fun x => x.1 ≠ 0) &&
  (plan.map (·.2)).eraseDups.length == plan.length &&
  (List.range 4).all fun d => (plan.filter fun x => x.1.getLsbD d).length == 1

/-- A launch of the span partition runs: from its start to its end. -/
def partBusy (s : State) (part : Nat) : Bool :=
  (allLaunches s).any fun l => l.part == part && holds l && l.phase != .reserved
/-- The span partitions that a change of a package's plan affects: those of the old and of the new that do not stand in both
with the same index and dies. -/
def affected (old plan : List (BitVec 4 × Byte)) : List Nat :=
  let xs (l : List (BitVec 4 × Byte)) := (List.range l.length).zip l
  (((xs old).filter fun x => !(xs plan).contains x) ++ (xs plan).filter fun x => !(xs old).contains x).map fun x => x.2.2.toNat

/-- PARTITION_CHANGE: only while no launch runs in any partition that it affects. -/
def partitionChange (pkg : Nat) (plan : List (BitVec 4 × Byte)) (s : State) : State :=
  if !planOk plan ∨ (affected (s.getPkg pkg).plan plan).any (partBusy s) then s
  else modMgmt pkg (extendLog 4 (planBytes plan)) (s.modPkg pkg fun p => { p with plan := plan })
def execPartitionChange (pkg : Nat) (plan : List (BitVec 4 × Byte)) (s : State) : Res := event (partitionChange pkg plan) s

/-- ERRCNT_CLEAR (R365): the host writes 0 to a counter. -/
def execErrcntClear (pkg k : Nat) (s : State) : Res := event (fun s =>
  s.modPkg pkg fun p => { p with errcnt := if h : k < 8 then p.errcnt.set k 0 else p.errcnt }) s

/-! Failures in the field (R369). -/

/-- A launch that held a logical core on a core that has failed ends. -/
def failLaunch (lost : Nat → Bool) (id : Nat) (s : State) : State :=
  let l := launchOf s id
  match (launchLcs s id).find? fun lc => decide (lc.id < l.l) && lost lc.core && !lc.away with
  | none => s
  | some lc =>
    if l.phase ≠ .running then s
    else inLaunch id lc.id (fun s =>
      let s := s.mapAgents fun a => if a.launch = id ∧ lost a.core then { a with failCause := cUncorrectable } else a
      endLaunch { recordOf s (Agent.new 0) 2 cUncorrectable 0 0 .s with lcore := lc.id, core := lc.core } 1 s) s

/-- Nothing that the failed cores had queued goes on. -/
def deadCore (c : Core) : Core := { c with vqueue := [], mx := Matrix.zero }

/-- The unit is disabled: its bit is cleared, GEN advances, and the log tells it. -/
def disable (pkg : Nat) (f : Package → Package) (s : State) : State :=
  logCaps pkg (s.modPkg pkg fun p => { f p with gen := p.gen + 1 })

/-- CLUSTER_FAILURE: a cluster, a stack or a link that is enabled fails (DEDUCED, notes/assumptions/50.md). -/
def clusterFailure (pkg : Nat) (u : FailedUnit) (s : State) : State :=
  let p := s.getPkg pkg
  match u with
  | .cluster n =>
    if !p.cmask.getLsbD n then s
    else
      let lost (core : Nat) : Bool := pkgOf core == pkg && core % 576 / 4 == n
      let s := disable pkg (fun p => { p with
        cmask := p.cmask &&& ~~~(1#144 <<< n), tagLines := p.tagLines - Config.clusterLines }) s
      let s := s.mapCores fun c => if lost c.id then deadCore c else c
      ((allLaunches s).map (·.id)).foldl (fun s l => failLaunch lost l s) s
  | .stack n =>
    if !p.smask.getLsbD n then s
    else disable pkg (fun p => { p with smask := p.smask &&& ~~~(1#8 <<< n) }) s
  | .link n =>
    match (linksOf pkg)[n]? with
    | none => s
    | some l =>
      if !p.lmask.getLsbD n then s
      else
        let off (p : Nat) (s : State) : State :=
          disable p (fun k => { k with lmask := k.lmask &&& ~~~(1#12 <<< linkNumber l p) }) s
        countErr (farEnd l pkg) 4 (countErr pkg 4 (off (farEnd l pkg) (off pkg (closeLink l.id s))))
def execClusterFailure (pkg : Nat) (u : FailedUnit) (s : State) : Res := event (clusterFailure pkg u) s

/-! Checkpoints (R371). -/

/-- Every launch of the partition is held in husks. -/
def allHusked (s : State) (part : Nat) : Bool :=
  (allLaunches s).all fun l => l.part != part || l.phase == .none || l.phase == .ended ||
    (l.phase == .running && (launchLcs s l.id).all (·.away) &&
      s.allAgents.all fun a => a.launch != l.id || a.slot.isNone)

/-- The launches of a partition that have not ended. -/
def partLaunches (s : State) (part : Nat) : List Launch :=
  (allLaunches s).filter fun l => l.part == part && l.phase != .none && l.phase != .ended
/-- The granules of a partition: those of its launches' leases and of their husks. -/
def partGranules (s : State) (part : Nat) : List Nat :=
  let ls := partLaunches s part
  (ls.flatMap fun l => l.leases.flatMap fun e => (List.range e.2.1).map (e.1 + ·)) ++
    (s.husks.filter fun h => ls.any (·.id == h.launch)).flatMap fun h =>
      (List.range 8).map (h.at_.toNat / 65536 + ·)
/-- The frames of the partition's resident pages, granule by granule (DEDUCED, notes/assumptions/51.md). -/
def partFrames (s : State) (part : Nat) : List Nat :=
  (partGranules s part).filterMap fun g => (pageEntry s (s.getCore (procCore s part)) (65536 * g)).map fun n =>
    physOf n (65536 * g) / 65536

/-- CHECKPOINT_STREAM: every resident page of the partition with its full-empty bits and poison marks, and what belongs to the
husks. -/
def checkpointOf (s : State) (part : Nat) : Checkpoint :=
  let fs := partFrames s part
  let mine (k : Nat) : Bool := fs.contains (k / 65536)
  { part := part, frames := fs, cells := s.mem.filter fun c => mine c.1, empty := s.empty.filter mine
    poison := s.poison.filter mine, husks := s.husks.filter fun h => (partLaunches s part).any (·.id == h.launch) }
def execCheckpointStream (part : Nat) (s : State) : Res := event (fun s =>
  if allHusked s part then { s with checkpoint := some (checkpointOf s part) } else s) s

/-- The pages of a checkpoint as it holds them, with the same marks; other pages stay as they are. -/
def restorePages (c : Checkpoint) (s : State) : State :=
  let other (k : Nat) : Bool := !c.frames.contains (k / 65536)
  { s with
    mem := c.cells.foldl (fun m x => writeCell m x.1 x.2) (s.mem.filter fun x => other x.1)
    empty := c.empty.foldl (fun l k => insertNat k l) (s.empty.filter other)
    poison := c.poison.foldl (fun l k => insertNat k l) (s.poison.filter other)
    husks := c.husks ++ s.husks.filter fun h => !c.husks.any (·.at_ == h.at_) }
/-- CHECKPOINT_RESTORE. -/
def execCheckpointRestore (part : Nat) (s : State) : Res := event (fun s =>
  match s.checkpoint with
  | some c => if c.part = part ∧ allHusked s part then restorePages c s else s
  | none => s) s

/-! Heat (R372). -/

/-- THERMAL_THROTTLE: the clock goes down to a lower step of 100 MHz, no lower than 1.2 GHz. -/
def execThermalThrottle (pkg mhz : Nat) (s : State) : Res := event (fun s =>
  modMgmt pkg (fun m => if mhz < m.mhz ∧ mhz % 100 = 0 ∧ 1200 ≤ mhz then { m with mhz := mhz } else m) s) s

/-- THERMAL_HALT: every core of the die halts as HALTG halts it, and the mailbox reports it. -/
def execThermalHalt (die : Nat) (s : State) : Res := event (fun s =>
  let s := (List.range 144).foldl (fun s i => s.modCore (144 * die + i) fun c => { c with halted := true }) s
  raiseVector (die / 4) 5 (raiseVector (die / 4) 4 (modMgmt (die / 4) (fun m => { m with reports := die :: m.reports }) s))) s

/-! The host's window (R370). -/

/-- The domain's rights at an address of the global space; none where no page entry covers it. -/
def windowRights (s : State) (pkg : Nat) (va : Addr) : Option Rights :=
  (pageEntry s (s.getCore (576 * pkg)) va.toNat).map fun n => (plbOf (va.toNat / 65536) (some (Config.hostDomain pkg)) n).rights

/-- What the window makes of each byte of an access: the first that fails decides. -/
inductive Window1 where
  | ok
  | refused
  | absent (va : Addr)
  deriving DecidableEq, Repr

/-- DEDUCED, notes/assumptions/52.md. -/
def windowCheck (s : State) (pkg : Nat) (need : Rights) : Nat → Addr → Window1
  | 0, _ => .ok
  | n + 1, va =>
    if 2 ≤ va.toNat / 2 ^ 78 then .refused
    else match windowRights s pkg va with
      | none => .absent va
      | some r => if r &&& need = need then windowCheck s pkg need n (va + 1) else .refused

/-- HOST_WINDOW_ACCESS through BAR 4: a write of the given bytes, or a read, which the mailbox answers. A page with no entry is
reported, and a refused access has no effect. -/
def hostWindow (pkg : Nat) (va : Addr) (data : Option (List Byte)) (len : Nat) (s : State) : State :=
  let n := match data with
    | some bs => bs.length
    | none => len
  match windowCheck s pkg (if data.isSome then rW else rR) n va with
  | .refused => s
  | .absent a => translationRequest (576 * pkg) a s
  | .ok => match data with
    | some bs =>
      let cells := (List.range bs.length).zip bs |>.filterMap fun ib =>
        (rawKey s (576 * pkg) (va + BitVec.ofNat 80 ib.1)).map fun k => (k, ib.2)
      writeHome s pkg 0 0 cells
    | none => reply pkg (toBytes len ((rawRead s (576 * pkg) va len).getD 0)) s

/-- The capability window, the first 64 KiB of BAR 2: the list, and zeros behind it (R366). -/
def capWindow (p : Package) (off len : Nat) : List Byte :=
  (List.range len).map fun i => if off + i < 65536 then ((capBytes p)[off + i]?).getD 0 else 0

/-- A read of the capability window is answered; a write has no effect there (R366). -/
def capabilityAccess (pkg off : Nat) (data : Option (List Byte)) (len : Nat) (s : State) : State :=
  if data.isSome then s else reply pkg (capWindow (s.getPkg pkg) off len) s
def execHostWindowAccess (pkg : Nat) (place : HostBar) (data : Option (List Byte)) (len : Nat) (s : State) : Res :=
  event (match place with
    | .global va => hostWindow pkg va data len
    | .capability off => capabilityAccess pkg off.toNat data len) s

end Sys2Proof.Machine
end

