-- ==== Sys2Proof/Machine/Dispatch.lean ====
section
/-! DEFINITION. One arm for each constructor of `Instr`: a direct call of its meaning. -/

namespace Sys2Proof.Machine

def exec (i : Instr) (s : State) : Host.Outcome State Fault Refusal :=
  match i with
  | .nop => Sys2Proof.Machine.execNop s
  | .ret => Sys2Proof.Machine.execRet s
  | .yield => Sys2Proof.Machine.execYield s
  | .rtu => Sys2Proof.Machine.execRtu s
  | .follow => Sys2Proof.Machine.execFollow s
  | .trap code => Sys2Proof.Machine.execTrap code s
  | .chunk => Sys2Proof.Machine.execChunk s
  | .b off => Sys2Proof.Machine.execB off s
  | .call off => Sys2Proof.Machine.execCall off s
  | .j p => Sys2Proof.Machine.execJ p s
  | .callP p => Sys2Proof.Machine.execCallP p s
  | .loop g off => Sys2Proof.Machine.execLoop g off s
  | .bc q off => Sys2Proof.Machine.execBc q off s
  | .bcN q off => Sys2Proof.Machine.execBcN q off s
  | .bq off => Sys2Proof.Machine.execBq off s
  | .bqp q => Sys2Proof.Machine.execBqp q s
  | .sleep d => Sys2Proof.Machine.execSleep d s
  | .waitc k g => Sys2Proof.Machine.execWaitc k g s
  | .waitcSub k g => Sys2Proof.Machine.execWaitcSub k g s
  | .fenceAcq => Sys2Proof.Machine.execFenceAcq s
  | .fenceRel => Sys2Proof.Machine.execFenceRel s
  | .fenceFull => Sys2Proof.Machine.execFenceFull s
  | .flush => Sys2Proof.Machine.execFlush s
  | .add r => Sys2Proof.Machine.execAdd r s
  | .sub r => Sys2Proof.Machine.execSub r s
  | .and r => Sys2Proof.Machine.execAnd r s
  | .or r => Sys2Proof.Machine.execOr r s
  | .xor r => Sys2Proof.Machine.execXor r s
  | .andn r => Sys2Proof.Machine.execAndn r s
  | .min r => Sys2Proof.Machine.execMin r s
  | .max r => Sys2Proof.Machine.execMax r s
  | .minu r => Sys2Proof.Machine.execMinu r s
  | .maxu r => Sys2Proof.Machine.execMaxu r s
  | .mul r => Sys2Proof.Machine.execMul r s
  | .mulh r => Sys2Proof.Machine.execMulh r s
  | .mulhu r => Sys2Proof.Machine.execMulhu r s
  | .clmul r => Sys2Proof.Machine.execClmul r s
  | .clmulh r => Sys2Proof.Machine.execClmulh r s
  | .insr a b pos len1 => Sys2Proof.Machine.execInsr a b pos len1 s
  | .div r => Sys2Proof.Machine.execDiv r s
  | .divu r => Sys2Proof.Machine.execDivu r s
  | .rem r => Sys2Proof.Machine.execRem r s
  | .remu r => Sys2Proof.Machine.execRemu r s
  | .shl r => Sys2Proof.Machine.execShl r s
  | .shr r => Sys2Proof.Machine.execShr r s
  | .sar r => Sys2Proof.Machine.execSar r s
  | .rol r => Sys2Proof.Machine.execRol r s
  | .mov r => Sys2Proof.Machine.execMov r s
  | .neg r => Sys2Proof.Machine.execNeg r s
  | .abs r => Sys2Proof.Machine.execAbs r s
  | .popc r => Sys2Proof.Machine.execPopc r s
  | .clz r => Sys2Proof.Machine.execClz r s
  | .ctz r => Sys2Proof.Machine.execCtz r s
  | .bswap r => Sys2Proof.Machine.execBswap r s
  | .extr d b pos len1 => Sys2Proof.Machine.execExtr d b pos len1 s
  | .sel k d b c => Sys2Proof.Machine.execSel k d b c s
  | .addi g imm => Sys2Proof.Machine.execAddi g imm s
  | .ldi g imm => Sys2Proof.Machine.execLdi g imm s
  | .ldih g imm => Sys2Proof.Machine.execLdih g imm s
  | .shlImm g n => Sys2Proof.Machine.execShlImm g n s
  | .shrImm g n => Sys2Proof.Machine.execShrImm g n s
  | .sarImm g n => Sys2Proof.Machine.execSarImm g n s
  | .rolImm g n => Sys2Proof.Machine.execRolImm g n s
  | .paddi p imm => Sys2Proof.Machine.execPaddi p imm s
  | .cmp cc q b c => Sys2Proof.Machine.execCmp cc q b c s
  | .cmpi cc q b imm => Sys2Proof.Machine.execCmpi cc q b imm s
  | .padd r => Sys2Proof.Machine.execPadd r s
  | .pset p g c => Sys2Proof.Machine.execPset p g c s
  | .pget g p => Sys2Proof.Machine.execPget g p s
  | .pgetHi g p => Sys2Proof.Machine.execPgetHi g p s
  | .pmake p g c => Sys2Proof.Machine.execPmake p g c s
  | .qand a b => Sys2Proof.Machine.execQand a b s
  | .qor a b => Sys2Proof.Machine.execQor a b s
  | .qnot a b => Sys2Proof.Machine.execQnot a b s
  | .pcmp cc q b c => Sys2Proof.Machine.execPcmp cc q b c s
  | .qset q v => Sys2Proof.Machine.execQset q v s
  | .faddF64 r => Sys2Proof.Machine.execFaddF64 r s
  | .fsubF64 r => Sys2Proof.Machine.execFsubF64 r s
  | .fmulF64 r => Sys2Proof.Machine.execFmulF64 r s
  | .ffmaF64 a b c => Sys2Proof.Machine.execFfmaF64 a b c s
  | .fdivF64 r => Sys2Proof.Machine.execFdivF64 r s
  | .fsqrtF64 r => Sys2Proof.Machine.execFsqrtF64 r s
  | .fminF64 r => Sys2Proof.Machine.execFminF64 r s
  | .fmaxF64 r => Sys2Proof.Machine.execFmaxF64 r s
  | .faddF32 r => Sys2Proof.Machine.execFaddF32 r s
  | .fsubF32 r => Sys2Proof.Machine.execFsubF32 r s
  | .fmulF32 r => Sys2Proof.Machine.execFmulF32 r s
  | .ffmaF32 a b c => Sys2Proof.Machine.execFfmaF32 a b c s
  | .fdivF32 r => Sys2Proof.Machine.execFdivF32 r s
  | .fsqrtF32 r => Sys2Proof.Machine.execFsqrtF32 r s
  | .fminF32 r => Sys2Proof.Machine.execFminF32 r s
  | .fmaxF32 r => Sys2Proof.Machine.execFmaxF32 r s
  | .faddF16 r => Sys2Proof.Machine.execFaddF16 r s
  | .fsubF16 r => Sys2Proof.Machine.execFsubF16 r s
  | .fmulF16 r => Sys2Proof.Machine.execFmulF16 r s
  | .ffmaF16 a b c => Sys2Proof.Machine.execFfmaF16 a b c s
  | .fdivF16 r => Sys2Proof.Machine.execFdivF16 r s
  | .fsqrtF16 r => Sys2Proof.Machine.execFsqrtF16 r s
  | .fminF16 r => Sys2Proof.Machine.execFminF16 r s
  | .fmaxF16 r => Sys2Proof.Machine.execFmaxF16 r s
  | .faddBf16 r => Sys2Proof.Machine.execFaddBf16 r s
  | .fsubBf16 r => Sys2Proof.Machine.execFsubBf16 r s
  | .fmulBf16 r => Sys2Proof.Machine.execFmulBf16 r s
  | .ffmaBf16 a b c => Sys2Proof.Machine.execFfmaBf16 a b c s
  | .fdivBf16 r => Sys2Proof.Machine.execFdivBf16 r s
  | .fsqrtBf16 r => Sys2Proof.Machine.execFsqrtBf16 r s
  | .fminBf16 r => Sys2Proof.Machine.execFminBf16 r s
  | .fmaxBf16 r => Sys2Proof.Machine.execFmaxBf16 r s
  | .fcmpF64 cc q b c => Sys2Proof.Machine.execFcmpF64 cc q b c s
  | .fcmpF32 cc q b c => Sys2Proof.Machine.execFcmpF32 cc q b c s
  | .fcmpF16 cc q b c => Sys2Proof.Machine.execFcmpF16 cc q b c s
  | .fcmpBf16 cc q b c => Sys2Proof.Machine.execFcmpBf16 cc q b c s
  | .fcvt dst src sat d b => Sys2Proof.Machine.execFcvt dst src sat d b s
  | .fclass f r => Sys2Proof.Machine.execFclass f r s
  | .fmov f r => Sys2Proof.Machine.execFmov f r s
  | .ld sz g base disp => Sys2Proof.Machine.execLd sz g base disp s
  | .ldWr sz g base disp => Sys2Proof.Machine.execLdWr sz g base disp s
  | .lds sz g base disp => Sys2Proof.Machine.execLds sz g base disp s
  | .ldsWr sz g base disp => Sys2Proof.Machine.execLdsWr sz g base disp s
  | .st sz g base disp => Sys2Proof.Machine.execSt sz g base disp s
  | .stRel sz g base disp => Sys2Proof.Machine.execStRel sz g base disp s
  | .ldAcq sz g base disp => Sys2Proof.Machine.execLdAcq sz g base disp s
  | .ldq g base disp => Sys2Proof.Machine.execLdq g base disp s
  | .ldqWr g base disp => Sys2Proof.Machine.execLdqWr g base disp s
  | .ldqAcq g base disp => Sys2Proof.Machine.execLdqAcq g base disp s
  | .ldsync sz g base disp => Sys2Proof.Machine.execLdsync sz g base disp s
  | .clre p g => Sys2Proof.Machine.execClre p g s
  | .pref p disp => Sys2Proof.Machine.execPref p disp s
  | .pin st p len => Sys2Proof.Machine.execPin st p len s
  | .unpin p g => Sys2Proof.Machine.execUnpin p g s
  | .ldp p base disp => Sys2Proof.Machine.execLdp p base disp s
  | .ldpWr p base disp => Sys2Proof.Machine.execLdpWr p base disp s
  | .ldpAcq p base disp => Sys2Proof.Machine.execLdpAcq p base disp s
  | .stp p base disp => Sys2Proof.Machine.execStp p base disp s
  | .stpRel p base disp => Sys2Proof.Machine.execStpRel p base disp s
  | .aAdd a base c => Sys2Proof.Machine.execAAdd a base c s
  | .aAnd a base c => Sys2Proof.Machine.execAAnd a base c s
  | .aOr a base c => Sys2Proof.Machine.execAOr a base c s
  | .aXor a base c => Sys2Proof.Machine.execAXor a base c s
  | .aMin a base c => Sys2Proof.Machine.execAMin a base c s
  | .aMax a base c => Sys2Proof.Machine.execAMax a base c s
  | .aSwap a base c => Sys2Proof.Machine.execASwap a base c s
  | .aCas a base c => Sys2Proof.Machine.execACas a base c s
  | .aAddAcq a base c => Sys2Proof.Machine.execAAddAcq a base c s
  | .aAndAcq a base c => Sys2Proof.Machine.execAAndAcq a base c s
  | .aOrAcq a base c => Sys2Proof.Machine.execAOrAcq a base c s
  | .aXorAcq a base c => Sys2Proof.Machine.execAXorAcq a base c s
  | .aMinAcq a base c => Sys2Proof.Machine.execAMinAcq a base c s
  | .aMaxAcq a base c => Sys2Proof.Machine.execAMaxAcq a base c s
  | .aSwapAcq a base c => Sys2Proof.Machine.execASwapAcq a base c s
  | .aCasAcq a base c => Sys2Proof.Machine.execACasAcq a base c s
  | .aAddRel a base c => Sys2Proof.Machine.execAAddRel a base c s
  | .aAndRel a base c => Sys2Proof.Machine.execAAndRel a base c s
  | .aOrRel a base c => Sys2Proof.Machine.execAOrRel a base c s
  | .aXorRel a base c => Sys2Proof.Machine.execAXorRel a base c s
  | .aMinRel a base c => Sys2Proof.Machine.execAMinRel a base c s
  | .aMaxRel a base c => Sys2Proof.Machine.execAMaxRel a base c s
  | .aSwapRel a base c => Sys2Proof.Machine.execASwapRel a base c s
  | .aCasRel a base c => Sys2Proof.Machine.execACasRel a base c s
  | .rAdd a base disp => Sys2Proof.Machine.execRAdd a base disp s
  | .rMin a base disp => Sys2Proof.Machine.execRMin a base disp s
  | .rMax a base disp => Sys2Proof.Machine.execRMax a base disp s
  | .rAnd a base disp => Sys2Proof.Machine.execRAnd a base disp s
  | .rOr a base disp => Sys2Proof.Machine.execROr a base disp s
  | .rXor a base disp => Sys2Proof.Machine.execRXor a base disp s
  | .rAddF64 a base disp => Sys2Proof.Machine.execRAddF64 a base disp s
  | .rAddF32 a base disp => Sys2Proof.Machine.execRAddF32 a base disp s
  | .vsett g => Sys2Proof.Machine.execVsett g s
  | .mand r => Sys2Proof.Machine.execMand r s
  | .mor r => Sys2Proof.Machine.execMor r s
  | .mnot a b => Sys2Proof.Machine.execMnot a b s
  | .mpop g m => Sys2Proof.Machine.execMpop g m s
  | .compress a b => Sys2Proof.Machine.execCompress a b s
  | .vadd gm r => Sys2Proof.Machine.execVadd gm r s
  | .vsub gm r => Sys2Proof.Machine.execVsub gm r s
  | .vmul gm r => Sys2Proof.Machine.execVmul gm r s
  | .vfma gm a b c => Sys2Proof.Machine.execVfma gm a b c s
  | .vdiv gm r => Sys2Proof.Machine.execVdiv gm r s
  | .vsqrt gm a b => Sys2Proof.Machine.execVsqrt gm a b s
  | .vmin gm r => Sys2Proof.Machine.execVmin gm r s
  | .vmax gm r => Sys2Proof.Machine.execVmax gm r s
  | .vand gm r => Sys2Proof.Machine.execVand gm r s
  | .vor gm r => Sys2Proof.Machine.execVor gm r s
  | .vxor gm r => Sys2Proof.Machine.execVxor gm r s
  | .vshl gm r => Sys2Proof.Machine.execVshl gm r s
  | .vshr gm r => Sys2Proof.Machine.execVshr gm r s
  | .vsar gm r => Sys2Proof.Machine.execVsar gm r s
  | .vcmp gm cc md b c => Sys2Proof.Machine.execVcmp gm cc md b c s
  | .vsel gm a b c => Sys2Proof.Machine.execVsel gm a b c s
  | .vmov gm a b => Sys2Proof.Machine.execVmov gm a b s
  | .vbcast gm a g => Sys2Proof.Machine.execVbcast gm a g s
  | .vld gm a base disp => Sys2Proof.Machine.execVld gm a base disp s
  | .vst gm a base disp => Sys2Proof.Machine.execVst gm a base disp s
  | .vlds gm a base c => Sys2Proof.Machine.execVlds gm a base c s
  | .vsts gm a base c => Sys2Proof.Machine.execVsts gm a base c s
  | .vgather gm a base c => Sys2Proof.Machine.execVgather gm a base c s
  | .vscatter gm a base c => Sys2Proof.Machine.execVscatter gm a base c s
  | .vred gm op g b => Sys2Proof.Machine.execVred gm op g b s
  | .vscan gm op a b => Sys2Proof.Machine.execVscan gm op a b s
  | .vperm gm a b c => Sys2Proof.Machine.execVperm gm a b c s
  | .vshuf gm a b c => Sys2Proof.Machine.execVshuf gm a b c s
  | .vcvt gm f sat a b => Sys2Proof.Machine.execVcvt gm f sat a b s
  | .vqnt gm f sat a b => Sys2Proof.Machine.execVqnt gm f sat a b s
  | .mma t p c => Sys2Proof.Machine.execMma t p c s
  | .mmas t p c => Sys2Proof.Machine.execMmas t p c s
  | .mzero t => Sys2Proof.Machine.execMzero t s
  | .mcommit => Sys2Proof.Machine.execMcommit s
  | .mwaitb n => Sys2Proof.Machine.execMwaitb n s
  | .mtrn t u => Sys2Proof.Machine.execMtrn t u s
  | .accrd t p c => Sys2Proof.Machine.execAccrd t p c s
  | .accwr t p c => Sys2Proof.Machine.execAccwr t p c s
  | .wload p g => Sys2Proof.Machine.execWload p g s
  | .dict p => Sys2Proof.Machine.execDict p s
  | .copy d cnt dst src g => Sys2Proof.Machine.execCopy d cnt dst src g s
  | .copym d cnt dst src desc => Sys2Proof.Machine.execCopym d cnt dst src desc s
  | .tile d cnt dst src desc => Sys2Proof.Machine.execTile d cnt dst src desc s
  | .gather d cnt dst src desc => Sys2Proof.Machine.execGather d cnt dst src desc s
  | .mcast d cnt dst src desc => Sys2Proof.Machine.execMcast d cnt dst src desc s
  | .hitch aoff moff mask => Sys2Proof.Machine.execHitch aoff moff mask s
  | .hitchP pa pm mask => Sys2Proof.Machine.execHitchP pa pm mask s
  | .unhitch => Sys2Proof.Machine.execUnhitch s
  | .rest => Sys2Proof.Machine.execRest s
  | .hcfg h g => Sys2Proof.Machine.execHcfg h g s
  | .advpG h g => Sys2Proof.Machine.execAdvpG h g s
  | .advpN h n => Sys2Proof.Machine.execAdvpN h n s
  | .advcG h g => Sys2Proof.Machine.execAdvcG h g s
  | .advcN h n => Sys2Proof.Machine.execAdvcN h n s
  | .tkt g h c => Sys2Proof.Machine.execTkt g h c s
  | .rfill g h c => Sys2Proof.Machine.execRfill g h c s
  | .rtake g h => Sys2Proof.Machine.execRtake g h s
  | .pause => Sys2Proof.Machine.execPause s
  | .pauseUp => Sys2Proof.Machine.execPauseUp s
  | .emit x0 => Sys2Proof.Machine.execEmit x0 s
  | .emitv x0 x1 => Sys2Proof.Machine.execEmitv x0 x1 s
  | .test x0 x1 => Sys2Proof.Machine.execTest x0 x1 s
  | .testv x0 x1 x2 => Sys2Proof.Machine.execTestv x0 x1 x2 s
  | .renounce k g => Sys2Proof.Machine.execRenounce k g s
  | .resolve x0 x1 => Sys2Proof.Machine.execResolve x0 x1 s
  | .abortw x0 x1 => Sys2Proof.Machine.execAbortw x0 x1 s
  | .suspw x0 => Sys2Proof.Machine.execSuspw x0 s
  | .endw => Sys2Proof.Machine.execEndw s
  | .instn g l => Sys2Proof.Machine.execInstn g l s
  | .teamj g => Sys2Proof.Machine.execTeamj g s
  | .teaml => Sys2Proof.Machine.execTeaml s
  | .teamh p l => Sys2Proof.Machine.execTeamh p l s
  | .cause g => Sys2Proof.Machine.execCause g s
  | .forkw g n1 => Sys2Proof.Machine.execForkw g n1 s
  | .widx g => Sys2Proof.Machine.execWidx g s
  | .claimw => Sys2Proof.Machine.execClaimw s
  | .joinw g => Sys2Proof.Machine.execJoinw g s
  | .choosew q g => Sys2Proof.Machine.execChoosew q g s
  | .abandw => Sys2Proof.Machine.execAbandw s
  | .wstat g h => Sys2Proof.Machine.execWstat g h s
  | .demand p h l => Sys2Proof.Machine.execDemand p h l s
  | .xgo p => Sys2Proof.Machine.execXgo p s
  | .xwait => Sys2Proof.Machine.execXwait s
  | .xstat g h => Sys2Proof.Machine.execXstat g h s
  | .profq g => Sys2Proof.Machine.execProfq g s
  | .predw g => Sys2Proof.Machine.execPredw g s
  | .hints => Sys2Proof.Machine.execHints s
  | .spawn gd gk p => Sys2Proof.Machine.execSpawn gd gk p s
  | .spawnb gd gk p => Sys2Proof.Machine.execSpawnb gd gk p s
  | .take gd p => Sys2Proof.Machine.execTake gd p s
  | .deal gd p => Sys2Proof.Machine.execDeal gd p s
  | .done => Sys2Proof.Machine.execDone s
  | .svc n => Sys2Proof.Machine.execSvc n s
  | .crrd r cr => Sys2Proof.Machine.execCrrd r cr s
  | .crwr r cr => Sys2Proof.Machine.execCrwr r cr s
  | .plbinv p g => Sys2Proof.Machine.execPlbinv p g s
  | .husk g p => Sys2Proof.Machine.execHusk g p s
  | .unhusk g p => Sys2Proof.Machine.execUnhusk g p s
  | .tret => Sys2Proof.Machine.execTret s
  | .haltg g => Sys2Proof.Machine.execHaltg g s
  | .idle => Sys2Proof.Machine.execIdle s
  | .takeSeed core slot => Sys2Proof.Machine.execTakeSeed core slot s
  | .followAttach tid => Sys2Proof.Machine.execFollowAttach tid s
  | .chunkLimit => Sys2Proof.Machine.execChunkLimit s
  | .userTrapEntry tid => Sys2Proof.Machine.execUserTrapEntry tid s
  | .vectorQueueExecute core => Sys2Proof.Machine.execVectorQueueExecute core s
  | .laneGroupGrant cluster => Sys2Proof.Machine.execLaneGroupGrant cluster s
  | .tileOperationStart core => Sys2Proof.Machine.execTileOperationStart core s
  | .tileOperationFinish core => Sys2Proof.Machine.execTileOperationFinish core s
  | .engineLineLanding core k => Sys2Proof.Machine.execEngineLineLanding core k s
  | .walkerCommandComplete core cmd => Sys2Proof.Machine.execWalkerCommandComplete core cmd s
  | .promiseDue tid d => Sys2Proof.Machine.execPromiseDue tid d s
  | .neighbourPortDelivery k => Sys2Proof.Machine.execNeighbourPortDelivery k s
  | .postedRequestArrival k => Sys2Proof.Machine.execPostedRequestArrival k s
  | .postedAckArrival k => Sys2Proof.Machine.execPostedAckArrival k s
  | .postedResendTimeout core place entry => Sys2Proof.Machine.execPostedResendTimeout core place entry s
  | .flushMarkerArrival k => Sys2Proof.Machine.execFlushMarkerArrival k s
  | .flushMarkerAnswer k => Sys2Proof.Machine.execFlushMarkerAnswer k s
  | .remoteAccessArrival tid id => Sys2Proof.Machine.execRemoteAccessArrival tid id s
  | .remoteLoadReturn tid id => Sys2Proof.Machine.execRemoteLoadReturn tid id s
  | .remoteRefused k => Sys2Proof.Machine.execRemoteRefused k s
  | .flitHop pkg node => Sys2Proof.Machine.execFlitHop pkg node s
  | .spanLinkFlitReceive link good => Sys2Proof.Machine.execSpanLinkFlitReceive link good s
  | .spanLinkRetrain link ok => Sys2Proof.Machine.execSpanLinkRetrain link ok s
  | .bulkPacketArrival k room => Sys2Proof.Machine.execBulkPacketArrival k room s
  | .dropNoticeArrival k => Sys2Proof.Machine.execDropNoticeArrival k s
  | .reservationRequestArrival k => Sys2Proof.Machine.execReservationRequestArrival k s
  | .grantArrival k => Sys2Proof.Machine.execGrantArrival k s
  | .grantExpiry k => Sys2Proof.Machine.execGrantExpiry k s
  | .incarnationChange pkg => Sys2Proof.Machine.execIncarnationChange pkg s
  | .signalEmitArrival => Sys2Proof.Machine.execSignalEmitArrival s
  | .maskClearArrival => Sys2Proof.Machine.execMaskClearArrival s
  | .resolveArrival => Sys2Proof.Machine.execResolveArrival s
  | .handlerRegistrationArrival => Sys2Proof.Machine.execHandlerRegistrationArrival s
  | .causalityTrap team => Sys2Proof.Machine.execCausalityTrap team s
  | .computePhaseEnd team => Sys2Proof.Machine.execComputePhaseEnd team s
  | .instantStart team => Sys2Proof.Machine.execInstantStart team s
  | .claimArrival k => Sys2Proof.Machine.execClaimArrival k s
  | .rivalKill tid => Sys2Proof.Machine.execRivalKill tid s
  | .viewCommitComplete wid idx => Sys2Proof.Machine.execViewCommitComplete wid idx s
  | .viewTagFree pkg tag => Sys2Proof.Machine.execViewTagFree pkg tag s
  | .calendarCompute team => Sys2Proof.Machine.execCalendarCompute team s
  | .calendarArrival team rank => Sys2Proof.Machine.execCalendarArrival team rank s
  | .exchangePhaseStart team rank => Sys2Proof.Machine.execExchangePhaseStart team rank s
  | .exchangeUnitLanding team k => Sys2Proof.Machine.execExchangeUnitLanding team k s
  | .exchangeSegmentEnd team rank => Sys2Proof.Machine.execExchangeSegmentEnd team rank s
  | .residualPhaseStart team => Sys2Proof.Machine.execResidualPhaseStart team s
  | .arbiterHeartbeat beat => Sys2Proof.Machine.execArbiterHeartbeat beat s
  | .arbiterFailover => Sys2Proof.Machine.execArbiterFailover s
  | .spillRefill die => Sys2Proof.Machine.execSpillRefill die s
  | .spillResume die => Sys2Proof.Machine.execSpillResume die s
  | .queueBalance a b => Sys2Proof.Machine.execQueueBalance a b s
  | .handlerSeedSteal core slot => Sys2Proof.Machine.execHandlerSeedSteal core slot s
  | .replayDiverged => Sys2Proof.Machine.execReplayDiverged s
  | .quantumEnd => Sys2Proof.Machine.execQuantumEnd s
  | .queueNotify pkg off => Sys2Proof.Machine.execQueueNotify pkg off s
  | .packetDispatch => Sys2Proof.Machine.execPacketDispatch s
  | .launchAdmit => Sys2Proof.Machine.execLaunchAdmit s
  | .launchCapacityReserve => Sys2Proof.Machine.execLaunchCapacityReserve s
  | .launchStart => Sys2Proof.Machine.execLaunchStart s
  | .launchFaultStop => Sys2Proof.Machine.execLaunchFaultStop s
  | .launchItemAccounting => Sys2Proof.Machine.execLaunchItemAccounting s
  | .crecFinalWrite => Sys2Proof.Machine.execCrecFinalWrite s
  | .translationRequest core va => Sys2Proof.Machine.execTranslationRequest core va s
  | .translationReply core => Sys2Proof.Machine.execTranslationReply core s
  | .paddockApply page => Sys2Proof.Machine.execPaddockApply page s
  | .trapRecordRetry => Sys2Proof.Machine.execTrapRecordRetry s
  | .supervisorEntry core => Sys2Proof.Machine.execSupervisorEntry core s
  | .huskStreamComplete core => Sys2Proof.Machine.execHuskStreamComplete core s
  | .haltGroupMemberHalt core => Sys2Proof.Machine.execHaltGroupMemberHalt core s
  | .hostDebugHalt core => Sys2Proof.Machine.execHostDebugHalt core s
  | .coreResume core => Sys2Proof.Machine.execCoreResume core s
  | .packageReset pkg => Sys2Proof.Machine.execPackageReset pkg s
  | .firmwareVerify pkg image => Sys2Proof.Machine.execFirmwareVerify pkg image s
  | .firmwareRetry pkg => Sys2Proof.Machine.execFirmwareRetry pkg s
  | .attestationRequest pkg nonce => Sys2Proof.Machine.execAttestationRequest pkg nonce s
  | .identityCertRequest pkg => Sys2Proof.Machine.execIdentityCertRequest pkg s
  | .partitionChange pkg plan => Sys2Proof.Machine.execPartitionChange pkg plan s
  | .errcntClear pkg k => Sys2Proof.Machine.execErrcntClear pkg k s
  | .clusterFailure pkg u => Sys2Proof.Machine.execClusterFailure pkg u s
  | .checkpointStream part => Sys2Proof.Machine.execCheckpointStream part s
  | .checkpointRestore part => Sys2Proof.Machine.execCheckpointRestore part s
  | .thermalThrottle pkg mhz => Sys2Proof.Machine.execThermalThrottle pkg mhz s
  | .thermalHalt die => Sys2Proof.Machine.execThermalHalt die s
  | .illegalInsn cause addr => Sys2Proof.Machine.execIllegalInsn cause addr s
  | .postedStoreSend core place entry => Sys2Proof.Machine.execPostedStoreSend core place entry s
  | .walkerCommandStart core => Sys2Proof.Machine.execWalkerCommandStart core s
  | .hostWindowAccess pkg place data len => Sys2Proof.Machine.execHostWindowAccess pkg place data len s

end Sys2Proof.Machine
end

