-- ==== Sys2Proof/WellFormed.lean ====
section
/-! DEFINITION. Which terms of `Instr` are instructions that some chain of words encodes (spec/10 R174 to R188).
Events have no words, and are not well-formed. -/

namespace Sys2Proof

open Machine

/-- The high two bits of a g register number: BANK (R175). -/
def bankOf (g : GReg) : BitVec 2 := (g >>> 4).truncate 2

/-- BANK of a g operand; a port leaves it open. -/
def bankG : GOp → Option (BitVec 2)
  | .reg n => some (bankOf n)
  | .port _ => none

/-- Two g operands that one BANK can name. -/
def sameBank (a b : GOp) : Bool :=
  match bankG a, bankG b with
  | some x, some y => decide (x = y)
  | _, _ => true

/-- A g operand of a form without the register extension. -/
def lowG (g : GOp) : Bool :=
  match bankG g with
  | some x => decide (x = 0#2)
  | none => true

/-- A g operand in B beside an optional c. -/
def bankC (b : GOp) (c : Option GReg) : Bool := c.isSome || lowG b

def sameV (a b : BitVec 5) : Bool := decide (a.getLsbD 4 = b.getLsbD 4)

/-- A v and a g operand that share one BANK (R234). -/
def vgOk (v : BitVec 5) (g : GOp) : Bool :=
  match bankG g with
  | some x => decide (x = if v.getLsbD 4 then 1#2 else 0#2)
  | none => true

/-- Extension words a g operand, a v register, a predicate destination, a base need. -/
def nG (g : GOp) : Nat :=
  match g with
  | .reg n => if bankOf n = 0#2 then 0 else 1
  | .port _ => 1
def nV (v : BitVec 5) : Nat := if v.getLsbD 4 then 1 else 0
def nQ : QDst → Nat
  | .q _ => 0
  | .bq _ => 1
def nP : PBase → Nat
  | .ptr _ => 0
  | .handle _ _ => 1

/-- Whether a signed immediate fits `n` extensions over `w` base bits (R174). -/
def fitsIn (w n : Nat) (imm : Word) : Bool :=
  let k := 9 * n + w
  if k = 0 then decide (imm = 0) else decide (-(2 ^ (k - 1) : Nat) ≤ imm.toInt) && decide (imm.toInt < (2 ^ (k - 1) : Nat))

/-- The fewest extensions, up to 4, that hold a signed immediate; 5 when none does. -/
def immCount (w : Nat) (imm : Word) : Nat :=
  if fitsIn w 0 imm then 0 else if fitsIn w 1 imm then 1 else if fitsIn w 2 imm then 2
  else if fitsIn w 3 imm then 3 else if fitsIn w 4 imm then 4 else 5

def fits (w max : Nat) (imm : Word) : Bool := decide (immCount w imm ≤ max)

/-- The same for an unsigned immediate. -/
def immCountU (w n : Nat) : Nat :=
  if n < 2 ^ w then 0 else if n < 2 ^ (w + 9) then 1 else if n < 2 ^ (w + 18) then 2
  else if n < 2 ^ (w + 27) then 3 else if n < 2 ^ (w + 36) then 4 else 5

def fitsU (w max n : Nat) : Bool := decide (immCountU w n ≤ max)

/-- The branch-outcome queue of X, A or M (R177). -/
def qdstOk : QDst → Bool
  | .q _ => true
  | .bq .s => false
  | .bq _ => true

/-- A handle waits for 1 to 255 slots (R177). -/
def pbaseOk : PBase → Bool
  | .ptr _ => true
  | .handle _ arg => decide (arg ≠ 255#8)

def rrOk (imm : Bool) : RR → Bool
  | .two _ b => lowG b
  | .three d x _ => sameBank d x
  | .imm d x _ => imm && sameBank d x

def ruOk : RU → Bool
  | .two d s => lowG d && lowG s
  | .ext _ _ => true

def paddOk : PaddArgs → Bool
  | .two _ g => lowG g
  | .three _ _ _ => true

def vvOk (imm : Bool) : VV → Bool
  | .two _ _ => true
  | .three a b _ => sameV a b
  | .imm a b _ => imm && sameV a b

/-- pos + len at most 64 (R209). -/
def xiOk (pos len1 : BitVec 6) : Bool := decide (pos.toNat + len1.toNat + 1 ≤ 64)

/-- A level code names levels 0 to 4 (R180). -/
def lvlOk : Lvl → Bool
  | .l k => decide (k.toNat ≤ 4)
  | .inner => true

def lvlOptOk : Option Lvl → Bool
  | some l => lvlOk l
  | none => true

def sigOk (s : SigOp) : Bool := lvlOk s.lvl

/-- Well-formedness, one arm a constructor (DEDUCED, notes/assumptions/11.md). -/
def wellFormed (i : Instr) : Bool :=
  match i with
  | .nop => true
  | .ret => true
  | .yield => true
  | .rtu => true
  | .follow => true
  | .chunk => true
  | .trap _ => true
  | .b o => fits 8 4 o
  | .call o => fits 8 4 o
  | .j _ => true
  | .callP _ => true
  | .loop g o => fits 4 (4 - nG (.reg g)) o
  | .bc _ o => fits 4 4 o
  | .bcN _ o => fits 4 4 o
  | .bq o => fits 8 4 o
  | .bqp q => qdstOk q
  | .sleep _ => true
  | .waitc _ _ => true
  | .waitcSub _ _ => true
  | .fenceAcq => true
  | .fenceRel => true
  | .fenceFull => true
  | .flush => true
  | .add r => rrOk false r
  | .sub r => rrOk false r
  | .and r => rrOk false r
  | .or r => rrOk false r
  | .xor r => rrOk false r
  | .andn r => rrOk false r
  | .min r => rrOk false r
  | .max r => rrOk false r
  | .minu r => rrOk false r
  | .maxu r => rrOk false r
  | .mul r => rrOk false r
  | .mulh r => rrOk false r
  | .mulhu r => rrOk false r
  | .clmul r => rrOk false r
  | .clmulh r => rrOk false r
  | .insr a b p l => sameBank (.reg a) b && xiOk p l
  | .div r => rrOk false r
  | .divu r => rrOk false r
  | .rem r => rrOk false r
  | .remu r => rrOk false r
  | .shl r => rrOk true r
  | .shr r => rrOk true r
  | .sar r => rrOk true r
  | .rol r => rrOk true r
  | .mov r => ruOk r
  | .neg r => ruOk r
  | .abs r => ruOk r
  | .popc r => ruOk r
  | .clz r => ruOk r
  | .ctz r => ruOk r
  | .bswap r => ruOk r
  | .extr a b p l => sameBank a b && xiOk p l
  | .sel _ d b _ => sameBank d b
  | .addi g i => fits 4 (4 - nG (.reg g)) i
  | .ldi g i => fits 4 (4 - nG g) i
  | .ldih g i => fitsU 4 (4 - nG (.reg g)) i.toNat
  | .shlImm _ _ => true
  | .shrImm _ _ => true
  | .sarImm _ _ => true
  | .rolImm _ _ => true
  | .paddi _ i => fits 4 4 i
  | .cmp _ q b c => qdstOk q && bankC b c
  | .cmpi _ q b i => qdstOk q && fits 0 (4 - nQ q - nG b) i
  | .padd r => paddOk r
  | .pset _ g c => bankC g c
  | .pget g _ => lowG g
  | .pgetHi g _ => lowG g
  | .pmake _ g c => bankC g c
  | .qand _ _ => true
  | .qor _ _ => true
  | .qnot a _ => qdstOk a
  | .pcmp _ q _ _ => qdstOk q
  | .qset q _ => qdstOk q
  | .faddF64 r => rrOk false r
  | .fsubF64 r => rrOk false r
  | .fmulF64 r => rrOk false r
  | .ffmaF64 a b _ => sameBank (.reg a) b
  | .fdivF64 r => rrOk false r
  | .fsqrtF64 r => ruOk r
  | .fminF64 r => rrOk false r
  | .fmaxF64 r => rrOk false r
  | .faddF32 r => rrOk false r
  | .fsubF32 r => rrOk false r
  | .fmulF32 r => rrOk false r
  | .ffmaF32 a b _ => sameBank (.reg a) b
  | .fdivF32 r => rrOk false r
  | .fsqrtF32 r => ruOk r
  | .fminF32 r => rrOk false r
  | .fmaxF32 r => rrOk false r
  | .faddF16 r => rrOk false r
  | .fsubF16 r => rrOk false r
  | .fmulF16 r => rrOk false r
  | .ffmaF16 a b _ => sameBank (.reg a) b
  | .fdivF16 r => rrOk false r
  | .fsqrtF16 r => ruOk r
  | .fminF16 r => rrOk false r
  | .fmaxF16 r => rrOk false r
  | .faddBf16 r => rrOk false r
  | .fsubBf16 r => rrOk false r
  | .fmulBf16 r => rrOk false r
  | .ffmaBf16 a b _ => sameBank (.reg a) b
  | .fdivBf16 r => rrOk false r
  | .fsqrtBf16 r => ruOk r
  | .fminBf16 r => rrOk false r
  | .fmaxBf16 r => rrOk false r
  | .fcmpF64 _ q b c => qdstOk q && bankC b c
  | .fcmpF32 _ q b c => qdstOk q && bankC b c
  | .fcmpF16 _ q b c => qdstOk q && bankC b c
  | .fcmpBf16 _ q b c => qdstOk q && bankC b c
  | .fcvt d s _ a b => sameBank a b && decide (d.toNat ≤ 5) && decide (s.toNat ≤ 5)
  | .fclass _ r => ruOk r
  | .fmov _ r => ruOk r
  | .ld _ g b o => pbaseOk b && fits 0 (4 - nG g - nP b) o
  | .ldWr _ g b o => pbaseOk b && fits 0 (4 - nG g - nP b) o
  | .lds s g b o => pbaseOk b && fits 0 (4 - nG g - nP b) o && decide (s ≠ 3#2)
  | .ldsWr s g b o => pbaseOk b && fits 0 (4 - nG g - nP b) o && decide (s ≠ 3#2)
  | .st _ g b o => pbaseOk b && fits 0 (4 - nG g - nP b) o
  | .stRel _ g b o => pbaseOk b && fits 0 (4 - nG g - nP b) o
  | .ldAcq _ g b o => pbaseOk b && fits 0 (4 - nG g - nP b) o
  | .ldq g b o => pbaseOk b && fits 0 (4 - nG (.reg g) - nP b) o && !g.getLsbD 0
  | .ldqWr g b o => pbaseOk b && fits 0 (4 - nG (.reg g) - nP b) o && !g.getLsbD 0
  | .ldqAcq g b o => pbaseOk b && fits 0 (4 - nG (.reg g) - nP b) o && !g.getLsbD 0
  | .ldsync _ g b o => pbaseOk b && fits 0 (4 - nG g - nP b) o
  | .clre _ _ => true
  | .pref _ o => fits 0 4 o
  | .pin _ _ _ => true
  | .unpin _ _ => true
  | .ldp _ b o => pbaseOk b && fits 0 (4 - nP b) o
  | .ldpWr _ b o => pbaseOk b && fits 0 (4 - nP b) o
  | .ldpAcq _ b o => pbaseOk b && fits 0 (4 - nP b) o
  | .stp _ b o => pbaseOk b && fits 0 (4 - nP b) o
  | .stpRel _ b o => pbaseOk b && fits 0 (4 - nP b) o
  | .aAdd _ b _ => pbaseOk b
  | .aAnd _ b _ => pbaseOk b
  | .aOr _ b _ => pbaseOk b
  | .aXor _ b _ => pbaseOk b
  | .aMin _ b _ => pbaseOk b
  | .aMax _ b _ => pbaseOk b
  | .aSwap _ b _ => pbaseOk b
  | .aCas _ b _ => pbaseOk b
  | .aAddAcq _ b _ => pbaseOk b
  | .aAndAcq _ b _ => pbaseOk b
  | .aOrAcq _ b _ => pbaseOk b
  | .aXorAcq _ b _ => pbaseOk b
  | .aMinAcq _ b _ => pbaseOk b
  | .aMaxAcq _ b _ => pbaseOk b
  | .aSwapAcq _ b _ => pbaseOk b
  | .aCasAcq _ b _ => pbaseOk b
  | .aAddRel _ b _ => pbaseOk b
  | .aAndRel _ b _ => pbaseOk b
  | .aOrRel _ b _ => pbaseOk b
  | .aXorRel _ b _ => pbaseOk b
  | .aMinRel _ b _ => pbaseOk b
  | .aMaxRel _ b _ => pbaseOk b
  | .aSwapRel _ b _ => pbaseOk b
  | .aCasRel _ b _ => pbaseOk b
  | .rAdd a b o => pbaseOk b && fits 0 (4 - nG a - nP b) o
  | .rMin a b o => pbaseOk b && fits 0 (4 - nG a - nP b) o
  | .rMax a b o => pbaseOk b && fits 0 (4 - nG a - nP b) o
  | .rAnd a b o => pbaseOk b && fits 0 (4 - nG a - nP b) o
  | .rOr a b o => pbaseOk b && fits 0 (4 - nG a - nP b) o
  | .rXor a b o => pbaseOk b && fits 0 (4 - nG a - nP b) o
  | .rAddF64 a b o => pbaseOk b && fits 0 (4 - nG a - nP b) o
  | .rAddF32 a b o => pbaseOk b && fits 0 (4 - nG a - nP b) o
  | .vsett _ => true
  | .mand _ => true
  | .mor _ => true
  | .mnot _ _ => true
  | .mpop g _ => match bankG g with
    | some b => !b.getLsbD 1
    | none => true
  | .compress a b => sameV a b
  | .vadd _ r => vvOk false r
  | .vsub _ r => vvOk false r
  | .vmul _ r => vvOk false r
  | .vfma _ a b _ => sameV a b
  | .vdiv _ r => vvOk false r
  | .vsqrt _ a b => sameV a b
  | .vmin _ r => vvOk false r
  | .vmax _ r => vvOk false r
  | .vand _ r => vvOk false r
  | .vor _ r => vvOk false r
  | .vxor _ r => vvOk false r
  | .vshl _ r => vvOk true r
  | .vshr _ r => vvOk true r
  | .vsar _ r => vvOk true r
  | .vcmp _ _ _ _ _ => true
  | .vsel _ a b _ => sameV a b
  | .vmov _ a b => sameV a b
  | .vbcast _ a g => vgOk a g
  | .vld _ a b o => pbaseOk b && fits 0 (3 - nV a - nP b) o
  | .vst _ a b o => pbaseOk b && fits 0 (3 - nV a - nP b) o
  | .vlds _ _ b _ => pbaseOk b
  | .vsts _ _ b _ => pbaseOk b
  | .vgather _ _ b _ => pbaseOk b
  | .vscatter _ _ b _ => pbaseOk b
  | .vred _ o g b => vgOk b g && decide (o ≠ 7#3)
  | .vscan _ o a b => sameV a b && decide (o ≠ 7#3)
  | .vperm _ a b _ => sameV a b
  | .vshuf _ a b _ => sameV a b
  | .vcvt _ _ _ a b => sameV a b
  | .vqnt _ _ _ a b => sameV a b
  | .mma _ _ _ => true
  | .mmas _ _ _ => true
  | .mzero _ => true
  | .mcommit => true
  | .mwaitb _ => true
  | .mtrn _ _ => true
  | .accrd _ _ _ => true
  | .accwr _ _ _ => true
  | .wload _ _ => true
  | .dict _ => true
  | .copy _ _ _ _ _ => true
  | .copym _ _ _ _ _ => true
  | .tile _ _ _ _ _ => true
  | .gather _ _ _ _ _ => true
  | .mcast _ _ _ _ _ => true
  | .hitch _ _ _ => true
  | .hitchP _ _ _ => true
  | .unhitch => true
  | .rest => true
  | .hcfg _ _ => true
  | .advpG _ _ => true
  | .advpN _ _ => true
  | .advcG _ _ => true
  | .advcN _ _ => true
  | .tkt g _ c => bankC g c
  | .rfill g _ c => bankC g c
  | .rtake g _ => lowG g
  | .pause => true
  | .pauseUp => true
  | .emit s => sigOk s
  | .emitv s _ => sigOk s
  | .test q s => qdstOk q && sigOk s
  | .testv q _ s => qdstOk q && sigOk s
  | .renounce k _ => decide (k.toNat ≤ 4)
  | .resolve q s => qdstOk q && sigOk s
  | .abortw s o => sigOk s && fits 8 2 o
  | .suspw s => sigOk s
  | .endw => true
  | .instn g l => lowG g && lvlOk l
  | .teamj _ => true
  | .teaml => true
  | .teamh _ l => lvlOk l
  | .cause g => lowG g
  | .forkw g k => decide (g ≠ 0#2) && decide (k ≠ 0#4)
  | .widx _ => true
  | .claimw => true
  | .joinw _ => true
  | .choosew q _ => qdstOk q
  | .abandw => true
  | .wstat g h => sameBank g h
  | .demand _ _ l => lvlOptOk l
  | .xgo _ => true
  | .xwait => true
  | .xstat g h => sameBank g h
  | .profq _ => true
  | .predw _ => true
  | .hints => true
  | .spawn _ _ _ => true
  | .spawnb _ _ _ => true
  | .take _ _ => true
  | .deal _ _ => true
  | .done => true
  | .svc _ => true
  | .crrd _ _ => true
  | .crwr _ _ => true
  | .plbinv _ _ => true
  | .husk _ _ => true
  | .unhusk _ _ => true
  | .tret => true
  | .haltg _ => true
  | .idle => true
  | .takeSeed _ _ => false
  | .followAttach _ => false
  | .chunkLimit => false
  | .userTrapEntry _ => false
  | .vectorQueueExecute _ => false
  | .laneGroupGrant _ => false
  | .tileOperationStart _ => false
  | .tileOperationFinish _ => false
  | .engineLineLanding _ _ => false
  | .walkerCommandComplete _ _ => false
  | .promiseDue _ _ => false
  | .neighbourPortDelivery _ => false
  | .postedRequestArrival _ => false
  | .postedAckArrival _ => false
  | .postedResendTimeout _ _ _ => false
  | .flushMarkerArrival _ => false
  | .flushMarkerAnswer _ => false
  | .remoteAccessArrival _ _ => false
  | .remoteLoadReturn _ _ => false
  | .remoteRefused _ => false
  | .flitHop _ _ => false
  | .spanLinkFlitReceive _ _ => false
  | .spanLinkRetrain _ _ => false
  | .bulkPacketArrival _ _ => false
  | .dropNoticeArrival _ => false
  | .reservationRequestArrival _ => false
  | .grantArrival _ => false
  | .grantExpiry _ => false
  | .incarnationChange _ => false
  | .signalEmitArrival => false
  | .maskClearArrival => false
  | .resolveArrival => false
  | .handlerRegistrationArrival => false
  | .causalityTrap _ => false
  | .computePhaseEnd _ => false
  | .instantStart _ => false
  | .claimArrival _ => false
  | .rivalKill _ => false
  | .viewCommitComplete _ _ => false
  | .viewTagFree _ _ => false
  | .calendarCompute _ => false
  | .calendarArrival _ _ => false
  | .exchangePhaseStart _ _ => false
  | .exchangeUnitLanding _ _ => false
  | .exchangeSegmentEnd _ _ => false
  | .residualPhaseStart _ => false
  | .arbiterHeartbeat _ => false
  | .arbiterFailover => false
  | .spillRefill _ => false
  | .spillResume _ => false
  | .queueBalance _ _ => false
  | .handlerSeedSteal _ _ => false
  | .replayDiverged => false
  | .quantumEnd => false
  | .queueNotify _ _ => false
  | .packetDispatch => false
  | .launchAdmit => false
  | .launchCapacityReserve => false
  | .launchStart => false
  | .launchFaultStop => false
  | .launchItemAccounting => false
  | .crecFinalWrite => false
  | .translationRequest _ _ => false
  | .translationReply _ => false
  | .paddockApply _ => false
  | .trapRecordRetry => false
  | .supervisorEntry _ => false
  | .huskStreamComplete _ => false
  | .haltGroupMemberHalt _ => false
  | .hostDebugHalt _ => false
  | .coreResume _ => false
  | .packageReset _ => false
  | .firmwareVerify _ _ => false
  | .firmwareRetry _ => false
  | .attestationRequest _ _ => false
  | .identityCertRequest _ => false
  | .partitionChange _ _ => false
  | .errcntClear _ _ => false
  | .clusterFailure _ _ => false
  | .checkpointStream _ => false
  | .checkpointRestore _ => false
  | .thermalThrottle _ _ => false
  | .thermalHalt _ => false
  | .illegalInsn _ _ => false
  | .postedStoreSend _ _ _ => false
  | .walkerCommandStart _ => false
  | .hostWindowAccess _ _ _ _ => false

end Sys2Proof
end

