-- ==== Sys2Proof/Decode.lean ====
section
/-! DEFINITION. The decoder, total on any words, and after it the encoder (spec/10 R172 to R190). -/

namespace Sys2Proof

open Machine

/-- Why a chain is no instruction (R189, R190). `fields sys`: a field or an extension word breaks its rule;
`sys` when the cell is a system instruction that raises PRIVILEGE outside supervisor state before that check. -/
inductive DecErr where
  | short
  | shape
  | reserved
  | fields (sys : Bool)
  deriving DecidableEq, Repr

abbrev Dec := Except DecErr

/-- A chain (R178): page, register extension, operand sources, whether one field has two of them, immediate extensions,
base word. -/
structure Chain where
  page : Option (BitVec 9)
  ext : Option (BitVec 9)
  srcA : Option Byte
  srcB : Option Byte
  twice : Bool
  imms : List (BitVec 9)
  base : BitVec 16
  deriving DecidableEq, Repr

namespace Chain

def major (ch : Chain) : BitVec 5 := ch.base.extractLsb' 11 5
def fA (ch : Chain) : BitVec 4 := ch.base.extractLsb' 7 4
def fB (ch : Chain) : BitVec 4 := ch.base.extractLsb' 3 4
def minor (ch : Chain) : BitVec 3 := ch.base.extractLsb' 0 3
/-- Fields of the register extension (R175). -/
def bank (ch : Chain) : BitVec 2 := (ch.ext.getD 0).extractLsb' 7 2
def ci (ch : Chain) : Bool := (ch.ext.getD 0).getLsbD 6
def c (ch : Chain) : BitVec 6 := (ch.ext.getD 0).extractLsb' 0 6
/-- The joined immediate payloads, the first highest (R174). -/
def joined (ch : Chain) : Nat := ch.imms.foldl (fun n e => n * 512 + e.toNat) 0
/-- The immediate over `w` base bits of value `low`, signed and unsigned (R174). -/
def simm (ch : Chain) (w low : Nat) : Word := sext64 (9 * ch.imms.length + w) (ch.joined * 2 ^ w + low)
def uimm (ch : Chain) (w low : Nat) : Nat := ch.joined * 2 ^ w + low
def words (ch : Chain) : Nat :=
  (if ch.page.isSome then 1 else 0) + (if ch.ext.isSome then 1 else 0) + (if ch.srcA.isSome then 1 else 0)
    + (if ch.srcB.isSome then 1 else 0) + ch.imms.length + 1

end Chain

/-- One extension word added to a chain; a second page prefix or register extension is refused at once (R190). -/
def Chain.push (ch : Chain) (w : BitVec 16) : Dec Chain :=
  let pay := w.extractLsb' 0 9
  match (w.extractLsb' 9 2).toNat with
  | 0 => .ok { ch with imms := ch.imms ++ [pay] }
  | 1 => if ch.ext.isSome then .error .shape else .ok { ch with ext := some pay }
  | 2 => if ch.page.isSome || decide (7 ≤ pay.toNat) then .error .shape else .ok { ch with page := some pay }
  | _ =>
    if pay.getLsbD 8 then
      .ok { ch with srcB := some (pay.truncate 8), twice := ch.twice || ch.srcB.isSome }
    else .ok { ch with srcA := some (pay.truncate 8), twice := ch.twice || ch.srcA.isSome }

/-- Reads a chain: at most `n` more extension words, then the base word (R173, R178, R189). -/
def parseChain : Nat → Chain → List (BitVec 16) → Dec (Chain × List (BitVec 16))
  | _, _, [] => .error .short
  | n, ch, w :: ws =>
    if w = 0xFFFF#16 then .error .shape
    else if w.extractLsb' 11 5 = 0x1F#5 then
      match n with
      | 0 => .error .shape
      | n + 1 =>
        match ch.push w with
        | .ok ch' => parseChain n ch' ws
        | .error e => .error e
    else .ok ({ ch with base := w }, ws)

def Chain.start : Chain :=
  { page := none, ext := none, srcA := none, srcB := none, twice := false, imms := [], base := 0 }

def bad {α : Type} : Dec α := .error (.fields false)

/-- Which extension words a form accepts: register extension, sources for A and B, number of immediates. -/
def accept (ch : Chain) (e a b : Bool) (lo hi : Nat) : Dec Unit :=
  if (e || ch.ext.isNone) && (a || ch.srcA.isNone) && (b || ch.srcB.isNone)
      && decide (lo ≤ ch.imms.length) && decide (ch.imms.length ≤ hi) then .ok () else bad

/-- The register extension for BANK alone (R175). -/
def bankOnly (ch : Chain) : Dec Unit := if ch.ci || ch.c ≠ 0#6 then bad else .ok ()

def zeroA (ch : Chain) : Dec Unit := if ch.fA = 0#4 then .ok () else bad
def zeroB (ch : Chain) : Dec Unit := if ch.fB = 0#4 then .ok () else bad

def gAt (bank : BitVec 2) (f : BitVec 4) : GReg := bank ++ f

/-- A g register field, or a port by its source word (R177). -/
def gOrPort (bank : BitVec 2) (f : BitVec 4) (src : Option Byte) : Dec GOp :=
  match src with
  | none => .ok (.reg (gAt bank f))
  | some arg =>
    if arg ≠ 0#8 then bad
    else match f.toNat with
      | 8 => .ok (.port .north) | 9 => .ok (.port .east) | 10 => .ok (.port .south) | 11 => .ok (.port .west)
      | _ => bad

def gA (ch : Chain) : Dec GOp := gOrPort ch.bank ch.fA ch.srcA
def gB (ch : Chain) : Dec GOp := gOrPort ch.bank ch.fB ch.srcB
def rA (ch : Chain) : GReg := gAt ch.bank ch.fA
def rB (ch : Chain) : GReg := gAt ch.bank ch.fB
/-- c naming a g register (R175). -/
def cReg (ch : Chain) : Dec GReg := if ch.ext.isNone || ch.ci then bad else .ok ch.c
/-- An optional c. -/
def cOpt (ch : Chain) : Dec (Option GReg) :=
  if ch.ext.isNone then .ok none else if ch.ci then bad else .ok (some ch.c)

/-- Classes of eight registers (R180). -/
def low3 (f : BitVec 4) : Dec (BitVec 3) := if f.getLsbD 3 then bad else .ok (f.truncate 3)

/-- A predicate destination in A, or a bq by its source word (R177). -/
def qDst (ch : Chain) : Dec QDst :=
  match ch.srcA with
  | none => do return .q (← low3 ch.fA)
  | some arg =>
    if ch.fA ≠ 12#4 then bad
    else match arg.toNat with
      | 0 => .ok (.bq .x) | 1 => .ok (.bq .a) | 2 => .ok (.bq .m)
      | _ => bad

/-- The base of a memory operand in B (R177). -/
def pBase (ch : Chain) : Dec PBase :=
  match ch.srcB with
  | none => .ok (.ptr ch.fB)
  | some arg => do
    let h ← low3 ch.fB
    if arg = 255#8 then bad else return .handle h arg

/-- Level codes (R180). -/
def lvlOf (f : BitVec 4) : Dec Lvl :=
  if f = 7#4 then .ok .inner else if f.toNat ≤ 4 then .ok (.l (f.truncate 3)) else bad

/-- The signal extension, first among the immediates (R186). -/
def sigOf (ch : Chain) : Dec SigOp :=
  match ch.imms with
  | e :: _ => do return { lvl := ← lvlOf ((e.extractLsb' 6 3).setWidth 4), idx := e.extractLsb' 0 6 }
  | [] => bad

/-! Formats of page 0 (R181). -/

def decN (ch : Chain) (i : Instr) : Dec Instr := do accept ch false false false 0 0; zeroA ch; zeroB ch; return i
def decK (ch : Chain) (k : Byte → Instr) : Dec Instr := do
  accept ch false false false 0 0; return k (ch.fA ++ ch.fB)
def decB8 (ch : Chain) (k : Word → Instr) : Dec Instr := do
  accept ch false false false 0 4; return k (ch.simm 8 (ch.fA ++ ch.fB).toNat)
def decPA (ch : Chain) (k : BitVec 4 → Instr) : Dec Instr := do
  accept ch false false false 0 0; zeroB ch; return k ch.fA
def decLoop (ch : Chain) : Dec Instr := do
  accept ch true false false 0 4; bankOnly ch; return .loop (rA ch) (ch.simm 4 ch.fB.toNat)
def decBc (ch : Chain) : Dec Instr := do
  accept ch false false false 0 4
  let q := ch.fA.truncate 3
  return if ch.fA.getLsbD 3 then .bcN q (ch.simm 4 ch.fB.toNat) else .bc q (ch.simm 4 ch.fB.toNat)
def decBqp (ch : Chain) : Dec Instr := do accept ch false true false 0 0; zeroB ch; return .bqp (← qDst ch)
def decSleep (ch : Chain) : Dec Instr := do
  accept ch false false false 0 0; zeroB ch; return .sleep (← low3 ch.fA)
def decWaitc (ch : Chain) (k : BitVec 4 → GOp → Instr) : Dec Instr := do
  accept ch true false true 0 0; bankOnly ch; return k ch.fA (← gB ch)
def decRR (ci : Bool) (ch : Chain) (k : RR → Instr) : Dec Instr := do
  if ch.ext.isNone then
    accept ch false false true 0 0; return k (.two ch.fA (← gB ch))
  else
    accept ch true true true 0 0
    if ch.ci then (if ci then return k (.imm (← gA ch) (← gB ch) ch.c) else bad)
    else return k (.three (← gA ch) (← gB ch) ch.c)
def decRU (ch : Chain) (k : RU → Instr) : Dec Instr := do
  if ch.ext.isNone then
    accept ch false true true 0 0; return k (.two (← gA ch) (← gB ch))
  else
    accept ch true true false 0 0; zeroB ch; return k (.ext (← gA ch) (← cReg ch))
def xiOf (ch : Chain) : Dec (BitVec 6 × BitVec 6) :=
  match ch.imms with
  | [p, l] => if 64 ≤ p.toNat ∨ 64 ≤ l.toNat ∨ 64 < p.toNat + l.toNat + 1 then bad else .ok (p.truncate 6, l.truncate 6)
  | _ => bad
def decInsr (ch : Chain) : Dec Instr := do
  accept ch true false true 2 2; bankOnly ch
  let (p, l) ← xiOf ch
  return .insr (rA ch) (← gB ch) p l
def decExtr (ch : Chain) : Dec Instr := do
  accept ch true true true 2 2; bankOnly ch
  let (p, l) ← xiOf ch
  return .extr (← gA ch) (← gB ch) p l
def decSel (ch : Chain) : Dec Instr := do
  accept ch true true true 0 0; return .sel ch.minor (← gA ch) (← gB ch) (← cReg ch)
def decAddi (ch : Chain) : Dec Instr := do
  accept ch true false false 0 4; bankOnly ch; return .addi (rA ch) (ch.simm 4 ch.fB.toNat)
def decLdi (ch : Chain) : Dec Instr := do
  accept ch true true false 0 4; bankOnly ch; return .ldi (← gA ch) (ch.simm 4 ch.fB.toNat)
def decLdih (ch : Chain) : Dec Instr := do
  accept ch true false false 0 4; bankOnly ch
  let n := ch.uimm 4 ch.fB.toNat
  if 2 ^ 32 ≤ n then bad else return .ldih (rA ch) (BitVec.ofNat 32 n)
def decShi (ch : Chain) (k : GReg → BitVec 6 → Instr) : Dec Instr := do
  accept ch true false false 0 4; bankOnly ch
  let n := ch.uimm 4 ch.fB.toNat
  if 64 ≤ n then bad else return k (rA ch) (BitVec.ofNat 6 n)
def decPaddi (ch : Chain) : Dec Instr := do
  accept ch true false false 0 4; bankOnly ch
  if ch.bank ≠ 0#2 then bad else return .paddi ch.fA (ch.simm 4 ch.fB.toNat)
def decCmp (ch : Chain) : Dec Instr := do
  accept ch true true true 0 0; return .cmp ch.minor (← qDst ch) (← gB ch) (← cOpt ch)
def decCmpi (ch : Chain) : Dec Instr := do
  accept ch true true true 0 4; bankOnly ch; return .cmpi ch.minor (← qDst ch) (← gB ch) (ch.simm 0 0)
def decPadd (ch : Chain) : Dec Instr := do
  if ch.ext.isNone then
    accept ch false false true 0 0; return .padd (.two ch.fA (← gB ch))
  else
    accept ch true false false 0 0; return .padd (.three ch.fA ch.fB (← cReg ch))
def decPG (ch : Chain) (k : BitVec 4 → GOp → Option GReg → Instr) : Dec Instr := do
  accept ch true false true 0 0; return k ch.fA (← gB ch) (← cOpt ch)
def decPget (ch : Chain) (k : GOp → BitVec 4 → Instr) : Dec Instr := do
  accept ch false true false 0 0; return k (← gA ch) ch.fB
def decQQ (ch : Chain) (k : BitVec 3 → BitVec 3 → Instr) : Dec Instr := do
  accept ch false false false 0 0; return k (← low3 ch.fA) (← low3 ch.fB)
def decQnot (ch : Chain) : Dec Instr := do
  accept ch false true false 0 0; return .qnot (← qDst ch) (← low3 ch.fB)
def decPcmp (ch : Chain) : Dec Instr := do
  accept ch true true false 0 0
  let c ← cOpt ch
  match c with
  | none => return .pcmp (ch.minor.truncate 2) (← qDst ch) ch.fB none
  | some c => if 16 ≤ c.toNat then bad else return .pcmp (ch.minor.truncate 2) (← qDst ch) ch.fB (some (c.truncate 4))
def decQset (ch : Chain) : Dec Instr := do
  accept ch false true false 0 0
  if 2 ≤ ch.fB.toNat then bad else return .qset (← qDst ch) (ch.fB.getLsbD 0)
def decFfma (ch : Chain) (k : GReg → GOp → GReg → Instr) : Dec Instr := do
  accept ch true false true 0 0; return k (rA ch) (← gB ch) (← cReg ch)
def decFcmp (ch : Chain) (k : BitVec 2 → QDst → GOp → Option GReg → Instr) : Dec Instr := do
  accept ch true true true 0 0; return k (ch.minor.truncate 2) (← qDst ch) (← gB ch) (← cOpt ch)
def decFcvt (ch : Chain) : Dec Instr := do
  accept ch true true true 0 0
  let src := ch.c.truncate 3
  if ch.ext.isNone || !ch.ci || ch.c.getLsbD 4 || ch.c.getLsbD 5 || decide (6 ≤ src.toNat) then bad
  else return .fcvt ch.minor src (ch.c.getLsbD 3) (← gA ch) (← gB ch)
def ffmtOf (m : BitVec 3) : FFmt :=
  match (m.truncate 2).toNat with
  | 0 => .f64 | 1 => .f32 | 2 => .f16 | _ => .bf16
def decFU (ch : Chain) (k : FFmt → RU → Instr) : Dec Instr := decRU ch (k (ffmtOf ch.minor))
def decM (ch : Chain) (k : Size → GOp → PBase → Word → Instr) : Dec Instr := do
  accept ch true true true 0 4; bankOnly ch
  return k (ch.minor.truncate 2) (← gA ch) (← pBase ch) (ch.simm 0 0)
def decMS3 (ch : Chain) (k : Size → GOp → PBase → Word → Instr) : Dec Instr := decM ch k
def decM1 (ch : Chain) (k : GOp → PBase → Word → Instr) : Dec Instr := decM ch fun _ => k
def decLdq (ch : Chain) (k : GReg → PBase → Word → Instr) : Dec Instr := do
  accept ch true false true 0 4; bankOnly ch
  if (rA ch).getLsbD 0 then bad else return k (rA ch) (← pBase ch) (ch.simm 0 0)
def decPGbank (ch : Chain) (k : BitVec 4 → GOp → Instr) : Dec Instr := do
  accept ch true false true 0 0; bankOnly ch; return k ch.fA (← gB ch)
def decPref (ch : Chain) : Dec Instr := do
  accept ch true false false 0 4; bankOnly ch; zeroA ch; return .pref ch.fB (ch.simm 0 0)
def decPin (ch : Chain) : Dec Instr := do
  accept ch true true false 0 0; return .pin (← gA ch) ch.fB (← cReg ch)
def decLdp (ch : Chain) (k : BitVec 4 → PBase → Word → Instr) : Dec Instr := do
  accept ch true false true 0 4; bankOnly ch; return k ch.fA (← pBase ch) (ch.simm 0 0)
def decMA (ch : Chain) (k : GOp → PBase → GReg → Instr) : Dec Instr := do
  accept ch true true true 0 0; return k (← gA ch) (← pBase ch) (← cReg ch)
def decCas (ch : Chain) (k : GReg → PBase → GReg → Instr) : Dec Instr := do
  accept ch true false true 0 0; return k (rA ch) (← pBase ch) (← cReg ch)

/-! Page 1 (R183). -/

/-- A v register field: BANK 0 or 1 (R180). -/
def vAt (ch : Chain) (f : BitVec 4) : Dec (BitVec 5) :=
  if ch.bank.getLsbD 1 then bad else .ok ((ch.bank.truncate 1) ++ f)
def vC (ch : Chain) : Dec (BitVec 5) := do
  let c ← cReg ch
  if c.getLsbD 5 then bad else return c.truncate 5
def decGA (ch : Chain) (k : GOp → Instr) : Dec Instr := do
  accept ch true true false 0 0; bankOnly ch; zeroB ch; return k (← gA ch)
def decGAn (ch : Chain) (k : GOp → Instr) : Dec Instr := do
  accept ch false true false 0 0; zeroB ch; return k (← gA ch)
def decMM (ch : Chain) (k : MM → Instr) : Dec Instr := do
  accept ch true false false 0 0
  let a ← low3 ch.fA
  let b ← low3 ch.fB
  if ch.ext.isNone then return k (.two a b)
  else
    let c ← cReg ch
    if 8 ≤ c.toNat then bad else return k (.three a b (c.truncate 3))
def decMnot (ch : Chain) : Dec Instr := do
  accept ch true false false 0 0; bankOnly ch; return .mnot (← low3 ch.fA) (← low3 ch.fB)
def decMpop (ch : Chain) : Dec Instr := do
  accept ch true true false 0 0; bankOnly ch
  if ch.bank.getLsbD 1 then bad else return .mpop (← gA ch) (← low3 ch.fB)
def decV2 (ch : Chain) (k : BitVec 5 → BitVec 5 → Instr) : Dec Instr := do
  accept ch true false false 0 0; bankOnly ch; return k (← vAt ch ch.fA) (← vAt ch ch.fB)
def decVV (ci : Bool) (ch : Chain) (k : VV → Instr) : Dec Instr := do
  accept ch true false false 0 0
  if ch.ext.isNone then return k (.two ch.fA ch.fB)
  else if ch.ci then (if ci then return k (.imm (← vAt ch ch.fA) (← vAt ch ch.fB) ch.c) else bad)
  else return k (.three (← vAt ch ch.fA) (← vAt ch ch.fB) (← vC ch))
def decV3 (ch : Chain) (k : BitVec 5 → BitVec 5 → BitVec 5 → Instr) : Dec Instr := do
  accept ch true false false 0 0; return k (← vAt ch ch.fA) (← vAt ch ch.fB) (← vC ch)
/-- The one immediate extension of VCMP, VRED, VSCAN, VCVT, VQNT. -/
def imm1 (ch : Chain) : Dec (BitVec 9) :=
  match ch.imms with
  | [e] => .ok e
  | _ => bad
def decVcmp (ch : Chain) : Dec Instr := do
  accept ch true false false 1 1
  let e ← imm1 ch
  if 8 ≤ e.toNat then bad
  else return .vcmp ch.minor (e.truncate 3) (← low3 ch.fA) (← vAt ch ch.fB) (← vC ch)
def decVbcast (ch : Chain) : Dec Instr := do
  accept ch true false true 0 0; bankOnly ch; return .vbcast ch.minor (← vAt ch ch.fA) (← gB ch)
def decVM (ch : Chain) (k : BitVec 3 → BitVec 5 → PBase → Word → Instr) : Dec Instr := do
  accept ch true false true 0 3; bankOnly ch; return k ch.minor (← vAt ch ch.fA) (← pBase ch) (ch.simm 0 0)
def decVMG (ch : Chain) (k : BitVec 3 → BitVec 5 → PBase → GReg → Instr) : Dec Instr := do
  accept ch true false true 0 0; return k ch.minor (← vAt ch ch.fA) (← pBase ch) (← cReg ch)
def decVMV (ch : Chain) (k : BitVec 3 → BitVec 5 → PBase → BitVec 5 → Instr) : Dec Instr := do
  accept ch true false true 0 0; return k ch.minor (← vAt ch ch.fA) (← pBase ch) (← vC ch)
def decVred (ch : Chain) : Dec Instr := do
  accept ch true true false 1 1; bankOnly ch
  let e ← imm1 ch
  if 7 ≤ e.toNat then bad else return .vred ch.minor (e.truncate 3) (← gA ch) (← vAt ch ch.fB)
def decVscan (ch : Chain) : Dec Instr := do
  accept ch true false false 1 1; bankOnly ch
  let e ← imm1 ch
  if 7 ≤ e.toNat then bad else return .vscan ch.minor (e.truncate 3) (← vAt ch ch.fA) (← vAt ch ch.fB)
def decVcvt (ch : Chain) (k : BitVec 3 → BitVec 4 → Bool → BitVec 5 → BitVec 5 → Instr) : Dec Instr := do
  accept ch true false false 1 1; bankOnly ch
  let e ← imm1 ch
  if 32 ≤ e.toNat then bad
  else return k ch.minor (e.truncate 4) (e.getLsbD 4) (← vAt ch ch.fA) (← vAt ch ch.fB)

/-! Pages 2 and 3 (R184, R185). -/

def tileOf (f : BitVec 4) : Dec (BitVec 2) := if 4 ≤ f.toNat then bad else .ok (f.truncate 2)
def decMma (ch : Chain) (k : BitVec 2 → BitVec 4 → GReg → Instr) : Dec Instr := do
  accept ch true false false 0 0; return k (← tileOf ch.fA) ch.fB (← cReg ch)
def decMzero (ch : Chain) : Dec Instr := do
  accept ch false false false 0 0; zeroB ch; return .mzero (← tileOf ch.fA)
def decMtrn (ch : Chain) : Dec Instr := do
  accept ch false false false 0 0; return .mtrn (← tileOf ch.fA) (← tileOf ch.fB)
/-- d, .cnt and the source of a walker command. -/
def wFields (ch : Chain) : Dec (BitVec 3 × Option (BitVec 4) × BitVec 4) := do
  let e ← imm1 ch
  let k := e.extractLsb' 0 4
  if e.getLsbD 8 then bad
  else if ch.fA.getLsbD 3 then return (ch.fA.truncate 3, some k, e.extractLsb' 4 4)
  else if k ≠ 0#4 then bad
  else return (ch.fA.truncate 3, none, e.extractLsb' 4 4)
def decCopy (ch : Chain) : Dec Instr := do
  accept ch true false true 1 1
  let (d, k, s) ← wFields ch
  let c ← cReg ch
  match ch.srcB with
  | none => return .copy d k (.ptr ch.fB) s c
  | some arg => if arg ≠ 0#8 then bad else return .copy d k (.handle (← low3 ch.fB)) s c
def decWD (ch : Chain) (k : BitVec 3 → Option (BitVec 4) → BitVec 4 → BitVec 4 → BitVec 4 → Instr) : Dec Instr := do
  accept ch true false false 1 1
  let (d, n, s) ← wFields ch
  let c ← cReg ch
  if 16 ≤ c.toNat then bad else return k d n ch.fB s (c.truncate 4)
def decHitch (ch : Chain) : Dec Instr := do
  accept ch false false false 2 2
  match ch.imms with
  | [a, m] => return .hitch a m (ch.fA ++ ch.fB)
  | _ => bad
def decHitchP (ch : Chain) : Dec Instr := do
  accept ch false false false 1 1
  let e ← imm1 ch
  if e.getLsbD 8 then bad else return .hitchP ch.fA ch.fB (e.truncate 8)
def decHG (ch : Chain) (k : BitVec 3 → GOp → Instr) : Dec Instr := do
  accept ch true false true 0 0; bankOnly ch; return k (← low3 ch.fA) (← gB ch)
def decHN (ch : Chain) (k : BitVec 3 → BitVec 31 → Instr) : Dec Instr := do
  accept ch false false false 0 3; return k (← low3 ch.fA) (BitVec.ofNat 31 (ch.uimm 4 ch.fB.toNat))
def decTkt (ch : Chain) (k : GOp → BitVec 3 → Option GReg → Instr) : Dec Instr := do
  accept ch true true false 0 0; return k (← gA ch) (← low3 ch.fB) (← cOpt ch)
def decRtake (ch : Chain) : Dec Instr := do
  accept ch false true false 0 0; return .rtake (← gA ch) (← low3 ch.fB)

/-! Pages 4 to 6 (R186 to R188). -/

def decSig (ch : Chain) (k : SigOp → Instr) : Dec Instr := do
  accept ch false false false 1 1; zeroA ch; zeroB ch; return k (← sigOf ch)
def decSigG (ch : Chain) : Dec Instr := do
  accept ch true true false 1 1; bankOnly ch; zeroB ch; return .emitv (← sigOf ch) (← gA ch)
def decSigQ (ch : Chain) (k : QDst → SigOp → Instr) : Dec Instr := do
  accept ch false true false 1 1; zeroB ch; return k (← qDst ch) (← sigOf ch)
def decSigQG (ch : Chain) : Dec Instr := do
  accept ch true true true 1 1; bankOnly ch; return .testv (← qDst ch) (← gB ch) (← sigOf ch)
def decRen (ch : Chain) : Dec Instr := do
  accept ch true true false 0 0; bankOnly ch
  if 5 ≤ ch.fB.toNat then bad else return .renounce (ch.fB.truncate 3) (← gA ch)
def decAbortw (ch : Chain) : Dec Instr := do
  accept ch false false false 1 3
  let ext := { ch with imms := ch.imms.drop 1 }
  return .abortw (← sigOf ch) (ext.simm 8 (ch.fA ++ ch.fB).toNat)
def decInstn (ch : Chain) : Dec Instr := do
  accept ch false true false 0 0; return .instn (← gA ch) (← lvlOf ch.fB)
noncomputable def decTeamh (ch : Chain) : Dec Instr := do
  accept ch false false false 0 0; return .teamh ch.fA (← lvlOf ch.fB)
noncomputable def decForkw (ch : Chain) : Dec Instr := do
  accept ch false false false 0 0
  if ch.fA = 0#4 ∨ 4 ≤ ch.fA.toNat ∨ ch.fB = 0#4 then bad else return .forkw (ch.fA.truncate 2) ch.fB
noncomputable def decQG (ch : Chain) : Dec Instr := do
  accept ch true true true 0 0; bankOnly ch; return .choosew (← qDst ch) (← gB ch)
def decGG (ch : Chain) (k : GOp → GOp → Instr) : Dec Instr := do
  accept ch true true true 0 0; bankOnly ch; return k (← gA ch) (← gB ch)
noncomputable def decDemand (ch : Chain) : Dec Instr := do
  accept ch false false false 0 1
  let h ← low3 ch.fB
  match ch.imms with
  | [e] => if 8 ≤ e.toNat then bad else return .demand ch.fA h (some (← lvlOf (e.truncate 4)))
  | _ => return .demand ch.fA h none
def decSpawn (ch : Chain) (k : GOp → GReg → BitVec 4 → Instr) : Dec Instr := do
  accept ch true true false 0 0; return k (← gA ch) (← cReg ch) ch.fB
def decGP (ch : Chain) (k : GOp → BitVec 4 → Instr) : Dec Instr := do
  accept ch true true false 0 0; bankOnly ch; return k (← gA ch) ch.fB
/-- The number of the control register of CRRD and CRWR (R351). -/
def Chain.crNum (ch : Chain) : BitVec 31 := BitVec.ofNat 31 (ch.uimm 4 ch.fB.toNat)
def crOp (ch : Chain) : Dec CrOp :=
  match ch.srcA with
  | none => .ok (.reg ch.fA)
  | some _ => do
    match ← gA ch with
    | .port d => return .port d
    | .reg _ => bad
def decCr (ch : Chain) (k : CrOp → BitVec 31 → Instr) : Dec Instr := do
  accept ch false true false 0 3; return k (← crOp ch) ch.crNum

/-- The cells of page 0 (R182). -/
def decodePage0 (ch : Chain) : Dec Instr :=
  match ch.major.toNat, ch.minor.toNat with
  | 0, 1 => decN ch .nop
  | 0, 2 => decN ch .ret
  | 0, 3 => decN ch .yield
  | 0, 4 => decN ch .rtu
  | 0, 5 => decN ch .follow
  | 0, 7 => decN ch .chunk
  | 0, 6 => decK ch .trap
  | 1, 0 => decB8 ch .b
  | 1, 1 => decB8 ch .call
  | 1, 2 => decPA ch .j
  | 1, 3 => decPA ch .callP
  | 1, 4 => decLoop ch
  | 1, 5 => decBc ch
  | 1, 6 => decB8 ch .bq
  | 1, 7 => decBqp ch
  | 2, 0 => decSleep ch
  | 2, 1 => decWaitc ch .waitc
  | 2, 2 => decWaitc ch .waitcSub
  | 2, 3 => decN ch .fenceAcq
  | 2, 4 => decN ch .fenceRel
  | 2, 5 => decN ch .fenceFull
  | 2, 6 => decN ch .flush
  | 3, 0 => decRR false ch .add
  | 3, 1 => decRR false ch .sub
  | 3, 2 => decRR false ch .and
  | 3, 3 => decRR false ch .or
  | 3, 4 => decRR false ch .xor
  | 3, 5 => decRR false ch .andn
  | 3, 6 => decRR false ch .min
  | 3, 7 => decRR false ch .max
  | 4, 0 => decRR false ch .minu
  | 4, 1 => decRR false ch .maxu
  | 4, 2 => decRR false ch .mul
  | 4, 3 => decRR false ch .mulh
  | 4, 4 => decRR false ch .mulhu
  | 4, 5 => decRR false ch .clmul
  | 4, 6 => decRR false ch .clmulh
  | 4, 7 => decInsr ch
  | 5, 0 => decRR false ch .div
  | 5, 1 => decRR false ch .divu
  | 5, 2 => decRR false ch .rem
  | 5, 3 => decRR false ch .remu
  | 5, 4 => decRR true ch .shl
  | 5, 5 => decRR true ch .shr
  | 5, 6 => decRR true ch .sar
  | 5, 7 => decRR true ch .rol
  | 6, 0 => decRU ch .mov
  | 6, 1 => decRU ch .neg
  | 6, 2 => decRU ch .abs
  | 6, 3 => decRU ch .popc
  | 6, 4 => decRU ch .clz
  | 6, 5 => decRU ch .ctz
  | 6, 6 => decRU ch .bswap
  | 6, 7 => decExtr ch
  | 7, _ => decSel ch
  | 8, 0 => decAddi ch
  | 8, 1 => decLdi ch
  | 8, 2 => decLdih ch
  | 8, 3 => decShi ch .shlImm
  | 8, 4 => decShi ch .shrImm
  | 8, 5 => decShi ch .sarImm
  | 8, 6 => decShi ch .rolImm
  | 8, 7 => decPaddi ch
  | 9, _ => decCmp ch
  | 10, _ => decCmpi ch
  | 11, 0 => decPadd ch
  | 11, 1 => decPG ch .pset
  | 11, 2 => decPget ch .pget
  | 11, 3 => decPget ch .pgetHi
  | 11, 4 => decPG ch .pmake
  | 11, 5 => decQQ ch .qand
  | 11, 6 => decQQ ch .qor
  | 11, 7 => decQnot ch
  | 12, 0 => decPcmp ch
  | 12, 1 => decPcmp ch
  | 12, 2 => decPcmp ch
  | 12, 3 => decPcmp ch
  | 12, 4 => decQset ch
  | 13, 0 => decRR false ch .faddF64
  | 13, 1 => decRR false ch .fsubF64
  | 13, 2 => decRR false ch .fmulF64
  | 13, 3 => decFfma ch .ffmaF64
  | 13, 4 => decRR false ch .fdivF64
  | 13, 5 => decRU ch .fsqrtF64
  | 13, 6 => decRR false ch .fminF64
  | 13, 7 => decRR false ch .fmaxF64
  | 14, 0 => decRR false ch .faddF32
  | 14, 1 => decRR false ch .fsubF32
  | 14, 2 => decRR false ch .fmulF32
  | 14, 3 => decFfma ch .ffmaF32
  | 14, 4 => decRR false ch .fdivF32
  | 14, 5 => decRU ch .fsqrtF32
  | 14, 6 => decRR false ch .fminF32
  | 14, 7 => decRR false ch .fmaxF32
  | 15, 0 => decRR false ch .faddF16
  | 15, 1 => decRR false ch .fsubF16
  | 15, 2 => decRR false ch .fmulF16
  | 15, 3 => decFfma ch .ffmaF16
  | 15, 4 => decRR false ch .fdivF16
  | 15, 5 => decRU ch .fsqrtF16
  | 15, 6 => decRR false ch .fminF16
  | 15, 7 => decRR false ch .fmaxF16
  | 16, 0 => decRR false ch .faddBf16
  | 16, 1 => decRR false ch .fsubBf16
  | 16, 2 => decRR false ch .fmulBf16
  | 16, 3 => decFfma ch .ffmaBf16
  | 16, 4 => decRR false ch .fdivBf16
  | 16, 5 => decRU ch .fsqrtBf16
  | 16, 6 => decRR false ch .fminBf16
  | 16, 7 => decRR false ch .fmaxBf16
  | 17, 0 => decFcmp ch .fcmpF64
  | 17, 1 => decFcmp ch .fcmpF64
  | 17, 2 => decFcmp ch .fcmpF64
  | 17, 3 => decFcmp ch .fcmpF64
  | 17, 4 => decFcmp ch .fcmpF32
  | 17, 5 => decFcmp ch .fcmpF32
  | 17, 6 => decFcmp ch .fcmpF32
  | 17, 7 => decFcmp ch .fcmpF32
  | 18, 0 => decFcmp ch .fcmpF16
  | 18, 1 => decFcmp ch .fcmpF16
  | 18, 2 => decFcmp ch .fcmpF16
  | 18, 3 => decFcmp ch .fcmpF16
  | 18, 4 => decFcmp ch .fcmpBf16
  | 18, 5 => decFcmp ch .fcmpBf16
  | 18, 6 => decFcmp ch .fcmpBf16
  | 18, 7 => decFcmp ch .fcmpBf16
  | 19, 0 => decFcvt ch
  | 19, 1 => decFcvt ch
  | 19, 2 => decFcvt ch
  | 19, 3 => decFcvt ch
  | 19, 4 => decFcvt ch
  | 19, 5 => decFcvt ch
  | 20, 0 => decFU ch .fclass
  | 20, 1 => decFU ch .fclass
  | 20, 2 => decFU ch .fclass
  | 20, 3 => decFU ch .fclass
  | 20, 4 => decFU ch .fmov
  | 20, 5 => decFU ch .fmov
  | 20, 6 => decFU ch .fmov
  | 20, 7 => decFU ch .fmov
  | 21, 0 => decM ch .ld
  | 21, 1 => decM ch .ld
  | 21, 2 => decM ch .ld
  | 21, 3 => decM ch .ld
  | 21, 4 => decM ch .ldWr
  | 21, 5 => decM ch .ldWr
  | 21, 6 => decM ch .ldWr
  | 21, 7 => decM ch .ldWr
  | 22, 0 => decMS3 ch .lds
  | 22, 1 => decMS3 ch .lds
  | 22, 2 => decMS3 ch .lds
  | 22, 4 => decMS3 ch .ldsWr
  | 22, 5 => decMS3 ch .ldsWr
  | 22, 6 => decMS3 ch .ldsWr
  | 23, 0 => decM ch .st
  | 23, 1 => decM ch .st
  | 23, 2 => decM ch .st
  | 23, 3 => decM ch .st
  | 23, 4 => decM ch .stRel
  | 23, 5 => decM ch .stRel
  | 23, 6 => decM ch .stRel
  | 23, 7 => decM ch .stRel
  | 24, 0 => decM ch .ldAcq
  | 24, 1 => decM ch .ldAcq
  | 24, 2 => decM ch .ldAcq
  | 24, 3 => decM ch .ldAcq
  | 24, 4 => decLdq ch .ldq
  | 24, 5 => decLdq ch .ldqWr
  | 24, 6 => decLdq ch .ldqAcq
  | 25, 0 => decM ch .ldsync
  | 25, 1 => decM ch .ldsync
  | 25, 2 => decM ch .ldsync
  | 25, 3 => decM ch .ldsync
  | 25, 4 => decPGbank ch .clre
  | 25, 5 => decPref ch
  | 25, 6 => decPin ch
  | 25, 7 => decPGbank ch .unpin
  | 26, 0 => decLdp ch .ldp
  | 26, 1 => decLdp ch .ldpWr
  | 26, 2 => decLdp ch .ldpAcq
  | 26, 3 => decLdp ch .stp
  | 26, 4 => decLdp ch .stpRel
  | 27, 0 => decMA ch .aAdd
  | 27, 1 => decMA ch .aAnd
  | 27, 2 => decMA ch .aOr
  | 27, 3 => decMA ch .aXor
  | 27, 4 => decMA ch .aMin
  | 27, 5 => decMA ch .aMax
  | 27, 6 => decMA ch .aSwap
  | 27, 7 => decCas ch .aCas
  | 28, 0 => decMA ch .aAddAcq
  | 28, 1 => decMA ch .aAndAcq
  | 28, 2 => decMA ch .aOrAcq
  | 28, 3 => decMA ch .aXorAcq
  | 28, 4 => decMA ch .aMinAcq
  | 28, 5 => decMA ch .aMaxAcq
  | 28, 6 => decMA ch .aSwapAcq
  | 28, 7 => decCas ch .aCasAcq
  | 29, 0 => decMA ch .aAddRel
  | 29, 1 => decMA ch .aAndRel
  | 29, 2 => decMA ch .aOrRel
  | 29, 3 => decMA ch .aXorRel
  | 29, 4 => decMA ch .aMinRel
  | 29, 5 => decMA ch .aMaxRel
  | 29, 6 => decMA ch .aSwapRel
  | 29, 7 => decCas ch .aCasRel
  | 30, 0 => decM1 ch .rAdd
  | 30, 1 => decM1 ch .rMin
  | 30, 2 => decM1 ch .rMax
  | 30, 3 => decM1 ch .rAnd
  | 30, 4 => decM1 ch .rOr
  | 30, 5 => decM1 ch .rXor
  | 30, 6 => decM1 ch .rAddF64
  | 30, 7 => decM1 ch .rAddF32
  | _, _ => .error .reserved

/-- The cells of page 1 (R183). -/
def decodePage1 (ch : Chain) : Dec Instr :=
  match ch.major.toNat, ch.minor.toNat with
  | 0, 1 => decGA ch .vsett
  | 0, 2 => decMM ch .mand
  | 0, 3 => decMM ch .mor
  | 0, 4 => decMnot ch
  | 0, 5 => decMpop ch
  | 0, 6 => decV2 ch fun a b => .compress a b
  | 1, _ => decVV false ch fun r => .vadd ch.minor r
  | 2, _ => decVV false ch fun r => .vsub ch.minor r
  | 3, _ => decVV false ch fun r => .vmul ch.minor r
  | 4, _ => decV3 ch fun a b c => .vfma ch.minor a b c
  | 5, _ => decVV false ch fun r => .vdiv ch.minor r
  | 6, _ => decV2 ch fun a b => .vsqrt ch.minor a b
  | 7, _ => decVV false ch fun r => .vmin ch.minor r
  | 8, _ => decVV false ch fun r => .vmax ch.minor r
  | 9, _ => decVV false ch fun r => .vand ch.minor r
  | 10, _ => decVV false ch fun r => .vor ch.minor r
  | 11, _ => decVV false ch fun r => .vxor ch.minor r
  | 12, _ => decVV true ch fun r => .vshl ch.minor r
  | 13, _ => decVV true ch fun r => .vshr ch.minor r
  | 14, _ => decVV true ch fun r => .vsar ch.minor r
  | 15, _ => decVcmp ch
  | 16, _ => decV3 ch fun a b c => .vsel ch.minor a b c
  | 17, _ => decV2 ch fun a b => .vmov ch.minor a b
  | 18, _ => decVbcast ch
  | 19, _ => decVM ch .vld
  | 20, _ => decVM ch .vst
  | 21, _ => decVMG ch .vlds
  | 22, _ => decVMG ch .vsts
  | 23, _ => decVMV ch .vgather
  | 24, _ => decVMV ch .vscatter
  | 25, _ => decVred ch
  | 26, _ => decVscan ch
  | 27, _ => decV3 ch fun a b c => .vperm ch.minor a b c
  | 28, _ => decV3 ch fun a b c => .vshuf ch.minor a b c
  | 29, _ => decVcvt ch .vcvt
  | 30, _ => decVcvt ch .vqnt
  | _, _ => .error .reserved

/-- The cells of page 2 (R184). -/
def decodePage2 (ch : Chain) : Dec Instr :=
  match ch.major.toNat, ch.minor.toNat with
  | 1, 0 => decMma ch .mma
  | 1, 1 => decMma ch .mmas
  | 1, 2 => decMzero ch
  | 1, 3 => decN ch .mcommit
  | 1, 4 => decK ch .mwaitb
  | 1, 5 => decMtrn ch
  | 2, 0 => decMma ch .accrd
  | 2, 1 => decMma ch .accwr
  | 2, 2 => decPGbank ch .wload
  | 2, 3 => decPA ch .dict
  | _, _ => .error .reserved

/-- The cells of page 3 (R185). -/
def decodePage3 (ch : Chain) : Dec Instr :=
  match ch.major.toNat, ch.minor.toNat with
  | 1, 0 => decCopy ch
  | 1, 1 => decWD ch .copym
  | 1, 2 => decWD ch .tile
  | 1, 3 => decWD ch .gather
  | 1, 4 => decWD ch .mcast
  | 2, 0 => decHitch ch
  | 2, 1 => decHitchP ch
  | 2, 2 => decN ch .unhitch
  | 2, 3 => decN ch .rest
  | 3, 0 => decHG ch .hcfg
  | 3, 1 => decHG ch .advpG
  | 3, 2 => decHN ch .advpN
  | 3, 3 => decHG ch .advcG
  | 3, 4 => decHN ch .advcN
  | 3, 5 => decTkt ch .tkt
  | 3, 6 => decTkt ch .rfill
  | 3, 7 => decRtake ch
  | _, _ => .error .reserved

/-- The cells of page 4 (R186). -/
noncomputable def decodePage4 (ch : Chain) : Dec Instr :=
  match ch.major.toNat, ch.minor.toNat with
  | 1, 0 => decN ch .pause
  | 1, 1 => decN ch .pauseUp
  | 1, 2 => decSig ch .emit
  | 1, 3 => decSigG ch
  | 1, 4 => decSigQ ch .test
  | 1, 5 => decSigQG ch
  | 1, 6 => decRen ch
  | 1, 7 => decSigQ ch .resolve
  | 2, 0 => decAbortw ch
  | 2, 1 => decSig ch .suspw
  | 2, 2 => decN ch .endw
  | 2, 3 => decInstn ch
  | 2, 4 => decGA ch .teamj
  | 2, 5 => decN ch .teaml
  | 2, 6 => decTeamh ch
  | 2, 7 => decGAn ch .cause
  | _, _ => .error .reserved

/-- The cells of page 5 (R187). -/
noncomputable def decodePage5 (ch : Chain) : Dec Instr :=
  match ch.major.toNat, ch.minor.toNat with
  | 1, 0 => decForkw ch
  | 1, 1 => decGA ch .widx
  | 1, 2 => decN ch .claimw
  | 1, 3 => decGA ch .joinw
  | 1, 4 => decQG ch
  | 1, 5 => decN ch .abandw
  | 1, 6 => decGG ch .wstat
  | 2, 0 => decDemand ch
  | 2, 1 => decPA ch .xgo
  | 2, 2 => decN ch .xwait
  | 2, 3 => decGG ch .xstat
  | 2, 4 => decGA ch .profq
  | 2, 5 => decGA ch .predw
  | 2, 6 => decN ch .hints
  | 3, 0 => decSpawn ch .spawn
  | 3, 1 => decSpawn ch .spawnb
  | 3, 2 => decGP ch .take
  | 3, 3 => decGP ch .deal
  | 3, 4 => decN ch .done
  | _, _ => .error .reserved

/-- The cells of page 6 (R188). -/
noncomputable def decodePage6 (ch : Chain) : Dec Instr :=
  match ch.major.toNat, ch.minor.toNat with
  | 1, 0 => decK ch .svc
  | 1, 1 => decCr ch .crrd
  | 1, 2 => decCr ch .crwr
  | 1, 3 => decPGbank ch .plbinv
  | 1, 4 => decGP ch .husk
  | 1, 5 => decGP ch .unhusk
  | 1, 6 => decN ch .tret
  | 1, 7 => decGA ch .haltg
  | 2, 0 => decN ch .idle
  | _, _ => .error .reserved

/-- The system instructions that raise PRIVILEGE outside supervisor state (R188): a broken field is seen later. CRRD and
CRWR do for a privileged register. -/
def sysCell (ch : Chain) : Bool :=
  ch.page == some 6#9 && (decide (ch.major = 2#5) || decide (3 ≤ ch.minor.toNat) ||
    (ch.minor ≠ 0 && decide (0x100 ≤ ch.crNum.toNat) && decide (ch.crNum.toNat < 0x200)))

/-- The cell of a chain on its page (R176). -/
noncomputable def decodeCell (ch : Chain) : Dec Instr :=
  match (ch.page.getD 0).toNat with
  | 0 => decodePage0 ch
  | 1 => decodePage1 ch
  | 2 => decodePage2 ch
  | 3 => decodePage3 ch
  | 4 => decodePage4 ch
  | 5 => decodePage5 ch
  | 6 => decodePage6 ch
  | _ => .error .shape

/-- The cell, and then the extension words and fields (R190); a field with two operand sources accepts neither (R178). -/
noncomputable def decodeChain (ch : Chain) : Dec Instr :=
  match decodeCell ch with
  | .ok i => if ch.twice then .error (.fields (sysCell ch)) else .ok i
  | .error (.fields _) => .error (.fields (sysCell ch))
  | .error e => .error e

/-- The instruction that a list of words begins with, its chain, and the words after it. -/
noncomputable def decode (ws : List (BitVec 16)) : Dec (Instr × Chain × List (BitVec 16)) :=
  match parseChain 4 Chain.start ws with
  | .error e => .error e
  | .ok (ch, rest) =>
    match decodeChain ch with
    | .ok i => .ok (i, ch, rest)
    | .error e => .error e

/-- The same over bytes in memory order (R172). -/
noncomputable def decodeBytes (bs : List Byte) : Dec (Instr × Chain × List (BitVec 16)) := decode (wordsOfBytes bs)

/-- The words of a table row, in chain order. spec/opcode_table.json writes a two-word row as one number with the
page word in bits 31 to 16 and the base word, which ends a chain, in bits 15 to 0. Where the low half is an
extension word instead, the number has its first word lowest (DEDUCED, notes/assumptions/10.md). -/
def tableWords (nbits w : Nat) : List (BitVec 16) :=
  let ws := (List.range ((nbits + 15) / 16)).map fun k => BitVec.ofNat 16 (w / 2 ^ (16 * k))
  match ws with
  | lo :: _ => if lo.extractLsb' 11 5 = 0x1F#5 then ws else ws.reverse
  | [] => []

/-- The instruction our decoder reads from a table word. -/
noncomputable def decodeTableWord (nbits w : Nat) : Option Instr :=
  match decode (tableWords nbits w) with
  | .ok (i, _, _) => some i
  | .error _ => none

/-! The encoder (R196 orders the extension words: page, register extension, sources, immediates). -/

/-- The first words of a chain, and the chain as words. -/
def Chain.emit (ch : Chain) : List (BitVec 16) :=
  (match ch.page with | some p => [0b1111110#7 ++ p] | none => [])
    ++ (match ch.ext with | some e => [0b1111101#7 ++ e] | none => [])
    ++ (match ch.srcA with | some a => [0b11111110#8 ++ a] | none => [])
    ++ (match ch.srcB with | some b => [0b11111111#8 ++ b] | none => [])
    ++ ch.imms.map (fun e => 0b1111100#7 ++ e)
    ++ [ch.base]

/-- A chain of one cell with fields A and B. -/
def cell (page maj min : Nat) (a b : BitVec 4) : Chain :=
  { page := if page = 0 then none else some (BitVec.ofNat 9 page), ext := none, srcA := none, srcB := none,
    twice := false, imms := [], base := BitVec.ofNat 5 maj ++ a ++ b ++ BitVec.ofNat 3 min }

def extWord (bank : BitVec 2) (ci : Bool) (c : BitVec 6) : BitVec 9 := bank ++ (BitVec.ofBool ci) ++ c
/-- The extension for BANK alone, left out when BANK is 0. -/
def bankExt (bank : BitVec 2) : Option (BitVec 9) := if bank = 0#2 then none else some (extWord bank false 0)
def fldG : GOp → BitVec 4
  | .reg n => n.truncate 4
  | .port .north => 8 | .port .east => 9 | .port .south => 10 | .port .west => 11
def srcG : GOp → Option Byte
  | .reg _ => none
  | .port _ => some 0
def bank1 (a : GOp) : BitVec 2 := (bankG a).getD 0
def bank2 (a b : GOp) : BitVec 2 := ((bankG a).orElse fun _ => bankG b).getD 0
def fldQ : QDst → BitVec 4
  | .q n => n.setWidth 4
  | .bq _ => 12
def srcQ : QDst → Option Byte
  | .q _ => none
  | .bq .x => some 0 | .bq .a => some 1 | .bq _ => some 2
def fldP : PBase → BitVec 4
  | .ptr n => n
  | .handle h _ => h.setWidth 4
def srcP : PBase → Option Byte
  | .ptr _ => none
  | .handle _ a => some a
def d3 (n : BitVec 3) : BitVec 4 := n.setWidth 4
def optExt (bank : BitVec 2) (c : Option GReg) : Option (BitVec 9) :=
  match c with
  | some c => some (extWord bank false c)
  | none => none

/-- `n` payloads of nine bits of a number, the highest first. -/
def payloads : Nat → Nat → List (BitVec 9)
  | 0, _ => []
  | n + 1, v => BitVec.ofNat 9 (v / 512 ^ n) :: payloads n v

/-- The payloads and the base bits of a signed immediate in its shortest form. -/
def immExts (w : Nat) (imm : Word) : List (BitVec 9) := payloads (immCount w imm) (imm.toNat / 2 ^ w)
def immExtsU (w n : Nat) : List (BitVec 9) := payloads (immCountU w n) (n / 2 ^ w)

def encN (p m i : Nat) : Chain := cell p m i 0 0
def encAB (p m i : Nat) (a b : BitVec 4) : Chain := cell p m i a b
def encN8 (p m i : Nat) (n : Byte) : Chain := cell p m i (n.extractLsb' 4 4) (n.extractLsb' 0 4)
def encB8 (p m i : Nat) (o : Word) : Chain :=
  { cell p m i (o.extractLsb' 4 4) (o.extractLsb' 0 4) with imms := immExts 8 o }
def encBc (p m i : Nat) (neg : Bool) (q : BitVec 3) (o : Word) : Chain :=
  { cell p m i (BitVec.ofBool neg ++ q) (o.extractLsb' 0 4) with imms := immExts 4 o }
def encQ (p m i : Nat) (q : QDst) (b : BitVec 4) : Chain := { cell p m i (fldQ q) b with srcA := srcQ q }
def encAg (p m i : Nat) (a : BitVec 4) (g : GOp) : Chain :=
  { cell p m i a (fldG g) with ext := bankExt (bank1 g), srcB := srcG g }
def encRR (p m i : Nat) : RR → Chain
  | .two a b => { cell p m i a (fldG b) with srcB := srcG b }
  | .three d x c =>
    { cell p m i (fldG d) (fldG x) with ext := some (extWord (bank2 d x) false c), srcA := srcG d, srcB := srcG x }
  | .imm d x c =>
    { cell p m i (fldG d) (fldG x) with ext := some (extWord (bank2 d x) true c), srcA := srcG d, srcB := srcG x }
def encRU (p m i : Nat) : RU → Chain
  | .two d s => { cell p m i (fldG d) (fldG s) with srcA := srcG d, srcB := srcG s }
  | .ext d c => { cell p m i (fldG d) 0 with ext := some (extWord (bank1 d) false c), srcA := srcG d }
def encXI (p m i : Nat) (a b : GOp) (pos len1 : BitVec 6) : Chain :=
  { cell p m i (fldG a) (fldG b) with
    ext := bankExt (bank2 a b), srcA := srcG a, srcB := srcG b, imms := [pos.setWidth 9, len1.setWidth 9] }
def encG3 (p m i : Nat) (a b : GOp) (c : GReg) : Chain :=
  { cell p m i (fldG a) (fldG b) with ext := some (extWord (bank2 a b) false c), srcA := srcG a, srcB := srcG b }
def encSel (p m i : Nat) (k : BitVec 3) (d b : GOp) (c : GReg) : Chain := encG3 p m (i + k.toNat) d b c
def encRI (p m i : Nat) (g : GOp) (w : Nat) (imm : Word) : Chain :=
  { cell p m i (fldG g) (imm.truncate 4) with ext := bankExt (bank1 g), srcA := srcG g, imms := immExts w imm }
def encRIu (p m i : Nat) (g : GOp) (n : Nat) : Chain :=
  { cell p m i (fldG g) (BitVec.ofNat 4 n) with ext := bankExt (bank1 g), srcA := srcG g, imms := immExtsU 4 n }
def encPaddi (p m i : Nat) (r : BitVec 4) (imm : Word) : Chain :=
  { cell p m i r (imm.truncate 4) with imms := immExts 4 imm }
def encCmp (p m : Nat) (cc : BitVec 3) (q : QDst) (b : GOp) (c : Option GReg) : Chain :=
  { cell p m cc.toNat (fldQ q) (fldG b) with ext := optExt (bank1 b) c, srcA := srcQ q, srcB := srcG b }
def encCmpi (p m : Nat) (cc : BitVec 3) (q : QDst) (b : GOp) (imm : Word) : Chain :=
  { cell p m cc.toNat (fldQ q) (fldG b) with
    ext := bankExt (bank1 b), srcA := srcQ q, srcB := srcG b, imms := immExts 0 imm }
def encPadd (p m i : Nat) : PaddArgs → Chain
  | .two a g => { cell p m i a (fldG g) with srcB := srcG g }
  | .three a b c => { cell p m i a b with ext := some (extWord 0 false c) }
def encPG (p m i : Nat) (r : BitVec 4) (g : GOp) (c : Option GReg) : Chain :=
  { cell p m i r (fldG g) with ext := optExt (bank1 g) c, srcB := srcG g }
def encGPn (p m i : Nat) (g : GOp) (b : BitVec 4) : Chain := { cell p m i (fldG g) b with srcA := srcG g }
def encPcmp (p m : Nat) (cc : BitVec 2) (q : QDst) (b : BitVec 4) (c : Option (BitVec 4)) : Chain :=
  { cell p m cc.toNat (fldQ q) b with
    ext := (match c with | some c => some (extWord 0 false (c.setWidth 6)) | none => none), srcA := srcQ q }
def encFcmp (p m : Nat) (hi : BitVec 1) (cc : BitVec 2) (q : QDst) (b : GOp) (c : Option GReg) : Chain :=
  encCmp p m (hi ++ cc) q b c
def encFcvt (p m : Nat) (dst src : BitVec 3) (sat : Bool) (a b : GOp) : Chain :=
  { cell p m dst.toNat (fldG a) (fldG b) with
    ext := some (extWord (bank2 a b) true (0#2 ++ BitVec.ofBool sat ++ src)), srcA := srcG a, srcB := srcG b }
def ffmtCode (f : FFmt) (hi : BitVec 1) : Nat :=
  4 * hi.toNat + match f with | .f64 => 0 | .f32 => 1 | .f16 => 2 | .bf16 => 3
def encM (p m : Nat) (mi : BitVec 3) (g : GOp) (b : PBase) (o : Word) : Chain :=
  { cell p m mi.toNat (fldG g) (fldP b) with
    ext := bankExt (bank1 g), srcA := srcG g, srcB := srcP b, imms := immExts 0 o }
def encPref (p m i : Nat) (r : BitVec 4) (o : Word) : Chain := { cell p m i 0 r with imms := immExts 0 o }
def encG3p (p m i : Nat) (g : GOp) (b : BitVec 4) (c : GReg) : Chain :=
  { cell p m i (fldG g) b with ext := some (extWord (bank1 g) false c), srcA := srcG g }
def encLdp (p m i : Nat) (r : BitVec 4) (b : PBase) (o : Word) : Chain :=
  { cell p m i r (fldP b) with srcB := srcP b, imms := immExts 0 o }
def encMA (p m i : Nat) (a : GOp) (b : PBase) (c : GReg) : Chain :=
  { cell p m i (fldG a) (fldP b) with ext := some (extWord (bank1 a) false c), srcA := srcG a, srcB := srcP b }
def encGA (p m i : Nat) (g : GOp) : Chain := { encGPn p m i g 0 with ext := bankExt (bank1 g) }
def encGB (p m i : Nat) (g : GOp) (b : BitVec 4) : Chain := { encGPn p m i g b with ext := bankExt (bank1 g) }
def encMM (p m i : Nat) : MM → Chain
  | .two a b => cell p m i (d3 a) (d3 b)
  | .three a b c => { cell p m i (d3 a) (d3 b) with ext := some (extWord 0 false (c.setWidth 6)) }
def vBank (v : BitVec 5) : BitVec 2 := (v >>> 4).setWidth 2
def encV2 (p m i : Nat) (a b : BitVec 5) : Chain :=
  { cell p m i (a.truncate 4) (b.truncate 4) with ext := bankExt (vBank a) }
def encV3 (p m : Nat) (gm : BitVec 3) (a b c : BitVec 5) : Chain :=
  { cell p m gm.toNat (a.truncate 4) (b.truncate 4) with ext := some (extWord (vBank a) false (c.setWidth 6)) }
def encVV (p m : Nat) (gm : BitVec 3) : VV → Chain
  | .two a b => cell p m gm.toNat a b
  | .three a b c => encV3 p m gm a b c
  | .imm a b c => { cell p m gm.toNat (a.truncate 4) (b.truncate 4) with ext := some (extWord (vBank a) true c) }
def encVcmp (p m : Nat) (gm cc d : BitVec 3) (b c : BitVec 5) : Chain :=
  { cell p m gm.toNat (d3 d) (b.truncate 4) with
    ext := some (extWord (vBank b) false (c.setWidth 6)), imms := [cc.setWidth 9] }
def encVbcast (p m : Nat) (gm : BitVec 3) (a : BitVec 5) (g : GOp) : Chain :=
  { cell p m gm.toNat (a.truncate 4) (fldG g) with ext := bankExt (vBank a), srcB := srcG g }
def encVM (p m : Nat) (gm : BitVec 3) (a : BitVec 5) (b : PBase) (o : Word) : Chain :=
  { cell p m gm.toNat (a.truncate 4) (fldP b) with
    ext := bankExt (vBank a), srcB := srcP b, imms := immExts 0 o }
def encVMC (p m : Nat) (gm : BitVec 3) (a : BitVec 5) (b : PBase) (c : BitVec 6) : Chain :=
  { cell p m gm.toNat (a.truncate 4) (fldP b) with ext := some (extWord (vBank a) false c), srcB := srcP b }
def encVred (p m : Nat) (gm op : BitVec 3) (g : GOp) (b : BitVec 5) : Chain :=
  { cell p m gm.toNat (fldG g) (b.truncate 4) with
    ext := bankExt (vBank b), srcA := srcG g, imms := [op.setWidth 9] }
def encVscan (p m : Nat) (gm op : BitVec 3) (a b : BitVec 5) : Chain :=
  { encV2 p m gm.toNat a b with imms := [op.setWidth 9] }
def encVcvt (p m : Nat) (gm : BitVec 3) (f : BitVec 4) (sat : Bool) (a b : BitVec 5) : Chain :=
  { encV2 p m gm.toNat a b with imms := [(BitVec.ofBool sat ++ f).setWidth 9] }
def encABc (p m i : Nat) (a b : BitVec 4) (c : GReg) : Chain :=
  { cell p m i a b with ext := some (extWord 0 false c) }
def wA (d : BitVec 3) (k : Option (BitVec 4)) : BitVec 4 := BitVec.ofBool k.isSome ++ d
def wImm (s : BitVec 4) (k : Option (BitVec 4)) : BitVec 9 := 0#1 ++ s ++ k.getD 0
def encCopy (p m i : Nat) (d : BitVec 3) (k : Option (BitVec 4)) (w : WDst) (s : BitVec 4) (g : GReg) : Chain :=
  match w with
  | .ptr n => { cell p m i (wA d k) n with ext := some (extWord 0 false g), imms := [wImm s k] }
  | .handle h =>
    { cell p m i (wA d k) (d3 h) with ext := some (extWord 0 false g), srcB := some 0, imms := [wImm s k] }
def encWD (p m i : Nat) (d : BitVec 3) (k : Option (BitVec 4)) (a s x : BitVec 4) : Chain :=
  { cell p m i (wA d k) a with ext := some (extWord 0 false (x.setWidth 6)), imms := [wImm s k] }
def encHitch (p m i : Nat) (a x : BitVec 9) (k : Byte) : Chain := { encN8 p m i k with imms := [a, x] }
def encHitchP (p m i : Nat) (a x : BitVec 4) (k : Byte) : Chain := { cell p m i a x with imms := [k.setWidth 9] }
def encHN (p m i : Nat) (h : BitVec 3) (n : BitVec 31) : Chain :=
  { cell p m i (d3 h) (n.truncate 4) with imms := immExtsU 4 n.toNat }
def encTkt (p m i : Nat) (g : GOp) (h : BitVec 3) (c : Option GReg) : Chain :=
  { cell p m i (fldG g) (d3 h) with ext := optExt (bank1 g) c, srcA := srcG g }
def lvlCode : Lvl → BitVec 4
  | .l k => k.setWidth 4
  | .inner => 7
def sigExt (s : SigOp) : BitVec 9 := (lvlCode s.lvl).truncate 3 ++ s.idx
def encSig (p m i : Nat) (a b : BitVec 4) (s : SigOp) : Chain := { cell p m i a b with imms := [sigExt s] }
def encSigG (p m i : Nat) (s : SigOp) (g : GOp) : Chain := { encGA p m i g with imms := [sigExt s] }
def encSigQ (p m i : Nat) (q : QDst) (s : SigOp) : Chain := { encQ p m i q 0 with imms := [sigExt s] }
def encSigQG (p m i : Nat) (q : QDst) (g : GOp) (s : SigOp) : Chain :=
  { cell p m i (fldQ q) (fldG g) with
    ext := bankExt (bank1 g), srcA := srcQ q, srcB := srcG g, imms := [sigExt s] }
def encAbortw (p m i : Nat) (s : SigOp) (o : Word) : Chain :=
  { encB8 p m i o with imms := sigExt s :: immExts 8 o }
def encQG (p m i : Nat) (q : QDst) (g : GOp) : Chain :=
  { cell p m i (fldQ q) (fldG g) with ext := bankExt (bank1 g), srcA := srcQ q, srcB := srcG g }
def encGG (p m i : Nat) (g h : GOp) : Chain :=
  { cell p m i (fldG g) (fldG h) with ext := bankExt (bank2 g h), srcA := srcG g, srcB := srcG h }
def encDemand (p m i : Nat) (r : BitVec 4) (h : BitVec 3) (l : Option Lvl) : Chain :=
  { cell p m i r (d3 h) with imms := (match l with | some l => [(lvlCode l).setWidth 9] | none => []) }
def fldCr : CrOp → BitVec 4
  | .reg n => n
  | .port d => fldG (.port d)
def srcCr : CrOp → Option Byte
  | .reg _ => none
  | .port d => srcG (.port d)
def encCr (p m i : Nat) (r : CrOp) (k : BitVec 31) : Chain :=
  { cell p m i (fldCr r) (k.truncate 4) with srcA := srcCr r, imms := immExtsU 4 k.toNat }

/-- The chain of an instruction; events have none. -/
def toChain (i : Instr) : Option Chain :=
  match i with
  | .nop => some (encN 0 0 1)
  | .ret => some (encN 0 0 2)
  | .yield => some (encN 0 0 3)
  | .rtu => some (encN 0 0 4)
  | .follow => some (encN 0 0 5)
  | .chunk => some (encN 0 0 7)
  | .trap c => some (encN8 0 0 6 c)
  | .b o => some (encB8 0 1 0 o)
  | .call o => some (encB8 0 1 1 o)
  | .j p => some (encAB 0 1 2 p 0)
  | .callP p => some (encAB 0 1 3 p 0)
  | .loop g o => some (encRI 0 1 4 (.reg g) 4 o)
  | .bc q o => some (encBc 0 1 5 false q o)
  | .bcN q o => some (encBc 0 1 5 true q o)
  | .bq o => some (encB8 0 1 6 o)
  | .bqp q => some (encQ 0 1 7 q 0)
  | .sleep d => some (encAB 0 2 0 (d3 d) 0)
  | .waitc k g => some (encAg 0 2 1 k g)
  | .waitcSub k g => some (encAg 0 2 2 k g)
  | .fenceAcq => some (encN 0 2 3)
  | .fenceRel => some (encN 0 2 4)
  | .fenceFull => some (encN 0 2 5)
  | .flush => some (encN 0 2 6)
  | .add r => some (encRR 0 3 0 r)
  | .sub r => some (encRR 0 3 1 r)
  | .and r => some (encRR 0 3 2 r)
  | .or r => some (encRR 0 3 3 r)
  | .xor r => some (encRR 0 3 4 r)
  | .andn r => some (encRR 0 3 5 r)
  | .min r => some (encRR 0 3 6 r)
  | .max r => some (encRR 0 3 7 r)
  | .minu r => some (encRR 0 4 0 r)
  | .maxu r => some (encRR 0 4 1 r)
  | .mul r => some (encRR 0 4 2 r)
  | .mulh r => some (encRR 0 4 3 r)
  | .mulhu r => some (encRR 0 4 4 r)
  | .clmul r => some (encRR 0 4 5 r)
  | .clmulh r => some (encRR 0 4 6 r)
  | .insr a b p l => some (encXI 0 4 7 (.reg a) b p l)
  | .div r => some (encRR 0 5 0 r)
  | .divu r => some (encRR 0 5 1 r)
  | .rem r => some (encRR 0 5 2 r)
  | .remu r => some (encRR 0 5 3 r)
  | .shl r => some (encRR 0 5 4 r)
  | .shr r => some (encRR 0 5 5 r)
  | .sar r => some (encRR 0 5 6 r)
  | .rol r => some (encRR 0 5 7 r)
  | .mov r => some (encRU 0 6 0 r)
  | .neg r => some (encRU 0 6 1 r)
  | .abs r => some (encRU 0 6 2 r)
  | .popc r => some (encRU 0 6 3 r)
  | .clz r => some (encRU 0 6 4 r)
  | .ctz r => some (encRU 0 6 5 r)
  | .bswap r => some (encRU 0 6 6 r)
  | .extr a b p l => some (encXI 0 6 7 a b p l)
  | .sel k d b c => some (encSel 0 7 0 k d b c)
  | .addi g i => some (encRI 0 8 0 (.reg g) 4 i)
  | .ldi g i => some (encRI 0 8 1 g 4 i)
  | .ldih g i => some (encRIu 0 8 2 (.reg g) i.toNat)
  | .shlImm g k => some (encRIu 0 8 3 (.reg g) k.toNat)
  | .shrImm g k => some (encRIu 0 8 4 (.reg g) k.toNat)
  | .sarImm g k => some (encRIu 0 8 5 (.reg g) k.toNat)
  | .rolImm g k => some (encRIu 0 8 6 (.reg g) k.toNat)
  | .paddi p i => some (encPaddi 0 8 7 p i)
  | .cmp cc q b c => some (encCmp 0 9 cc q b c)
  | .cmpi cc q b i => some (encCmpi 0 10 cc q b i)
  | .padd r => some (encPadd 0 11 0 r)
  | .pset p g c => some (encPG 0 11 1 p g c)
  | .pget g p => some (encGPn 0 11 2 g p)
  | .pgetHi g p => some (encGPn 0 11 3 g p)
  | .pmake p g c => some (encPG 0 11 4 p g c)
  | .qand a b => some (encAB 0 11 5 (d3 a) (d3 b))
  | .qor a b => some (encAB 0 11 6 (d3 a) (d3 b))
  | .qnot a b => some (encQ 0 11 7 a (d3 b))
  | .pcmp cc q b c => some (encPcmp 0 12 cc q b c)
  | .qset q v => some (encQ 0 12 4 q (if v then 1 else 0))
  | .faddF64 r => some (encRR 0 13 0 r)
  | .fsubF64 r => some (encRR 0 13 1 r)
  | .fmulF64 r => some (encRR 0 13 2 r)
  | .ffmaF64 a b c => some (encG3 0 13 3 (.reg a) b c)
  | .fdivF64 r => some (encRR 0 13 4 r)
  | .fsqrtF64 r => some (encRU 0 13 5 r)
  | .fminF64 r => some (encRR 0 13 6 r)
  | .fmaxF64 r => some (encRR 0 13 7 r)
  | .faddF32 r => some (encRR 0 14 0 r)
  | .fsubF32 r => some (encRR 0 14 1 r)
  | .fmulF32 r => some (encRR 0 14 2 r)
  | .ffmaF32 a b c => some (encG3 0 14 3 (.reg a) b c)
  | .fdivF32 r => some (encRR 0 14 4 r)
  | .fsqrtF32 r => some (encRU 0 14 5 r)
  | .fminF32 r => some (encRR 0 14 6 r)
  | .fmaxF32 r => some (encRR 0 14 7 r)
  | .faddF16 r => some (encRR 0 15 0 r)
  | .fsubF16 r => some (encRR 0 15 1 r)
  | .fmulF16 r => some (encRR 0 15 2 r)
  | .ffmaF16 a b c => some (encG3 0 15 3 (.reg a) b c)
  | .fdivF16 r => some (encRR 0 15 4 r)
  | .fsqrtF16 r => some (encRU 0 15 5 r)
  | .fminF16 r => some (encRR 0 15 6 r)
  | .fmaxF16 r => some (encRR 0 15 7 r)
  | .faddBf16 r => some (encRR 0 16 0 r)
  | .fsubBf16 r => some (encRR 0 16 1 r)
  | .fmulBf16 r => some (encRR 0 16 2 r)
  | .ffmaBf16 a b c => some (encG3 0 16 3 (.reg a) b c)
  | .fdivBf16 r => some (encRR 0 16 4 r)
  | .fsqrtBf16 r => some (encRU 0 16 5 r)
  | .fminBf16 r => some (encRR 0 16 6 r)
  | .fmaxBf16 r => some (encRR 0 16 7 r)
  | .fcmpF64 cc q b c => some (encFcmp 0 17 0#1 cc q b c)
  | .fcmpF32 cc q b c => some (encFcmp 0 17 1#1 cc q b c)
  | .fcmpF16 cc q b c => some (encFcmp 0 18 0#1 cc q b c)
  | .fcmpBf16 cc q b c => some (encFcmp 0 18 1#1 cc q b c)
  | .fcvt d s t a b => some (encFcvt 0 19 d s t a b)
  | .fclass f r => some (encRU 0 20 (ffmtCode f 0#1) r)
  | .fmov f r => some (encRU 0 20 (ffmtCode f 1#1) r)
  | .ld s g b o => some (encM 0 21 (0#1 ++ s) g b o)
  | .ldWr s g b o => some (encM 0 21 (1#1 ++ s) g b o)
  | .lds s g b o => some (encM 0 22 (0#1 ++ s) g b o)
  | .ldsWr s g b o => some (encM 0 22 (1#1 ++ s) g b o)
  | .st s g b o => some (encM 0 23 (0#1 ++ s) g b o)
  | .stRel s g b o => some (encM 0 23 (1#1 ++ s) g b o)
  | .ldAcq s g b o => some (encM 0 24 (0#1 ++ s) g b o)
  | .ldq g b o => some (encM 0 24 4 (.reg g) b o)
  | .ldqWr g b o => some (encM 0 24 5 (.reg g) b o)
  | .ldqAcq g b o => some (encM 0 24 6 (.reg g) b o)
  | .ldsync s g b o => some (encM 0 25 (0#1 ++ s) g b o)
  | .clre p g => some (encAg 0 25 4 p g)
  | .pref p o => some (encPref 0 25 5 p o)
  | .pin s p c => some (encG3p 0 25 6 s p c)
  | .unpin p g => some (encAg 0 25 7 p g)
  | .ldp p b o => some (encLdp 0 26 0 p b o)
  | .ldpWr p b o => some (encLdp 0 26 1 p b o)
  | .ldpAcq p b o => some (encLdp 0 26 2 p b o)
  | .stp p b o => some (encLdp 0 26 3 p b o)
  | .stpRel p b o => some (encLdp 0 26 4 p b o)
  | .aAdd a b c => some (encMA 0 27 0 a b c)
  | .aAnd a b c => some (encMA 0 27 1 a b c)
  | .aOr a b c => some (encMA 0 27 2 a b c)
  | .aXor a b c => some (encMA 0 27 3 a b c)
  | .aMin a b c => some (encMA 0 27 4 a b c)
  | .aMax a b c => some (encMA 0 27 5 a b c)
  | .aSwap a b c => some (encMA 0 27 6 a b c)
  | .aCas a b c => some (encMA 0 27 7 (.reg a) b c)
  | .aAddAcq a b c => some (encMA 0 28 0 a b c)
  | .aAndAcq a b c => some (encMA 0 28 1 a b c)
  | .aOrAcq a b c => some (encMA 0 28 2 a b c)
  | .aXorAcq a b c => some (encMA 0 28 3 a b c)
  | .aMinAcq a b c => some (encMA 0 28 4 a b c)
  | .aMaxAcq a b c => some (encMA 0 28 5 a b c)
  | .aSwapAcq a b c => some (encMA 0 28 6 a b c)
  | .aCasAcq a b c => some (encMA 0 28 7 (.reg a) b c)
  | .aAddRel a b c => some (encMA 0 29 0 a b c)
  | .aAndRel a b c => some (encMA 0 29 1 a b c)
  | .aOrRel a b c => some (encMA 0 29 2 a b c)
  | .aXorRel a b c => some (encMA 0 29 3 a b c)
  | .aMinRel a b c => some (encMA 0 29 4 a b c)
  | .aMaxRel a b c => some (encMA 0 29 5 a b c)
  | .aSwapRel a b c => some (encMA 0 29 6 a b c)
  | .aCasRel a b c => some (encMA 0 29 7 (.reg a) b c)
  | .rAdd a b o => some (encM 0 30 0 a b o)
  | .rMin a b o => some (encM 0 30 1 a b o)
  | .rMax a b o => some (encM 0 30 2 a b o)
  | .rAnd a b o => some (encM 0 30 3 a b o)
  | .rOr a b o => some (encM 0 30 4 a b o)
  | .rXor a b o => some (encM 0 30 5 a b o)
  | .rAddF64 a b o => some (encM 0 30 6 a b o)
  | .rAddF32 a b o => some (encM 0 30 7 a b o)
  | .vsett g => some (encGA 1 0 1 g)
  | .mand r => some (encMM 1 0 2 r)
  | .mor r => some (encMM 1 0 3 r)
  | .mnot a b => some (encAB 1 0 4 (d3 a) (d3 b))
  | .mpop g m => some (encGB 1 0 5 g (d3 m))
  | .compress a b => some (encV2 1 0 6 a b)
  | .vadd m r => some (encVV 1 1 m r)
  | .vsub m r => some (encVV 1 2 m r)
  | .vmul m r => some (encVV 1 3 m r)
  | .vfma m a b c => some (encV3 1 4 m a b c)
  | .vdiv m r => some (encVV 1 5 m r)
  | .vsqrt m a b => some (encV2 1 6 m.toNat a b)
  | .vmin m r => some (encVV 1 7 m r)
  | .vmax m r => some (encVV 1 8 m r)
  | .vand m r => some (encVV 1 9 m r)
  | .vor m r => some (encVV 1 10 m r)
  | .vxor m r => some (encVV 1 11 m r)
  | .vshl m r => some (encVV 1 12 m r)
  | .vshr m r => some (encVV 1 13 m r)
  | .vsar m r => some (encVV 1 14 m r)
  | .vcmp m cc d b c => some (encVcmp 1 15 m cc d b c)
  | .vsel m a b c => some (encV3 1 16 m a b c)
  | .vmov m a b => some (encV2 1 17 m.toNat a b)
  | .vbcast m a g => some (encVbcast 1 18 m a g)
  | .vld m a b o => some (encVM 1 19 m a b o)
  | .vst m a b o => some (encVM 1 20 m a b o)
  | .vlds m a b c => some (encVMC 1 21 m a b c)
  | .vsts m a b c => some (encVMC 1 22 m a b c)
  | .vgather m a b c => some (encVMC 1 23 m a b (c.setWidth 6))
  | .vscatter m a b c => some (encVMC 1 24 m a b (c.setWidth 6))
  | .vred m o g b => some (encVred 1 25 m o g b)
  | .vscan m o a b => some (encVscan 1 26 m o a b)
  | .vperm m a b c => some (encV3 1 27 m a b c)
  | .vshuf m a b c => some (encV3 1 28 m a b c)
  | .vcvt m f s a b => some (encVcvt 1 29 m f s a b)
  | .vqnt m f s a b => some (encVcvt 1 30 m f s a b)
  | .mma t p c => some (encABc 2 1 0 (t.setWidth 4) p c)
  | .mmas t p c => some (encABc 2 1 1 (t.setWidth 4) p c)
  | .mzero t => some (encAB 2 1 2 (t.setWidth 4) 0)
  | .mcommit => some (encN 2 1 3)
  | .mwaitb c => some (encN8 2 1 4 c)
  | .mtrn t u => some (encAB 2 1 5 (t.setWidth 4) (u.setWidth 4))
  | .accrd t p c => some (encABc 2 2 0 (t.setWidth 4) p c)
  | .accwr t p c => some (encABc 2 2 1 (t.setWidth 4) p c)
  | .wload p g => some (encAg 2 2 2 p g)
  | .dict p => some (encAB 2 2 3 p 0)
  | .copy d k w s g => some (encCopy 3 1 0 d k w s g)
  | .copym d k a s x => some (encWD 3 1 1 d k a s x)
  | .tile d k a s x => some (encWD 3 1 2 d k a s x)
  | .gather d k a s x => some (encWD 3 1 3 d k a s x)
  | .mcast d k a s x => some (encWD 3 1 4 d k a s x)
  | .hitch a m k => some (encHitch 3 2 0 a m k)
  | .hitchP a m k => some (encHitchP 3 2 1 a m k)
  | .unhitch => some (encN 3 2 2)
  | .rest => some (encN 3 2 3)
  | .hcfg h g => some (encAg 3 3 0 (d3 h) g)
  | .advpG h g => some (encAg 3 3 1 (d3 h) g)
  | .advpN h n => some (encHN 3 3 2 h n)
  | .advcG h g => some (encAg 3 3 3 (d3 h) g)
  | .advcN h n => some (encHN 3 3 4 h n)
  | .tkt g h c => some (encTkt 3 3 5 g h c)
  | .rfill g h c => some (encTkt 3 3 6 g h c)
  | .rtake g h => some (encGPn 3 3 7 g (d3 h))
  | .pause => some (encN 4 1 0)
  | .pauseUp => some (encN 4 1 1)
  | .emit s => some (encSig 4 1 2 0 0 s)
  | .emitv s g => some (encSigG 4 1 3 s g)
  | .test q s => some (encSigQ 4 1 4 q s)
  | .testv q g s => some (encSigQG 4 1 5 q g s)
  | .renounce k g => some (encGB 4 1 6 g (k.setWidth 4))
  | .resolve q s => some (encSigQ 4 1 7 q s)
  | .abortw s o => some (encAbortw 4 2 0 s o)
  | .suspw s => some (encSig 4 2 1 0 0 s)
  | .endw => some (encN 4 2 2)
  | .instn g l => some (encGPn 4 2 3 g (lvlCode l))
  | .teamj g => some (encGA 4 2 4 g)
  | .teaml => some (encN 4 2 5)
  | .teamh p l => some (encAB 4 2 6 p (lvlCode l))
  | .cause g => some (encGA 4 2 7 g)
  | .forkw g k => some (encAB 5 1 0 (g.setWidth 4) k)
  | .widx g => some (encGA 5 1 1 g)
  | .claimw => some (encN 5 1 2)
  | .joinw g => some (encGA 5 1 3 g)
  | .choosew q g => some (encQG 5 1 4 q g)
  | .abandw => some (encN 5 1 5)
  | .wstat g h => some (encGG 5 1 6 g h)
  | .demand p h l => some (encDemand 5 2 0 p h l)
  | .xgo p => some (encAB 5 2 1 p 0)
  | .xwait => some (encN 5 2 2)
  | .xstat g h => some (encGG 5 2 3 g h)
  | .profq g => some (encGA 5 2 4 g)
  | .predw g => some (encGA 5 2 5 g)
  | .hints => some (encN 5 2 6)
  | .spawn g k p => some (encG3p 5 3 0 g p k)
  | .spawnb g k p => some (encG3p 5 3 1 g p k)
  | .take g p => some (encGB 5 3 2 g p)
  | .deal g p => some (encGB 5 3 3 g p)
  | .done => some (encN 5 3 4)
  | .svc c => some (encN8 6 1 0 c)
  | .crrd r k => some (encCr 6 1 1 r k)
  | .crwr r k => some (encCr 6 1 2 r k)
  | .plbinv p g => some (encAg 6 1 3 p g)
  | .husk g p => some (encGB 6 1 4 g p)
  | .unhusk g p => some (encGB 6 1 5 g p)
  | .tret => some (encN 6 1 6)
  | .haltg g => some (encGA 6 1 7 g)
  | .idle => some (encN 6 2 0)
  | .takeSeed _ _ => none
  | .followAttach _ => none
  | .chunkLimit => none
  | .userTrapEntry _ => none
  | .vectorQueueExecute _ => none
  | .laneGroupGrant _ => none
  | .tileOperationStart _ => none
  | .tileOperationFinish _ => none
  | .engineLineLanding _ _ => none
  | .walkerCommandComplete _ _ => none
  | .promiseDue _ _ => none
  | .neighbourPortDelivery _ => none
  | .postedRequestArrival _ => none
  | .postedAckArrival _ => none
  | .postedResendTimeout _ _ _ => none
  | .flushMarkerArrival _ => none
  | .flushMarkerAnswer _ => none
  | .remoteAccessArrival _ _ => none
  | .remoteLoadReturn _ _ => none
  | .remoteRefused _ => none
  | .flitHop _ _ => none
  | .spanLinkFlitReceive _ _ => none
  | .spanLinkRetrain _ _ => none
  | .bulkPacketArrival _ _ => none
  | .dropNoticeArrival _ => none
  | .reservationRequestArrival _ => none
  | .grantArrival _ => none
  | .grantExpiry _ => none
  | .incarnationChange _ => none
  | .signalEmitArrival => none
  | .maskClearArrival => none
  | .resolveArrival => none
  | .handlerRegistrationArrival => none
  | .causalityTrap _ => none
  | .computePhaseEnd _ => none
  | .instantStart _ => none
  | .claimArrival _ => none
  | .rivalKill _ => none
  | .viewCommitComplete _ _ => none
  | .viewTagFree _ _ => none
  | .calendarCompute _ => none
  | .calendarArrival _ _ => none
  | .exchangePhaseStart _ _ => none
  | .exchangeUnitLanding _ _ => none
  | .exchangeSegmentEnd _ _ => none
  | .residualPhaseStart _ => none
  | .arbiterHeartbeat _ => none
  | .arbiterFailover => none
  | .spillRefill _ => none
  | .spillResume _ => none
  | .queueBalance _ _ => none
  | .handlerSeedSteal _ _ => none
  | .replayDiverged => none
  | .quantumEnd => none
  | .queueNotify _ _ => none
  | .packetDispatch => none
  | .launchAdmit => none
  | .launchCapacityReserve => none
  | .launchStart => none
  | .launchFaultStop => none
  | .launchItemAccounting => none
  | .crecFinalWrite => none
  | .translationRequest _ _ => none
  | .translationReply _ => none
  | .paddockApply _ => none
  | .trapRecordRetry => none
  | .supervisorEntry _ => none
  | .huskStreamComplete _ => none
  | .haltGroupMemberHalt _ => none
  | .hostDebugHalt _ => none
  | .coreResume _ => none
  | .packageReset _ => none
  | .firmwareVerify _ _ => none
  | .firmwareRetry _ => none
  | .attestationRequest _ _ => none
  | .identityCertRequest _ => none
  | .partitionChange _ _ => none
  | .errcntClear _ _ => none
  | .clusterFailure _ _ => none
  | .checkpointStream _ => none
  | .checkpointRestore _ => none
  | .thermalThrottle _ _ => none
  | .thermalHalt _ => none
  | .illegalInsn _ _ => none
  | .postedStoreSend _ _ _ => none
  | .walkerCommandStart _ => none
  | .hostWindowAccess _ _ _ _ => none

/-- The words of an instruction (R172 to R188, R196). -/
def encode (i : Instr) : Option (List (BitVec 16)) := (toChain i).map Chain.emit

end Sys2Proof
end

