-- ==== Sys2Proof/Machine/Fetch.lean ====
section
/-! DEFINITION. Fetching an instruction, and placing one (spec/10 R178, R179, R189 to R191). -/

namespace Sys2Proof.Machine

/-- The page entry that lets the agent fetch at an address: the X right alone, in its domain (R189, R329). -/
def fetchRight (va : Addr) : Run Unit := do
  require (va.toNat / 2 ^ 79 = 0) cRights va
  let s ← get
  let did := s.did
  match s.core.plb.find? fun e => e.granule == va.toNat / 65536 && e.did == did && (e.rights &&& rX) == rX with
  | some e => modify fun s => { s with core := fillPlb s.core e }
  | none =>
    match askUnit s did va.toNat true with
    | none => throw (.absent va)
    | some (e, s') => do
      set s'
      require (e.rights &&& rX = rX) cRights va

/-- The physical address of a byte of code: a launch's pages lie where they lay when it started (R191). -/
def codeKey (s : State) (va : Nat) : Run Nat := do
  let key ← physKey s va
  match if s.super then none else aget (va / 65536) s.launch.frames with
  | some f => return f * 65536 + va % 65536
  | none => return key

/-- One word of code: a launch runs its code as it stood when it started (R191) (DEDUCED, notes/assumptions/55.md). The
supervisor belongs to no launch, and runs what stands in memory now (DESIGN CHOICE, notes/assumptions/55.md). -/
def fetchWord (va : Addr) : Run (BitVec 16) := do
  require (va.toNat % 2 = 0) cAlign va
  fetchRight va
  let s ← get
  let key ← codeKey s va.toNat
  require (!poisoned s 0 0 key) cUncorrectable va
  let m := if s.super then s.mem else s.launch.image
  return readCell m (key + 1) ++ readCell m key

/-- The words of a chain, up to its base word, to 0xFFFF or to a fifth extension word (R178). -/
def fetchChain : Nat → Addr → Run (List (BitVec 16))
  | 0, _ => return []
  | n + 1, va => do
    let w ← fetchWord va
    if w.extractLsb' 11 5 = 0x1F#5 ∧ w ≠ 0xFFFF#16 then return w :: (← fetchChain n (va + 2))
    else return [w]

/-- The instruction at the pc, with its base word's address and its successor's set (R179); a chain that is no
instruction raises its fault (R189, R190). -/
noncomputable def fetchInstr : Run Instr := do
  let a := (← get).cur
  let ws ← fetchChain 5 a.regs.pc
  match decode ws with
  | .ok (i, ch, _) => do
    let base := a.regs.pc + BitVec.ofNat 80 (2 * (ch.words - 1))
    modify fun s => s.modCur fun a => { a with base := base, npc := base + 2 }
    return i
  | .error (.fields true) => if a.seq = .x then fault cPrivilege 0 else illegal
  | .error _ => illegal

/-- The core asks the unit for a page (DEDUCED, notes/assumptions/16.md). -/
def askPage (va : Addr) (s : State) : State := { s with core := { s.core with asked := some va } }

/-- A function after a next state. -/
def andThen (f : State → State) (r : Res) : Res :=
  match r with
  | .next s => .next (f s)
  | r => r

/-- The pc at which an instruction is placed: the agent's own where it can be fetched from, else 0x10000. -/
def placePc (s : State) : Addr :=
  if s.cur.regs.pc.toNat < 2 ^ 79 ∧ s.cur.regs.pc.toNat % 2 = 0 ∧ s.cur.regs.pc.toNat % 65536 < 65520 then s.cur.regs.pc
  else 0x10000

/-- A page entry for the granule of an address: frame 1, every domain, all rights, home logical core 0 (R334). -/
def placeEntry : Nat := 2 ^ 84 + 1 * 2 ^ 48 + 0xFFFF * 2 ^ 32 + 31 * 2 ^ 27

/-- A launch of one logical core whose one thread stands in slot 0 before the given words
(DESIGN CHOICE, notes/assumptions/7.md). -/
def placeInstr (s : State) (ws : List (BitVec 16)) : State :=
  let pc := placePc s
  let bytes := bytesOfWords ws
  let at0 := 65536 + pc.toNat % 65536
  let img := ((List.range bytes.length).zip bytes).foldl (fun m ib => writeCell m (at0 + ib.1) ib.2)
    s.launch.image
  let s := { s with agenda := [], plan := [], inputs := [], packages := s.packages.map (fun (p : Package) => { p with inReset := false }) }
  let c := { s.core with halted := false, haltedBy := 0, sup := false }
  let s := { s with
    core := fillPlb c (plbOf (pc.toNat / 65536) (some (domDid c)) placeEntry)
    launch := { s.launch with phase := .running, l := max 1 s.launch.l, w := max 1 s.launch.w, image := img }
    cur := { s.cur with
      state := .held, seq := .x, slot := some 0, gate := false, wait := none, core := s.core.id, lcore := s.lc.id
      launch := s.launch.id, traps := []
      regs := { s.cur.regs with pc := pc } } }
  cacheEntry s s.core.id pc.toNat placeEntry

end Sys2Proof.Machine
end

