-- ==== Sys2Proof/Machine/Due.lean ====
section
/-! DEFINITION. The events that may happen in a state, and those of them that do (notes/assumptions/1.md, 4.md). -/

namespace Sys2Proof.Machine

/-- The event would change the state. -/
noncomputable def effective (s : State) (e : Instr) : Bool :=
  match exec e s with
  | .next t => decide (t ≠ s)
  | _ => false

/-- The event is of a launch under QUANTUM; events that are of no launch have launch 0. -/
def fixedOrder (s : State) (x : Nat × Instr) : Bool := x.1 != 0 && (launchOf s x.1).mode == .quantum
/-- Events to which the spec leaves no time of their own: a thread enters a trap at its next instruction boundary, a
follower attaches when the leader comes to its pc, and queues exchange seeds every 256 cycles (R25, R27, R161). -/
def prompt : Instr → Bool
  | .userTrapEntry _ => true
  | .followAttach _ => true
  | .queueBalance _ _ => true
  | _ => false

/-- What may happen next of the events of one kind: under QUANTUM the first that would change the state, and of the others
any one that would (R132, R134, R167). -/
noncomputable def choose (s : State) (l : List (Nat × Instr)) : List (Nat × Instr) :=
  let can := l.filter fun x => effective s x.2
  let rest := can.filter fun x => !prompt x.2
  can.filter (fun x => prompt x.2) ++ (rest.find? (fixedOrder s)).toList ++
    (pickOne s.cycle (rest.filter fun x => !fixedOrder s x)).toList

/-- The launch whose work a core does. -/
def coreLaunch (s : State) (core : Nat) : Nat := ((launchOn s core).map (·.1)).getD 0
def agentLaunch (s : State) (tid : Nat) : Nat := ((s.getAgent tid).map (·.launch)).getD 0
/-- What a core's units have to do: under QUANTUM those of a core in supervisor state do not wait for the quantum's end, for
HUSK waits for them (R167, R353). -/
def atCore (s : State) (core launch : Nat) : Nat := if (s.getCore core).sup then 0 else launch
/-- The environment's choice `k` at this step. -/
def bad (s : State) (k : Nat) : Bool := Config.mishap s.cycle k

/-- The state without what an attempt to issue leaves behind: cached entries and copies, and the walk under way. -/
def State.still (s : State) : State :=
  { s with
    choice := 0, tuc := []
    core := { s.core with plb := [], asked := none }
    cur := { s.cur with base := 0, npc := 0, walks := 0, chunk := { s.cur.chunk with l1 := [] } } }

/-- A thread that waits goes on waiting when it issues its instruction again: the attempt changes nothing. -/
noncomputable def stillBlocked (s : State) (a : Agent) : Bool :=
  a.wait.isSome &&
    let t := focusAgent a.tid s
    match fetchInstr t with
    | .ok (i, u) => match exec i u with
      | .next v => decide (v.still = t.still)
      | _ => false
    | .error (.absent _) => true
    | .error (.wait _) => true
    | .error _ => false

/-! Whose turn it is on X (R20). -/

/-- A ready agent: its next instruction can issue. -/
noncomputable def ready (s : State) (a : Agent) : Bool := mayIssue s a && !stillBlocked s a

/-- The thread of a core that X serves next: the first ready slot after the one that issued last; a thread that has
yielded its turn comes when every other ready slot has issued since (R20, R205). -/
noncomputable def xChoice (s : State) (core : Nat) : Option Agent :=
  let here := (slotOrder (s.getCore core)).filterMap fun k =>
    s.allAgents.find? fun a => a.core == core && a.seq == .x && a.slot == some k && ready s a
  here.find? fun a => match a.skip with
    | none => true
    | some l => here.all fun b => b.tid == a.tid || l.contains (b.slot.getD 4)

/-- No other thread of its core comes before it. -/
noncomputable def isTurn (s : State) (a : Agent) : Bool :=
  a.seq != .x || match xChoice s a.core with
    | some b => b.tid == a.tid
    | none => true

/-- The next agent: the one the plan names, else the first in the line that may issue (DESIGN CHOICE,
notes/assumptions/1.md); on X of a core the slots take turns (R20). Where none may issue, the line moves on. -/
noncomputable def nextAgent (s : State) : State :=
  let queue := s.agents ++ [s.cur]
  let (want, plan) := match s.plan with
    | k :: ks => (queue[k]?, ks)
    | [] => (none, [])
  let s := { s with plan := plan }
  let pick := ((want.bind fun a => if mayIssue s a then some a else none).orElse
      fun _ => queue.find? (takesTurn s)).orElse fun _ => queue.head?
  match pick with
  | some a => focusAgent (((if a.seq = .x then xChoice s a.core else none).getD a).tid) s
  | none => s

/-! Candidates, kind by kind. -/

def runningLaunches (s : State) : List Launch := (allLaunches s).filter (·.phase == .running)
def liveCores (s : State) : List Core := s.allCores.filter (coreRuns s)

noncomputable def coreEvents (s : State) : List (List (Nat × Instr)) :=
  let cs := s.allCores
  let live := liveCores s
  [ cs.map fun c => (0, .haltGroupMemberHalt c.id),
    live.map fun c => (0, .supervisorEntry c.id),
    (live.filter (·.husking.isSome)).map fun c => (0, .huskStreamComplete c.id),
    cs.filterMap fun c => c.asked.map fun va => (0, .translationRequest c.id va),
    cs.map fun c => (0, .translationReply c.id),
    cs.map fun c => (atCore s c.id (coreLaunch s c.id), .vectorQueueExecute c.id),
    ((cs.filter Core.backlogged).map fun c => (atCore s c.id (coreLaunch s c.id), .laneGroupGrant (clusterOf c.id))),
    cs.map fun c => (atCore s c.id (coreLaunch s c.id), .tileOperationStart c.id),
    cs.map fun c => (atCore s c.id (coreLaunch s c.id), .tileOperationFinish c.id),
    cs.flatMap fun c => (c.walker.head?.map fun w => (atCore s c.id w.launch, .walkerCommandStart c.id)).toList,
    cs.flatMap fun c => (List.range ((c.walker.map (·.landing.length)).foldl (· + ·) 0)).map fun k =>
      (atCore s c.id (((findLine c.walker k).map (·.1.launch)).getD 0), .engineLineLanding c.id k),
    cs.flatMap fun c => c.walker.map fun w => (atCore s c.id w.launch, .walkerCommandComplete c.id w.id) ]

/-- Something else is on its way that may contend for what a command uses; commands ahead of it in its own walker do not
count (R98). -/
def othersMove (s : State) (core id : Nat) : Bool :=
  (s.allCores.any fun c => c.walker.any fun w => w.started && !(c.id == core && decide (w.id ≤ id))) ||
  (s.allAgents.any fun a => a.loads.any fun l => l.value.isNone) || !s.net.isEmpty ||
  s.packets.any fun p => p.unit.isSome || !(p.core == core && decide (p.cmd ≤ id))
/-- One of its packets has been dropped. -/
def packetDropped (s : State) (core id : Nat) : Bool :=
  s.packets.any fun p => p.unit.isNone && p.core == core && p.cmd == id && (p.st != .sent || p.reserved)
/-- One of its lines waits for a held range, in the paddock or on its way to it, or for an away core. -/
def lineWaits (s : State) (core id : Nat) : Bool :=
  match (s.getCore core).walker.find? (·.id == id) with
  | none => false
  | some w =>
    let away (n : Nat) : Bool := (launchLcs s w.launch).any fun lc => lc.id == n && lc.away
    let t := focusLaunch w.launch w.lcore s
    w.targets.any away || (w.ring.any fun r => away r.1) || w.landing.any fun l => l.cells.any fun c =>
      match rawAcc t core c.1 with
      | some a => heldRange t a.key 1 || (t.getLc a.home).away
      | none => true
/-- The conditions under which a promise is never missed do not hold (R98). -/
def contended (s : State) (core id : Nat) : Bool := othersMove s core id || packetDropped s core id || lineWaits s core id

/-- A promise falls due once its command is complete, or before where it may be missed (R98). -/
noncomputable def promiseEvents (s : State) : List (Nat × Instr) :=
  s.allAgents.flatMap fun a => ((List.range 8).zip a.regs.d.toList).filterMap fun kd =>
    match kd.2 with
    | .cmd core id false =>
      if !((s.getCore core).walker.any (·.id == id)) ||
          ((launchOf s a.launch).mode != .quantum && contended s core id && bad s 0) then
        some (a.launch, .promiseDue a.tid kd.1)
      else none
    | _ => none

noncomputable def agentEvents (s : State) : List (List (Nat × Instr)) :=
  let as := s.allAgents
  [ promiseEvents s,
    [(s.cur.launch, .chunkLimit)],
    (as.filter trapDue).map fun a => (0, .userTrapEntry a.tid),
    (as.filter (·.follow == .waiting)).map fun a => (0, .followAttach a.tid),
    (as.filter (·.killed)).map fun a => (a.launch, .rivalKill a.tid),
    as.flatMap fun a => (a.loads.filter (·.value.isNone)).map fun l => (atCore s a.core a.launch, .remoteAccessArrival a.tid l.id),
    as.flatMap fun a => (a.loads.filter (·.value.isSome)).map fun l => (atCore s a.core a.launch, .remoteLoadReturn a.tid l.id) ]

/-- Entries of the combining buffers, in ascending logical core (R132). -/
noncomputable def sendEvents (s : State) : List (Nat × Instr) :=
  let es := s.allCores.flatMap fun c => ((List.range 7).zip c.places.toList).flatMap fun ip =>
    (ip.2.entries.filter (!·.sent)).map fun e => (c.id, ip.1, e)
  let order := sortKeyed (((List.range es.length).zip es).map fun ie => ([ie.2.2.2.id.lcore, ie.1], ie.1))
  order.filterMap fun i => (es[i]?).map fun e =>
    (atCore s e.1 e.2.2.launch, .postedStoreSend e.1 e.2.1 e.2.2.id.entry)

noncomputable def resendEvents (s : State) : List (Nat × Instr) :=
  if !bad s 1 then []
  else s.allCores.flatMap fun c => ((List.range 7).zip c.places.toList).flatMap fun ip =>
    (ip.2.entries.filter (·.sent)).filterMap fun e =>
      if (launchOf s e.launch).mode = .quantum then none
      else some (0, .postedResendTimeout c.id ip.1 e.id.entry)

/-- The launch of the entry that an acknowledgement frees. -/
def entryLaunch (s : State) (id : PostId) : Nat :=
  ((((s.getCore id.core).places.toList.flatMap (·.entries)).find? (·.id == id)).map (·.launch)).getD 0
noncomputable def msgEvent (s : State) (k : Nat) : Msg → Nat × Instr
  | .posted m _ => (atCore s m.id.core m.launch, .postedRequestArrival k)
  | .queued m _ => (m.launch, .postedRequestArrival k)
  | .ack id _ => (atCore s id.core (entryLaunch s id), .postedAckArrival k)
  | .refusal m _ _ => (atCore s m.id.core m.launch, .remoteRefused k)
  | .marker core _ _ _ _ => (atCore s core (coreLaunch s core), .flushMarkerArrival k)
  | .answer core _ _ _ => (atCore s core (coreLaunch s core), .flushMarkerAnswer k)

def packetLaunch (s : State) (p : Packet) : Nat := atCore s p.core ((packetOf s p).getD 0)
noncomputable def packetEvent (s : State) (k : Nat) (p : Packet) : Nat × Instr :=
  let l := packetLaunch s p
  match p.st with
  | .sent => (l, .bulkPacketArrival k ((launchOf s l).mode == .quantum || !bad s 2))
  | .lost => (l, .bulkPacketArrival k true)
  | .dropped => (l, .dropNoticeArrival k)
  | .requested => (l, .reservationRequestArrival k)
  | .granted => if (launchOf s l).mode != .quantum && bad s 3 then (0, .grantExpiry k) else (l, .grantArrival k)

noncomputable def fabricEvents (s : State) : List (List (Nat × Instr)) :=
  [ ((List.range s.launch.portq.length).map fun k => (s.launch.id, .neighbourPortDelivery k)),
    sendEvents s, resendEvents s,
    ((List.range s.net.length).zip s.net).map fun km => msgEvent s km.1 km.2,
    ((List.range s.packets.length).zip s.packets).map fun kp => packetEvent s kp.1 kp.2,
    (s.flits.map fun f => (f.pkg, f.node)).eraseDups.map fun x => (0, .flitHop x.1 x.2),
    s.links.map fun l => (0, .spanLinkFlitReceive l.id (!bad s 4)),
    s.links.map fun l => (0, .spanLinkRetrain l.id (!bad s 5)),
    s.packages.map fun p => (0, .incarnationChange p.id),
    (partsOf s).map fun p => (0, .arbiterHeartbeat { part := p, lost := bad s 6 }),
    [(0, .arbiterFailover)] ]

noncomputable def boardEvents (s : State) : List (List (Nat × Instr)) :=
  let ls := runningLaunches s
  let bs := ls.flatMap fun l => (l.boards.filter (!·.ended)).map fun b => (l.id, b)
  let ending := (allLaunches s).filter fun l => l.phase == .stopping || l.phase == .accounting
  let late := ending.flatMap fun l => (l.boards.filter (!·.ended)).map fun b => (l.id, b)
  let ranks (b : Board) : List Nat := List.range ((b.xch.map (·.ranks.length)).getD 0)
  let units (b : Board) : List Nat := List.range ((b.xch.map (·.units.length)).getD 0)
  let m := (msgLaunch s).toList
  [ m.map fun l => (l, .signalEmitArrival), m.map fun l => (l, .maskClearArrival), m.map fun l => (l, .resolveArrival),
    m.map fun l => (l, .handlerRegistrationArrival),
    bs.map fun x => (x.1, .calendarCompute x.2.uid),
    bs.flatMap fun x => (ranks x.2).map fun r => (x.1, .calendarArrival x.2.uid r),
    bs.flatMap fun x => (ranks x.2).map fun r => (x.1, .exchangePhaseStart x.2.uid r),
    (bs ++ late).flatMap fun x => (units x.2).map fun k => (x.1, .exchangeUnitLanding x.2.uid k),
    bs.flatMap fun x => (ranks x.2).map fun r => (x.1, .exchangeSegmentEnd x.2.uid r),
    bs.map fun x => (x.1, .residualPhaseStart x.2.uid),
    bs.map fun x => (x.1, .computePhaseEnd x.2.uid),
    bs.map fun x => (x.1, .instantStart x.2.uid) ]

noncomputable def worldEvents (s : State) : List (List (Nat × Instr)) :=
  let ws := (allLaunches s).flatMap fun l => (l.worlds.filter (·.state != .resolved)).map fun w => (l.id, w)
  [ (ws.filter (!·.2.claims.isEmpty)).map fun x => (x.1, .claimArrival x.2.wid),
    ws.filterMap fun x => x.2.committing.map fun i => (x.1, .viewCommitComplete x.2.wid i),
    s.packages.flatMap fun p => p.dirtyTags.map fun t => (0, .viewTagFree p.id t) ]

/-- Cores that may take a seed: those of the running launches, with the lowest logical core first (R321), and for a rival that
waits any core of its package (R67, R320). -/
def seedCores (s : State) : List Nat :=
  let own := (runningLaunches s).flatMap fun l =>
    let lcs := (launchLcs s l.id).filter (!·.away)
    sortKeyed (lcs.map fun lc => ([if lcHasTask s l.id lc.id then 1 else 0, lc.id], lc.core))
  let rivals := (queuedSeeds s).filter fun x => (s.getAgent x.2.tid).any (·.world.isSome)
  let pkgs := (rivals.map fun x => x.1 / 4).eraseDups
  (own ++ pkgs.flatMap fun p => (List.range 576).map (576 * p + ·)).eraseDups.filter fun c => coreRuns s (s.getCore c)
/-- The launch for whose seed a take of a core waits; a handler seed waits for no quantum's end (R321). -/
def takeLaunch (s : State) (core : Nat) : Option Nat :=
  (takeChoice s core).map fun x => if x.2.2.isNone && x.1.team.isNone then 0 else x.1.launch

/-- The launch for whose seed a die's ring, or its holding buffer, has work to do (R168). -/
def ringLaunch (s : State) (q : DieQ) : Nat := ((q.ring.head?).map fun e => agentLaunch s e.tid).getD 0
def holdLaunch (s : State) (q : DieQ) : Nat :=
  ((q.holding.head?).map fun x => agentLaunch s x.1.tid).getD (ringLaunch s q)

noncomputable def taskEvents (s : State) : List (List (Nat × Instr)) :=
  let cs := seedCores s
  let dies := s.packages.flatMap fun p => (List.range 4).map (4 * p.id + ·)
  [ cs.flatMap fun c => ((takeLaunch s c).toList.flatMap fun l => (List.range 4).map fun k => (l, .takeSeed c k)),
    (if s.allAgents.any (handlerStands s) && bad s 7 then cs.flatMap fun c => (List.range 4).map fun k => (0, .handlerSeedSteal c k)
      else []),
    s.dieqs.map fun q => (ringLaunch s q, .spillRefill q.die),
    s.dieqs.map fun q => (holdLaunch s q, .spillResume q.die),
    (if s.cycle % 256 = 0 then dies.flatMap fun a => (dies.filter (a < ·)).map fun b => (0, .queueBalance a b) else []) ]

noncomputable def systemEvents (s : State) : List (List (Nat × Instr)) :=
  [ [(0, .trapRecordRetry)],
    (s.paddocked.map (·.page)).eraseDups.map fun p => (0, .paddockApply p),
    s.packages.map fun p => (0, .firmwareRetry p.id),
    [(0, .packetDispatch)], [(0, .launchAdmit)], [(0, .launchCapacityReserve)], [(0, .launchStart)],
    [(0, .launchFaultStop)], [(0, .launchItemAccounting)], [(0, .crecFinalWrite)] ]

/-- The launch for which a flit travels. -/
def cargoLaunch (s : State) : Cargo → Nat
  | .posted id => entryLaunch s id
  | .ack id => entryLaunch s id
  | .refusal id => entryLaunch s id
  | .marker core _ _ => coreLaunch s core
  | .answer core _ _ => coreLaunch s core
  | .load tid _ => agentLaunch s tid
  | .reply tid _ => agentLaunch s tid
  | .packet id => ((s.packets.find? (·.id == id)).map (packetLaunch s)).getD 0
/-- Something of a launch is in the fabric. -/
def launchFlies (s : State) (id : Nat) : Bool :=
  (s.flits ++ s.links.flatMap (·.held)).any fun f => cargoLaunch s f.cargo == id

/-- Units of a launch under QUANTUM work at the quantum's end, each once what the one before has sent has come (R167), and
freely once the launch has ended (R348). -/
def unitsMay (s : State) (id : Nat) : Bool :=
  let l := launchOf s id
  id == 0 || l.mode != .quantum || l.phase != .running || (l.quantum == .drain && !launchFlies s id)

/-- What may happen now of each kind of event. -/
noncomputable def enabled (s : State) : List (Nat × Instr) :=
  (coreEvents s ++ agentEvents s ++ fabricEvents s ++ boardEvents s ++ worldEvents s ++ taskEvents s ++
    systemEvents s).flatMap fun l => choose s (l.filter fun x => unitsMay s x.1)

/-- CAUSALITY (R54): where nothing of the launch is on its way and every waiting thread of it stays blocked. -/
noncomputable def causalityEvents (s : State) (on : List (Nat × Instr)) : List (Nat × Instr) :=
  let quiet (id : Nat) : Bool := !on.any (·.1 == id) && !launchFlies s id && (activeAgents s id).all fun a => a.wait.isNone || stillBlocked s a
  choose s ((runningLaunches s).flatMap fun l =>
    if quiet l.id && unitsMay s l.id then (l.boards.filter (!·.ended)).map fun b => (l.id, .causalityTrap b.uid) else [])

/-- REPLAY_DIVERGED (R166): every agent of the launch waits for a predecessor that cannot occur any more. -/
noncomputable def divergedEvents (s : State) (on : List (Nat × Instr)) : List (Nat × Instr) :=
  match firstIn s fun l => l.mode == .replay && l.phase == .running && allReplayWait s l.id with
  | some l =>
    if !on.any (·.1 == l.id) && !launchFlies s l.id && (activeAgents s l.id).all (stillBlocked s) then [(l.id, .replayDiverged)] else []
  | none => []

/-- QUANTUM_END: what was sent in the quantum is complete when no unit of the launch has anything to do (R167). -/
noncomputable def quantumEvents (s : State) (on : List (Nat × Instr)) : List (Nat × Instr) :=
  match firstIn s (quantumPhaseOver s) with
  | some l => if l.quantum == .drain && (on.any (·.1 == l.id) || launchFlies s l.id) then [] else [(l.id, .quantumEnd)]
  | none => []

/-- What happens now of all that may: times are free, but for a launch under QUANTUM
(DESIGN CHOICE, notes/assumptions/1.md). -/
noncomputable def due (s : State) : List Instr :=
  let on := enabled s
  let all := on ++ causalityEvents s on ++ divergedEvents s on ++ quantumEvents s on
  (all.filter fun x => prompt x.2 || fixedOrder s x || Config.happens s.cycle x.2).map (·.2)

/-! What comes from outside at a step, but for the inputs (notes/assumptions/4.md). -/

/-- A corrected error is counted, and has no other effect (R363, R365). -/
def correctedError (s : State) : State :=
  match Config.corrected s.cycle with
  | some (pkg, hbm) => if s.packages.any (·.id == pkg) then countErr pkg (if hbm then 1 else 0) s else s
  | none => s
/-- A word with an uncorrectable error is poisoned (R363). -/
def uncorrectableError (s : State) : State :=
  match Config.uncorrectable s.cycle with
  | some key => if isLocal key || decide (key < memLimit s) then setPoison s 0 0 key true else s
  | none => s
/-- A supervisor interrupt of the host (0) or of the management cores (2) (R349). -/
def outsideInterrupt (s : State) : State :=
  match Config.interrupt s.cycle with
  | some (core, mgmt) =>
    if s.packages.any (fun p => p.id == pkgOf core && !p.inReset) && coreEnabled s core then
      s.modCore core fun c => { c with irqs := c.irqs ++ [if mgmt then 2 else 0] }
    else s
  | none => s
def outside (s : State) : State := outsideInterrupt (uncorrectableError (correctedError s))

/-- After a step of an agent: the next one's turn, what comes from outside, the events that happen, and the oldest input. Every
256 cycles the die queues exchange their occupancies (R161). -/
noncomputable def afterIssue (s : State) : State :=
  let s := outside (nextAgent { s with cycle := s.cycle + 1 })
  let s := if s.cycle % 256 = 0 then showOccupancy s else s
  { s with agenda := due s ++ s.inputs.take 1, inputs := s.inputs.drop 1 }

end Sys2Proof.Machine
end

