-- ==== Sys2Proof/Machine/Step.lean ====
section
/-! DEFINITION. One step: the oldest event due, or the next instruction of the agent whose turn it is. -/

namespace Sys2Proof.Machine

/-- The instruction step: fetch, decode, issue, and then the next agent's turn. A fetch that finds no page waits for one
(R336). -/
noncomputable def stepIssue (s : State) : Host.Outcome State Fault Refusal :=
  let after (t : State) : State := afterIssue (endServe s.cur.tid (endTurn s.cur t))
  let s := takeTurn s
  match fetchInstr s with
  | .ok (i, s') => andThen after (exec i s')
  | .error (.fault c a) => andThen after (exec (.illegalInsn c a) s)
  | .error (.noMemory pa) => .fault (.noMemory pa)
  | .error (.wait w) => .next (after (park w s))
  | .error (.refused f c a) => andThen after (exec (.illegalInsn c a) (f s))
  | .error (.absent va) => .next (after (park (.resource .pageRemoval) (askPage va s)))
  | .error _ => .next (after s)

/-- DESIGN CHOICE, notes/assumptions/56.md. -/
noncomputable def step (s : State) : Host.Outcome State Fault Refusal :=
  match s.agenda with
  | e :: rest => exec e { s with agenda := rest }
  | [] => if mayIssue s s.cur && isTurn s s.cur then stepIssue s else .next (afterIssue s)

/-- The machine with an instruction in place for its next step. -/
noncomputable def State.withFetchWord (s : State) (nbits w : Nat) : State := placeInstr s (tableWords nbits w)

end Sys2Proof.Machine
end

