-- ==== Sys2Proof/Safety.lean ====
section
/-! DEFINITION. What counts as a safe step, and the words in which statements speak: when an instruction can issue,
which operands can be read and written, and what its issue leaves besides its own effect. -/

namespace Sys2Proof

/-- The step of a state ends in a next state. -/
def SafeStep (s : Machine.State) : Prop := ∃ t, Machine.step s = .next t

namespace Machine

/-- The sequencer in front issues the group, and its chunk has room for one more instruction (R21, R127). -/
abbrev Ready (l : Legal) (s : State) : Prop :=
  l.on s.cur.seq = true ∧ s.cur.chunk.count < Config.chunkInstrs ∧ s.cur.chunk.closed = false

/-- Nothing stands in the open chunk, no ended chunk is still to commit, and no release is under way (R127, R136, R167). -/
abbrev ChunkEmpty (s : State) : Prop :=
  s.cur.chunk.count = 0 ∧ s.cur.chunk.wbuf = [] ∧ s.cur.chunk.clre = [] ∧ s.cur.chunk.vrel = false ∧
    s.cur.ended = [] ∧ s.cur.rel = none

/-- Either the instruction at issue has not closed its chunk, or the chunk holds nothing. -/
abbrev Tidy (s : State) : Prop := s.cur.chunk.closed = false ∨ ChunkEmpty s

/-- A register that no load or queued vector instruction still writes and that holds no poison (R134, R231, R364). -/
abbrev Readable (s : State) (n : GReg) : Prop :=
  n = 0 ∨ (loadMarks s n = false ∧ vectorMarks s n = false ∧ s.cur.regs.gpois.getLsbD n.toNat = false)
abbrev Writable (s : State) (n : GReg) : Prop := n = 0 ∨ vectorMarks s n = false
/-- What a g register reads as: g0 reads 0 (R8). -/
def gval (s : State) (n : GReg) : Word := if n = 0 then 0 else s.cur.regs.g[n.toNat]
abbrev PReadable (s : State) (n : BitVec 4) : Prop := (s.cur.loads.any fun l => l.dst == .p n) = false
def pval (s : State) (n : BitVec 4) : Addr := s.cur.regs.p[n.toNat]
/-- q0 reads 1 (R8). -/
def qval (s : State) (n : BitVec 3) : Bool := n = 0 || s.cur.regs.q.getLsbD n.toNat

/-- Register writes: those of g0 and q0 are dropped (R8). -/
def putG (n : GReg) (v : Word) (s : State) : State := s.modCur fun a => a.setG n v
def putP (n : BitVec 4) (v : Addr) (s : State) : State := s.modCur fun a => a.setP n v
def putQ (n : BitVec 3) (b : Bool) (s : State) : State := s.modCur fun a => { a with regs := a.regs.setQ n b }
/-- The instruction runs between chunks (R127). -/
def closing (s : State) : State := s.modCur fun a => { a with chunk := { a.chunk with closed := true } }

/-- The issue of an instruction inside a chunk, beside its effect: the pc moves on, and the chunk counts it. -/
def advance (s : State) : State := s.modCur fun a => { a with
  regs := { a.regs with pc := a.npc }
  wait := none
  retired := a.retired + 1
  chunk := { a.chunk with count := a.chunk.count + 1 } }
/-- The chunk in front, which holds nothing, starts anew. -/
def freshChunk (s : State) : State := s.modCur fun a =>
  { a with chunk := { a.newChunk.chunk with squashes := a.chunk.squashes, reserved := a.chunk.reserved } }
/-- The issue of an instruction that runs between chunks: the next chunk starts behind it (R127). -/
def advanceAlone (s : State) : State := freshChunk (s.modCur fun a => { a with
  regs := { a.regs with pc := a.npc }
  wait := none
  retired := a.retired + 1 })
def finish (s : State) : State := if s.cur.chunk.closed then advanceAlone s else advance s

/-- A g operand yields `v` and leaves `t`: a register, or the oldest word of a port's FIFO (R107, R177). -/
def Reads (o : GOp) (s : State) (v : Word) (t : State) : Prop :=
  match o with
  | .reg n => Readable s n ∧ v = gval s n ∧ t = s
  | .port d => ChunkEmpty s ∧ ∃ rest, (s.getLc s.cur.lcore).ports[dirIx d] = v :: rest ∧
      t = (closing s).modLc s.cur.lcore fun lc => { lc with
        ports := lc.ports.set (dirIx d) rest
        portPops := lc.portPops.set (dirIx d) (lc.portPops[dirIx d] + if s.launch.mode = .quantum then 1 else 0) }

/-- A g operand takes `v` and leaves `t`: a register, or a neighbour's FIFO with room, into which the word is on its
way (R107, R177). -/
def Writes (o : GOp) (v : Word) (s t : State) : Prop :=
  match o with
  | .reg n => Writable s n ∧ t = putG n v s
  | .port d =>
    let n := neighbour (max 1 s.launch.l) s.launch.w s.cur.lcore d
    ChunkEmpty s ∧ portHeld s n (dirIx (opposite d)) < 4 ∧
      t = (closing s).modLaunch fun l => { l with portq := l.portq ++ [(n, (dirIx (opposite d)).val, v)] }

/-- A predicate destination takes `b` and leaves `t`: a register, or a branch-outcome queue with room; under QUANTUM the bit is
kept for the next quantum, and what was taken or sent in this one has room (R24, R167, R177). -/
def WritesQ (o : QDst) (b : Bool) (s t : State) : Prop :=
  match o with
  | .q n => t = putQ n b s
  | .bq q => ChunkEmpty s ∧
      if s.launch.mode = .quantum ∧ s.cur.seq ≠ .s then
        (s.core.bqOf q).length + s.core.bqPops.count q + (s.core.bqSent.filter (·.1 == q)).length < Config.bqSize ∧
        t = { closing s with core := { s.core with bqSent := s.core.bqSent ++ [(q, b)] } }
      else (s.core.bqOf q).length < Config.bqSize ∧ t = { closing s with core := s.core.setBq q (s.core.bqOf q ++ [b]) }

end Machine
end Sys2Proof
end

