-- ==== Sys2Proof/Certificates/Slice0/Obligations.lean ====
section
/-! DEFINITION. What the spec says this machine does, as statements for the provers. -/

section Statements

open Sys2Proof Sys2Proof.Machine

namespace Sys2Proof.Claims

end Sys2Proof.Claims

open Sys2Proof.Claims

namespace Sys2Proof.Claims

/-- Format RR (R181, R198): with both operands readable, x op y is written to the destination, and the instruction
completes; two-address, three-address and amount forms, with registers and ports. -/
def rrForms (l : Legal) (mk : RR → Instr) (f : Word → Word → Word) : Prop :=
  ∀ s t s1 u v, Ready l s →
    (∀ a b, Readable s (a.setWidth 6) → Reads b s v t →
      exec (mk (.two a b)) s = .next (finish (putG (a.setWidth 6) (f (gval s (a.setWidth 6)) v) t))) ∧
    (∀ d x c, Reads x s u s1 → Readable s1 c → Writes d (f u (gval s1 c)) s1 t →
      exec (mk (.three d x c)) s = .next (finish t)) ∧
    (∀ d x n, Reads x s u s1 → Writes d (f u (n.setWidth 64)) s1 t →
      exec (mk (.imm d x n)) s = .next (finish t))

/-- Format RU (R181): f of the source is written to the destination. -/
def ruForms (l : Legal) (mk : RU → Instr) (f : Word → Word) : Prop :=
  ∀ s t s1 u, Ready l s →
    (∀ d x, Reads x s u s1 → Writes d (f u) s1 t → exec (mk (.two d x)) s = .next (finish t)) ∧
    (∀ d c, Readable s c → Writes d (f (gval s c)) s t → exec (mk (.ext d c)) s = .next (finish t))

/-- Bit k of the carry-less product of R207. -/
def clBit (x y : Word) (k : Nat) : Bool :=
  (List.range (k + 1)).foldl (fun b i => b != (x.getLsbD i && y.getLsbD (k - i))) false

end Sys2Proof.Claims

/-- For ADD, SUB, AND, OR, XOR, ANDN, MUL, MIN, MAX, MINU, MAXU, SHL, SHR, SAR and ROL (by y[5:0]), MULH and MULHU (the high
64 bits of the signed and of the unsigned product), CLMUL and CLMULH (bits 0 to 63 and 64 to 127 of the carry-less product,
whose bit k is the XOR of x[i] AND y[j] over i + j = k), in every operand form (register or port, two-address,
three-address, amount): with a sequencer that may issue, a chunk with room and readable operands, exec answers the next
state in which the destination holds the result (g0 dropped, a port's word on its way), the pc has moved on, and nothing
else has changed. -/
def Obligations.IntegerOperationResult : Prop :=
  rrForms onAll .add (fun x y => x + y) ∧ rrForms onAll .sub (fun x y => x - y) ∧ rrForms onAll .and (fun x y => x &&& y) ∧
  rrForms onAll .or (fun x y => x ||| y) ∧ rrForms onAll .xor (fun x y => x ^^^ y) ∧ rrForms onAll .andn (fun x y => x &&& ~~~y) ∧
  rrForms onAll .mul (fun x y => BitVec.ofNat 64 (x.toNat * y.toNat)) ∧
  rrForms onAll .min (fun x y => if x.toInt ≤ y.toInt then x else y) ∧
  rrForms onAll .max (fun x y => if x.toInt ≤ y.toInt then y else x) ∧
  rrForms onAll .minu (fun x y => if x.toNat ≤ y.toNat then x else y) ∧
  rrForms onAll .maxu (fun x y => if x.toNat ≤ y.toNat then y else x) ∧
  rrForms onAll .shl (fun x y => x <<< (y.toNat % 64)) ∧ rrForms onAll .shr (fun x y => x >>> (y.toNat % 64)) ∧
  rrForms onAll .sar (fun x y => x.sshiftRight (y.toNat % 64)) ∧ rrForms onAll .rol (fun x y => x.rotateLeft (y.toNat % 64)) ∧
  rrForms onAll .mulh (fun x y => BitVec.ofInt 64 (x.toInt * y.toInt / 2 ^ 64)) ∧
  rrForms onAll .mulhu (fun x y => BitVec.ofNat 64 (x.toNat * y.toNat / 2 ^ 64)) ∧
  (∃ f, (∀ x y k, k < 64 → (f x y).getLsbD k = clBit x y k) ∧ rrForms onAll .clmul f) ∧
  (∃ f, (∀ x y k, k < 64 → (f x y).getLsbD k = clBit x y (k + 64)) ∧ rrForms onAll .clmulh f)

namespace Sys2Proof.Claims

/-- A division with a divisor that is not 0. -/
def divForms (mk : RR → Instr) (f : Word → Word → Word) : Prop :=
  ∀ s t s1 u v, Ready onAll s →
    (∀ a b, Readable s (a.setWidth 6) → Reads b s v t → v ≠ 0 →
      exec (mk (.two a b)) s = .next (finish (putG (a.setWidth 6) (f (gval s (a.setWidth 6)) v) t))) ∧
    (∀ d x c, Reads x s u s1 → Readable s1 c → gval s1 c ≠ 0 → Writes d (f u (gval s1 c)) s1 t →
      exec (mk (.three d x c)) s = .next (finish t)) ∧
    (∀ d x n, n ≠ 0 → Reads x s u s1 → Writes d (f u (n.setWidth 64)) s1 t →
      exec (mk (.imm d x n)) s = .next (finish t))

/-- The state of a thread X that has entered UTRAPV from the instruction at its pc, with an empty chunk (R200): xret stays, and
follow mode ends (R27). -/
def trapEntered (cause : Byte) (s : State) : State := (endFollow s.cur.tid s).modCur fun a =>
  let r := { a.regs with
    utcause := cause.setWidth 64
    utpc := a.regs.pc
    handlerActive := true
    pc := a.regs.utrapv }
  Agent.newChunk { a with wait := none, regs := r }

end Sys2Proof.Claims

/-- With a divisor that is not 0, DIV and REM write the signed quotient truncated toward zero and its remainder (−2^63 by
−1 gives −2^63 and 0), DIVU and REMU the unsigned ones; every operand form completes. A divisor of 0 raises the recoverable
user trap 0x07 on whichever sequencer issues the division, with nothing yet in its chunk, and writes no destination. On X with
UTRAPV set and no handler active that is the next state in which UTCAUSE is 7 with SEQ 0, UTPC is the division's own pc,
handler_active is 1 and the pc is UTRAPV; follow mode has ended, and memory and everything else are as before. -/
def Obligations.DivisionResult : Prop :=
  divForms .div (fun x y => if x.toInt = -2 ^ 63 ∧ y.toInt = -1 then BitVec.ofInt 64 (-2 ^ 63) else BitVec.ofInt 64 (x.toInt.tdiv y.toInt)) ∧
  divForms .rem (fun x y => if x.toInt = -2 ^ 63 ∧ y.toInt = -1 then 0
    else BitVec.ofInt 64 (x.toInt - x.toInt.tdiv y.toInt * y.toInt)) ∧
  divForms .divu (fun x y => BitVec.ofNat 64 (x.toNat / y.toNat)) ∧
  divForms .remu (fun x y => BitVec.ofNat 64 (x.toNat - x.toNat / y.toNat * y.toNat)) ∧
  (∀ mk, mk = Instr.div ∨ mk = Instr.divu ∨ mk = Instr.rem ∨ mk = Instr.remu →
    ∀ s : State, Ready onAll s → ChunkEmpty s →
      let trapped := takeUserTrap 7 (freshChunk s)
      (∀ a b t, Readable s (a.setWidth 6) → Reads b s 0 t → exec (mk (.two a b)) s = .next trapped) ∧
      (∀ d x c u t, Reads x s u t → Readable t c → gval t c = 0 → exec (mk (.three d x c)) s = .next trapped) ∧
      (∀ d x u t, Reads x s u t → exec (mk (.imm d x 0)) s = .next trapped)) ∧
  ∀ s : State, s.cur.seq = .x → s.cur.regs.handlerActive = false → s.cur.regs.utrapv ≠ 0 →
    takeUserTrap 7 (freshChunk s) = trapEntered 7 s

/-- MOV, NEG, ABS (of −2^63: itself), POPC, CLZ and CTZ (64 for 0), BSWAP, EXTR and INSR bit by bit, and SEL (b where qk
is 1, q0 reading 1, else c): exec answers the next state with the result in the destination and nothing else changed. -/
def Obligations.UnaryAndFieldResult : Prop :=
  ruForms onAll .mov (fun x => x) ∧ ruForms onAll .neg (fun x => BitVec.ofInt 64 (-x.toInt)) ∧
  ruForms onAll .abs (fun x => BitVec.ofNat 64 x.toInt.natAbs) ∧
  ruForms onAll .popc (fun x => BitVec.ofNat 64 ((List.range 64).countP (x.getLsbD ·))) ∧
  ruForms onAll .clz (fun x => BitVec.ofNat 64 ((List.range 64).takeWhile fun i => !x.getLsbD (63 - i)).length) ∧
  ruForms onAll .ctz (fun x => BitVec.ofNat 64 ((List.range 64).takeWhile fun i => !x.getLsbD i).length) ∧
  (∃ f, (∀ x i, i < 8 → (f x).extractLsb' (8 * i) 8 = x.extractLsb' (8 * (7 - i)) 8) ∧ ruForms onAll .bswap f) ∧
  (∃ f : Word → BitVec 6 → BitVec 6 → Word,
    (∀ x pos len1 k, (f x pos len1).getLsbD k = (decide (k ≤ len1.toNat) && decide (k < 64) && x.getLsbD (pos.toNat + k))) ∧
    ∀ s t s1 u d b pos len1, Ready onAll s → Reads b s u s1 → Writes d (f u pos len1) s1 t →
      exec (.extr d b pos len1) s = .next (finish t)) ∧
  (∃ f : Word → Word → BitVec 6 → BitVec 6 → Word,
    (∀ x y pos len1 k, k < 64 → (f x y pos len1).getLsbD k =
      if pos.toNat ≤ k ∧ k ≤ pos.toNat + len1.toNat then y.getLsbD (k - pos.toNat) else x.getLsbD k) ∧
    ∀ s t v a b pos len1, Ready onAll s → Readable s a → Reads b s v t →
      exec (.insr a b pos len1) s = .next (finish (putG a (f (gval s a) v pos len1) t))) ∧
  (∀ s t s1 u k d b c, Ready onAll s → Reads b s u s1 → Readable s1 c →
    Writes d (if qval s1 k then u else gval s1 c) s1 t → exec (.sel k d b c) s = .next (finish t))

/-- ADDI, LDI, LDIH (the low half kept), SHL, SHR, SAR and ROL by an immediate, and PADDI modulo 2^80: exec answers the
next state with the result in the destination and nothing else changed. -/
def Obligations.ImmediateResult : Prop :=
  (∀ s g imm, Ready onAll s → Readable s g → exec (.addi g imm) s = .next (finish (putG g (gval s g + imm) s))) ∧
  (∀ s t g imm, Ready onAll s → Writes g imm s t → exec (.ldi g imm) s = .next (finish t)) ∧
  (∀ s g imm, Ready onAll s → Readable s g →
    exec (.ldih g imm) s = .next (finish (putG g (imm ++ (gval s g).extractLsb' 0 32) s))) ∧
  (∀ s g n, Ready onAll s → Readable s g →
    exec (.shlImm g n) s = .next (finish (putG g (gval s g <<< n.toNat) s)) ∧
    exec (.shrImm g n) s = .next (finish (putG g (gval s g >>> n.toNat) s)) ∧
    exec (.sarImm g n) s = .next (finish (putG g ((gval s g).sshiftRight n.toNat) s)) ∧
    exec (.rolImm g n) s = .next (finish (putG g ((gval s g).rotateLeft n.toNat) s))) ∧
  (∀ s p imm, Ready onAll s → PReadable s p →
    exec (.paddi p imm) s = .next (finish (putP p (pval s p + imm.signExtend 80) s)))

namespace Sys2Proof.Claims

/-- An optional register: absent it is 0. -/
def optReadable (s : State) (c : Option GReg) : Prop := ∀ n, c = some n → Readable s n
def optVal (s : State) (c : Option GReg) : Word := match c with | some n => gval s n | none => 0

/-- The conditions of R211. -/
def cmpCond (cc : BitVec 3) (b y : Word) : Bool :=
  match cc.toNat with
  | 0 => decide (b = y) | 1 => decide (b ≠ y)
  | 2 => decide (b.toInt < y.toInt) | 3 => decide (y.toInt ≤ b.toInt)
  | 4 => decide (b.toNat < y.toNat) | 5 => decide (y.toNat ≤ b.toNat)
  | 6 => decide (b &&& y ≠ 0) | _ => decide (b &&& y = 0)

end Sys2Proof.Claims

/-- CMP, CMPI and PCMP write whether their condition holds, QAND, QOR, QNOT and QSET their value, to a predicate (q0
ignores it) or, where the form allows one, to a branch-outcome queue with room; exec answers the next state, with nothing
else changed. -/
def Obligations.CompareResult : Prop :=
  (∀ s t s1 u cc q b c, Ready onAll s → Reads b s u s1 → optReadable s1 c →
    WritesQ q (cmpCond cc u (optVal s1 c)) s1 t → exec (.cmp cc q b c) s = .next (finish t)) ∧
  (∀ s t s1 u cc q b imm, Ready onAll s → Reads b s u s1 → WritesQ q (cmpCond cc u imm) s1 t →
    exec (.cmpi cc q b imm) s = .next (finish t)) ∧
  (∀ (s t : State) (q : QDst) (b : BitVec 4) (c : Option (BitVec 4)), Ready onAll s → PReadable s b →
    (∀ n, c = some n → PReadable s n) →
    let x := (pval s b).toNat
    let y := match c with | some n => (pval s n).toNat | none => 0
    (WritesQ q (decide (x = y)) s t → exec (.pcmp 0 q b c) s = .next (finish t)) ∧
    (WritesQ q (decide (x ≠ y)) s t → exec (.pcmp 1 q b c) s = .next (finish t)) ∧
    (WritesQ q (decide (x < y)) s t → exec (.pcmp 2 q b c) s = .next (finish t)) ∧
    (WritesQ q (decide (y ≤ x)) s t → exec (.pcmp 3 q b c) s = .next (finish t))) ∧
  (∀ s a b, Ready onAll s →
    exec (.qand a b) s = .next (finish (putQ a (qval s a && qval s b) s)) ∧
    exec (.qor a b) s = .next (finish (putQ a (qval s a || qval s b) s))) ∧
  (∀ s t q b, Ready onAll s → WritesQ q (!qval s b) s t → exec (.qnot q b) s = .next (finish t)) ∧
  (∀ s t q v, Ready onAll s → WritesQ q v s t → exec (.qset q v) s = .next (finish t))

/-- PADD adds the sign-extended register modulo 2^80; PSET joins b and c[15:0]; PGET and PGET.hi read the parts of a
pointer. Each completes. -/
def Obligations.PointerArithmeticResult : Prop :=
  (∀ s t v a g, Ready onAll s → PReadable s a → Reads g s v t →
    exec (.padd (.two a g)) s = .next (finish (putP a (pval s a + v.signExtend 80) t))) ∧
  (∀ s a b c, Ready onAll s → PReadable s b → Readable s c →
    exec (.padd (.three a b c)) s = .next (finish (putP a (pval s b + (gval s c).signExtend 80) s))) ∧
  (∀ s t v p g c, Ready onAll s → Reads g s v t → optReadable t c →
    exec (.pset p g c) s = .next (finish (putP p ((optVal t c).extractLsb' 0 16 ++ v) t))) ∧
  (∀ s t g p, Ready onAll s → PReadable s p → Writes g ((pval s p).extractLsb' 0 64) s t →
    exec (.pget g p) s = .next (finish t)) ∧
  (∀ s t g p, Ready onAll s → PReadable s p → Writes g (((pval s p).extractLsb' 64 16).zeroExtend 64) s t →
    exec (.pgetHi g p) s = .next (finish t))

/-- PMAKE p, b, c writes (0b10 << 78) + (⌊b / 1024⌋ << 70) + ((b mod 1024) << 60) + c, with c 0 where it is absent, or 0b11 << 78
where b ≥ 2^18 or c ≥ 2^60, an address at which every access raises RIGHTS; it completes and nothing else changes. With b = 1029
and c = 0x100 the result is 0x8040_5000_0000_0000_0100. -/
def Obligations.PlaceWindowAddress : Prop :=
  (∀ s t v p g c, Ready onAll s → Reads g s v t → optReadable t c →
    exec (.pmake p g c) s = .next (finish (putP p
      (if 2 ^ 18 ≤ v.toNat ∨ 2 ^ 60 ≤ (optVal t c).toNat then 3#80 <<< 78
       else BitVec.ofNat 80 (2 ^ 79 + v.toNat / 1024 * 2 ^ 70 + v.toNat % 1024 * 2 ^ 60 + (optVal t c).toNat)) t))) ∧
  (∀ s need, reachAligned (3#80 <<< 78) 1 need s = .error (.fault 0x04 (3#80 <<< 78))) ∧
  (∀ s p b c, Ready onAll s → Readable s b → Readable s c → gval s b = 1029 → gval s c = 0x100 →
    exec (.pmake p (.reg b) (some c)) s = .next (finish (putP p 0x80405000000000000100 s)))

namespace Sys2Proof.Claims

/-- The rounding of an exact value in the mode sampled at issue, with the next draw of the stream (R118 to R121, R214), and
the state with the draw counted. -/
def roundedIn (t : Fmt) (sat : Bool) (x : Val) (s : State) : Word :=
  BitVec.ofNat 64 (encodeF t x (s.cur.regs.round.extractLsb' 0 3) sat (drawsOf s).z)
def counted (x : Val) (s : State) : State :=
  setSrn ((drawsOf s).after (s.cur.regs.round.extractLsb' 0 3) x).n s

/-- A float operation of two operands, exact and then rounded once, in every operand form (R214, R215). -/
def floatForms (t : Fmt) (mk : RR → Instr) (f : Bool → Val → Val → Val) : Prop :=
  ∀ s w s1 u v, Ready onXA s →
    let down := decide (s.cur.regs.round.extractLsb' 0 3 = 3)
    (∀ a b, Readable s (a.setWidth 6) → Reads b s v w →
      let x := f down (floatIn t (gval s (a.setWidth 6))) (floatIn t v)
      exec (mk (.two a b)) s = .next (finish (putG (a.setWidth 6) (roundedIn t false x w) (counted x w)))) ∧
    (∀ d b c, Reads b s u s1 → Readable s1 c →
      let x := f down (floatIn t u) (floatIn t (gval s1 c))
      Writes d (roundedIn t false x s1) (counted x s1) w → exec (mk (.three d b c)) s = .next (finish w))

/-- The conditions of FCMP (R217). -/
def floatCond (cc : BitVec 2) (x y : Val) : Bool :=
  if x.isNan || y.isNan then decide (cc = 3)
  else match cc.toNat with
    | 0 => x.cmp y == 0 | 1 => decide (x.cmp y < 0) | 2 => decide (x.cmp y ≤ 0) | _ => false

/-- The value of an operand in a conversion code (R218): 0 to 3 float, 4 signed, 5 unsigned. -/
def codeValue (src : BitVec 3) (v : Word) : Val :=
  if src = 0 then floatIn f64 v else if src = 1 then floatIn f32 v else if src = 2 then floatIn f16 v
  else if src = 3 then floatIn bf16 v else if src = 4 then .ofInt v.toInt else .ofInt v.toNat

end Sys2Proof.Claims

/-- In .f64, .f32, .f16 and .bf16, in every operand form: FADD, FSUB, FMUL, FDIV, FFMA and FSQRT write the exact result of the
operands' low bits, rounded once in the mode that ROUND holds (a zero sum being −0 under RDN), the higher bits 0; FMIN and FMAX
write the operand that is not NaN, the canonical NaN where both are, else the smaller or larger one with −0 before +0; FCMP
writes whether its condition holds (.un on a NaN, the others not); FCVT to a float encodes the source's value, from a float to
an integer rounds and clamps (0 for NaN), between integer codes clamps; FCLASS writes the one of bits 0 to 8 that R219
names for the class of the operand (from bit 8: NaN, +infinity, positive normal, positive subnormal, +0, −0, negative subnormal,
negative normal, −infinity); FMOV copies the low bits. Each completes, and nothing else changes but the draw counted. -/
def Obligations.FloatResult : Prop :=
  (∀ p : Fmt × (RR → Instr) × (RR → Instr) × (RR → Instr) × (RR → Instr),
    p = (f64, .faddF64, .fsubF64, .fmulF64, .fdivF64) ∨ p = (f32, .faddF32, .fsubF32, .fmulF32, .fdivF32) ∨
    p = (f16, .faddF16, .fsubF16, .fmulF16, .fdivF16) ∨ p = (bf16, .faddBf16, .fsubBf16, .fmulBf16, .fdivBf16) →
    floatForms p.1 p.2.1 (fun down x y => Val.add down x y) ∧
    floatForms p.1 p.2.2.1 (fun down x y => Val.add down x y.negate) ∧
    floatForms p.1 p.2.2.2.1 (fun _ x y => Val.mul x y) ∧
    floatForms p.1 p.2.2.2.2 (fun _ x y => Val.div x y)) ∧
  (∀ p : Fmt × (GReg → GOp → GReg → Instr) × (RU → Instr) × (RR → Instr) × (RR → Instr),
    p = (f64, .ffmaF64, .fsqrtF64, .fminF64, .fmaxF64) ∨ p = (f32, .ffmaF32, .fsqrtF32, .fminF32, .fmaxF32) ∨
    p = (f16, .ffmaF16, .fsqrtF16, .fminF16, .fmaxF16) ∨ p = (bf16, .ffmaBf16, .fsqrtBf16, .fminBf16, .fmaxBf16) →
    let t := p.1
    (∀ s w v a b c, Ready onXA s → Readable s a → Reads b s v w → Readable w c →
      let x := Val.add (decide (s.cur.regs.round.extractLsb' 0 3 = 3)) (floatIn t (gval s a))
        (Val.mul (floatIn t v) (floatIn t (gval w c)))
      exec (p.2.1 a b c) s = .next (finish (putG a (roundedIn t false x w) (counted x w)))) ∧
    (∀ s w s1 u d b c, Ready onXA s →
      (Reads b s u s1 → Writes d (roundedIn t false (Val.sqrt (floatIn t u)) s1) (counted (Val.sqrt (floatIn t u)) s1) w →
        exec (p.2.2.1 (.two d b)) s = .next (finish w)) ∧
      (Readable s c → Writes d (roundedIn t false (Val.sqrt (floatIn t (gval s c))) s)
        (counted (Val.sqrt (floatIn t (gval s c))) s) w → exec (p.2.2.1 (.ext d c)) s = .next (finish w))) ∧
    ∀ smaller : Bool, ∃ f : Word → Word → Word, rrForms onXA (if smaller then p.2.2.2.1 else p.2.2.2.2) f ∧ ∀ x y,
      let a := floatIn t x
      let b := floatIn t y
      let low (v : Word) : Word := BitVec.ofNat 64 (v.toNat % 2 ^ t.bits)
      let before (a b : Val) : Prop := a.cmp b < 0 ∨ (a.cmp b = 0 ∧ a.neg = true ∧ b.neg = false)
      (a.isNan = true → b.isNan = true → f x y = BitVec.ofNat 64 t.nan) ∧
      (a.isNan = true → b.isNan = false → f x y = low y) ∧ (a.isNan = false → b.isNan = true → f x y = low x) ∧
      (a.isNan = false → b.isNan = false → before a b → f x y = if smaller then low x else low y) ∧
      (a.isNan = false → b.isNan = false → ¬ before a b → before b a → f x y = if smaller then low y else low x)) ∧
  (∀ s t s1 u cc q b c, Ready onXA s → Reads b s u s1 → optReadable s1 c →
    (WritesQ q (floatCond cc (floatIn f64 u) (floatIn f64 (optVal s1 c))) s1 t → exec (.fcmpF64 cc q b c) s = .next (finish t)) ∧
    (WritesQ q (floatCond cc (floatIn f32 u) (floatIn f32 (optVal s1 c))) s1 t → exec (.fcmpF32 cc q b c) s = .next (finish t)) ∧
    (WritesQ q (floatCond cc (floatIn f16 u) (floatIn f16 (optVal s1 c))) s1 t → exec (.fcmpF16 cc q b c) s = .next (finish t)) ∧
    (WritesQ q (floatCond cc (floatIn bf16 u) (floatIn bf16 (optVal s1 c))) s1 t → exec (.fcmpBf16 cc q b c) s = .next (finish t))) ∧
  (∀ s t s1 u (src : BitVec 3) sat d b, Ready onXA s → Reads b s u s1 → src.toNat ≤ 5 →
    let x := codeValue src u
    let mode := s1.cur.regs.round.extractLsb' 0 3
    (∀ f, f ∈ [(0, f64), (1, f32), (2, f16), (3, bf16)] → Writes d (roundedIn f.2 sat x s1) (counted x s1) t →
      exec (.fcvt f.1 src sat d b) s = .next (finish t)) ∧
    (∀ r, r ∈ [((4 : BitVec 3), (-2 ^ 63 : Int), (2 ^ 63 - 1 : Int)), (5, 0, 2 ^ 64 - 1)] →
      (src.toNat ≤ 3 → Writes d (BitVec.ofInt 64 (encodeInt r.2.1 r.2.2 x mode (drawsOf s1).z)) (counted x s1) t →
        exec (.fcvt r.1 src sat d b) s = .next (finish t)) ∧
      (3 < src.toNat → Writes d (BitVec.ofInt 64 (max r.2.1 (min r.2.2 (if src = 4 then u.toInt else (u.toNat : Int))))) s1 t →
        exec (.fcvt r.1 src sat d b) s = .next (finish t)))) ∧
  (∀ p ∈ [(FFmt.f64, f64), (.f32, f32), (.f16, f16), (.bf16, bf16)],
    ruForms onXA (.fmov p.1) (fun x => BitVec.ofNat 64 (x.toNat % 2 ^ p.2.bits)) ∧
    ∃ k : Word → Nat, ruForms onXA (.fclass p.1) (fun x => 1#64 <<< k x) ∧ ∀ x, k x ≤ 8 ∧
      ((floatIn p.2 x).isNan = true ↔ k x = 8) ∧ (floatIn p.2 x = .inf false ↔ k x = 7) ∧
      (floatIn p.2 x = .inf true ↔ k x = 0) ∧
      let neg := x.getLsbD (p.2.w + p.2.f)
      let e := x.toNat / 2 ^ p.2.f % 2 ^ p.2.w
      let fr := x.toNat % 2 ^ p.2.f
      (0 < e → e < 2 ^ p.2.w - 1 → k x = if neg then 1 else 6) ∧ (e = 0 → fr ≠ 0 → k x = if neg then 2 else 5) ∧
      (e = 0 → fr = 0 → k x = if neg then 3 else 4))

/-- Decoding an encoding of .f64, .f32, .f16 or .bf16 that is no NaN and encoding the value again gives the same bits, in
every rounding mode and whatever the draw, without saturation, and with it where the value is no infinity (which saturation
replaces, R120): no bit of a float is lost on the way through the exact value, and a value that a format holds is never rounded
away from itself. -/
def Obligations.FloatEncodingRoundTrip : Prop :=
  ∀ t ∈ [f64, f32, f16, bf16], ∀ n, n < 2 ^ t.bits → (decodeF t n).isNan = false →
    ∀ (mode : RMode) (sat : Bool) (z : Word), sat = false ∨ (∀ neg, decodeF t n ≠ .inf neg) →
      encodeF t (decodeF t n) mode sat z = n

namespace Sys2Proof.Claims

/-- The next instruction is the one at `t`. -/
def goTo (t : Addr) (s : State) : State := s.modCur fun a => { a with npc := t }

/-- The base word's address plus twice the offset (R179, R204). -/
def branchTarget (s : State) (off : Word) : Addr := s.cur.base + BitVec.ofInt 80 (2 * off.toInt)

end Sys2Proof.Claims

/-- NOP changes nothing but the pc; B and CALL go to base + 2 × offset, CALL p and J to an even pointer, the calls writing
p13 with the next instruction's address; LOOP decrements and branches while the result is not 0; BC branches on q = 1 and
BC.n on q = 0, q0 being 1. At each of these a leader and its followers compare their outcomes, branch by branch, and follow mode
ends where two differ. CHUNK with nothing in the open chunk only moves the pc on;
FOLLOW does the same for the leader of a cluster (a logical core divisible by 4), and lets any other thread wait to follow.
Each completes. With a bit in the sequencer's own branch-outcome queue and nothing in its chunk, BQ branches if the oldest
bit is 1 and BQP writes it to its predicate or relays it; the bit leaves the queue, and M then applies its queued format writes;
with an empty queue both wait. -/
def Obligations.BranchAndCallResult : Prop :=
  (∀ s, Ready onXA s → ChunkEmpty s → exec .chunk s = .next (advanceAlone (closing s))) ∧
  (∀ s, Ready onX s → exec .follow s =
    .next (advance (if s.cur.lcore % 4 = 0 then s else s.modCur fun a => { a with follow := .waiting }))) ∧
  (∀ s, Ready onAll s → ChunkEmpty s →
    (∀ b rest, s.core.bqOf s.cur.seq = b :: rest →
      let t := drainFmtq { closing s with core := s.core.setBq s.cur.seq rest }
      (∀ off, exec (.bq off) s =
        .next (advanceAlone (followBranch (if b then goTo (branchTarget s off) t else t)))) ∧
      (∀ q u, WritesQ q b t u → exec (.bqp q) s = .next (advanceAlone u))) ∧
    (s.core.bqOf s.cur.seq = [] →
      (∀ off, exec (.bq off) s = .next (park (.blocked .bq) s)) ∧
      (∀ q, exec (.bqp q) s = .next (park (.blocked .bq) s)))) ∧
  ∀ s, Ready onAll s →
    exec .nop s = .next (advance s) ∧
    (∀ off, exec (.b off) s = .next (advance (followBranch (goTo (branchTarget s off) s)))) ∧
    (∀ off, exec (.call off) s =
      .next (advance (followBranch (goTo (branchTarget s off) (putP 13 s.cur.npc s))))) ∧
    (∀ p, PReadable s p → (pval s p).toNat % 2 = 0 → exec (.j p) s = .next (advance (followBranch (goTo (pval s p) s)))) ∧
    (∀ p, PReadable s p → (pval s p).toNat % 2 = 0 →
      exec (.callP p) s = .next (advance (followBranch (goTo (pval s p) (putP 13 s.cur.npc s))))) ∧
    (∀ g off, g ≠ 0 → Readable s g →
      exec (.loop g off) s = .next (advance (followBranch
        (if gval s g = 1 then putG g 0 s else goTo (branchTarget s off) (putG g (gval s g - 1) s))))) ∧
    (∀ q off, exec (.bc q off) s =
      .next (advance (followBranch (if qval s q then goTo (branchTarget s off) s else s)))) ∧
    (∀ q off, exec (.bcN q off) s =
      .next (advance (followBranch (if qval s q then s else goTo (branchTarget s off) s))))

/-- On X with UTRAPV set, no handler active and an empty chunk, TRAP with a code from 0x80 enters UTRAPV with UTCAUSE the
code and UTPC its own pc; xret stays, and follow mode ends. With handler_active set, RTU clears it and X goes on at UTPC if UTCAUSE.SEQ names X; if it
names A or M, X goes on at xret and that sequencer of the core starts again at UTPC. -/
def Obligations.UserTrapEntryAndReturn : Prop :=
  ∀ s, Ready onX s → s.cur.seq = .x → ChunkEmpty s →
    (∀ code : Byte, 0x80 ≤ code.toNat → s.cur.regs.handlerActive = false → s.cur.regs.utrapv ≠ 0 →
      exec (.trap code) s = .next (trapEntered code s)) ∧
    (s.cur.regs.handlerActive = true →
      let back (pc : Addr) : State := (closing s).modCur fun a => { a with npc := pc, regs := { a.regs with handlerActive := false } }
      (s.cur.regs.utcause.extractLsb' 10 2 = 0 → exec .rtu s = .next (advanceAlone (back s.cur.regs.utpc))) ∧
      (∀ (q : Seq) (b : Agent), (q = .a ∧ s.cur.regs.utcause.extractLsb' 10 2 = 1 ∨ q = .m ∧ s.cur.regs.utcause.extractLsb' 10 2 = 2) →
        s.seqOf s.cur.core q = some b → s.cur.tid ≠ b.tid → (∀ c ∈ s.agents, c.tid = b.tid → c = b) →
        ∃ t, exec .rtu s = .next t ∧ t.cur.regs.pc = s.cur.regs.xret ∧ t.cur.regs.handlerActive = false ∧
          ∃ b', t.getAgent b.tid = some b' ∧ b'.stopped = false ∧ b'.regs.pc = s.cur.regs.utpc ∧
            b'.regs.g = b.regs.g ∧ t.mem = s.mem))

/-- Outside views, in FREE mode, with no conflict, no release under way, and no other agent's reservation, held operand range or halted
home in the way, CHUNK on X or A answers a next state with an empty chunk in which every byte of the global space and of local spaces
reads as the newest store of the chunk wrote it (in the records of R311, R340 and R343 as their access codes let it, R7), or as
before where the chunk stored nothing.
The model's choice in points that the spec leaves open: notes/assumptions/66.md. -/
def Obligations.ChunkCommitWritesItsStores : Prop :=
  ∀ s, Ready onXA s → s.cur.tag = 0 → s.launch.mode = .free → s.cur.chunk.conflict = false → s.cur.ended = [] →
    s.cur.rel = none → s.cur.relStore = [] → (∀ h ∈ s.cur.chunk.homes, homeStands s s.core.id h = false) →
    (∀ k ∈ s.cur.chunk.clre, heldRange s k 8 = false) → (∀ l ∈ s.cur.chunk.wlines, reservedLine s s.pkg 0 s.cur.tid l = false) →
    (∀ c ∈ s.cur.chunk.wbuf, heldRange s c.1 1 = false) → Memory.wf s.mem = true → Memory.wf s.launch.lmem = true →
    s.cur.chunk.vrel = false → s.cur.seq ≠ .s → (s.cur.chunk.count ≠ 0 ∨ s.cur.chunk.wbuf ≠ []) →
    ∃ t, exec .chunk s = .next t ∧ ChunkEmpty t ∧ t.cur.regs.pc = s.cur.npc ∧ t.cur.regs.g = s.cur.regs.g ∧
      ∀ key, baseByte t key = ((aget key s.cur.chunk.wbuf).map (softByte s key)).getD (baseByte s key)

namespace Sys2Proof.Claims

/-- A memory operand and its access are in order: the operand gives the address `ea`, and every check of R199 for `n`
bytes with the rights `need` passes, with `a` the byte reached and `t` the state with the caches filled. -/
def Reaches (b : PBase) (disp : Word) (dest : Bool) (n : Nat) (need : Rights) (s t : State) (ea : Addr) (a : Acc) : Prop :=
  ∃ s0, effAddr b disp dest s = .ok (ea, s0) ∧ reachAligned ea n need s0 = .ok (a, t)

/-- A byte as the agent in front sees it: its own stores first, then its view of memory (R90, R127). -/
def seen (s : State) (key : Nat) : Byte := (ownByte s key).getD (readView s s.pkg s.cur.tag key)
/-- `n` bytes from a key as a number, the lowest byte first (R220). -/
def seenN (s : State) (key n : Nat) : Nat := ofBytes ((List.range n).map fun i => seen s (key + i))

/-- The line of a home read joins the read signature (R128). -/
def noteRead (key : Nat) (s : State) : State := s.modCur fun a => { a with chunk := { a.chunk with
  rlines := if a.chunk.rlines.contains (lineOf key) then a.chunk.rlines else lineOf key :: a.chunk.rlines } }

/-- Sign or zero extension of an n-byte value (R220). -/
def extended (signed : Bool) (n v : Nat) : Word :=
  if signed then (BitVec.ofNat (8 * n) v).signExtend 64 else BitVec.ofNat 64 v

end Sys2Proof.Claims

/-- With a pointer base the operand gives p + sext(disp) and changes nothing. With a handle base on X or the supervisor
context, on a plain ring with enough slots filled (source) or free (destination) and nothing in the chunk, it gives the
place address of the slot at the consumer's or the producer's cursor plus sext(disp). -/
def Obligations.PointerAndHandleOperands : Prop :=
  (∀ s n disp dest, PReadable s n →
    effAddr (.ptr n) disp dest s = .ok (pval s n + disp.signExtend 80, s)) ∧
  (∀ s h arg disp, ChunkEmpty s → s.cur.seq ≠ .a → s.cur.seq ≠ .m →
    let hd := (s.getLc s.cur.lcore).handles[BitVec.toNat h]
    hd.mode = 1 → arg.toNat + 1 ≤ 2 ^ hd.logn →
    (arg.toNat + 1 ≤ hd.filled → effAddr (.handle h arg) disp false s =
      .ok (BitVec.ofNat 80 (placeAddr s.cur.lcore (hd.base + hd.c % 2 ^ hd.logn * 2 ^ hd.logs)) + disp.signExtend 80, closing s)) ∧
    (arg.toNat + 1 ≤ hd.free → effAddr (.handle h arg) disp true s =
      .ok (BitVec.ofNat 80 (placeAddr s.cur.lcore (hd.base + hd.p % 2 ^ hd.logn * 2 ^ hd.logs)) + disp.signExtend 80, closing s)))

/-- An aligned address with top bits 0b10 that names a logical core of the launch (one that no husk holds and whose core is not
halted) and an offset inside its local space reaches that byte, whatever the rights asked, and changes nothing; an address with top bits 0b11, or one beyond the
launch's logical cores or local size, raises RIGHTS; a misaligned address raises ALIGN. -/
def Obligations.PlaceWindowAccess : Prop :=
  (∀ (s : State) (n off size : Nat) (need : Rights), n < s.launch.l → n < 2 ^ 18 → off < s.launch.lsize → off < 2 ^ 60 →
    size ∣ 2 ^ 60 → off % size = 0 → homeShut s s.core.id n = false →
    let va := BitVec.ofNat 80 (2 ^ 79 + n / 1024 * 2 ^ 70 + n % 1024 * 2 ^ 60 + off)
    reachAligned va size need s =
      .ok ({ key := va.toNat, home := n, pkg := (s.getLc n).core / 576 }, s)) ∧
  (∀ (s : State) (va : Addr) need, va.extractLsb' 78 2 = 3 → reachAligned va 1 need s = .error (.fault 0x04 va)) ∧
  (∀ (s : State) (va : Addr) need, va.extractLsb' 78 2 = 2 →
    (s.launch.l ≤ (va.extractLsb' 70 8).toNat * 1024 + (va.extractLsb' 60 10).toNat ∨ s.launch.lsize ≤ va.toNat % 2 ^ 60) →
    reachAligned va 1 need s = .error (.fault 0x04 va)) ∧
  (∀ (s : State) (va : Addr) size need, va.toNat % size ≠ 0 → reachAligned va size need s = .error (.fault 0x03 va))

/-- A home load within the own package that meets no poison completes: its destination (a register or a port) receives the
bytes as the agent sees them at the home, own stores first, zero- or sign-extended; a pair the low and the high half; a p
register the pointer of an LDP slot with zero upper bits. The line joins the read signature; nothing else changes. An
acquire form needs an empty chunk.
The model's choice in points that the spec leaves open: notes/assumptions/16.md. -/
def Obligations.HomeLoadResult : Prop :=
  ∀ s s1 b disp ea a, Ready onXA s →
    (∀ (sz : Size) g t, Reaches b disp false (2 ^ sz.toNat) rR s s1 ea a → a.pkg = s1.pkg →
      meetsPoison s1 a.key (2 ^ sz.toNat) = false →
      let v := seenN s1 a.key (2 ^ sz.toNat)
      (Writes g (extended false (2 ^ sz.toNat) v) (noteRead a.key s1) t → exec (.ldWr sz g b disp) s = .next (finish t)) ∧
      (Writes g (extended true (2 ^ sz.toNat) v) (noteRead a.key s1) t → exec (.ldsWr sz g b disp) s = .next (finish t)) ∧
      (ChunkEmpty s1 → Writes g (extended false (2 ^ sz.toNat) v) (noteRead a.key (closing s1)) t →
        exec (.ldAcq sz g b disp) s = .next (finish t))) ∧
    (Reaches b disp false 16 rR s s1 ea a → a.pkg = s1.pkg → meetsPoison s1 a.key 16 = false →
      let v := seenN s1 a.key 16
      (∀ n, Writable s1 n → Writable s1 (n + 1) →
        (exec (.ldqWr n b disp) s = .next (finish (putG (n + 1) (BitVec.ofNat 64 (v / 2 ^ 64))
          (putG n (BitVec.ofNat 64 v) (noteRead a.key s1))))) ∧
        (ChunkEmpty s1 → exec (.ldqAcq n b disp) s = .next (finish (putG (n + 1) (BitVec.ofNat 64 (v / 2 ^ 64))
          (putG n (BitVec.ofNat 64 v) (noteRead a.key (closing s1))))))) ∧
      (∀ p, v < 2 ^ 80 →
        (exec (.ldpWr p b disp) s = .next (finish (putP p (BitVec.ofNat 80 v) (noteRead a.key s1)))) ∧
        (ChunkEmpty s1 → exec (.ldpAcq p b disp) s =
          .next (finish (putP p (BitVec.ofNat 80 v) (noteRead a.key (closing s1)))))))

namespace Sys2Proof.Claims

/-- The bytes that the L1 copy of a line gives, the agent's own stores first (R90). -/
def staleN (s : State) (key n : Nat) (l : Line) : Nat :=
  ofBytes ((List.range n).map fun i => (ownByte s (key + i)).getD (l.extractLsb' (8 * ((key + i) % 64)) 8))

/-- A plain load's value and what fetching it leaves (R90): the bytes of the home, or of the copy that the chunk holds of
the line; only the copies of the chunk and the count of free choices have changed. -/
def Fetched (s : State) (key n v : Nat) (t : State) : Prop :=
  (v = staleN s key n (lineView s s.pkg s.cur.tag (lineOf key)) ∨
    ∃ l, aget (lineOf key) s.cur.chunk.l1 = some l ∧ v = staleN s key n l) ∧
  ∃ c l, t = { s with choice := c, cur := { s.cur with chunk := { s.cur.chunk with l1 := l } } }

end Sys2Proof.Claims

/-- A plain load within the own package that meets no poison completes: the destination receives either the bytes of the
home or, where the chunk holds a copy of the line, those of the copy (free), with the agent's own stores in both; without
a copy the value is the home's. Only the copies of the chunk change beside the destination.
The model's choice in points that the spec leaves open: notes/assumptions/5.md. -/
def Obligations.PlainLoadResult : Prop :=
  ∀ s s1 b disp ea a, Ready onXA s →
    (∀ (sz : Size), Reaches b disp false (2 ^ sz.toNat) rR s s1 ea a → a.pkg = s1.pkg →
      meetsPoison s1 a.key (2 ^ sz.toNat) = false →
      ∃ v u, Fetched s1 a.key (2 ^ sz.toNat) v u ∧ ∀ g t,
        (Writes g (extended false (2 ^ sz.toNat) v) u t → exec (.ld sz g b disp) s = .next (finish t)) ∧
        (Writes g (extended true (2 ^ sz.toNat) v) u t → exec (.lds sz g b disp) s = .next (finish t))) ∧
    (Reaches b disp false 16 rR s s1 ea a → a.pkg = s1.pkg → meetsPoison s1 a.key 16 = false →
      ∃ v u, Fetched s1 a.key 16 v u ∧
        (∀ n, Writable s1 n → Writable s1 (n + 1) → exec (.ldq n b disp) s =
          .next (finish (putG (n + 1) (BitVec.ofNat 64 (v / 2 ^ 64)) (putG n (BitVec.ofNat 64 v) u)))) ∧
        (∀ p, v < 2 ^ 80 → exec (.ldp p b disp) s = .next (finish (putP p (BitVec.ofNat 80 v) u))))

namespace Sys2Proof.Claims

/-- The remote load that a load instruction sends (R134). -/
def SentLoad (d : LDst) (ea : Addr) (a : Acc) (n : Nat) (signed acq : Bool) (s t : State) : Prop :=
  ∃ l, t.cur.loads = s.cur.loads ++ [l] ∧ l.dst = d ∧ l.addr = ea ∧ l.key = a.key ∧ l.size = n ∧ l.signed = signed ∧
    l.atomic = none ∧ l.value = none ∧ l.pkg = a.pkg ∧ t.cur.gate = (s.cur.gate || acq) ∧
    t.cur.regs.g = s.cur.regs.g ∧ t.cur.regs.p = s.cur.regs.p ∧ t.mem = s.mem ∧ t.cur.regs.pc = s.cur.npc

/-- Nothing that a release waits for is out (R136). -/
def Released0 (s : State) : Prop :=
  s.cur.loads = [] ∧ (s.core.places[s.cur.place]).entries = [] ∧ (s.core.places[s.cur.place]).posted = [] ∧
  (s.core.places[s.cur.place]).markers = []

/-- A commit of the agent in front finds nothing in its way: FREE mode, no view, no conflict, no release under way, no
reservation, no held operand range and no halted home, memory in its canonical form (R127 to R129). -/
def FreeCommit (s : State) : Prop :=
  s.launch.mode = .free ∧ s.cur.tag = 0 ∧ s.cur.chunk.conflict = false ∧ s.cur.ended = [] ∧ s.cur.rel = none ∧
  s.cur.relStore = [] ∧ (∀ b ∈ s.agents, b.reserved = false) ∧ (∀ c ∈ s.cur.chunk.wbuf, heldRange s c.1 1 = false) ∧
  (∀ k ∈ s.cur.chunk.clre, heldRange s k 8 = false) ∧ (∀ h ∈ s.cur.chunk.homes, homeStands s s.core.id h = false) ∧
  Memory.wf s.mem = true ∧ Memory.wf s.launch.lmem = true

/-- The frame of a store of `bs` at `key` in the own package, from `s` through `s1` where its operands have been read: the
agent sees the stored bytes there and every other byte as before; memory itself has them once the chunk commits, which is
at once where an operand closed the chunk (R127), a byte of a record of R311, R340 or R343 as its access code lets it (R7); no
register has changed. -/
def Stored (key : Nat) (bs : List Byte) (s s1 t : State) : Prop :=
  (s1.cur.chunk.closed = false →
    (∀ i (h : i < bs.length), seen t (key + i) = bs[i]) ∧
    (∀ k, (k < key ∨ key + bs.length ≤ k) → seen t k = seen s k) ∧ (∀ k, baseByte t k = baseByte s k)) ∧
  (s1.cur.chunk.closed = true → FreeCommit s1 →
    (∀ i (h : i < bs.length), baseByte t (key + i) = softByte s1 (key + i) bs[i]) ∧
    (∀ k, (k < key ∨ key + bs.length ≤ k) → baseByte t k = baseByte s k)) ∧
  (s1.cur.chunk.closed = false ∨ FreeCommit s1 →
    t.cur.regs.g = s.cur.regs.g ∧ t.cur.regs.p = s.cur.regs.p ∧ t.cur.regs.q = s.cur.regs.q ∧ t.cur.regs.pc = s.cur.npc)

end Sys2Proof.Claims

/-- A store within the own package, outside views, with room in the chunk, no release under way and no operand range held,
completes: the agent
sees the low bytes of the source (16 bytes of the pointer, zero-extended, for STP) at the address that its operand gives,
every other byte reads as before, and no register changes; where a port or a handle closed the chunk, memory has the
bytes at once. A release store also needs an empty chunk and nothing outstanding.
The model's choice in points that the spec leaves open: notes/assumptions/13.md, notes/assumptions/66.md. -/
def Obligations.StoreResultAndFrame : Prop :=
  ∀ s s1 s2 b disp ea a n v, Ready onXA s → Reaches b disp true n rW s s1 ea a → a.pkg = s1.pkg → Tidy s1 → s1.cur.tag = 0 →
    s1.cur.chunk.wlines.length < 48 → s1.cur.rel = none → s1.cur.relStore = [] →
    (∀ (sz : Size) g, n = 2 ^ sz.toNat → Reads g s1 v s2 → heldRange s2 a.key n = false →
      (∃ t, exec (.st sz g b disp) s = .next t ∧ Stored a.key (toBytes n v.toNat) s s2 t) ∧
      (ChunkEmpty s2 → Released0 s2 →
        ∃ t, exec (.stRel sz g b disp) s = .next t ∧ Stored a.key (toBytes n v.toNat) s s2 t)) ∧
    (n = 16 → ∀ p, PReadable s1 p → heldRange s1 a.key 16 = false →
      (∃ t, exec (.stp p b disp) s = .next t ∧ Stored a.key (toBytes 16 (pval s1 p).toNat) s s1 t) ∧
      (ChunkEmpty s1 → Released0 s1 →
        ∃ t, exec (.stpRel p b disp) s = .next t ∧ Stored a.key (toBytes 16 (pval s1 p).toNat) s s1 t))

namespace Sys2Proof.Claims

/-- The count of the pin that stands where `q` does (R108). -/
def pinCount (ps : List Pin) (q : Pin) : Nat := ((ps.find? (samePin q)).map (·.count)).getD 0

end Sys2Proof.Claims

/-- LDSYNC on a FULL word of the own package that meets no poison writes the bytes of the home and closes its chunk, completing
where nothing is in the way of that chunk's commit; on an EMPTY word it waits. CLRE over words of the own package, with room for
their lines in the chunk and the view and no release under way, completes with exactly those words added to the ones that its
chunk empties; over words of another package, with an empty chunk, they are EMPTY at once where they carry no poison (R363); an
empty range changes nothing. PREF
completes whatever its address, with registers and memory unchanged. PIN over a range that R reaches writes status 0 and
raises each line's count by one; it pins nothing and writes 1 (SET_FULL) where a set of a line's home would hold more than 15
pinned lines, else 2 (QUOTA) where the range has more lines than RQUOTA, else 3 (LIMIT) where a line's count is already 255; UNPIN lowers the pinned lines of its range.
The model's choice in points that the spec leaves open: notes/assumptions/8.md, notes/assumptions/17.md. -/
def Obligations.FullEmptyAndPinResult : Prop :=
  (∀ s s1 b disp ea a (sz : Size) g, Ready onXA s → Reaches b disp false (2 ^ sz.toNat) rR s s1 ea a → a.pkg = s1.pkg →
    s1.cur.chunk.clre.contains (wordOf a.key) = false → s1.cur.ended = [] →
    (emptyView s1 s1.pkg s1.cur.tag a.key = true → exec (.ldsync sz g b disp) s = .next (park (.blocked .emptyWord) s)) ∧
    (emptyView s1 s1.pkg s1.cur.tag a.key = false → meetsPoison s1 a.key (2 ^ sz.toNat) = false → ∀ u t,
      Writes g (extended false (2 ^ sz.toNat) (seenN s1 a.key (2 ^ sz.toNat))) (closing (noteRead a.key s1)) u →
      (retire u = .done t → exec (.ldsync sz g b disp) s = .next t) ∧
      (FreeCommit u → ∃ t, exec (.ldsync sz g b disp) s = .next t ∧ t.cur.regs.pc = s.cur.npc ∧ t.cur.regs.g = u.cur.regs.g))) ∧
  (∀ s s1 p n ws, Ready onXA s → PReadable s p → Readable s n → (pval s p).toNat % 8 = 0 → (gval s n).toNat % 8 = 0 →
    (gval s n ≠ 0 → reachSteps ((gval s n).toNat / 8) 8 (pval s p) rW s = .ok (ws, s1) →
      (∀ a ∈ ws, heldRange s1 a.key 8 = false) → s1.cur.rel = none →
      let lines := ((ws.map fun a => lineOf (wordOf a.key)) ++ s1.cur.chunk.wlines).eraseDups
      ((∀ a ∈ ws, a.pkg = s1.pkg) → lines.length ≤ 48 ∨ s1.cur.chunk.count = 0 →
        newLines s1 (lines ++ s1.cur.ended.flatMap (·.wlines)) ≤ (s1.getPkg s1.pkg).tagLines →
        ∃ t, exec (.clre p (.reg n)) s = .next t ∧ t.mem = s.mem ∧ t.empty = s1.empty ∧
        t.cur.chunk.clre = (ws.map fun a => wordOf a.key) ++ s1.cur.chunk.clre ∧ t.cur.regs.g = s.cur.regs.g) ∧
      ((∀ a ∈ ws, a.pkg ≠ s1.pkg) → ChunkEmpty s1 → s1.cur.tag = 0 → (∀ a ∈ ws, basePois s1 a.key = false) → ∃ t, exec (.clre p (.reg n)) s = .next t ∧
        t.mem = s.mem ∧ (∀ a ∈ ws, baseEmpty t a.key = true) ∧ t.cur.regs.g = s.cur.regs.g)) ∧
    (gval s n = 0 → reachEmpty (pval s p) 8 s = .ok ((), s) → exec (.clre p (.reg n)) s = .next (advance s))) ∧
  (∀ s p disp, Ready onXA s → PReadable s p → ∃ t, exec (.pref p disp) s = .next t ∧ t.mem = s.mem ∧ t.launch = s.launch ∧
    t.cur.regs = { s.cur.regs with pc := s.cur.npc } ∧ t.cur.chunk.wbuf = s.cur.chunk.wbuf ∧ t.pins = s.pins) ∧
  (∀ s s1 p n st ls, Ready onXA s → PReadable s p → Readable s n → (pval s p).toNat % 64 = 0 → (gval s n).toNat % 64 = 0 →
    gval s n ≠ 0 → reachSteps ((gval s n).toNat / 64) 64 (pval s p) rR s = .ok (ls, s1) →
    let after := (ls.map (pinOf s1) ++ s1.pins).eraseDupsBy sameLine
    let setFull := ∃ a ∈ ls, 15 < after.countP fun q => Machine.setOf q == Machine.setOf (pinOf s1 a)
    let quota := s1.core.priv.rquota.toNat % 2 ^ 32 < ls.length
    let limit := ∃ a ∈ ls, 255 ≤ ((s1.pins.filter (sameLine (pinOf s1 a))).map (·.count)).sum
    (¬ setFull → ¬ quota → ¬ limit → ∃ ps l, (∀ q, pinCount ps q = pinCount s1.pins q + ls.countP fun a => samePin q (pinOf s1 a)) ∧
      ∀ t, Writes st 0 { s1 with pins := ps, cur := { s1.cur with chunk := { s1.cur.chunk with pinned := l } } } t →
        exec (.pin st p n) s = .next (finish t)) ∧
    (setFull → ∀ t, Writes st 1 s1 t → exec (.pin st p n) s = .next (finish t)) ∧
    (¬ setFull → quota → ∀ t, Writes st 2 s1 t → exec (.pin st p n) s = .next (finish t)) ∧
    (¬ setFull → ¬ quota → limit → ∀ t, Writes st 3 s1 t → exec (.pin st p n) s = .next (finish t))) ∧
  (∀ s p n st t, Ready onXA s → PReadable s p → Readable s n → (pval s p).toNat % 64 = 0 → gval s n = 0 →
    reachEmpty (pval s p) 64 s = .ok ((), s) → Writes st 0 s t → exec (.pin st p n) s = .next (finish t)) ∧
  (∀ s s1 p n ls, Ready onXA s → PReadable s p → Readable s n → (pval s p).toNat % 64 = 0 → (gval s n).toNat % 64 = 0 →
    gval s n ≠ 0 → reachSteps ((gval s n).toNat / 64) 64 (pval s p) 0 s = .ok (ls, s1) →
    (s1.pins.Pairwise fun x y => samePin x y = false) →
    ∃ t, exec (.unpin p (.reg n)) s = .next t ∧ t.mem = s.mem ∧ t.cur.regs.g = s.cur.regs.g ∧
      ∀ q, pinCount t.pins q = pinCount s1.pins q - ls.countP fun a => samePin q (pinOf s1 a))

/-- SLEEP on a promise that is due, or whose command has completed by its fallen time, goes on (the register then due),
and blocks before; an uncompleted fallen promise traps with cause 9. WAITC goes on when count − threshold is below 2^31,
modulo 2^32, WAITC.sub then subtracting the threshold, which its chunk notes for a squash; both close their chunk, which then commits, and block before. FENCE.acq
goes on with no load out, FENCE.full with nothing of a release outstanding, FLUSH with no walker command of its own either;
FENCE.rel goes on in every case, and where something is outstanding a release is then under way.
The model's choice in points that the spec leaves open: notes/assumptions/13.md. -/
def Obligations.WaitsAndFencesResult : Prop :=
  (∀ s d, Ready onXA s →
    (s.cur.regs.d[BitVec.toNat d] = .due → exec (.sleep d) s = .next (advance s)) ∧
    (∀ core id, s.cur.regs.d[BitVec.toNat d] = .cmd core id false → exec (.sleep d) s = .next (park (.blocked .promise) s)) ∧
    (∀ core id, s.cur.regs.d[BitVec.toNat d] = .cmd core id true →
      let s' := s.modCur fun a => { a with regs := { a.regs with d := a.regs.d.set d.toNat .due } }
      ((s.getCore core).walker.any (·.id == id) = false → exec (.sleep d) s = .next (advance s')) ∧
      ((s.getCore core).walker.any (·.id == id) = true → s.launch.mode = .free → s.cur.seq = .x → ChunkEmpty s →
        s.cur.regs.handlerActive = false → s.cur.regs.utrapv ≠ 0 → exec (.sleep d) s = .next (trapEntered 9 s')))) ∧
  (∀ s k g v u, Ready onXA s → Reads g s v u →
    let lc := u.getLc u.cur.lcore
    let up := (lc.mc[BitVec.toNat k] - v.setWidth 32).toNat < 2 ^ 31
    (up → ∀ t, retire (closing u) = .done t → exec (.waitc k g) s = .next t) ∧
    (up → ∀ t, retire (closing ((u.modLc u.cur.lcore fun lc =>
      { lc with mc := lc.mc.set k.toNat (lc.mc[BitVec.toNat k] - v.setWidth 32) }).modCur fun a =>
        { a with chunk := { a.chunk with subs := (k, v.setWidth 32) :: a.chunk.subs } })) = .done t →
      exec (.waitcSub k g) s = .next t) ∧
    (up → ChunkEmpty u → exec (.waitc k g) s = .next (advanceAlone (closing u)) ∧
      exec (.waitcSub k g) s = .next (advanceAlone (closing (u.modLc u.cur.lcore fun lc =>
        { lc with mc := lc.mc.set k.toNat (lc.mc[BitVec.toNat k] - v.setWidth 32) })))) ∧
    (up → FreeCommit u → (∃ t, exec (.waitc k g) s = .next t ∧ t.cur.regs.pc = s.cur.npc ∧ t.cur.regs.g = s.cur.regs.g) ∧
      ∃ t, exec (.waitcSub k g) s = .next t ∧ t.cur.regs.pc = s.cur.npc ∧ t.cur.regs.g = s.cur.regs.g) ∧
    (¬ up → exec (.waitc k g) s = .next (park (.blocked .counter) s) ∧
      exec (.waitcSub k g) s = .next (park (.blocked .counter) s))) ∧
  (∀ s, Ready onXA s → ChunkEmpty s →
    (s.cur.loads = [] → exec .fenceAcq s = .next (advanceAlone (closing s))) ∧
    (s.cur.loads ≠ [] → exec .fenceAcq s = .next (park (.resource .loads) s)) ∧
    (¬ Released0 s → exec .fenceRel s = .next (advanceAlone (beginRelease (closing s)))) ∧
    (Released0 s → exec .fenceRel s = .next (advanceAlone (closing s)) ∧ exec .fenceFull s = .next (advanceAlone (closing s)) ∧
      ((s.core.walker.any fun c => c.tid == s.cur.tid && c.seq == s.cur.seq) = false →
        exec .flush s = .next (advanceAlone (closing s)))))

namespace Sys2Proof.Claims

/-- An atomic's access is in order: base, alignment, rights R, W and A, and its byte in `a` (R224). -/
def ReachesAt (b : PBase) (need : Rights) (s t : State) (ea : Addr) (a : Acc) : Prop :=
  ∃ s0, baseAddr b true s = .ok (ea, s0) ∧ reachAligned ea 8 need s0 = .ok (a, t)

/-- What a performed update of the word at `key` leaves: the new value there (a byte of a record of R311, R340 or R343 as its access
code lets it, R7), every other byte as before (R224); `s1` is the state in which the operands have been read. -/
def WordBecomes (key n new : Nat) (s s1 t : State) : Prop :=
  ∀ k, baseByte t k =
    if key ≤ k ∧ k < key + n then softByte s1 k (BitVec.ofNat 8 (new / 256 ^ (k - key))) else baseByte s k

/-- The word that stands at a key (R220). -/
def wordAt (s : State) (key : Nat) : Word := BitVec.ofNat 64 (ofBytes ((List.range 8).map fun i => baseByte s (key + i)))

/-- An atomic completes at its home, outside views and in FREE mode: the old word in the destination, the new one in
memory, and nothing else in memory or in the general registers changed. -/
def AtomicHere (i : Instr) (a : Acc) (new : Word → Word) (d : GReg) (s s1 : State) : Prop :=
  ∃ t, exec i s = .next t ∧ WordBecomes a.key 8 (new (wordAt s1 a.key)).toNat s s1 t ∧
    gval t d = (if d = 0 then 0 else wordAt s1 a.key) ∧ (∀ m, m ≠ d → gval t m = gval s m) ∧ t.cur.regs.pc = s.cur.npc

/-- The state in which an atomic performs at once. -/
def AtomicReady (a : Acc) (d : GReg) (s1 : State) : Prop :=
  a.pkg = s1.pkg ∧ heldRange s1 a.key 8 = false ∧ ChunkEmpty s1 ∧ s1.cur.tag = 0 ∧ s1.launch.mode = .free ∧
  poisoned s1 s1.pkg 0 a.key = false ∧ reservedLine s1 s1.pkg 0 s1.cur.tid (lineOf a.key) = false ∧ Writable s1 d ∧ Memory.wf s1.mem = true ∧ Memory.wf s1.launch.lmem = true

end Sys2Proof.Claims

/-- In the own package, outside views, in FREE mode, with an empty chunk and no reservation of another agent in the way, AADD, AAND, AOR, AXOR, AMIN, AMAX (signed),
ASWAP and ACAS (which writes c where the word equals its destination register, else writes the word back), with .acq, with
.rel (nothing of a release outstanding) or with neither, complete: the old word goes to the destination and the new one to
the address computed from the operand; no other byte and no other register changes.
The model's choice in points that the spec leaves open: notes/assumptions/13.md, notes/assumptions/17.md,
notes/assumptions/66.md. -/
def Obligations.AtomicResult : Prop :=
  ∀ s s1 b c ea a d, Ready onXA s → Readable s c → ReachesAt b 11 s s1 ea a → AtomicReady a d s1 →
    let y := gval s c
    (∀ p : (GOp → PBase → GReg → Instr) × (GOp → PBase → GReg → Instr) × (GOp → PBase → GReg → Instr) × (Word → Word),
      p = (.aAdd, .aAddAcq, .aAddRel, fun old => old + y) ∨ p = (.aAnd, .aAndAcq, .aAndRel, fun old => old &&& y) ∨
      p = (.aOr, .aOrAcq, .aOrRel, fun old => old ||| y) ∨ p = (.aXor, .aXorAcq, .aXorRel, fun old => old ^^^ y) ∨
      p = (.aMin, .aMinAcq, .aMinRel, fun old => if old.toInt ≤ y.toInt then old else y) ∨
      p = (.aMax, .aMaxAcq, .aMaxRel, fun old => if old.toInt ≤ y.toInt then y else old) ∨
      p = (.aSwap, .aSwapAcq, .aSwapRel, fun _ => y) →
      AtomicHere (p.1 (.reg d) b c) a p.2.2.2 d s s1 ∧ AtomicHere (p.2.1 (.reg d) b c) a p.2.2.2 d s s1 ∧
      (Released0 s1 → AtomicHere (p.2.2.1 (.reg d) b c) a p.2.2.2 d s s1)) ∧
    (Readable s d →
      let new := fun old => if old = gval s d then y else old
      AtomicHere (.aCas d b c) a new d s s1 ∧ AtomicHere (.aCasAcq d b c) a new d s s1 ∧
      (Released0 s1 → AtomicHere (.aCasRel d b c) a new d s s1))

namespace Sys2Proof.Claims

/-- The atomic that has been sent to another package (R137). -/
def SentAtomic (i : Instr) (ea : Addr) (a : Acc) (op : AOp) (c cmp : Word) (acq rel : Bool) (d : GReg) (s : State) : Prop :=
  ∃ t l, exec i s = .next t ∧ t.cur.loads = s.cur.loads ++ [l] ∧ l.dst = .g d ∧ l.addr = ea ∧ l.key = a.key ∧
    l.atomic = some (op, c, cmp) ∧ l.pkg = a.pkg ∧ l.rel = rel ∧ t.cur.gate = (s.cur.gate || acq) ∧ t.mem = s.mem ∧ t.launch.lmem = s.launch.lmem ∧
    t.cur.regs.g = s.cur.regs.g ∧ t.cur.regs.pc = s.cur.npc

end Sys2Proof.Claims

/-- On a byte of another package, with an empty chunk and no own posted request or saddlebag entry in its way: every load form,
with fewer than 64 loads out, completes with its request (destination, address, size, extension) on its way, an acquire
holding later issue; ST and STP outside a rival's view take a free journal entry that holds the stored bytes at their keys, as
ST.rel and STP.rel do with nothing outstanding; every atomic form outside a rival's view and not under QUANTUM sends its
operation, operand and compare value. No register and no byte of memory changes.
The model's choice in points that the spec leaves open: notes/assumptions/15.md. -/
def Obligations.RemoteAccessIsSent : Prop :=
  (∀ s s1 b disp ea a n, Ready onXA s → Reaches b disp false n rR s s1 ea a → a.pkg ≠ s1.pkg → ChunkEmpty s1 →
    s1.cur.loads.length < 64 → sbCovers s1 ea a.key n = false →
    ((s1.core.places[s1.cur.place]).entries.filter fun e => e.req.meets a.key n || (e.sent && lineOf e.key == lineOf a.key)) = [] →
    (∀ (sz : Size) g, n = 2 ^ sz.toNat →
      (∃ t, exec (.ld sz g b disp) s = .next t ∧ SentLoad (gDst g) ea a n false false s t) ∧
      (∃ t, exec (.ldWr sz g b disp) s = .next t ∧ SentLoad (gDst g) ea a n false false s t) ∧
      (∃ t, exec (.lds sz g b disp) s = .next t ∧ SentLoad (gDst g) ea a n true false s t) ∧
      (∃ t, exec (.ldsWr sz g b disp) s = .next t ∧ SentLoad (gDst g) ea a n true false s t) ∧
      (∃ t, exec (.ldAcq sz g b disp) s = .next t ∧ SentLoad (gDst g) ea a n false true s t)) ∧
    (n = 16 → ∀ g p,
      (∃ t, exec (.ldq g b disp) s = .next t ∧ SentLoad (.pair g) ea a n false false s t) ∧
      (∃ t, exec (.ldqWr g b disp) s = .next t ∧ SentLoad (.pair g) ea a n false false s t) ∧
      (∃ t, exec (.ldqAcq g b disp) s = .next t ∧ SentLoad (.pair g) ea a n false true s t) ∧
      (∃ t, exec (.ldp p b disp) s = .next t ∧ SentLoad (.p p) ea a n false false s t) ∧
      (∃ t, exec (.ldpWr p b disp) s = .next t ∧ SentLoad (.p p) ea a n false false s t) ∧
      (∃ t, exec (.ldpAcq p b disp) s = .next t ∧ SentLoad (.p p) ea a n false true s t))) ∧
  (∀ s s1 b disp ea a n, Ready onXA s → Reaches b disp true n rW s s1 ea a → a.pkg ≠ s1.pkg → ChunkEmpty s1 →
    heldRange s1 a.key n = false → buffered s1 = false →
    let old := (s1.core.places[s1.cur.place]).entries
    old.length < 32 → (∀ e ∈ old, lineOf e.key ≠ lineOf a.key) →
    let Posted (bs : List Byte) (t : State) : Prop :=
      (∃ e, (t.core.places[s1.cur.place]).entries = old ++ [e] ∧ e.key = a.key ∧ e.va = ea ∧ e.pkg = a.pkg ∧
        e.sent = false ∧ e.req = .store (cellsAt a.key bs) (wholeWords (cellsAt a.key bs)) []) ∧
      t.mem = s.mem ∧ t.launch.lmem = s.launch.lmem ∧ t.cur.regs.g = s.cur.regs.g ∧ t.cur.regs.p = s.cur.regs.p ∧ t.cur.regs.pc = s.cur.npc
    (∀ (sz : Size) g, n = 2 ^ sz.toNat → Readable s1 g →
      (∃ t, exec (.st sz (.reg g) b disp) s = .next t ∧ Posted (toBytes n (gval s1 g).toNat) t) ∧
      (Released0 s1 → ∃ t, exec (.stRel sz (.reg g) b disp) s = .next t ∧ Posted (toBytes n (gval s1 g).toNat) t)) ∧
    (n = 16 → ∀ p, PReadable s1 p →
      (∃ t, exec (.stp p b disp) s = .next t ∧ Posted (toBytes 16 (pval s1 p).toNat) t) ∧
      (Released0 s1 → ∃ t, exec (.stpRel p b disp) s = .next t ∧ Posted (toBytes 16 (pval s1 p).toNat) t))) ∧
  (∀ s s1 b c ea a d, Ready onXA s → Readable s c → ReachesAt b 11 s s1 ea a → a.pkg ≠ s1.pkg → heldRange s1 a.key 8 = false →
    ChunkEmpty s1 → buffered s1 = false → s1.launch.mode ≠ .quantum → s1.cur.loads.length < 64 →
    ((s1.core.places[s1.cur.place]).entries.filter fun e => e.req.meets a.key 8 || (e.sent && lineOf e.key == lineOf a.key)) = [] →
    (∀ p : (GOp → PBase → GReg → Instr) × (GOp → PBase → GReg → Instr) × (GOp → PBase → GReg → Instr) × AOp,
      p = (.aAdd, .aAddAcq, .aAddRel, .add) ∨ p = (.aAnd, .aAndAcq, .aAndRel, .and) ∨ p = (.aOr, .aOrAcq, .aOrRel, .or) ∨
      p = (.aXor, .aXorAcq, .aXorRel, .xor) ∨ p = (.aMin, .aMinAcq, .aMinRel, .min) ∨ p = (.aMax, .aMaxAcq, .aMaxRel, .max) ∨
      p = (.aSwap, .aSwapAcq, .aSwapRel, .swap) →
      SentAtomic (p.1 (.reg d) b c) ea a p.2.2.2 (gval s c) 0 false false d s ∧
      SentAtomic (p.2.1 (.reg d) b c) ea a p.2.2.2 (gval s c) 0 true false d s ∧
      (Released0 s1 → SentAtomic (p.2.2.1 (.reg d) b c) ea a p.2.2.2 (gval s c) 0 false true d s)) ∧
    (Readable s d →
      SentAtomic (.aCas d b c) ea a .cas (gval s c) (gval s d) false false d s ∧
      SentAtomic (.aCasAcq d b c) ea a .cas (gval s c) (gval s d) true false d s ∧
      (Released0 s1 → SentAtomic (.aCasRel d b c) ea a .cas (gval s c) (gval s d) false true d s)))

namespace Sys2Proof.Claims

/-- A float sum of a reduction, encoded in the mode and with the draw that its agent holds (R225). -/
def floatSum (t : Fmt) (old v : Nat) (s : State) : Nat :=
  encodeF t (Val.add (decide (s.cur.regs.round.extractLsb' 0 3 = 3)) (decodeF t (old % 2 ^ t.bits)) (decodeF t (v % 2 ^ t.bits)))
    (s.cur.regs.round.extractLsb' 0 3) false (drawsOf s).z

end Sys2Proof.Claims

/-- RADD, RMIN, RMAX, RAND, ROR, RXOR, RADD.f64 and RADD.f32 from a register, with an empty chunk and no held range,
complete. In the own package, outside views, in FREE mode and with no reservation in the way, the word (4 bytes for .f32) becomes the result, no other byte
and no general register changes, and under SR a float form counts exactly one draw. To another package, outside a rival's
view and with a free journal entry, the request with its operand, mode and draw is posted and memory is unchanged.
The model's choice in points that the spec leaves open: notes/assumptions/22.md, notes/assumptions/66.md. -/
def Obligations.ReductionResult : Prop :=
  ∀ s s1 g b disp ea a n, Ready onXA s → Reaches b disp true n 10 s s1 ea a → Readable s1 g →
    heldRange s1 a.key n = false → ChunkEmpty s1 → reservedLine s1 s1.pkg 0 s1.cur.tid (lineOf a.key) = false →
    let y := gval s1 g
    let mode := s1.cur.regs.round.extractLsb' 0 3
    let drawn (float : Bool) : Word := if float = true ∧ mode = 5 then s1.cur.regs.srn + 1 else s1.cur.regs.srn
    ∀ p : (GOp → PBase → Word → Instr) × AOp × Nat × (Nat → Nat),
      p = (.rAdd, .add, 8, fun old => (BitVec.ofNat 64 old + y).toNat) ∨
      p = (.rMin, .min, 8, fun old => if (BitVec.ofNat 64 old).toInt ≤ y.toInt then old else y.toNat) ∨
      p = (.rMax, .max, 8, fun old => if (BitVec.ofNat 64 old).toInt ≤ y.toInt then y.toNat else old) ∨
      p = (.rAnd, .and, 8, fun old => old &&& y.toNat) ∨ p = (.rOr, .or, 8, fun old => old ||| y.toNat) ∨
      p = (.rXor, .xor, 8, fun old => old ^^^ y.toNat) ∨
      p = (.rAddF64, .addF64, 8, fun old => floatSum f64 old y.toNat s1) ∨
      p = (.rAddF32, .addF32, 4, fun old => floatSum f32 old y.toNat s1) → n = p.2.2.1 →
      let float := decide (p.2.1 = .addF64 ∨ p.2.1 = .addF32)
      (a.pkg = s1.pkg → s1.cur.tag = 0 → s1.launch.mode = .free → poisoned s1 s1.pkg 0 a.key = false →
        Memory.wf s1.mem = true → Memory.wf s1.launch.lmem = true →
        ∃ t, exec (p.1 (.reg g) b disp) s = .next t ∧ t.cur.regs.g = s.cur.regs.g ∧ t.cur.regs.srn = drawn float ∧
          WordBecomes a.key n (p.2.2.2 (ofBytes ((List.range n).map fun i => baseByte s1 (a.key + i)))) s s1 t) ∧
      (a.pkg ≠ s1.pkg → buffered s1 = false → (s1.core.places[s1.cur.place]).entries.length < 32 →
        ∃ t e, exec (p.1 (.reg g) b disp) s = .next t ∧ t.mem = s.mem ∧ t.launch.lmem = s.launch.lmem ∧ t.cur.regs.g = s.cur.regs.g ∧
          t.cur.regs.srn = drawn float ∧
          (t.core.places[s1.cur.place]).entries = (s1.core.places[s1.cur.place]).entries ++ [e] ∧ e.key = a.key ∧
          e.req = .red p.2.1 a.key y mode (drawsOf s1).z)

/-- On X in FREE mode, with an empty chunk and (where the instruction releases) nothing outstanding, on the ring of its own
logical core: HCFG gives an idle handle
the mode, sizes and base of a legal descriptor, all cursors 0; ADVP and ADVC by at most the free and the filled slots
advance the producer and the consumer, modulo 2^32 on a plain ring; TKT on a reorder ring with a slot left returns the
ticket and counts it; RFILL marks an unmarked ticket that is out; RTAKE takes the run of marked slots at k and returns its
length. Outside a rival's view, with fewer than 64 accesses out, TKT and RFILL of a ring in another package are sent there, and
no register changes.
The model's choice in points that the spec leaves open: notes/assumptions/17.md. -/
def Obligations.HandleAndRingResult : Prop :=
  ∀ s, s.cur.seq = .x → Ready onX s → ChunkEmpty s → s.launch.mode = .free →
    let n := s.cur.lcore
    pkgOf (s.getLc n).core = s.pkg →
    let H (t : State) (h : BitVec 3) : Handle := (t.getLc n).handles[BitVec.toNat h]
    (∀ h g, Readable s g → (H s h).busy = false →
      let d := (gval s g).toNat
      let m := d / 2 ^ 62
      let logn := d / 2 ^ 32 % 16
      let logs := d / 2 ^ 28 % 16
      let base := d % 2 ^ 18
      d / 2 ^ 36 % 2 ^ 26 = 0 → d / 2 ^ 18 % 2 ^ 10 = 0 →
      (m = 0 → ∃ t, exec (.hcfg h (.reg g)) s = .next t ∧ H t h = Handle.off ∧ t.cur.hcfged = true) ∧
      (m = 1 ∨ m = 2 → 1 ≤ logn → logn ≤ 8 → 3 ≤ logs → logs ≤ 12 → base % 2 ^ logs = 0 →
        base + 2 ^ logn * 2 ^ logs ≤ s.launch.lsize → ∃ t, exec (.hcfg h (.reg g)) s = .next t ∧ t.cur.hcfged = true ∧
          H t h = { Handle.off with mode := BitVec.ofNat 2 m, logn := logn, logs := logs, base := base })) ∧
    (Released0 s → ∀ h, (H s h).mode = 1 →
      (∀ i k, (i = .advpN h k ∨ ∃ g, Readable s g ∧ gval s g = k.setWidth 64 ∧ i = .advpG h (.reg g)) → k.toNat ≤ (H s h).free →
        ∃ t, exec i s = .next t ∧ H t h = { H s h with p := ((H s h).p + k.toNat) % 2 ^ 32 } ∧ t.cur.regs.g = s.cur.regs.g) ∧
      (∀ i k, (i = .advcN h k ∨ ∃ g, Readable s g ∧ gval s g = k.setWidth 64 ∧ i = .advcG h (.reg g)) → k.toNat ≤ (H s h).filled →
        ∃ t, exec i s = .next t ∧ H t h = { H s h with c := ((H s h).c + k.toNat) % 2 ^ 32 } ∧ t.cur.regs.g = s.cur.regs.g)) ∧
    (∀ h, (H s h).mode = 2 →
      (Released0 s → ∀ k : BitVec 31, k.toNat ≤ (H s h).k - (H s h).c → ∃ t, exec (.advcN h k) s = .next t ∧
        (H t h).c = (H s h).c + k.toNat ∧ (H t h).k = (H s h).k) ∧
      (∀ g, Writable s g → (H s h).t < (H s h).c + 2 ^ (H s h).logn → ∃ t, exec (.tkt (.reg g) h none) s = .next t ∧
        gval t g = (if g = 0 then 0 else BitVec.ofNat 64 (H s h).t) ∧ H t h = { H s h with t := (H s h).t + 1 }) ∧
      (∀ g, Readable s g → Released0 s → (H s h).k ≤ (gval s g).toNat → (gval s g).toNat < (H s h).t →
        (H s h).marks.contains (gval s g).toNat = false → ∃ t, exec (.rfill (.reg g) h none) s = .next t ∧
          H t h = { H s h with marks := (gval s g).toNat :: (H s h).marks }) ∧
      (∀ g k, Writable s g → 0 < k → k ≤ 2 ^ (H s h).logn → (∀ j, j < k → (H s h).marks.contains ((H s h).k + j) = true) →
        (k < 2 ^ (H s h).logn → (H s h).marks.contains ((H s h).k + k) = false) →
        ∃ t, exec (.rtake (.reg g) h) s = .next t ∧ gval t g = (if g = 0 then 0 else BitVec.ofNat 64 k) ∧
          H t h = { H s h with k := (H s h).k + k })) ∧
    (∀ h g c, Readable s c → (gval s c).toNat < s.launch.l → (s.getLc (gval s c).toNat).away = false →
      pkgOf (s.getLc (gval s c).toNat).core ≠ s.pkg → buffered s = false →
      (s.cur.loads.length < 64 → ∃ t l, exec (.tkt (.reg g) h (some c)) s = .next t ∧ t.cur.loads = s.cur.loads ++ [l] ∧
        l.dst = .g g ∧ l.ring = some ((gval s c).toNat, h, none) ∧ l.value = none ∧ t.cur.regs.g = s.cur.regs.g) ∧
      (Readable s g → Released0 s → ∃ t l, exec (.rfill (.reg g) h (some c)) s = .next t ∧ t.cur.loads = s.cur.loads ++ [l] ∧
        l.ring = some ((gval s c).toNat, h, some (gval s g).toNat) ∧ l.value = none ∧ t.cur.regs.g = s.cur.regs.g))

namespace Sys2Proof.Claims

/-- The vector file is held for the thread in front, and nothing of the chunk gives it back (R228). -/
def HoldsFile (s : State) : Prop :=
  s.core.vholder = some (holderSlot s) ∧ s.core.vfree = false ∧ s.cur.chunk.vrel = false ∧ ∀ c ∈ s.cur.ended, c.vrel = false

/-- A vector instruction can enter the queue: room in it, a type that the instruction accepts (R231, R234), and, where it
draws counts under SR, an empty queue. -/
def CanQueue (i : Instr) (s : State) : Prop :=
  s.core.vqueue.length < 16 ∧ vtypeOk (vtyOf s.cur.regs.vtype) i = true ∧
  (s.cur.regs.round.extractLsb' 0 3 ≠ 5 ∨ drawsCounts (vtyOf s.cur.regs.vtype) i = false)

/-- The queued operation with what the instruction sampled (R231), and the frame: pc, memory, registers, file. -/
def Queued (i : Instr) (g : Word) (s t : State) : Prop :=
  (∃ o, t.core.vqueue = s.core.vqueue ++ [o] ∧ o.instr = i ∧ o.vtype = s.cur.regs.vtype ∧ o.tid = s.cur.tid ∧
    o.seq = s.cur.seq ∧ o.mode = s.cur.regs.round.extractLsb' 0 3 ∧ o.g = g) ∧
  t.core.vregs = s.core.vregs ∧ t.core.vmask = s.core.vmask ∧ t.cur.regs.g = s.cur.regs.g ∧ t.cur.regs.p = s.cur.regs.p ∧
  t.cur.regs.q = s.cur.regs.q ∧ t.mem = s.mem ∧ t.launch.lmem = s.launch.lmem ∧ t.cur.regs.pc = s.cur.npc

/-- The instructions that work in the vector file alone. -/
def FileOnly : Instr → Prop
  | .mand _ | .mor _ | .mnot _ _ | .compress _ _ | .vadd _ _ | .vsub _ _ | .vmul _ _ | .vfma _ _ _ _ | .vdiv _ _
  | .vsqrt _ _ _ | .vmin _ _ | .vmax _ _ | .vand _ _ | .vor _ _ | .vxor _ _ | .vshl _ _ | .vshr _ _ | .vsar _ _
  | .vcmp _ _ _ _ _ | .vsel _ _ _ _ | .vmov _ _ _ | .vscan _ _ _ _ | .vperm _ _ _ _ | .vshuf _ _ _ _ | .vcvt _ _ _ _ _
  | .vqnt _ _ _ _ _ => True
  | .mpop (.reg _) _ | .vred _ _ (.reg _) _ => True
  | _ => False

end Sys2Proof.Claims

/-- With the file held, room in the queue and an accepted type, each instruction of the file (masks, arithmetic, bitwise,
shifts, VCMP, VSEL, VMOV, VSCAN, VPERM, VSHUF, VCVT, VQNT, COMPRESS; VRED and MPOP to a register; VBCAST with its g value)
completes by entering the queue with type, mode and thread as sampled; registers, file and memory are unchanged. To a port,
VRED and MPOP send their value once the queue is empty. VSETT
with a legal descriptor writes VTYPE, by REL marks the file for release; a first user, one that releases the file at once
included, becomes its holder and finds a file of zeros and VTYPE 0 once the queue is empty.
The model's choice in points that the spec leaves open: notes/assumptions/20.md, notes/assumptions/21.md. -/
def Obligations.VectorIssueQueues : Prop :=
  (∀ s i, FileOnly i → Ready onVec s → HoldsFile s → CanQueue i s → ∃ t, exec i s = .next t ∧ Queued i 0 s t) ∧
  (∀ s gm a g v u, Ready onVec s → HoldsFile s → CanQueue (.vbcast gm a g) s → Reads g s v u →
    ∃ t, exec (.vbcast gm a g) s = .next t ∧ Queued (.vbcast gm a g) v s t) ∧
  (∀ s d, Ready onVec s → HoldsFile s → s.core.vqueue = [] → ChunkEmpty s →
    let n := neighbour (max 1 s.launch.l) s.launch.w s.cur.lcore d
    portHeld s n (dirIx (opposite d)) < 4 →
    (∀ m, s.core.mpois.getLsbD (BitVec.toNat m) = false → ∃ t, exec (.mpop (.port d) m) s = .next t ∧ t.launch.portq = s.launch.portq ++
      [(n, (dirIx (opposite d)).val, BitVec.ofNat 64 ((List.range 64).countP (s.core.vmask[BitVec.toNat m].getLsbD ·)))]) ∧
    (∀ gm op b, s.core.vpois[BitVec.toNat b] = 0 → vtypeOk (vtyOf s.cur.regs.vtype) (.vred gm op (.port d) b) = true →
      ∃ t v, exec (.vred gm op (.port d) b) s = .next t ∧
        t.launch.portq = s.launch.portq ++ [(n, (dirIx (opposite d)).val, v)] ∧ t.core.vregs = s.core.vregs)) ∧
  (∀ s n, Ready onVec s → HoldsFile s → Readable s n →
    (vsettOk (gval s n) (decide (s.cur.seq = .a)) = true → (gval s n).getLsbD 8 = false →
      exec (.vsett (.reg n)) s = .next (advance (s.modCur fun a => { a with regs := { a.regs with vtype := gval s n } }))) ∧
    (s.cur.seq = .x → gval s n = 256 →
      exec (.vsett (.reg n)) s = .next (advance (s.modCur fun a => { a with chunk := { a.chunk with vrel := true } })))) ∧
  (∀ s n, Ready onVec s → Readable s n → s.core.vholder = none → s.core.vfree = false → s.cur.chunk.vrel = false →
    s.core.vqueue = [] →
    let Taken (vtype : Word) (rel : Bool) (t : State) : Prop :=
      t.core.vholder = some (holderSlot s) ∧ t.cur.regs.vtype = vtype ∧ t.cur.chunk.vrel = rel ∧
      (∀ k : Fin 32, t.core.vregs[k] = 0) ∧ (∀ k : Fin 8, t.core.vmask[k] = 0) ∧ t.mem = s.mem ∧ t.launch.lmem = s.launch.lmem ∧ t.cur.regs.g = s.cur.regs.g
    (s.cur.seq = .x → gval s n = 256 → ∃ t, exec (.vsett (.reg n)) s = .next t ∧ Taken 0 true t) ∧
    (vsettOk (gval s n) (decide (s.cur.seq = .a)) = true → (gval s n).getLsbD 8 = false →
      ∃ t, exec (.vsett (.reg n)) s = .next t ∧ Taken (gval s n) false t))

namespace Sys2Proof.Claims

/-- Element i of a register, of w bits (R230). -/
def elemAt (w : Nat) (v : VReg) (i : Nat) : Nat := (v.extractLsb' (w * i) w).toNat
/-- Whether element i is active under a governing mask: the mask bit of its lane (R230). -/
def isActive (c : Core) (gm : BitVec 3) (w i : Nat) : Bool := gm = 0 || (c.vmask[gm.toNat]).getLsbD (w * i / 32)

/-- The head of the queue has been executed: register a has for each active element i what `f` gives, its other elements
and every other register and mask as before. -/
def ElementsBecome (core : Nat) (w : Nat) (gm : BitVec 3) (a : BitVec 5) (f : Nat → Nat) (s t : State) : Prop :=
  let c := s.getCore core
  let d := t.getCore core
  (∀ i, i < 2048 / w → elemAt w d.vregs[a.toNat] i =
    if isActive c gm w i then f i % 2 ^ w else elemAt w c.vregs[a.toNat] i) ∧
  (∀ k : Fin 32, k.val ≠ a.toNat → d.vregs[k] = c.vregs[k]) ∧ d.vmask = c.vmask

/-- The operands of a VV form: destination, x and y of each element (R198). -/
def vvDest : VV → BitVec 5
  | .two a _ => a.setWidth 5 | .three a _ _ => a | .imm a _ _ => a
def vvX (c : Core) (w : Nat) (r : VV) (i : Nat) : Nat :=
  match r with | .two a _ => elemAt w c.vregs[a.toNat] i | .three _ b _ => elemAt w c.vregs[b.toNat] i | .imm _ b _ => elemAt w c.vregs[b.toNat] i
def vvY (c : Core) (w : Nat) (r : VV) (i : Nat) : Nat :=
  match r with | .two _ b => elemAt w c.vregs[b.toNat] i | .three _ _ k => elemAt w c.vregs[k.toNat] i | .imm _ _ n => n.toNat

/-- A number of w bits as signed. -/
def sgn (w x : Nat) : Int := if 2 ^ (w - 1) ≤ x then (x : Int) - 2 ^ w else x
/-- Signed for .i types, unsigned for .ui types (R229). -/
def asClass (ty : VTy) (x : Nat) : Int := if ty.code = 6 then sgn ty.w x else x

/-- The choice of R216 between two encodings: the operand that is no NaN, the canonical NaN where both are, else the smaller or
the larger one with −0 before +0. -/
def floatChoice (t : Fmt) (smaller : Bool) (x y : Nat) : Nat :=
  let a := decodeF t x
  let b := decodeF t y
  let before : Bool := decide (b.cmp a < 0) || (decide (b.cmp a = 0) && b.neg && !a.neg)
  if a.isNan && b.isNan then t.nan else if a.isNan then y else if b.isNan then x else if before = smaller then y else x

/-- One combining step of a reduction or a scan (R242). -/
def redStep (ty : VTy) (op : BitVec 3) (mode : RMode) (x y : Nat) : Nat :=
  let num (f : Val → Val → Val) : Nat := encodeF ty.fmt (f (decodeF ty.fmt x) (decodeF ty.fmt y)) mode false 0
  match op.toNat with
  | 0 => if ty.isFloat then num (Val.add (decide (mode = 3))) else (x + y) % 2 ^ ty.w
  | 1 => if ty.isFloat then num Val.mul else x * y % 2 ^ ty.w
  | 2 => if ty.isFloat then floatChoice ty.fmt true x y else if asClass ty x ≤ asClass ty y then x else y
  | 3 => if ty.isFloat then floatChoice ty.fmt false x y else if asClass ty x ≤ asClass ty y then y else x
  | 4 => x &&& y | 5 => x ||| y | _ => x ^^^ y

/-- The identity with which a masked-off element enters (R242). -/
def redIdentity (ty : VTy) (op : BitVec 3) : Nat :=
  match op.toNat with
  | 0 => if ty.isFloat then 2 ^ (ty.w - 1) else 0
  | 1 => if ty.isFloat then encodeF ty.fmt (.fin false 1 0) 0 false 0 else 1
  | 2 => if ty.isFloat then encodeF ty.fmt (.inf false) 0 false 0 else if ty.code = 6 then 2 ^ (ty.w - 1) - 1 else 2 ^ ty.w - 1
  | 3 => if ty.isFloat then encodeF ty.fmt (.inf true) 0 false 0 else if ty.code = 6 then 2 ^ (ty.w - 1) else 0
  | 4 => 2 ^ ty.w - 1
  | _ => 0

/-- Node j of level k of the canonical pairwise tree: nodes 2j and 2j + 1 of the level below, combined (R125). -/
def treeNode (f : Nat → Nat → Nat) (e : Nat → Nat) : Nat → Nat → Nat
  | 0, j => e j
  | k + 1, j => f (treeNode f e k (2 * j)) (treeNode f e k (2 * j + 1))

/-- The conditions of VCMP (R237). -/
def cmpHolds (ty : VTy) (cc : BitVec 3) (x y : Nat) : Bool :=
  if ty.isFloat then
    let a := decodeF ty.fmt x
    let b := decodeF ty.fmt y
    let un := a.isNan || b.isNan
    match cc.toNat with
    | 0 => !un && decide (a.cmp b = 0) | 1 => un || decide (a.cmp b ≠ 0) | 2 => !un && decide (a.cmp b < 0)
    | 3 => !un && decide (0 ≤ a.cmp b) | 6 => !un && decide (a.cmp b ≤ 0) | _ => un
  else match cc.toNat with
    | 0 => decide (x = y) | 1 => decide (x ≠ y) | 2 => decide (asClass ty x < asClass ty y)
    | 3 => decide (asClass ty y ≤ asClass ty x) | 4 => decide (x < y) | 5 => decide (y ≤ x)
    | _ => decide (asClass ty x ≤ asClass ty y)

end Sys2Proof.Claims

/-- For a queued arithmetic, bitwise or shift instruction at the head with its slots granted and a mode of R117 other than SR, the
queue event removes it and writes element by element: integers modulo 2^w (shifts by w or more give 0 or the sign), floats
rounded once; VMIN and VMAX of integers by the class's signedness, of floats the choice of R216; VFMA a + b × c. Inactive elements, other registers and masks keep
their values.
The model's choice in points that the spec leaves open: notes/assumptions/22.md. -/
def Obligations.VectorArithmeticElements : Prop :=
  ∀ s core o rest, (s.getCore core).vqueue = o :: rest → o.need = 0 → o.lines = 0 → o.mode.toNat < 5 →
    let ty := vtyOf o.vtype
    let w := ty.w
    let c := s.getCore core
    vtypeOk ty o.instr = true → w ∈ [8, 16, 32, 64] →
    let fl (i : Nat) (f : Val → Val → Val) (r : VV) : Nat :=
      encodeF ty.fmt (f (decodeF ty.fmt (vvX c w r i)) (decodeF ty.fmt (vvY c w r i))) o.mode false 0
    ∃ t, exec (.vectorQueueExecute core) s = .next t ∧ (t.getCore core).vqueue = rest ∧ t.mem = s.mem ∧
      ∀ gm r, let El := ElementsBecome core w gm (vvDest r)
        let x := vvX c w r
        let y := vvY c w r
        (o.instr = .vadd gm r → El (fun i => if ty.isFloat then fl i (Val.add (decide (o.mode = 3))) r else x i + y i) s t) ∧
        (o.instr = .vsub gm r → El (fun i => if ty.isFloat then fl i (fun u v => Val.add (decide (o.mode = 3)) u v.negate) r
          else x i + (2 ^ w - y i % 2 ^ w)) s t) ∧
        (o.instr = .vmul gm r → El (fun i => if ty.isFloat then fl i Val.mul r else x i * y i) s t) ∧
        (o.instr = .vdiv gm r → El (fun i => fl i Val.div r) s t) ∧
        (o.instr = .vand gm r → El (fun i => x i &&& y i) s t) ∧ (o.instr = .vor gm r → El (fun i => x i ||| y i) s t) ∧
        (o.instr = .vxor gm r → El (fun i => x i ^^^ y i) s t) ∧
        (o.instr = .vmin gm r → ty.isInt = true → El (fun i => if asClass ty (x i) ≤ asClass ty (y i) then x i else y i) s t) ∧
        (o.instr = .vmax gm r → ty.isInt = true → El (fun i => if asClass ty (x i) ≤ asClass ty (y i) then y i else x i) s t) ∧
        (o.instr = .vmin gm r → ty.isFloat = true → El (fun i => floatChoice ty.fmt true (x i) (y i)) s t) ∧
        (o.instr = .vmax gm r → ty.isFloat = true → El (fun i => floatChoice ty.fmt false (x i) (y i)) s t) ∧
        (o.instr = .vshl gm r → El (fun i => if w ≤ y i then 0 else x i * 2 ^ y i) s t) ∧
        (o.instr = .vshr gm r → El (fun i => if w ≤ y i then 0 else x i / 2 ^ y i) s t) ∧
        (o.instr = .vsar gm r → El (fun i => (sgn w (x i) / 2 ^ min (y i) w % 2 ^ w).toNat) s t) ∧
        ∀ a b k, (o.instr = .vfma gm a b k → ElementsBecome core w gm a (fun i =>
            let u := elemAt w c.vregs[a.toNat] i
            let v := elemAt w c.vregs[b.toNat] i
            let z := elemAt w c.vregs[k.toNat] i
            if ty.isFloat then encodeF ty.fmt (Val.add (decide (o.mode = 3)) (decodeF ty.fmt u)
              (Val.mul (decodeF ty.fmt v) (decodeF ty.fmt z))) o.mode false 0 else u + v * z) s t) ∧
          (o.instr = .vsqrt gm a b → ElementsBecome core w gm a (fun i =>
            encodeF ty.fmt (Val.sqrt (decodeF ty.fmt (elemAt w c.vregs[b.toNat] i))) o.mode false 0) s t)

namespace Sys2Proof.Claims

/-- Only mask k of a core's file has changed, and no register. -/
def MaskBecomes (core : Nat) (k : BitVec 3) (m : Word) (s t : State) : Prop :=
  (t.getCore core).vmask = (s.getCore core).vmask.set k.toNat m ∧ (t.getCore core).vregs = (s.getCore core).vregs

/-- The elements of lane j of a mask (R230). -/
def laneElems (w j : Nat) : List Nat := if w = 64 then [j / 2] else (List.range (32 / w)).map (32 / w * j + ·)

end Sys2Proof.Claims

/-- At the head of the queue with its slots granted: MAND, MOR, MNOT write their mask; VCMP writes for each lane whether
every active element satisfies the condition and one is active; VSEL takes lanes by the mask; VMOV, VBCAST, VPERM and VSHUF
write the active elements; in a mode of R117 other than SR, VSCAN writes the running result of the active elements and VRED the result of
the canonical pairwise tree, for every operation and type, from the identities of R242; VCVT writes each active element converted,
packed from bit 0, and zeros; VQNT each block's scale and its elements divided by that scale; COMPRESS the two elements of largest
magnitude of each group of four, ties to the lower index, and their places; MPOP the number of ones.
The model's choice in points that the spec leaves open: notes/assumptions/22.md. -/
def Obligations.VectorMoveMaskAndReduce : Prop :=
  ∀ s core o rest, (s.getCore core).vqueue = o :: rest → o.need = 0 → o.lines = 0 →
    let ty := vtyOf o.vtype
    let w := ty.w
    let c := s.getCore core
    let reg (b : BitVec 5) (i : Nat) : Nat := elemAt w c.vregs[b.toNat] i
    let n := 2048 / w
    vtypeOk ty o.instr = true → w ∈ [8, 16, 32, 64] →
    ∃ t, exec (.vectorQueueExecute core) s = .next t ∧ (t.getCore core).vqueue = rest ∧ t.mem = s.mem ∧
      (∀ a b k : BitVec 3, (o.instr = .mand (.three a b k) → MaskBecomes core a (c.vmask[b.toNat] &&& c.vmask[k.toNat]) s t) ∧
        (o.instr = .mor (.three a b k) → MaskBecomes core a (c.vmask[b.toNat] ||| c.vmask[k.toNat]) s t) ∧
        (o.instr = .mnot a b → MaskBecomes core a (~~~c.vmask[b.toNat]) s t)) ∧
      (∀ gm cc md b k, o.instr = .vcmp gm cc md b k → ∃ m, MaskBecomes core md m s t ∧ ∀ j, j < 64 → m.getLsbD j =
        (((laneElems w j).any fun i => isActive c gm w i) && (laneElems w j).all fun i => !isActive c gm w i ||
          cmpHolds ty cc (reg b i) (reg k i))) ∧
      (∀ gm a b k, (o.instr = .vsel gm a b k →
          (∀ j, j < 64 → elemAt 32 (t.getCore core).vregs[a.toNat] j =
            if isActive c gm 32 j then elemAt 32 c.vregs[b.toNat] j else elemAt 32 c.vregs[k.toNat] j) ∧
          ∀ q : Fin 32, q.val ≠ a.toNat → (t.getCore core).vregs[q] = c.vregs[q]) ∧
        (o.instr = .vmov gm a b → ElementsBecome core w gm a (reg b) s t) ∧
        (∀ g, o.instr = .vbcast gm a g → ElementsBecome core w gm a (fun _ => o.g.toNat) s t) ∧
        (o.instr = .vperm gm a b k → ElementsBecome core w gm a (fun i => reg b (reg k i % n)) s t) ∧
        (o.instr = .vshuf gm a b k → ElementsBecome core w gm a (fun i =>
          if reg k i % (2 * n) < n then reg b (reg k i % (2 * n)) else reg a (reg k i % (2 * n) - n)) s t) ∧
        (∀ op, o.instr = .vscan gm op a b → o.mode.toNat < 5 → ElementsBecome core w gm a (fun i =>
          (((List.range (i + 1)).filter fun j => isActive c gm w j).map (reg b)).foldl (redStep ty op o.mode) (redIdentity ty op)) s t)) ∧
      (∀ gm f sat a b, o.mode.toNat < 5 → (o.instr = .vcvt gm f sat a b ∨ o.instr = .vqnt gm f sat a b) →
        let wf := codeBits f.toNat
        let out (w i : Nat) : Nat := elemAt w (t.getCore core).vregs[a.toNat] i
        (∀ q : Fin 32, q.val ≠ a.toNat → (t.getCore core).vregs[q] = c.vregs[q]) ∧ (t.getCore core).vmask = c.vmask ∧
        (o.instr = .vcvt gm f sat a b → ∀ i, i < 2048 / wf → out wf i = if i < n ∧ isActive c gm w i = true
          then encodeCode f.toNat (ty.val (reg b i)) o.mode sat 0 % 2 ^ wf else 0) ∧
        (o.instr = .vqnt gm f sat a b →
          (∀ i, n * wf / 8 ≤ i → i < 128 → out 8 i = 0) ∧ (∀ i, n / 32 ≤ i → i < 128 → out 8 (128 + i) = 0) ∧
          ∀ q, q < n / 32 →
            let vals := (List.range 32).map fun i => (isActive c gm w (32 * q + i), ty.val (reg b (32 * q + i)))
            let tops : List Int := vals.filterMap fun x => match x with
              | (true, .fin _ m e) => if m = 0 then none else some ((Nat.log2 m : Int) + e)
              | _ => none
            let edge : Int := match f.toNat with | 4 => 8 | 5 => 15 | 6 => 6 | 7 => 7 | _ => 2
            let scale : Nat := match tops with
              | [] => 127
              | x :: l => (max 0 (min 254 (l.foldl max x - edge + 127))).toNat
            let ys := vals.map fun x => if x.1 then Val.scale x.2 (.fin false 1 (127 - (scale : Int))) else .zero false
            out 8 (128 + q) = scale ∧
            (f ≠ 8 → ∀ i, i < 32 → out 8 (32 * q + i) = encodeCode f.toNat (ys[i]?.getD .nan) o.mode sat 0 % 256) ∧
            (f = 8 → ∀ i, i < 16 → out 8 (16 * q + i) =
              ((ofNibbles (encodeI4x 32 0 o.mode sat { base := o.base, n := o.srn } ys).1)[i]?.getD 0).toNat))) ∧
      (∀ a b, o.instr = .compress a b →
        let v := (t.getCore core).vregs[a.toNat]
        (∀ q : Fin 32, q.val ≠ a.toNat → (t.getCore core).vregs[q] = c.vregs[q]) ∧ (t.getCore core).vmask = c.vmask ∧
        v.extractLsb' (1024 + n) (1024 - n) = 0 ∧
        ∀ q, q < n / 4 →
          let x (i : Nat) : Val := ty.val (reg b (4 * q + i))
          let first := (v.extractLsb' (1024 + 4 * q) 2).toNat
          let second := (v.extractLsb' (1024 + 4 * q + 2) 2).toNat
          first < second ∧ elemAt w v (2 * q) = reg b (4 * q + first) ∧ elemAt w v (2 * q + 1) = reg b (4 * q + second) ∧
          ∀ i p, i < 4 → i ≠ first → i ≠ second → (p = first ∨ p = second) →
            magAbove (x i) (x p) = false ∧ (magAbove (x p) (x i) = true ∨ p < i)) ∧
      (s.cur.tid = o.tid → s.cur.seq = o.seq → ∀ g : GReg, g ≠ 0 →
        (∀ gm op b, o.instr = .vred gm op (.reg g) b → o.mode.toNat < 5 → gval t g =
          let x := treeNode (redStep ty op o.mode) (fun i => if isActive c gm w i then reg b i else redIdentity ty op) (Nat.log2 n) 0
          if ty.code = 6 then BitVec.ofInt 64 (sgn w x) else BitVec.ofNat 64 x) ∧
        (∀ m, o.instr = .mpop (.reg g) m → gval t g = BitVec.ofNat 64 ((List.range 64).countP (c.vmask[BitVec.toNat m].getLsbD ·))))

namespace Sys2Proof.Claims

/-- A vector memory instruction's elements, every one checked (R239): number, address and byte reached. -/
def ElemsReached (gm : BitVec 3) (b : PBase) (how : VAddr) (dest : Bool) (need : Rights) (s t : State)
    (els : List (Nat × Addr × Acc)) : Prop :=
  ∃ base s0 l, baseAddr b dest s = .ok (base, s0) ∧ vecElems (vtyOf s.cur.regs.vtype) gm base how s0 = .ok (l, s0) ∧
    reachElems need ((vtyOf s.cur.regs.vtype).w / 8) l s0 = .ok (els, t)

/-- No core names a table of queue descriptors, a trap queue or a spill region, so no byte of memory has an access code (R7). -/
def NoRecords (s : State) : Prop := ∀ c ∈ s.allCores, c.priv.qtab = 0 ∧ c.priv.trapq = 0 ∧ c.priv.spillr = 0

end Sys2Proof.Claims

/-- With the file held, the queue empty, a type of 8 to 64 bits and every active element of the own package reached: VLD,
VLDS and VGATHER, with no line copy in the chunk, queue the bytes of each element as memory holds them and leave registers
and memory unchanged; VST (within the chunk, whose commit gives memory the bytes), VSTS and VSCATTER (between chunks), outside
views, with no overlap among the elements and no held range, write each element's bytes at its address and no other byte;
in a record of R311, R340 or R343 a committed byte is what its access code lets through.
The model's choice in points that the spec leaves open: notes/assumptions/20.md, notes/assumptions/22.md,
notes/assumptions/66.md. -/
def Obligations.VectorMemoryResult : Prop :=
  ∀ s gm a b els, Ready onVec s → HoldsFile s → s.core.vqueue = [] → s.cur.staged = none →
    let w := (vtyOf s.cur.regs.vtype).w
    let n := w / 8
    w ∈ [8, 16, 32, 64] →
    (∀ i how s1, ((∃ disp, i = .vld gm a b disp ∧ how = .unit disp) ∨
        (∃ c, Readable s c ∧ i = .vlds gm a b c ∧ how = .stride (gval s c)) ∨
        (∃ c, i = .vgather gm a b c ∧ how = .index c)) →
      ElemsReached gm b how false rR s s1 els → (∀ e ∈ els, e.2.2.pkg = s1.pkg) → Tidy s1 → s1.cur.chunk.l1 = [] →
      ∃ t o, exec i s = .next t ∧ t.core.vqueue = [o] ∧ o.instr = i ∧ o.lines = 0 ∧ t.mem = s.mem ∧ t.launch.lmem = s.launch.lmem ∧
        t.cur.regs.g = s.cur.regs.g ∧ t.core.vregs = s.core.vregs ∧ t.cur.regs.pc = s.cur.npc ∧
        ∀ e ∈ els, ∀ j, j < n → ∃ p, (e.1 * n + j, seen s1 (e.2.2.key + j), p) ∈ o.data) ∧
    (∀ i how s1, ((∃ disp, i = .vst gm a b disp ∧ how = .unit disp) ∨
        (∃ c, Readable s c ∧ i = .vsts gm a b c ∧ how = .stride (gval s c)) ∨
        (∃ c, i = .vscatter gm a b c ∧ how = .index c)) →
      ElemsReached gm b how true rW s s1 els → (∀ e ∈ els, e.2.2.pkg = s1.pkg ∧ heldRange s1 e.2.2.key n = false) →
      (els.Pairwise fun x y => x.2.2.key + n ≤ y.2.2.key ∨ y.2.2.key + n ≤ x.2.2.key) → s1.cur.tag = 0 → ChunkEmpty s1 →
      let byte (e : Nat × Addr × Acc) (j : Nat) : Byte := BitVec.ofNat 8 (elemAt w s.core.vregs[a.toNat] e.1 / 256 ^ j)
      ((∃ disp, i = .vst gm a b disp) → s1.cur.chunk.closed = false →
        ∃ t, exec i s = .next t ∧ t.cur.regs.g = s.cur.regs.g ∧ t.core.vregs = s.core.vregs ∧ t.cur.regs.pc = s.cur.npc ∧
          (∀ e ∈ els, ∀ j, j < n → seen t (e.2.2.key + j) = byte e j) ∧
          (∀ k, (∀ e ∈ els, k < e.2.2.key ∨ e.2.2.key + n ≤ k) → seen t k = seen s k) ∧ t.mem = s.mem ∧ t.launch.lmem = s.launch.lmem) ∧
      ((s1.cur.chunk.closed = true ∨ ∀ disp, i ≠ .vst gm a b disp) → FreeCommit s1 →
        ((∃ disp, i = .vst gm a b disp) ∨ els.length ≤ 1 ∨ NoRecords s1) →
        ∃ t, exec i s = .next t ∧ t.cur.regs.g = s.cur.regs.g ∧ t.core.vregs = s.core.vregs ∧ t.cur.regs.pc = s.cur.npc ∧
          (∀ e ∈ els, ∀ j, j < n → baseByte t (e.2.2.key + j) = softByte s1 (e.2.2.key + j) (byte e j)) ∧
          (∀ k, (∀ e ∈ els, k < e.2.2.key ∨ e.2.2.key + n ≤ k) → baseByte t k = baseByte s k)))

/-- When exactly one core of a cluster has a queue head that waits for quarter-slots, one arbiter cycle grants it four
(as many as it still needs), whatever its share; its registers and memory are unchanged.
The model's choice in points that the spec leaves open: notes/assumptions/1.md. -/
def Obligations.LaneGroupsServeTheBacklog : Prop :=
  ∀ s cluster k o rest, k < 4 → (s.getCore (4 * cluster + k)).vqueue = o :: rest → o.need ≠ 0 →
    (∀ j, j < 4 → j ≠ k → (s.getCore (4 * cluster + j)).backlogged = false) →
    ∃ t, exec (.laneGroupGrant cluster) s = .next t ∧
      (t.getCore (4 * cluster + k)).vqueue = { o with need := o.need - 4 } :: rest ∧
      (t.getCore (4 * cluster + k)).vregs = (s.getCore (4 * cluster + k)).vregs ∧ t.mem = s.mem ∧ t.cur = s.cur

namespace Sys2Proof.Claims

/-- A range of the issuing logical core's own local space (R252). -/
def OwnRange (s : State) (lo hi : Nat) : Prop :=
  lo / 2 ^ 78 = 2 ∧ lo < 2 ^ 80 ∧ localCore lo = s.cur.lcore ∧ lo % 2 ^ 60 + (hi - lo) ≤ s.launch.lsize

/-- A tile operation joins the open batch, with its operand ranges entered (R253, R261). -/
def joined (op : TileOp) (rs : List RangeReg) (s : State) : State :=
  { s with core := { s.core with mx := { s.core.mx with
    opened := s.core.mx.opened ++
      [{ seq := s.core.mx.nextOp, tid := ownerTid s.cur, op := op, started := false, finished := false }]
    nextOp := s.core.mx.nextOp + 1
    ranges := rs } } }

/-- The operation that MMA or MMAS samples at issue (R255, R251). -/
def sampledMma (sparse : Bool) (t : BitVec 2) (p : BitVec 4) (c : GReg) (s : State) : MmaOp :=
  { sparse := sparse, tile := t.toNat, aptr := pval s p, scla := s.cur.regs.sclA, sclb := s.cur.regs.sclB, desc := gval s c
    fa := s.cur.regs.fmtA.extractLsb' 0 4, fb := s.cur.regs.fmtB.extractLsb' 0 4, pal := s.cur.regs.fmtB.getLsbD 8
    buf := s.core.mx.cur }

/-- No outstanding batch is ready to retire (R253, R261). -/
def NothingRetires (s : State) : Prop := ∀ b, s.core.mx.batches.head? = some b → b.ops.all (·.finished) = false

end Sys2Proof.Claims

/-- On M, in a launch that uses the array, with room in the open batch: MMA and MMAS with legal fields and operands in the
own local space, MZERO, MTRN, and WLOAD (its descriptor from a register or a port) with a reached source join the open batch
with what they sampled, and change nothing else. MCOMMIT makes a non-empty open batch outstanding (an empty one changes
nothing, a fifth waits; one whose operations have all finished behind no other batch retires at once and frees its ranges);
MWAITB goes on with at most n batches outstanding; DICT fills the other dictionary from its 32 bytes and makes it current. -/
def Obligations.TileOperationsJoinTheBatch : Prop :=
  ∀ s, Ready onM s → s.launch.matrix = true →
    (s.core.mx.opened.length < 64 →
      (∀ t p c rs, Readable s c → PReadable s p →
        (∀ sparse, let o := sampledMma sparse t p c s
          mmaFieldsOk o = true → o.aptr.toNat % 16 = 0 → (∀ r ∈ mmaRanges o, OwnRange s r.1 r.2) →
          enterRanges s.core.mx.openId (mmaRanges o) s.core.mx.ranges = some rs →
          exec (if sparse then .mmas t p c else .mma t p c) s = .next (advance (joined (.mma o) rs s)))) ∧
      (∀ t, exec (.mzero t) s = .next (advance (joined (.mzero t.toNat) s.core.mx.ranges s))) ∧
      (∀ t u, exec (.mtrn t u) s = .next (advance (joined (.mtrn t.toNat u.toNat) s.core.mx.ranges s))) ∧
      (∀ p g v s0 s1, PReadable s p → Reads g s v s0 →
        let d := v.toNat
        let n := d / 2 ^ 39 % 2 ^ 13
        d % 2 ^ 39 = 0 → n ≠ 0 → 16 * (d / 2 ^ 52 + n) ≤ 65536 → (pval s p).toNat % 16 = 0 →
        reachRange (rangeFuel (16 * n)) (pval s p) (16 * n) rR s0 = .ok ((), s1) →
        exec (.wload p g) s = .next (finish (joined (.wload (pval s p) v) s1.core.mx.ranges s1)))) ∧
    (s.core.mx.opened = [] → NothingRetires s → exec .mcommit s = .next (advance s)) ∧
    (s.core.mx.opened ≠ [] → s.core.mx.batches.length < 4 → NothingRetires s → ∃ t, exec .mcommit s = .next t ∧
      t.core.mx.opened = [] ∧ t.core.mx.acc = s.core.mx.acc ∧ t.mem = s.mem ∧ t.launch.lmem = s.launch.lmem ∧
      t.cur.regs.g = s.cur.regs.g ∧
      (s.core.mx.batches ≠ [] ∨ s.core.mx.opened.all (·.finished) = false → t.core.mx.batches = s.core.mx.batches ++
        [{ id := s.core.mx.openId, ops := s.core.mx.opened, handed := none, poisoned := s.core.mx.openPoisoned }] ∧
        t.core.mx.ranges = s.core.mx.ranges) ∧
      (s.core.mx.batches = [] → s.core.mx.opened.all (·.finished) = true → t.core.mx.batches = [] ∧
        t.core.mx.ranges = s.core.mx.ranges.filter (·.batch != s.core.mx.openId))) ∧
    (s.core.mx.opened ≠ [] → 4 ≤ s.core.mx.batches.length → exec .mcommit s = .next (park (.blocked .batch) s)) ∧
    (∀ n : Byte, (s.core.mx.batches.length ≤ n.toNat → (n ≠ 0 ∨ handedOpen s.core = false) → s.core.mx.retPois = false →
        exec (.mwaitb n) s = .next (advance s)) ∧
      (n.toNat < s.core.mx.batches.length → exec (.mwaitb n) s = .next (park (.blocked .batch) s))) ∧
    (∀ p, PReadable s p → (pval s p).toNat % 32 = 0 → OwnRange s (pval s p).toNat ((pval s p).toNat + 32) →
      (s.core.mx.ops.any (carries (!s.core.mx.cur))) = false → ∃ t, exec (.dict p) s = .next t ∧
        t.core.mx.cur = (!s.core.mx.cur) ∧ t.mem = s.mem ∧ t.core.mx.opened = s.core.mx.opened ∧
        (if s.core.mx.cur then t.core.mx.dict1 = s.core.mx.dict1 else t.core.mx.dict0 = s.core.mx.dict0) ∧
        ∀ e : Fin 16, (if s.core.mx.cur then t.core.mx.dict0 else t.core.mx.dict1)[e] =
          baseByte s ((pval s p).toNat + 2 * e.val + 1) ++ baseByte s ((pval s p).toNat + 2 * e.val))

namespace Sys2Proof.Claims

/-- The fields of an ACCRD or ACCWR descriptor are legal for a format (R263). -/
def WindowOk (d : Word) (t : BitVec 2) (f : Nat) (read : Bool) : Prop :=
  let w := accDescOf d
  d.toNat % 2 ^ 20 = 0 ∧ w.row0 + w.rows ≤ 64 ∧ w.col0 + w.cols ≤ 64 ∧ (w.pair = true → t.toNat % 2 = 0) ∧
  (read = false → w.cen = false ∧ w.cnt = 0 ∧ f < 4 ∧ (w.pair = true ∨ f ≠ 0)) ∧ (read = true → f < 4 ∨ f = 6 ∨ f = 7)

end Sys2Proof.Claims

/-- On M, with a legal descriptor and format, the window in the own local space, no operation in flight on it, no held
range over it, no reserved chunk and rows that do not overlap: ACCRD, in a mode of R117 other than SR, stores every element's encoding (its own bits
where the format is the accumulator's) at its place and no other byte, and counts its counter where CEN is set; ACCWR
writes every element of the window from memory and no other element of the array. -/
def Obligations.AccumulatorWindowResult : Prop :=
  ∀ s t p c, Ready onM s → s.launch.matrix = true → Readable s c → PReadable s p →
    let d := accDescOf (gval s c)
    let f := (s.cur.regs.fmtC.extractLsb' 0 4).toNat
    let w := codeBits f
    let acc := if d.pair then f64 else f32
    let same := f = (if d.pair then 0 else 1)
    let at_ (i j : Nat) : Nat := (pval s p).toNat + 16 * d.mstr * i + j * w / 8
    (pval s p).toNat % 16 = 0 → OwnRange s (pval s p).toNat ((pval s p).toNat + (16 * d.mstr * (d.rows - 1) + d.cols * w / 8)) →
    s.core.mx.ops.any (targetsWindow d t.toNat) = false → (d.rows = 1 ∨ d.cols * w / 8 ≤ 16 * d.mstr) →
    (WindowOk (gval s c) t f true → (s.cur.regs.round.extractLsb' 0 3).toNat < 5 →
      (∀ i, i < d.rows → heldRange s (at_ i 0) (d.cols * w / 8) = false) → (∀ b ∈ s.agents, b.reserved = false) → Memory.wf s.launch.lmem = true →
      ∃ u, exec (.accrd t p c) s = .next u ∧ u.core.mx = s.core.mx ∧ u.mem = s.mem ∧ u.cur.regs.g = s.cur.regs.g ∧
        (∀ i j b, i < d.rows → j < d.cols → b < w / 8 → baseByte u (at_ i j + b) =
          let e := accElem s.core.mx d.pair t.toNat (d.row0 + i) (d.col0 + j)
          BitVec.ofNat 8 ((if same then e else encodeCode f (decodeF acc e) (s.cur.regs.round.extractLsb' 0 3)
            (s.cur.regs.fmtC.getLsbD 4) 0) / 256 ^ b)) ∧
        (∀ k, (∀ i, i < d.rows → k < at_ i 0 ∨ at_ i 0 + d.cols * w / 8 ≤ k) → baseByte u k = baseByte s k) ∧
        (d.cen = true → (u.getLc s.cur.lcore).mc[d.cnt % 16]? = ((s.getLc s.cur.lcore).mc[d.cnt % 16]?).map (· + 1))) ∧
    (WindowOk (gval s c) t f false →
      ∃ u, exec (.accwr t p c) s = .next u ∧ u.mem = s.mem ∧ u.launch = s.launch ∧ u.cur.regs.g = s.cur.regs.g ∧
        (∀ i j, i < d.rows → j < d.cols → accElem u.core.mx d.pair t.toNat (d.row0 + i) (d.col0 + j) =
          let v := ofBytes ((List.range (w / 8)).map fun b => baseByte s (at_ i j + b))
          if same then v else encodeF acc (decodeCode f v) 0 false 0) ∧
        (∀ v i j, i < 64 → j < 64 → (v ≠ t.toNat ∧ (d.pair = true → v ≠ t.toNat + 1) ∨ i < d.row0 ∨ d.row0 + d.rows ≤ i ∨
            j < d.col0 ∨ d.col0 + d.cols ≤ j) →
          getAcc u.core.mx (accIx v i j) = getAcc s.core.mx (accIx v i j)))

namespace Sys2Proof.Claims

/-- The value at position p of a row or column of elements in a format, with its block scale where it has one (R256). -/
def operandValue (code : Nat) (bytes scales : List Byte) (p : Nat) : Val :=
  let v : Val := if code = 8 then (decodeI4x 32 0 (nibbles ((bytes.drop (16 * (p / 32))).take 16))).1[p % 32]?.getD (.zero false)
    else decodeCode code (ofBytes bytes / 2 ^ (codeBits code * p) % 2 ^ codeBits code)
  if scaled (BitVec.ofNat 4 code) then Val.scale v (scaleOf (scales[p / 32]?.getD 0x7F)) else v
/-- The value of B at position p of column j: a palette entry, or an element with its scale (R256, R265). -/
def operandB (s : State) (mx : Matrix) (m : MmaOp) (j p : Nat) : Val :=
  let bytes := weights mx (16 * (mdescOf m.desc).woff + j * m.colBytes) m.colBytes
  if m.pal then decodeF f16 ((if m.buf then mx.dict1 else mx.dict0)[(ofBytes bytes / 2 ^ (4 * p) % 16) % 16]'(by omega)).toNat
  else operandValue m.fb.toNat bytes ((List.range m.nb).map fun b => baseByte s (m.sclb.toNat + j * m.nb + b)) p
/-- The bytes and the block scales of row i of A. -/
def rowBytesA (s : State) (m : MmaOp) (i : Nat) : List Byte :=
  (List.range m.rowBytes).map fun b => baseByte s (m.aptr.toNat + 16 * (mdescOf m.desc).astr * i + b)
def rowScalesA (s : State) (m : MmaOp) (i : Nat) : List Byte := (List.range m.nb).map fun b => baseByte s (m.scla.toNat + i * m.nb + b)
/-- The products of k-group q of element (i, j) with a dense A (R123, R256). -/
def denseProducts (s : State) (mx : Matrix) (m : MmaOp) (q i j : Nat) : List Val :=
  (List.range (kgroup m.fa.toNat m.fb.toNat)).map fun r =>
    let p := kgroup m.fa.toNat m.fb.toNat * q + r
    Val.mul (operandValue m.fa.toNat (rowBytesA s m i) (rowScalesA s m i) p) (operandB s mx m j p)
/-- The products of k-group q of element (i, j) with a structured-sparse A: two kept values in each group of four positions,
each at the position that its index names; a kept I4X code stands for itself (R258). -/
def sparseProducts (s : State) (mx : Matrix) (m : MmaOp) (q i j : Nat) : List Val :=
  let w := codeBits m.fa.toNat
  let g := kgroup m.fa.toNat m.fb.toNat / 4
  ((List.range g).flatMap fun r => [(g * q + r, 0), (g * q + r, 1)]).map fun x =>
    let seg := (rowBytesA s m i).drop (256 * (4 * x.1 / (2048 / w)))
    let e := 2 * (x.1 % (512 / w)) + x.2
    let bits := ofBytes (seg.take 128) / 2 ^ (w * e) % 2 ^ w
    let p := 4 * x.1 + ofBytes ((seg.take 256).drop 128) / 2 ^ (2 * e) % 4
    let v : Val := if m.fa = 8 then (if bits = 8 then .zero false else .ofInt (sgn 4 bits)) else decodeCode m.fa.toNat bits
    let v := if scaled m.fa then Val.scale v (scaleOf ((rowScalesA s m i)[p / 32]?.getD 0x7F)) else v
    Val.mul v (operandB s mx m j p)

end Sys2Proof.Claims

/-- With distinct issue numbers, TILE_OPERATION_START marks the oldest operation not started, and nothing else. When the
oldest unfinished operation has started, TILE_OPERATION_FINISH gives its effect: MZERO writes 0 to its tile, MTRN the
transpose of its source; an MMA or MMAS, in every pair of formats and with a palette, adds to each element the exact sum of the
products of each k-group, rounded to nearest even, group by group, the values read as R256 and R258 lay them out and scaled by
their blocks; the other tiles are unchanged; WLOAD writes its bytes, as its view of memory has them, to the weight buffer and
changes no accumulator.
The model's choice in points that the spec leaves open: notes/assumptions/22.md, notes/assumptions/25.md. -/
def Obligations.TileOperationEvents : Prop :=
  ∀ s core o, let mx := (s.getCore core).mx
    (mx.ops.map (·.seq)).Nodup → o ∈ mx.ops →
    (o.started = false → (∀ x ∈ mx.ops, x.started = false → o.seq ≤ x.seq) →
      ∃ t, exec (.tileOperationStart core) s = .next t ∧ (t.getCore core).mx.acc = mx.acc ∧ t.mem = s.mem ∧
        (t.getCore core).mx.ops = mx.ops.map fun x => if x.seq = o.seq then { x with started := true } else x) ∧
    (o.started = true → o.finished = false → (∀ x ∈ mx.ops, x.finished = false → o.seq ≤ x.seq) →
      ∀ a, s.getAgent o.tid = some a → s.cur = a → a.core = core → s.core.id = core →
      s.launch.id = a.launch → s.lc.id = a.lcore →
      ∃ t, exec (.tileOperationFinish core) s = .next t ∧
        t.mem = s.mem ∧ t.launch.lmem = s.launch.lmem ∧
        (∀ x ∈ (t.getCore core).mx.ops, x.seq = o.seq → x.finished = true) ∧
        (∀ u, o.op = .mzero u → ∀ v i j, i < 64 → j < 64 →
          getAcc (t.getCore core).mx (accIx v i j) = if v = u then 0 else getAcc mx (accIx v i j)) ∧
        (∀ u w, o.op = .mtrn u w → ∀ v i j, i < 64 → j < 64 →
          getAcc (t.getCore core).mx (accIx v i j) = if v = u then getAcc mx (accIx w j i) else getAcc mx (accIx v i j)) ∧
        (∀ m : MmaOp, o.op = .mma m → mmaFieldsOk m = true →
          let d := mdescOf m.desc
          let pair := decide (m.fa = 0)
          let acc := if pair then f64 else f32
          let terms (q i j : Nat) : List Val := if m.sparse then sparseProducts s mx m q i j else denseProducts s mx m q i j
          (∀ i j, i < d.m → j < d.n → accElem (t.getCore core).mx pair m.tile i j =
            (List.range d.kg).foldl (fun c q => encodeF acc (Val.add false (decodeF acc c) (exactSum (terms q i j))) 0 false 0)
              (accElem mx pair m.tile i j)) ∧
          ∀ v i j, i < 64 → j < 64 → (v ≠ m.tile ∧ (pair = true → v ≠ m.tile + 1) ∨ d.m ≤ i ∨ d.n ≤ j) →
            getAcc (t.getCore core).mx (accIx v i j) = getAcc mx (accIx v i j)) ∧
        (∀ src desc, o.op = .wload src desc → (t.getCore core).mx.acc = mx.acc ∧
          let off := 16 * (desc.toNat / 2 ^ 52)
          let n := 16 * (desc.toNat / 2 ^ 39 % 2 ^ 13)
          ∀ k, weights (t.getCore core).mx k 1 = if off ≤ k ∧ k < off + n
            then (match rawKey s core (src + BitVec.ofNat 80 (k - off)) with
              | some key => [readView s (pkgOf core) a.tag key]
              | none => weights mx k 1)
            else weights mx k 1))

namespace Sys2Proof.Claims

/-- A walker command has been accepted (R267): it stands last in the walker, its promise in d, and nothing else has changed. -/
def Accepted (i : Instr) (kind : WKind) (moves : List Move) (g : Option (Addr × Nat × Addr × Addr × Nat))
    (ring : Option (Nat × Nat × Nat)) (targets : List Nat) (tile : Option MmaOp) (d : BitVec 3) (cnt : Option (BitVec 4))
    (s : State) : Prop :=
  ∃ t c, exec i s = .next t ∧ t.core.walker = s.core.walker ++ [c] ∧ c.id = s.core.nextCmd ∧ c.kind = kind ∧ c.moves = moves ∧
    c.gather = g ∧ c.ring = ring ∧ c.targets = targets ∧ c.tile = tile ∧ c.cnt = cnt.map (·.toNat) ∧ c.started = false ∧
    t.cur.regs.d = s.cur.regs.d.set d.toNat (.cmd s.core.id c.id false) ∧ t.mem = s.mem ∧ t.launch.lmem = s.launch.lmem ∧ t.cur.regs.g = s.cur.regs.g ∧
    t.cur.regs.p = s.cur.regs.p ∧ t.cur.regs.pc = s.cur.npc

/-- No byte of the destination stands in a range that a batch reads (R262). -/
def NoHazard (s : State) (va : Addr) (len : Nat) : Prop :=
  len = 0 ∨ va.toNat / 2 ^ 78 ≠ 2 ∨ localCore va.toNat ≠ s.cur.lcore ∨ heldRange s va.toNat len = false

/-- The range checks of a command's rows or targets pass, one after the other (R267). -/
def RangesOk (rs : List (Addr × Nat)) (need : Rights) (s t : State) : Prop :=
  (rs.forM fun r => checkRange r.1 r.2 need : Run Unit) s = .ok ((), t)

end Sys2Proof.Claims

/-- On X or A, outside a rival's view, with an empty chunk and room in the walker, each command of at least one byte that
passes its range checks and meets no held range completes: COPY with its one move, or its ring and length; TILE with a move
for each row by its strides; GATHER with its index list, element size and count; MCAST with a move for each destination
logical core; COPYM, from the hitched thread or A, with its move and the tile operation of its descriptor.
The model's choice in points that the spec leaves open: notes/assumptions/11.md. -/
def Obligations.WalkerCommandsAreAccepted : Prop :=
  ∀ s d cnt, Ready onXA s → ChunkEmpty s → buffered s = false → s.core.walker.length < 16 →
    (∀ dst src g s1 s2, Readable s g → PReadable s src → PReadable s dst → 0 < (gval s g).toNat → (gval s g).toNat < 2 ^ 32 →
      RangesOk [(pval s src, (gval s g).toNat)] rR (closing s) s1 → RangesOk [(pval s dst, (gval s g).toNat)] 18 s1 s2 →
      NoHazard s2 (pval s dst) (gval s g).toNat →
      Accepted (.copy d cnt (.ptr dst) src g) .copy [{ dst := pval s dst, src := pval s src, len := (gval s g).toNat }] none none
        [targetOf s2 (pval s dst)] none d cnt s) ∧
    (∀ (h : BitVec 3) src g s1, Readable s g → PReadable s src → s.cur.seq = .x →
      let len := (gval s g).toNat % 2 ^ 32
      let n := (gval s g).toNat / 2 ^ 32
      0 < len → n < s.launch.l → RangesOk [(pval s src, len)] rR (closing s) s1 →
      Accepted (.copy d cnt (.handle h) src g) .copy [{ dst := 0, src := pval s src, len := len }] none (some (n, h.toNat, len)) [n] none d cnt s) ∧
    (∀ dst src desc x s0 s1 s2, readDesc desc (closing s) = .ok (x, s0) → PReadable s src → PReadable s dst →
      (x / 2 ^ 192 % 2 ^ 320 = 0 →
        let rows := x / 2 ^ 32 % 2 ^ 32
        let n := x % 2 ^ 32
        let from_ (q : Nat) : Addr := pval s src + BitVec.ofNat 80 q * (BitVec.ofNat 64 (x / 2 ^ 64)).signExtend 80
        let toRow (q : Nat) : Addr := pval s dst + BitVec.ofNat 80 q * (BitVec.ofNat 64 (x / 2 ^ 128)).signExtend 80
        0 < rows → 0 < n → RangesOk ((List.range rows).map fun q => (from_ q, n)) rR s0 s1 →
        RangesOk ((List.range rows).map fun q => (toRow q, n)) 18 s1 s2 → (∀ q, q < rows → NoHazard s2 (toRow q) n) →
        Accepted (.tile d cnt dst src desc) .tile ((List.range rows).map fun q => { dst := toRow q, src := from_ q, len := n }) none none
          [targetOf s2 (pval s dst)] none d cnt s) ∧
      (let iptr := BitVec.ofNat 80 (x / 2 ^ 64)
        let size := 2 ^ (x / 2 ^ 32 % 8)
        let count := x % 2 ^ 32
        x / 2 ^ 144 % 2 ^ 368 = 0 → x / 2 ^ 35 % 2 ^ 29 = 0 → x / 2 ^ 32 % 8 ≠ 7 → iptr.toNat % 8 = 0 → 0 < count →
        RangesOk [(iptr, 8 * count)] rR s0 s1 → RangesOk [(pval s dst, count * size)] 18 s1 s2 →
        NoHazard s2 (pval s dst) (count * size) →
        Accepted (.gather d cnt dst src desc) .gather [] (some (iptr, size, pval s src, pval s dst, count)) none
          [targetOf s2 (pval s dst)] none d cnt s) ∧
      (let stride := x / 2 ^ 64 % 2 ^ 18
        let nd := x / 2 ^ 32 % 2 ^ 11
        let len := x % 2 ^ 32
        let c0 := localCore (pval s dst).toNat
        let tos := (List.range nd).map fun e => BitVec.ofNat 80 (placeAddr (c0 + e * stride) ((pval s dst).toNat % 2 ^ 60))
        x / 2 ^ 82 % 2 ^ 430 = 0 → x / 2 ^ 43 % 2 ^ 21 = 0 → stride ≠ 0 → nd ≤ 1024 → 0 < nd → 0 < len →
        (pval s dst).toNat / 2 ^ 78 = 2 → (∀ e, e < nd → c0 + e * stride < s.launch.l) →
        RangesOk [(pval s src, len)] rR s0 s1 → RangesOk (tos.map fun a => (a, len)) 18 s1 s2 → (∀ a ∈ tos, NoHazard s2 a len) →
        Accepted (.mcast d cnt dst src desc) .mcast (tos.map fun a => { dst := a, src := pval s src, len := len }) none none
          ((List.range nd).map fun e => c0 + e * stride) none d cnt s) ∧
      (∀ o : MmaOp, s.launch.matrix = true → (s.cur.seq = .a ∨ s.core.hitch = some s.cur.tid) →
        let len := x % 2 ^ 64
        o = { sparse := x / 2 ^ 216 % 256 = 1, tile := x / 2 ^ 208 % 256, aptr := BitVec.ofNat 80 (x / 2 ^ 128)
              scla := BitVec.ofNat 80 (x / 2 ^ 256), sclb := BitVec.ofNat 80 (x / 2 ^ 336)
              desc := BitVec.ofNat 64 (x / 2 ^ 64), fa := BitVec.ofNat 4 (x / 2 ^ 224)
              fb := BitVec.ofNat 4 (x / 2 ^ 228), pal := x / 2 ^ 232 % 2 = 1, buf := false } →
        x / 2 ^ 416 % 2 ^ 96 = 0 → x / 2 ^ 233 % 2 ^ 23 = 0 → x / 2 ^ 216 % 256 < 2 → 0 < len → len < 2 ^ 32 →
        mmaFieldsOk o = true → o.aptr.toNat % 16 = 0 → (∀ r ∈ mmaRanges o, OwnRange s r.1 r.2) →
        RangesOk [(pval s src, len)] rR s0 s1 → RangesOk [(pval s dst, len)] 18 s1 s2 → NoHazard s2 (pval s dst) len →
        Accepted (.copym d cnt dst src desc) .copym [{ dst := pval s dst, src := pval s src, len := len }] none none
          [targetOf s2 (pval s dst)] (some o) d cnt s))

namespace Sys2Proof.Claims

/-- User instructions of threads alone (R21). -/
def onThread : Legal := { onX with s := false }

/-- The thread's team that a level code names (R41, R180). -/
def NamedBoard (s : State) (l : Lvl) (b : Board) : Prop :=
  match l with
  | .inner => s.cur.team.bind s.getBoard = some b
  | .l k => teamAt s s.cur k.toNat = some b

end Sys2Proof.Claims

/-- For a thread of the named team with an empty chunk: EMIT and EMITV send the signal with value 0 or the low 32 bits of g (a register or a port); TEST answers 1
for PRESENT and 0 for ABSENT and waits on an unresolved signal; TESTV also waits while potential emitters are left and then
writes the value; RENOUNCE clears the mask bits of g at its level and tells the board which; RESOLVE in a handler, whatever team it has joined, sends
its question once and waits, answers 0 where no such team exists, and completes with the answer when it has come. -/
def Obligations.SignalInstructionsResult : Prop :=
  (∀ s so, Ready onThread s → ChunkEmpty s → s.cur.hndl = true →
    (∀ r q t, s.cur.answer = some r → WritesQ q r ((closing s).modCur fun a => { a with answer := none, asking := false
                                                                                        resolved := if r then a.resolved + 1 else a.resolved }) t →
      exec (.resolve q so) s = .next (advanceAlone t)) ∧
    (s.cur.answer = none → s.cur.asking = true → ∀ q, exec (.resolve q so) s = .next (park (.blocked .answer) s)) ∧
    let chain := (s.cur.serves.map (chainFrom 12 s)).getD []
    let named := match so.lvl with
      | .inner => chain.head?
      | .l k => chain.find? (·.level == k.toNat)
    (s.cur.answer = none → s.cur.asking = false → named = none → ∀ q t, WritesQ q false (closing s) t →
      exec (.resolve q so) s = .next (advanceAlone t)) ∧
    (s.cur.answer = none → s.cur.asking = false → ∀ c q, named = some c →
      ∃ t, exec (.resolve q so) s = .next t ∧ t.cur.asking = true ∧ t.cur.wait = some (.blocked .answer) ∧
        t.launch.boardq = s.launch.boardq ++ [.resolve c.uid c.level so.idx.toNat s.cur.tid])) ∧
  ∀ s so b, Ready onThread s → ChunkEmpty s → NamedBoard s so.lvl b →
    (outsideLevel s s.cur b.level = false →
      exec (.emit so) s = .next (advanceAlone (sendBoard (.emit b.uid so.idx.toNat 0 s.cur.tid s.cur.regs.pc none) (closing s))) ∧
      ∀ g v s1, Reads g s v s1 → exec (.emitv so g) s = .next (advanceAlone
        (sendBoard (.emit b.uid so.idx.toNat (v.setWidth 32) s.cur.tid s.cur.regs.pc none) (closing s1)))) ∧
    (let c := b.sigs[so.idx.toNat]
      let away (tv : Bool) : Res := .next (park (.test b.uid b.level so.idx.toNat tv) s)
      (c.status = .unresolved → (∀ q, exec (.test q so) s = away false) ∧ ∀ q g, exec (.testv q g so) s = away true) ∧
      (c.status = .present → (∀ q t, WritesQ q true (closing s) t → exec (.test q so) s = .next (advanceAlone t)) ∧
        (c.count ≠ 0 → ∀ q g, exec (.testv q g so) s = away true) ∧
        (c.count = 0 → ∀ q g s1 t, WritesQ q true (closing s) s1 → Writes g (c.value.zeroExtend 64) s1 t →
          exec (.testv q g so) s = .next (advanceAlone t))) ∧
      (c.status = .absent ∨ c.status = .forced →
        (∀ q t, WritesQ q false (closing s) t → exec (.test q so) s = .next (advanceAlone t)) ∧
        ∀ q g s1 t, WritesQ q false (closing s) s1 → Writes g 0 s1 t → exec (.testv q g so) s = .next (advanceAlone t))) ∧
    (∀ (k : Fin 5) g v s1, so.lvl = .l (BitVec.ofNat 3 k.val) → Reads g s v s1 → (∀ a ∈ s.agents, a.tid ≠ s.cur.tid) →
      let gone := s.cur.me[k] &&& v
      ∃ t, exec (.renounce (BitVec.ofNat 3 k.val) g) s = .next t ∧ t.cur.me = s.cur.me.set k (s.cur.me[k] &&& ~~~v) ∧
        t.launch.boardq = s.launch.boardq ++ (if gone = 0 then [] else [.clear b.uid gone s.cur.tid]) ∧ t.mem = s.mem ∧ t.launch.lmem = s.launch.lmem ∧
        t.cur.regs.g = s.cur.regs.g ∧ t.cur.regs.pc = s.cur.npc)

/-- For a thread of the named team with DEPTH below 8, p15 set and its frame record within reach in the own package: ABORTW
stores target, level and index, SUSPW level, index and bit 0, in the 16 bytes at p15 + 64 + 16 × DEPTH, DEPTH goes up by 1,
and every other byte and register is unchanged. INSTN writes the instant's number. Of any thread, ENDW with a frame and a team
lowers DEPTH, and CAUSE writes the cause, or 0 for a thread of no team and for a handler. -/
def Obligations.FramesAndCausesResult : Prop :=
  (∀ s, Ready onThread s →
    (0 < s.cur.regs.depth → s.cur.team.isSome = true →
      exec .endw s = .next (advance (s.modCur fun a => { a with regs := { a.regs with depth := a.regs.depth - 1 } }))) ∧
    (∀ g t, Writes g (if s.cur.team.isNone = true ∨ s.cur.hndl = true then 0 else s.cur.cause) s t →
      exec (.cause g) s = .next (finish t))) ∧
  ∀ s so b, Ready onThread s → NamedBoard s so.lvl b →
    (∀ s1 a, s.cur.regs.depth < 8 → PReadable s 15 → pval s 15 ≠ 0 →
      reachAligned (pval s 15 + BitVec.ofNat 80 (64 + 16 * s.cur.regs.depth)) 16 rW s = .ok (a, s1) → a.pkg = s1.pkg → s1.cur.rel = none → s1.cur.relStore = [] →
      heldRange s1 a.key 16 = false → s1.cur.tag = 0 → s1.cur.chunk.wlines.length < 48 →
      (∀ off, ∃ t, exec (.abortw so off) s = .next t ∧ t.cur.regs.depth = s.cur.regs.depth + 1 ∧
        Stored a.key (toBytes 16 ((branchTarget s off).toNat * 2 ^ 48 + b.level * 2 ^ 40 + so.idx.toNat * 2 ^ 32)) s s1 t) ∧
      (∃ t, exec (.suspw so) s = .next t ∧ t.cur.regs.depth = s.cur.regs.depth + 1 ∧
        Stored a.key (toBytes 16 (b.level * 2 ^ 40 + so.idx.toNat * 2 ^ 32 + 1)) s s1 t)) ∧
    ∀ g t, Writes g b.inst s t → exec (.instn g so.lvl) s = .next (finish t)

/-- With an empty chunk: TEAMJ of a thread of no team, with no frame area or one within reach, and a legal value of a running
team notes the team it joins and waits for a boundary; TEAML of a member with no frame and nothing outstanding notes that it leaves, with every mask
cleared, and waits; both complete once the boundary has answered. TEAMH sends the registration of its 64-byte descriptor,
or its removal where the entry is 0, and changes nothing else.
The model's choice in points that the spec leaves open: notes/assumptions/27.md. -/
def Obligations.TeamMembershipResult : Prop :=
  ∀ s, Ready onThread s → ChunkEmpty s →
    (s.cur.answer.isSome = true →
      let t := advanceAlone (closing (s.modCur fun a => { a with answer := none, asking := false }))
      (∀ g, exec (.teamj g) s = .next t) ∧ exec .teaml s = .next t) ∧
    (s.cur.answer = none → s.cur.asking = true →
      (∀ g, exec (.teamj g) s = .next (park (.blocked .boundary) s)) ∧ exec .teaml s = .next (park (.blocked .boundary) s)) ∧
    (s.cur.answer = none → s.cur.asking = false →
      (∀ g v s1 b, Reads g s v s1 → s.cur.team = none → s.cur.rival = false →
        (s.cur.regs.p[15] = 0 ∨ ∃ fp s2, frameArea s1 = .ok (fp, s2)) →
        v.toNat / 2 ^ 24 % 2 ^ 5 = 0 → v.toNat / 2 ^ 29 % 8 ≤ 4 →
        (s.launch.boards.find? fun b => b.val.toNat == v.toNat % 2 ^ 32 && !b.ended) = some b →
        ∃ t, exec (.teamj g) s = .next t ∧ t.cur.joining = some b.uid ∧ t.cur.asking = true ∧
          t.cur.wait = some (.blocked .boundary) ∧ t.cur.regs = s.cur.regs ∧ t.mem = s.mem ∧ t.launch.lmem = s.launch.lmem) ∧
      (s.cur.team.isSome = true → s.cur.regs.depth = 0 → s.cur.rival = false → s.cur.hndl = false → rivalOf s s.cur = none →
        Released0 s → (∀ k : Fin 5, s.cur.me[k] = 0) →
        ∃ t, exec .teaml s = .next t ∧ t.cur.leaving = true ∧ t.cur.asking = true ∧ t.cur.wait = some (.blocked .boundary) ∧
          t.cur.regs = s.cur.regs ∧ t.mem = s.mem ∧ t.launch.lmem = s.launch.lmem)) ∧
    (∀ l b p ws s1, NamedBoard s l b → PReadable s p → (pval s p).toNat % 64 = 0 →
      reachSteps 8 8 (pval s p) rR (closing s) = .ok (ws, s1) → (∀ a ∈ ws, meetsPoison s1 a.key 8 = false) →
      let x := ofBytes (ws.flatMap fun a => readViewN s1 s1.pkg s1.cur.tag a.key 8)
      (x % 2 ^ 80 = 0 → exec (.teamh p l) s = .next (advanceAlone (sendBoard (.register b.uid none s.cur.tid) s1))) ∧
      (∀ s2, let rbuf := BitVec.ofNat 80 (x / 2 ^ 160)
        let rsize := x / 2 ^ 256 % 2 ^ 32
        x % 2 ^ 80 ≠ 0 → x % 2 = 0 → rbuf.toNat % 16 = 0 → x / 2 ^ 306 % 2 ^ 206 = 0 → x / 2 ^ 240 % 2 ^ 16 = 0 → 64 ≤ rsize →
        x / 2 ^ 288 % 2 ^ 18 < s1.launch.l → reachRange (rangeFuel rsize) rbuf rsize rW s1 = .ok ((), s2) →
        exec (.teamh p l) s = .next (advanceAlone (sendBoard (.register b.uid (some
          { entry := BitVec.ofNat 80 x, hfp := BitVec.ofNat 80 (x / 2 ^ 80), rbuf := rbuf, rsize := rsize
            pcore := x / 2 ^ 288 % 2 ^ 18 }) s.cur.tid) s2))))

/-- With an empty chunk, nothing outstanding, not under QUANTUM and the frame area in order: PAUSE and PAUSE.up of a team
member read the masks of the next instant from the frame area, save SRN there and leave the thread PAUSED (up or not), its
handler state cleared, and its slot free unless it is pinned. YIELD of a thread that is not pinned puts its seed, READY, into
the die queue under its KEY, with its masks, SRN and YLD in its frame area where it has one; a pinned thread keeps its slot, saves
its SRN there and lets one round pass. Every other byte, of the global space and of local spaces, is as before.
The model's choice in points that the spec leaves open: notes/assumptions/26.md, notes/assumptions/27.md,
notes/assumptions/54.md. -/
def Obligations.SuspensionResult : Prop :=
  ∀ s, Ready onThread s → ChunkEmpty s → s.launch.mode ≠ .quantum → (∀ a ∈ s.agents, a.tid ≠ s.cur.tid) →
    s.core.id = s.cur.core →
    (∀ fp mei s1 s2 s3, s.cur.team.isSome = true → PReadable s 15 → pval s 15 ≠ 0 → frameArea s = .ok (fp, s1) → Released0 s1 →
      frameMasks fp 0 (closing s1) = .ok (mei, s2) → framePut fp 40 (toBytes 8 s.cur.regs.srn.toNat) s2 = .ok ((), s3) →
      ∀ up, ∃ t, exec (if up then .pauseUp else .pause) s = .next t ∧ t.cur.state = .paused ∧ t.cur.up = up ∧ t.cur.mei = mei ∧
        t.cur.regs.handlerActive = false ∧ t.cur.regs.pc = s.cur.npc ∧ (∀ k, baseByte t k = baseByte s3 k) ∧ t.cur.regs.g = s.cur.regs.g ∧
        t.cur.slot = if pinnedNow s then s.cur.slot else none) ∧
    (hitched s = false → pinnedNow s = true → PReadable s 15 →
      let stays (u : State) : Res := .next (advanceAlone ((suspended .held s.cur.up u).modCur fun a => { a with skip := some [] }))
      (pval s 15 = 0 → s.cur.team = none → Released0 s → exec .yield s = stays (closing s)) ∧
      (∀ fp s1 s2, pval s 15 ≠ 0 → frameArea s = .ok (fp, s1) → Released0 s1 →
        framePut fp 40 (toBytes 8 s.cur.regs.srn.toNat) (closing s1) = .ok ((), s2) → exec .yield s = stays s2)) ∧
    (hitched s = false → pinnedNow s = false → PReadable s 15 →
      let Yielded (u : State) : Prop := ∃ t e, exec .yield s = .next t ∧ t.cur.state = .ready ∧ t.cur.slot = none ∧
        t.cur.queued = true ∧ t.cur.regs.pc = s.cur.npc ∧ (∀ k, baseByte t k = baseByte u k) ∧
        (t.getDie (s.cur.core / 144)).entries = (s.getDie (s.cur.core / 144)).entries ++ [e] ∧ e.tid = s.cur.tid ∧ e.key = s.cur.key
      (pval s 15 = 0 → s.cur.team = none → Released0 s → Yielded s) ∧
      (∀ fp s1 s2 s3 s4, pval s 15 ≠ 0 → frameArea s = .ok (fp, s1) → Released0 s1 →
        framePut fp 40 (toBytes 8 s.cur.regs.srn.toNat) (closing s1) = .ok ((), s2) →
        framePut fp 192 (s.cur.me.toList.flatMap fun m => toBytes 8 m.toNat) s2 = .ok ((), s3) →
        framePut fp 232 [1] s3 = .ok ((), s4) → Yielded s4))

/-- With an empty chunk and no result outstanding, HITCH and HITCH p to even entries on a core with no hitch and no queue
give the thread A and M, started there with copies of its g, p, q and ROUND and with empty queues, sharing the named handles.
REST rests A (nothing outstanding) and M (no open batch). UNHITCH, once both rest and every batch has retired, ends the hitch.
RET through a p13 that is even and not 0 goes there; with p13 = 0 it is DONE on X and REST on A and M. -/
def Obligations.HitchResult : Prop :=
  (∀ s mask, Ready onThread s → ChunkEmpty s → s.cur.loads = [] → s.core.hitch = none → s.core.hitchQ = [] →
    (s.core.vqueue.any fun o => o.tid == s.cur.tid && o.seq == .x && (vopDest o.instr).isSome) = false →
    ∀ i ea em, ((∃ ao mo, i = .hitch ao mo mask ∧ ea = s.cur.base + BitVec.ofInt 80 (2 * ao.toInt) ∧ em = s.cur.base + BitVec.ofInt 80 (2 * mo.toInt)) ∨
        (∃ pa pm, PReadable s pa ∧ PReadable s pm ∧ i = .hitchP pa pm mask ∧ ea = pval s pa ∧ em = pval s pm)) →
      ea.toNat % 2 = 0 → em.toNat % 2 = 0 →
      ∃ t a m, exec i s = .next t ∧ t.core.hitch = some s.cur.tid ∧ t.core.shared = mask ∧ t.agents = s.agents ++ [a, m] ∧
        t.core.bqX = [] ∧ t.core.bqA = [] ∧ t.core.bqM = [] ∧ t.cur.regs.pc = s.cur.npc ∧ t.mem = s.mem ∧ t.launch.lmem = s.launch.lmem ∧
        a.seq = .a ∧ a.regs.pc = ea ∧ m.seq = .m ∧ m.regs.pc = em ∧
        ∀ b, b = a ∨ b = m → b.regs.g = s.cur.regs.g ∧ b.regs.p = s.cur.regs.p ∧ b.regs.q = s.cur.regs.q ∧
          b.regs.round = s.cur.regs.round ∧ b.core = s.cur.core ∧ b.lcore = s.cur.lcore ∧ b.launch = s.cur.launch ∧
          b.regs.d = Vector.replicate 8 .due) ∧
  (∀ s, Ready onThread s → ChunkEmpty s → s.core.hitch = some s.cur.tid → s.core.mx.opened = [] → s.core.mx.batches = [] →
    handedOpen s.core = false → s.core.mx.retPois = false → s.cur.host = none → (∀ b ∈ s.agents, b.core = s.core.id → (b.seq = .a ∨ b.seq = .m) → b.rested = true) →
    s.cur.seq = .x → ∃ t, exec .unhitch s = .next t ∧ t.core.hitch = none ∧ t.core.shared = 0 ∧ t.mem = s.mem ∧ t.launch.lmem = s.launch.lmem ∧
      t.cur.regs.g = s.cur.regs.g ∧ t.cur.regs.pc = s.cur.npc ∧
      ∀ b ∈ t.agents, b.host ≠ some s.cur.tid) ∧
  (∀ s, Ready onAM s → ChunkEmpty s →
    (s.cur.seq = .a → Released0 s → exec .rest s = .next (advanceAlone ((closing s).modCur fun a => { a with rested := true })) ∧
      (PReadable s 13 → pval s 13 = 0 → exec .ret s = .next (advanceAlone ((closing s).modCur fun a => { a with rested := true })))) ∧
    (s.cur.seq = .m → s.core.mx.opened = [] → NothingRetires s → exec .rest s = .next (advance (s.modCur fun a => { a with rested := true })) ∧
      (PReadable s 13 → pval s 13 = 0 → exec .ret s = .next (advance (s.modCur fun a => { a with rested := true }))))) ∧
  (∀ s, Ready onAll s → PReadable s 13 →
    (pval s 13 ≠ 0 → (pval s 13).toNat % 2 = 0 → exec .ret s = .next (advance (followBranch (goTo (pval s 13) s)))) ∧
    (pval s 13 = 0 → s.cur.seq = .x → ChunkEmpty s → exec .ret s = exec .done s))

/-- For a thread of no world, card and trap, not hitched, that has forked no world, with an empty chunk,
nothing outstanding, zero masks and a thread number of its own, DONE completes: the thread is DONE with no slot and no team,
handler_active 0, memory and every other thread's registers unchanged. -/
def Obligations.ThreadEndResult : Prop :=
  ∀ s, Ready onThread s → ChunkEmpty s → s.core.hitch ≠ some s.cur.tid → (s.getCore s.cur.core).hitch ≠ some s.cur.tid →
    s.cur.own = none → Released0 s → s.cur.world = none → s.cur.serves = none → s.cur.card = none →
    (∀ k : Fin 5, s.cur.me[k] = 0) → (∀ a ∈ s.agents, a.tid ≠ s.cur.tid) →
    ∃ t, exec .done s = .next t ∧ t.cur.state = .done ∧ t.cur.slot = none ∧ t.cur.team = none ∧
      t.cur.regs.handlerActive = false ∧ t.mem = s.mem ∧ t.launch.lmem = s.launch.lmem ∧ t.agents.map (fun a => (a.tid, a.regs)) = s.agents.map fun a => (a.tid, a.regs)

namespace Sys2Proof.Claims

/-- What WSTAT says of a rival (R76): its code, the cause of a failure, the saddlebag's bytes and entries, the lines copied. -/
def WstatFields (code cause len ent lines : Nat) (x : Word) : Prop :=
  x.toNat % 16 = code ∧ x.toNat / 2 ^ 4 % 2 ^ 12 = 0 ∧ x.toNat / 2 ^ 16 % 256 = cause ∧ x.toNat / 2 ^ 24 % 2 ^ 16 = len ∧
  x.toNat / 2 ^ 40 % 256 = ent ∧ x.toNat / 2 ^ 48 = lines

end Sys2Proof.Claims

/-- For a thread of one of the span's 128 packages with an empty chunk and a fork register 1 to 3, n ≥ 2: FORKW writes OPEN while the thread's last world is not
resolved, DEPTH in a world of depth 4, NOTAG or NOBOARD in FREE mode where tags or a board are wanting; otherwise it makes
a world of n LIVE rivals, each with the next free tag, an empty view and a READY seed that starts behind the FORKW with its
number in the fork register and g1 to g3 otherwise copied, writes FORKED, and changes no memory.
The model's choice in points that the spec leaves open: notes/assumptions/32.md. -/
def Obligations.ForkResult : Prop :=
  ∀ (s : State) (g : BitVec 2) (n1 : BitVec 4), Ready onThread s → ChunkEmpty s → g ≠ 0 → n1 ≠ 0 → Writable s (g.setWidth 6) →
    s.pkg < 128 →
    let n := n1.toNat + 1
    let free := (s.getPkg s.pkg).freeTags
    let gone := (closing s).modCur fun a => { a with own := none }
    let code (v : Word) (u : State) : Prop := exec (.forkw g n1) s = .next (advanceAlone (putG (g.setWidth 6) v u))
    (∀ w, ownWorld s = some w → w.state ≠ .resolved → code 0x204 (closing s)) ∧
    ((∀ w, ownWorld s = some w → w.state = .resolved) →
      (worldDepth s = 4 → code 0x202 gone) ∧
      (worldDepth s ≠ 4 → s.launch.mode = .free →
        (free.length < n → code 0x201 gone) ∧
        (n ≤ free.length → s.cur.team.isSome = true → boardFree s (s.cur.core / 144) = false → code 0x203 gone)) ∧
      (worldDepth s ≠ 4 → n ≤ free.length → (s.cur.team.isSome = true → boardFree s (s.cur.core / 144) = true) →
        (∀ m : GReg, m = 1 ∨ m = 2 ∨ m = 3 → loadMarks s m = false ∧ vectorMarks s m = false) → PReadable s 15 →
        ∃ t w, exec (.forkw g n1) s = .next t ∧ gval t (g.setWidth 6) = 0x100 ∧ t.cur.own = some w.wid ∧
          t.launch.worlds = s.launch.worlds ++ [w] ∧ w.state = .opened ∧ w.n = n ∧ w.depth = worldDepth s + 1 ∧
          w.ptag = s.cur.tag ∧ w.rivals.length = n ∧ (t.getPkg s.pkg).freeTags = free.drop n ∧ t.mem = s.mem ∧ t.launch.lmem = s.launch.lmem ∧
          t.cur.regs.pc = s.cur.npc ∧
          ∀ k (h : k < n), ∃ r v a, r ∈ w.rivals ∧ v ∈ t.launch.views ∧ a ∈ t.agents ∧
            r.idx = k ∧ r.code = .live ∧ free[k]? = some r.tag ∧ r.sb = [] ∧ v.tag = r.tag ∧ v.pkg = s.pkg ∧ v.ptag = s.cur.tag ∧
            v.lines = [] ∧ a.tid = r.tid ∧ a.rival = true ∧ a.ridx = k ∧ a.tag = r.tag ∧ a.state = .ready ∧
            a.regs.pc = s.cur.npc ∧ a.regs.g[g.toNat] = BitVec.ofNat 64 k ∧
            ∀ m : Fin 4, m.val ≠ 0 → m.val ≠ g.toNat → a.regs.g[m.val] = s.cur.regs.g[m.val]))

/-- WIDX gives a rival its number and any other thread −1. CLAIMW of a rival puts its claim into the world's line and waits;
in a promoted rival CLAIMW and ABANDW are DONE. JOINW writes the end codes, four bits a rival and 15 beyond the last, −1
without a world; CHOOSEW writes 0 without a world or beyond it, in a resolved world whether the rival won, starts the commit
of a rival that is DONE, and else discards the world; both wait while a rival is LIVE or a commit is under way. ABANDW ends
the rival ABANDONED. WSTAT writes the rival's code and counts, 15 where there is none.
The model's choice in points that the spec leaves open: notes/assumptions/35.md. -/
def Obligations.WorldInstructionsResult : Prop :=
  ∀ s, Ready onThread s → s.cur.host = none →
    (∀ g t, Writes g (if s.cur.world.isSome = true then BitVec.ofNat 64 s.cur.ridx else -1) s t →
      exec (.widx g) s = .next (finish t)) ∧
    (∀ g o v s1, Reads o s v s1 →
      let k := v.toNat % 16
      (∀ t, (ownWorld s = none ∨ ∃ w, ownWorld s = some w ∧ w.rivals.find? (fun r => r.idx == k) = none) → Writes g 15 s1 t →
        exec (.wstat g o) s = .next (finish t)) ∧
      (∀ w r, ownWorld s = some w → w.rivals.find? (fun r => r.idx == k) = some r → ∃ x, (∀ t, Writes g x s1 t →
          exec (.wstat g o) s = .next (finish t)) ∧
        let cause := if r.code = .failed then r.cause.toNat else 0
        (∀ v, r.code = .live → s.getView w.pkg r.tag = some v →
          WstatFields 0 cause (sbTotal r % 2 ^ 16) (r.sb.length % 256) (min v.lines.length 0xFFFF) x) ∧
        (r.code ≠ .live → WstatFields (codeNat r.code) cause (r.sbLen % 2 ^ 16) (r.sbEnt % 256) (min r.lines 0xFFFF) x))) ∧
    (ChunkEmpty s →
      (∀ wid, s.cur.world = some wid →
        (s.cur.promoted = true → exec .claimw s = exec .done s ∧ exec .abandw s = exec .done s) ∧
        (s.cur.promoted = false → s.cur.asking = false → ∀ w, s.getWorld wid = some w →
          ∃ t, exec .claimw s = .next t ∧ t.getWorld wid = some { w with claims := w.claims ++ [s.cur.ridx] } ∧
            t.cur.asking = true ∧ t.cur.wait = some (.resource .answer) ∧ t.cur.regs = s.cur.regs ∧ t.mem = s.mem ∧ t.launch.lmem = s.launch.lmem) ∧
        (s.cur.promoted = false → hitched s = false → ∀ w r, s.getWorld wid = some w →
          w.rivals.find? (fun r => r.idx == s.cur.ridx) = some r → r.code = .live →
          ∃ t w' r', exec .abandw s = .next t ∧ t.getWorld wid = some w' ∧
            w'.rivals.find? (fun r => r.idx == s.cur.ridx) = some r' ∧ r'.code = .abandoned ∧ r'.sb = [] ∧ t.mem = s.mem ∧ t.launch.lmem = s.launch.lmem)) ∧
      (ownWorld s = none → (∀ g t, Writes g (-1) (closing s) t → exec (.joinw g) s = .next (advanceAlone t)) ∧
        ∀ q o v s1 t, Reads o (closing s) v s1 → WritesQ q false s1 t → exec (.choosew q o) s = .next (advanceAlone t)) ∧
      (∀ w, ownWorld s = some w →
        let hasEnded := w.state = .resolved ∨ (w.committing = none ∧ ∀ r ∈ w.rivals, r.code ≠ .live)
        (¬ hasEnded → (∀ g, exec (.joinw g) s = .next (park (.blocked .world) s)) ∧
          ∀ q o, exec (.choosew q o) s = .next (park (.blocked .world) s)) ∧
        (hasEnded →
          (∃ x : Word, (∀ k, k < 16 → x.toNat / 16 ^ k % 16 =
              match w.rivals.find? (fun r => r.idx == k) with | some r => codeNat r.code | none => 15) ∧
            ∀ g t, Writes g x (closing s) t → exec (.joinw g) s = .next (advanceAlone t)) ∧
          ∀ q o v s1, Reads o (closing s) v s1 →
            let k := v.toNat
            (16 ≤ k → ∀ t, WritesQ q false s1 t → exec (.choosew q o) s = .next (advanceAlone t)) ∧
            (k < 16 → w.state = .resolved → ∀ t, WritesQ q (decide (w.winner = some k)) s1 t →
              exec (.choosew q o) s = .next (advanceAlone t)) ∧
            (k < 16 → w.state ≠ .resolved →
              let c : Option EndCode := (w.rivals.find? (fun r => r.idx == k)).map (·.code)
              (c = some .done → ∃ t, exec (.choosew q o) s = .next t ∧
                t.getWorld w.wid = some { w with committing := some k, linesDone := false } ∧
                t.cur.wait = some (.blocked .world) ∧ t.mem = s.mem ∧ t.launch.lmem = s.launch.lmem) ∧
              (c ≠ some .done → ∀ t, WritesQ q (decide (c = some .promoted)) (discardWorld w.wid s1) t →
                exec (.choosew q o) s = .next (advanceAlone t))))))

/-- CLAIM_ARRIVAL in FREE mode takes the claim of an open world that comes first: the world is CLAIMED, the claimer its winner and
under commit, and the other LIVE rivals, where they run, are marked to be killed; RIVAL_KILL then ends such a rival KILLED.
VIEW_COMMIT_COMPLETE for a rival that CHOOSEW chose, whose parent view is memory, whose saddlebag is empty and whose lines no chunk has reserved, leaves every
byte of memory as the view held it, or as before where it held no copy, and the world RESOLVED with that winner, where no byte
stands in a record with access codes (R7). VIEW_TAG_FREE
frees a discarded tag that nothing carries. -/
def Obligations.WorldEventsResult : Prop :=
  (∀ s wid w idx, s.getWorld wid = some w → pickOne s.cycle w.claims = some idx → w.state = .opened → w.committing = none →
    (w.rivals.any fun r => r.idx == idx && r.code == .live) = true → s.launch.mode = .free →
    (∀ r ∈ w.rivals, r.idx ≠ idx → r.code = .live ∧ ∃ a, s.getAgent r.tid = some a ∧ runsNow a = true) →
    ∃ t w', exec (.claimArrival wid) s = .next t ∧ t.getWorld wid = some w' ∧ w'.state = .claimed ∧ w'.winner = some idx ∧
      w'.committing = some idx ∧ w'.claims = [] ∧ w'.rivals = w.rivals ∧ t.mem = s.mem ∧
      ∀ r ∈ w.rivals, r.idx ≠ idx → ∃ a, t.getAgent r.tid = some a ∧ a.killed = true) ∧
  (∀ s tid a wid w r, s.getAgent tid = some a → a.killed = true → a.world = some wid → a.launch = s.launch.id →
    s.cur.launch = s.launch.id → s.cur.host = none → s.getWorld wid = some w → w.rivals.find? (fun r => r.idx == a.ridx) = some r → r.code = .live →
    ∃ t w' r', exec (.rivalKill tid) s = .next t ∧ t.getWorld wid = some w' ∧
      w'.rivals.find? (fun r => r.idx == a.ridx) = some r' ∧ r'.code = .killed ∧ t.mem = s.mem) ∧
  (∀ s wid idx w r v, s.getWorld wid = some w → w.rivals.find? (fun r => r.idx == idx) = some r → w.committing = some idx →
    w.linesDone = false → w.ptag = 0 → r.code = .done → r.sb = [] → w.state ≠ .claimed → s.getView w.pkg r.tag = some v →
    (∀ l ∈ v.lines, 64 * l.line + 64 ≤ 2 ^ 79 ∧ reservedLine s w.pkg 0 0 l.line = false) → Memory.wf s.mem = true →
    NoRecords s →
    ∃ t w', exec (.viewCommitComplete wid idx) s = .next t ∧ t.getWorld wid = some w' ∧ w'.state = .resolved ∧
      w'.winner = some idx ∧ ∀ key, baseByte t key = if isLocal key then baseByte s key else
        match v.line? key with | some l => lineByte l.data (key % 64) | none => baseByte s key) ∧
  (∀ s pkg tag, pkg < 128 → (s.getPkg pkg).dirtyTags.contains tag = true → tagClean s pkg tag = true →
    ∃ t, exec (.viewTagFree pkg tag) s = .next t ∧
      (t.getPkg pkg).freeTags = (s.getPkg pkg).freeTags ++ [tag] ∧ (t.getPkg pkg).dirtyTags.contains tag = false ∧ t.mem = s.mem)

namespace Sys2Proof.Claims

/-- The named team, the innermost where none is named (R292). -/
def TeamOf (s : State) (l : Option Lvl) (b : Board) : Prop := NamedBoard s (l.getD .inner) b

end Sys2Proof.Claims

/-- For a thread outside views, with an empty chunk: DEMAND of a participant that is IDLE, at an aligned vector within reach with
every value below 2^24 and a reorder ring of 256-byte slots, makes it POSTED with the vector (its own place 0) and the ring; XGO
of a POSTED participant makes it READY with its send table; XWAIT goes on where the participant is IDLE or DONE with no overrun
left to raise, waits while it is READY or sending, and enters the user trap with DEMAND_OVERRUN, once, where it has overrun;
XSTAT writes the status word of the last exchange for the source rank, 0 where there is none or the thread is of no team.
The model's choice in points that the spec leaves open: notes/assumptions/34.md. -/
def Obligations.ExchangeInstructionsResult : Prop :=
  ∀ s, Ready onThread s →
    (∀ g o v s1 t, Reads o s v s1 → Writes g (if s.cur.team = none then 0 else (s.lc.xp.last[v.toNat % 1024]?).getD 0) s1 t →
      exec (.xstat g o) s = .next (finish t)) ∧
    (ChunkEmpty s → buffered s = false →
      (s.lc.xp.state = .idle ∨ (s.lc.xp.state = .done ∧ s.lc.xp.overran = false) →
        exec .xwait s = .next (advanceAlone (closing s))) ∧
      (s.lc.xp.state = .ready ∨ s.lc.xp.state = .sending ∨ s.lc.xp.state = .residual →
        exec .xwait s = .next (park (.blocked .exchange) s)) ∧
      (s.cur.seq = .x → s.lc.xp.state = .done → s.lc.xp.overran = true → s.cur.regs.handlerActive = false → s.cur.regs.utrapv ≠ 0 →
        ∃ t, exec .xwait s = .next t ∧ t.lc.xp.overran = false ∧ t.cur.regs.utcause = 0x0E ∧ t.cur.regs.utpc = s.cur.regs.pc ∧
          t.cur.regs.pc = s.cur.regs.utrapv ∧ t.cur.regs.handlerActive = true ∧ t.mem = s.mem ∧ t.launch.lmem = s.launch.lmem) ∧
      (∀ p (h : BitVec 3) l b x ws s1, TeamOf s l b → b.xch = some x → x.ranks.length ≤ 1024 → x.ranks.contains s.cur.lcore = true →
        s.lc.xp.state = .idle → PReadable s p → (pval s p).toNat % 4 = 0 →
        reachSteps x.ranks.length 4 (pval s p) rR (closing s) = .ok (ws, s1) → (∀ a ∈ ws, meetsPoison s1 a.key 4 = false) →
        let vec := (List.range x.ranks.length).map fun i =>
          if x.ranks[i]? = some s.cur.lcore then 0
          else ((ws[i]?).map fun a => ofBytes (readViewN s1 s1.pkg s1.cur.tag a.key 4)).getD 0
        x.ranks.Nodup → (∀ v ∈ vec, v < 2 ^ 24) → s.lc.handles[h.toNat].mode = 2 → s.lc.handles[h.toNat].logs = 8 →
        ∃ t, exec (.demand p h l) s = .next t ∧ t.lc.xp.state = .posted ∧ t.lc.xp.team = b.uid ∧ t.lc.xp.demand = vec ∧
          t.lc.xp.ring = some h.toNat ∧ t.mem = s.mem ∧ t.launch.lmem = s.launch.lmem ∧ t.cur.regs.g = s.cur.regs.g ∧ t.cur.regs.pc = s.cur.npc) ∧
      (∀ p table s1, s.lc.xp.state = .posted → PReadable s p → (pval s p).toNat % 16 = 0 →
        sendEntries ((ranksOf s s.lc.xp.team).findIdx (· == s.cur.lcore)) (pval s p) s.lc.xp.demand.length 0 (closing s) = .ok (table, s1) →
        s1.lc = s.lc → s1.launch = s.launch → s1.cur = (closing s).cur →
        ∃ t, exec (.xgo p) s = .next t ∧ t.lc.xp.state = .ready ∧ t.lc.xp.table = table ∧ t.lc.xp.demand = s.lc.xp.demand ∧
          t.lc.xp.by_ = s.cur.tid ∧ t.cur.regs.g = s.cur.regs.g ∧ t.cur.regs.pc = s.cur.npc))

namespace Sys2Proof.Claims

/-- The units of a pair that the phases of a calendar carry. -/
def carried (cal : List XPhase) (a b : Nat) : Nat := (cal.map fun ph => if ph.pairs.contains (a, b) then ph.len else 0).sum

end Sys2Proof.Claims

/-- Where every participant of a team's exchange is READY and the arbiter has a primary copy, CALENDAR_COMPUTE gives the exchange a calendar with the generation
number of the span partition's arbiter; the lengths of the
phases that hold a pair of different ranks add up to the units that the source's vector states for the receiver, no phase
holds two pairs with one source or one receiver, and no phase is empty.
The model's choice in points that the spec leaves open: notes/assumptions/34.md. -/
def Obligations.CalendarCarriesTheDemand : Prop :=
  ∀ s uid b x, s.getBoard uid = some b → b.xch = some x → x.calendar = none → x.ranks ≠ [] →
    (∀ n ∈ x.ranks, (s.getLc n).xp.state = .ready ∧ (s.getLc n).xp.team = uid) → (arbiterOf s s.launch.part).primary.isSome = true →
    ∃ t cal, exec (.calendarCompute uid) s = .next t ∧ (t.getBoard uid).bind (·.xch) = some { x with calendar := some cal, gen := (arbiterOf s s.launch.part).gen } ∧
      t.mem = s.mem ∧
      (∀ ph ∈ cal, 0 < ph.len ∧ ph.pairs ≠ [] ∧ ph.pairs.Pairwise fun u v => u.1 ≠ v.1 ∧ u.2 ≠ v.2) ∧
      ∀ i j n, x.ranks[i]? = some n → j < x.ranks.length → i ≠ j →
        carried cal i j = (((s.getLc n).xp.demand)[j]?).getD 0

/-- CALENDAR_ARRIVAL lets a READY participant send, under the calendar's generation. EXCHANGE_PHASE_START of a phase that does not
choose the source passes it; of one that does, once what came before has landed, it sends the phase's units or what is left of
the range, as bulk packets.
EXCHANGE_UNIT_LANDING writes the unit's bytes into its ticketed slot and marks the slot. EXCHANGE_SEGMENT_END ends the segment of
a source with every phase sent and every stated unit on its way. RESIDUAL_PHASE_START lets the next source with overrun send.
ARBITER_HEARTBEAT counts misses or clears them; ARBITER_FAILOVER after three makes the standby the primary, takes the next
generation number, and computes the calendar of an exchange under way again from the mirrored demand.
The model's choice in points that the spec leaves open: notes/assumptions/34.md. -/
def Obligations.ExchangeEventsResult : Prop :=
  (∀ s part c, let a := arbiterOf s part
    a.primary = some c →
    (∃ t, exec (.arbiterHeartbeat { part := part, lost := true }) s = .next t ∧ (arbiterOf t part).missed = a.missed + 1 ∧ t.mem = s.mem) ∧
    (∃ t, exec (.arbiterHeartbeat { part := part, lost := false }) s = .next t ∧ (arbiterOf t part).missed = 0 ∧ t.mem = s.mem) ∧
    (∀ d, (partsOf s).find? (failoverDue s) = some part → a.standby = some d → ∃ t, exec .arbiterFailover s = .next t ∧ t.mem = s.mem ∧
      (arbiterOf t part).primary = some d ∧ (arbiterOf t part).missed = 0 ∧ (arbiterOf t part).gen = a.gen + 1 ∧
      ∀ b x, s.launches = [] → s.launch.part = part → s.launch.phase = .running → s.launch.boards = [b] → b.xch = some x → x.calendar.isSome = true →
        t.getBoard b.uid = some { b with xch := some { x with calendar := some (computed s b.uid x), gen := a.gen + 1 } })) ∧
  (∀ s uid x cal rank n, (s.getBoard uid).isSome = true → exchangeOf s uid = some (x, cal) → x.ranks[rank]? = some n →
    (s.getLc n).xp.team = uid →
    ((s.getLc n).xp.state = .ready →
      ∃ t, exec (.calendarArrival uid rank) s = .next t ∧ (t.getLc n).xp = { (s.getLc n).xp with state := .sending, gen := x.gen } ∧ t.mem = s.mem) ∧
    ((s.getLc n).xp.state = .sending → (s.getLc n).xp.gen = x.gen → s.launch.phase = .running → (s.getLc n).away = false →
      (∀ ph, cal[(s.getLc n).xp.phase]? = some ph →
        (ph.pairs.find? (·.1 == rank) = none →
          ∃ t, exec (.exchangePhaseStart uid rank) s = .next t ∧ t.mem = s.mem ∧
            (t.getLc n).xp = { (s.getLc n).xp with phase := (s.getLc n).xp.phase + 1 }) ∧
        (∀ r d left, ph.pairs.find? (·.1 == rank) = some (r, d) → phaseReceived s uid x cal (s.getLc n).xp.phase d = true →
          hasRing s uid x d = true → d < (s.getLc n).xp.bytes.length → d < (s.getLc n).xp.units.length →
          left = given s uid x rank d - listAt (s.getLc n).xp.bytes d →
          let k := min ph.len ((left + 255) / 256)
          ∃ t ps, exec (.exchangePhaseStart uid rank) s = .next t ∧ t.mem = s.mem ∧
            (t.getLc n).xp.phase = (s.getLc n).xp.phase + 1 ∧ listAt (t.getLc n).xp.units d = listAt (s.getLc n).xp.units d + k ∧
            t.packets = s.packets ++ ps ∧ ps.length = k ∧ ∀ p ∈ ps, ∃ u, p.unit = some (s.launch.id, uid, u) ∧ u.src = rank ∧
              u.dst = d ∧ u.residual = false ∧ u.gen = x.gen)) ∧
      ((s.getLc n).xp.segEnded = false → cal.length ≤ (s.getLc n).xp.phase → (∀ u ∈ unitsLeft s uid x, u.src ≠ rank) →
        (∀ d, d < x.ranks.length → hasRing s uid x d = true → stated s uid x rank d ≤ listAt (s.getLc n).xp.units d) →
        ∃ t, exec (.exchangeSegmentEnd uid rank) s = .next t ∧ (t.getLc n).xp.segEnded = true ∧ t.mem = s.mem)) ∧
    (s.launch.phase = .running → unitsLeft s uid x = [] →
      (∀ m ∈ x.ranks, (xpartOf s uid m).team = uid → (xpartOf s uid m).segEnded = true ∧ (xpartOf s uid m).gen = x.gen) →
      nextResidual s uid x (x.residual.getD 0) = some rank →
      ∃ t, exec (.residualPhaseStart uid) s = .next t ∧ (t.getLc n).xp.resEnded = true ∧
        ((exchangeOf t uid).bind fun e => e.1.residual) = some (rank + 1) ∧ t.mem = s.mem)) ∧
  (∀ s uid x cal k u s1 n h tk, (s.getBoard uid).isSome = true → exchangeOf s uid = some (x, cal) → x.units[k]? = some u →
    ticketAt uid u.dst (ticketPlace s uid x u.dst u.src u.idx u.residual) s = (s1, some (n, h, tk)) → (s1.getLc n).away = false →
    coreHalted (s1.getCore (s1.getLc n).core) = false → (getHandle s1 n h).c ≤ tk → (getHandle s1 n h).marks.contains tk = false →
    let at_ := placeAddr n ((getHandle s1 n h).slot tk)
    heldRange s1 at_ 256 = false → Memory.wf s1.launch.lmem = true →
    ∃ t, exec (.exchangeUnitLanding uid k) s = .next t ∧ (∀ i (hi : i < u.data.length), baseByte t (at_ + i) = u.data[i].1) ∧
      (getHandle t n h).marks.contains tk = true ∧
      ((exchangeOf t uid).map fun e => e.1.units) = ((exchangeOf s1 uid).map fun e => e.1.units.eraseIdx k))

namespace Sys2Proof.Claims

/-- A g operand can take a value, with an empty chunk: no vector instruction still writes the register, or the neighbour's FIFO
has room (R107, R231). -/
def CanTake (o : GOp) (s : State) : Prop :=
  match o with
  | .reg n => Writable s n
  | .port d => portHeld s (neighbour (max 1 s.launch.l) s.launch.w s.cur.lcore d) (dirIx (opposite d)) < 4

/-- The instruction, run between chunks, completes by giving its destination `v`, over the state `u` that its effect leaves. -/
def Gives (i : Instr) (g : GOp) (v : Word) (s u : State) : Prop := ∃ t, Writes g v u t ∧ exec i s = .next (advanceAlone t)

end Sys2Proof.Claims

/-- For a thread outside views, in FREE mode, with an empty chunk and nothing outstanding: SPAWN of a legal seed record puts one
READY seed with the given key and the record's pc at the end of its die's queue, and SPAWNB of a legal card one for each
worker, where the queue has room; both write 0 and change no memory, and SPAWN writes 1 where the queue and its ring are full or
reserved. TAKE takes the chosen seed of the window out of the queue, stores its record in the 64 bytes at its pointer, and writes
0, or 1 where queue and ring hold none of its launch, and waits where one stands behind the window. DEAL deals the chunk of R163,
raises the card's next index by it, and writes index and length; a card of another package must have no posted request of the
thread on its way to it. What a store leaves in a record of the machine is `softByte` (notes/assumptions/66.md).
The model's choice in points that the spec leaves open: notes/assumptions/17.md, notes/assumptions/30.md. -/
def Obligations.TaskInstructionsResult : Prop :=
  ∀ s g p s1 a x, Ready onThread s → ChunkEmpty s → s.launch.mode = .free → s.cur.asking = false → s.cur.answer = none →
    s.cur.tag = 0 → PReadable s p → CanTake g s →
    let die := s.cur.core / 144
    let q := s.getDie die
    (viewRecord (pval s p) rR true s = .ok ((a, x), s1) → ∀ gk, Readable s1 gk →
      (seedBad x = false → q.ring = [] → q.holding = [] → q.entries.length < 16384 → q.reserved < totalRoom s1 die →
        ∃ t e b, Gives (.spawn g gk p) g 0 s t ∧ (t.getDie die).entries = q.entries ++ [e] ∧
          e.tid = s.nextTid ∧ e.key = gval s1 gk ∧ t.agents = s.agents ++ [b] ∧ b.tid = s.nextTid ∧ b.state = .ready ∧
          b.regs.pc = BitVec.ofNat 80 x ∧ b.key = gval s1 gk ∧ t.mem = s.mem ∧ t.launch.lmem = s.launch.lmem ∧
          t.cur.npc = s.cur.npc ∧ t.cur.regs = s.cur.regs) ∧
      (seedBad x = false → (totalRoom s1 die ≤ q.reserved ∨
          roomFor (addSpawned (spawnedAgent s1 x (gval s1 gk)) s1) die = .full) →
        Gives (.spawn g gk p) g 1 s s1) ∧
      (cardBad x = false → q.ring = [] → q.holding = [] → q.reserved = 0 →
        let w := x / 2 ^ 240 % 2 ^ 16
        q.entries.length + w ≤ 16384 →
        ∃ t es bs, Gives (.spawnb g gk p) g 0 s t ∧ (t.getDie die).entries = q.entries ++ es ∧
          es.length = w ∧ t.agents = s.agents ++ bs ∧ bs.length = w ∧ t.mem = s.mem ∧ t.launch.lmem = s.launch.lmem ∧
          (t.getDie die).reserved = 0 ∧
          t.cur.regs = s.cur.regs ∧
          ∀ k, k < w → (es[k]?).map (·.tid) = some (s.nextTid + k) ∧ (es[k]?).map (·.key) = some (gval s1 gk) ∧
            (bs[k]?).map (·.tid) = some (s.nextTid + k) ∧ (bs[k]?).map (·.regs.pc) = some (BitVec.ofNat 80 x) ∧
            (bs[k]?).map (·.card) = some (some (pval s p, s.nextTid)))) ∧
    (reachAligned (pval s p) 64 rW s = .ok (a, s1) → heldRange s1 a.key 64 = false →
      let c := chooseTake .free (s.cur.core / 4) ((windowOf16 q.entries).filter (mayTakeOut s1))
      ((q.entries ++ q.ring).any (mayTakeOut s1) = false →
        Gives (.take g p) g 1 s (logEvent (closing s1) s.cur.lcore (seqCode s.cur.seq) 4 (siteTake die) (some noOrigin))) ∧
      (c = none → (q.entries ++ q.ring).any (mayTakeOut s1) = true → exec (.take g p) s = .next (park (.blocked .spill) s)) ∧
      (∀ e b, c = some e → s1.getAgent e.tid = some b → e.tid ≠ s.cur.tid → Memory.wf s1.mem = true →
        Memory.wf s1.launch.lmem = true → (∀ b ∈ s1.agents, b.reserved = false) →
        ∃ t, Gives (.take g p) g 0 s t ∧ t.cur.regs = s.cur.regs ∧
          (∀ k, baseByte t k =
            if a.key ≤ k ∧ k < a.key + 64 then softByte s1 k ((seedRecord b .ready).getD (k - a.key) 0) else baseByte s k) ∧
          (∀ f ∈ (t.getDie die).entries, f.tid ≠ e.tid) ∧ ∀ f ∈ t.agents, f.tid ≠ e.tid)) ∧
    (viewRecord (pval s p) (Machine.rR ||| Machine.rW ||| Machine.rA) false s = .ok ((a, x), s1) →
      (a.pkg = s1.pkg ∨ ownPosted (pval s p) a.key 64 s1 = .ok (none, s1)) → heldRange s1 a.key 64 = false → Memory.wf s1.mem = true →
      Memory.wf s1.launch.lmem = true → reservedLine s1 s1.pkg 0 s1.cur.tid (lineOf a.key) = false →
      let next := x / 2 ^ 256 % 2 ^ 32
      let rem := x / 2 ^ 192 % 2 ^ 32 - next
      let w := max 1 (x / 2 ^ 240 % 2 ^ 16)
      let c := min rem (max (max 1 (x / 2 ^ 224 % 2 ^ 16)) ((rem + (2 * w - 1)) / (2 * w)))
      ∃ t, Gives (.deal g p) g (BitVec.ofNat 64 (next + c * 2 ^ 32)) s t ∧ t.cur.regs = s.cur.regs ∧
        (c = 0 → t.mem = s.mem ∧ t.launch.lmem = s.launch.lmem ∧ (s.cur.card.map (·.1) = some (pval s p) → t.cur.dealt0 = true)) ∧
        (c ≠ 0 → ∀ k, baseByte t k =
          if a.key + 32 ≤ k ∧ k < a.key + 36 then softByte s1 k (BitVec.ofNat 8 ((next + c) / 256 ^ (k - (a.key + 32))))
          else baseByte s k))

/-- PREDW writes the predecessor's status word, once it is final, and waits before; HINTS with nothing outstanding marks the
launch where a successor is queued; PROFQ adds one record with the logical core and tag, or drops it where the queue is
full. SPILL_REFILL moves the ring's head into a queue below its mark; SPILL_RESUME puts the oldest held seed into the ring and
answers its spawner; QUEUE_BALANCE moves min(⌊difference / 4⌋, 2) seeds to the shorter of two adjacent queues, by the occupancies
that they have shown each other.
The model's choice in points that the spec leaves open: notes/assumptions/30.md, notes/assumptions/31.md,
notes/assumptions/36.md. -/
def Obligations.OrderAndQueueUnitsResult : Prop :=
  (∀ s, Ready onThread s →
    (ChunkEmpty s →
      (∀ w g t, s.launch.pred = some w → Writes g w (closing s) t → exec (.predw g) s = .next (advanceAlone t)) ∧
      (s.launch.pred = none → ∀ g, exec (.predw g) s = .next (park (.blocked .predecessor) s)) ∧
      (Released0 s → buffered s = false → exec .hints s = .next (advanceAlone
        (if successorQueued s then (closing s).modLaunch fun l => { l with hinted := true } else closing s)))) ∧
    (∀ g v s1, Reads g s v s1 →
      let mine := s1.profq.filter (·.part == spanPart s1 s1.core.id)
      (mine.length < Config.profqSize → ∃ r, r.lcore = s.cur.lcore ∧ r.tag = v.setWidth 32 ∧ r.part = spanPart s1 s1.core.id ∧
        exec (.profq g) s = .next (finish { s1 with profq := s1.profq ++ [r] })) ∧
      (Config.profqSize ≤ mine.length → exec (.profq g) s = .next (finish (countErr s1.pkg 7 s1))))) ∧
  (∀ s die e rest logn head tail base x, (s.getDie die).ring = e :: rest → ringHeader s die = some (logn, head, tail, base) →
    (s.getDie die).entries.length < 12288 → rawRead s (die * 144) (ringSlot logn base head) 64 = some x →
    (∃ a, s.getAgent e.tid = some a ∧ a.state = .ready ∧ (launchOf s a.launch).phase = .running) →
    ∃ t, exec (.spillRefill die) s = .next t ∧ (t.getDie die).ring = rest ∧
      (t.getDie die).entries = (s.getDie die).entries ++ [{ e with key := BitVec.ofNat 64 (x / 2 ^ 224) }]) ∧
  (∀ s die e tid rest logn head tail base, (s.getDie die).holding = (e, tid) :: rest →
    ringHeader s die = some (logn, head, tail, base) → ringRoom s die ≠ 0 →
    (rawKey s (die * 144) (ringSlot logn base tail)).isSome = true → (s.getAgent tid).isSome = true → (s.getAgent e.tid).isSome = true →
    ∃ t, exec (.spillResume die) s = .next t ∧ (t.getDie die).holding = rest ∧ (t.getDie die).ring = (s.getDie die).ring ++ [e] ∧
      (t.getAgent tid).bind (·.answer) = some true) ∧
  (∀ s a b, diesAdjacent s a b = true → occupancy s b < occupancy s a →
    (∀ e ∈ (s.getDie a).entries, movable s a b e = true) → ((s.getDie a).entries.map (·.tid)).Nodup →
    let n := min ((occupancy s a - occupancy s b) / 4) 2
    n ≤ (s.getDie a).entries.length →
    ∃ t, exec (.queueBalance a b) s = .next t ∧ (t.getDie a).entries.length = (s.getDie a).entries.length - n ∧
      (t.getDie b).entries.length = (s.getDie b).entries.length + n ∧ t.mem = s.mem ∧
      ∀ e ∈ (t.getDie b).entries, e ∈ (s.getDie a).entries ∨ e ∈ (s.getDie b).entries)

namespace Sys2Proof.Claims

/-- A thread outside views whose launch runs and that has nothing in its open chunk. -/
def FaultReady (s : State) : Prop :=
  s.cur.seq = .x ∧ s.cur.host = none ∧ ChunkEmpty s ∧ rivalOf s s.cur = none ∧ s.launch.fatal = none ∧ s.launch.phase = .running

/-- The instruction ends its launch by a fault (R31, R342, R344): one fatal record with the cause, the pc of the instruction and
the address; no register of the thread has changed, and it has not gone past the instruction. -/
def Faults (cause : Byte) (addr : Addr) (i : Instr) (s : State) : Prop :=
  ∃ t r, exec i s = .next t ∧ t.launch.fatal = some r ∧ r.cause = cause ∧ r.pc = s.cur.regs.pc ∧ r.addr = addr ∧ r.kind = 2 ∧
    r.lcore = s.cur.lcore ∧ r.seq = 0 ∧ t.launch.status = 1 ∧ t.launch.phase = .stopping ∧ t.cur.regs = s.cur.regs ∧
    t.cur.failCause = cause

end Sys2Proof.Claims

/-- For a thread outside views with nothing in its chunk: a word that is no instruction, a load, store or atomic at a misaligned
address (ALIGN with that address), an access in the reserved space (RIGHTS), a jump to an odd address (ALIGN), an instruction of
another sequencer (ILLEGAL_INSN), and each of TRET, IDLE, HALTG, PLBINV, HUSK and UNHUSK outside supervisor state (PRIVILEGE) end
the launch: its fatal record holds the cause, the pc, the address and the logical core, its status is FAULT, its cores stop, and
no register has changed. In supervisor state a fault halts the core instead.
The model's choice in points that the spec leaves open: notes/assumptions/37.md. -/
def Obligations.FaultEndsTheLaunch : Prop :=
  (∀ s, FaultReady s → Ready onX s →
    (∀ cause addr, Faults cause addr (.illegalInsn cause addr) s) ∧
    (∀ p disp, PReadable s p →
      let va := pval s p + disp.signExtend 80
      (∀ (sz : Size) g, va.toNat % 2 ^ sz.toNat ≠ 0 → Faults 0x03 va (.ld sz g (.ptr p) disp) s ∧ Faults 0x03 va (.ldWr sz g (.ptr p) disp) s ∧
        Faults 0x03 va (.st sz g (.ptr p) disp) s) ∧
      (∀ (sz : Size) g, va.toNat % 2 ^ sz.toNat = 0 → va.extractLsb' 78 2 = 3 →
        Faults 0x04 va (.ld sz g (.ptr p) disp) s ∧ Faults 0x04 va (.st sz g (.ptr p) disp) s) ∧
      (∀ g c, (pval s p).toNat % 8 ≠ 0 → Readable s c → Faults 0x03 (pval s p) (.aAdd (.reg g) (.ptr p) c) s) ∧
      ((pval s p).toNat % 2 = 1 → Faults 0x03 (pval s p) (.j p) s)) ∧
    Faults 0x01 0 .rest s ∧ Faults 0x01 0 .mcommit s ∧
    Faults 0x02 0 .tret s ∧ Faults 0x02 0 .idle s ∧
    ∀ g p, Faults 0x02 0 (.haltg g) s ∧ Faults 0x02 0 (.plbinv p g) s ∧ Faults 0x02 0 (.husk g p) s ∧ Faults 0x02 0 (.unhusk g p) s) ∧
  (∀ s cause addr, s.cur.seq = .s → ChunkEmpty s → s.core.id = s.cur.core → Ready onX s →
    ∃ t, exec (.illegalInsn cause addr) s = .next t ∧ t.core.halted = true ∧ t.cur.regs = s.cur.regs)

/-- The QUANTUM register of a core after reset holds COUNT 1,024, MODE 0 and zero reserved bits; a launch loads MODE and COUNT of
its template. In supervisor state a CRWR of a
value whose COUNT is from 256 to 65,536 stores its bits 18 to 0, the reserved bits reading 0, and changes no other register; with
any other COUNT it raises ILLEGAL_INSN, as a fault in supervisor state, and the register is unchanged; CRRD gives the value.
Outside supervisor state both raise PRIVILEGE, and the register is unchanged. -/
def Obligations.QuantumRegister : Prop :=
  (∀ id, (Core.new id).priv.quantum.toNat = 1024) ∧ State.reset.core.priv.quantum.toNat = 1024 ∧
  (∀ l p, l.count ≤ 65536 → (loadPriv l p).quantum.toNat = modeCode l.mode * 2 ^ 17 + l.count) ∧
  (∀ s r v s1, s.cur.seq = .s → Ready onX s → Reads (crG r) s v s1 →
    (256 ≤ v.toNat % 2 ^ 17 → v.toNat % 2 ^ 17 ≤ 65536 →
      ∃ t, exec (.crwr r 0x102) s = .next t ∧ t.core.priv = { s.core.priv with quantum := BitVec.ofNat 64 (v.toNat % 2 ^ 19) } ∧
        t.mem = s.mem ∧ t.launch.lmem = s.launch.lmem ∧ t.cur.regs = { s.cur.regs with pc := s.cur.npc }) ∧
    ((v.toNat % 2 ^ 17 < 256 ∨ 65536 < v.toNat % 2 ^ 17) → ChunkEmpty s → s.core.id = s.cur.core →
      ∃ t, exec (.crwr r 0x102) s = .next t ∧ t.core.priv = s.core.priv ∧ t.core.halted = true ∧ t.cur.regs = s.cur.regs) ∧
    (∀ t, Writes (crG r) s.core.priv.quantum s t → exec (.crrd r 0x102) s = .next (finish t))) ∧
  (∀ s r, FaultReady s → Ready onX s → Faults 0x02 0 (.crrd r 0x102) s ∧ Faults 0x02 0 (.crwr r 0x102) s ∧
    ∀ t, exec (.crwr r 0x102) s = .next t → t.core.priv = s.core.priv)

namespace Sys2Proof.Claims

/-- The user control registers as a thread reads them (R192), outside views. -/
def userCr (s : State) (n : Nat) : Option (Word ⊕ Addr) :=
  let r := s.cur.regs
  match n with
  | 0 => some (.inl r.round) | 1 => some (.inl s.launch.jkey) | 2 => some (.inl r.fmtA) | 3 => some (.inl r.fmtB)
  | 4 => some (.inl r.fmtC) | 5 => some (.inr r.sclA) | 6 => some (.inr r.sclB) | 7 => some (.inl (s.cur.teamVal.zeroExtend 64))
  | 13 => some (.inr r.utrapv) | 14 => some (.inl r.utcause) | 15 => some (.inr r.utpc) | 17 => some (.inl r.anomaly)
  | _ => none

/-- The state with other registers of the thread in front. -/
def withRegs (f : Regs → Regs) (s : State) : State := s.modCur fun a => { a with regs := f a.regs }

/-- The named state is answered, with the named privileged registers, and nothing else of memory or of the thread changed. -/
def PrivBecomes (i : Instr) (p : Priv) (s : State) : Prop :=
  ∃ t, exec i s = .next t ∧ t.core.priv = p ∧ t.mem = s.mem ∧ t.launch.lmem = s.launch.lmem ∧ t.cur.regs = { s.cur.regs with pc := s.cur.npc }

end Sys2Proof.Claims

/-- CRRD of a user register writes its value to the g or p register of its class (a register of 64 bits also to a port, one of 80
bits to a port raises ILLEGAL_INSN), MEk reading 0 without a team at the level and
WORLD reading 0 in the committed view. CRWR of ROUND takes modes 0 to 5, of FMT_A, FMT_B and FMT_C values without reserved bits, of
SCLA, SCLB, UTRAPV and UTPC any pointer, of FMT_ANOMALY clears the flags written 1; of a read-only register it does nothing; a
reserved value and an unlisted number raise ILLEGAL_INSN, a privileged number outside supervisor state PRIVILEGE. In supervisor
state DOM, VSHARE, QTAB, HANDLER, HALTGRP, OLOG, OLOGN, HUSKP and the leases take their writable bits. Each completes.
That HANDLER takes a value with bit 0 cleared is the model's choice (notes/assumptions/38.md; R349 says only that the bit is zero).
The model's choice in other points that the spec leaves open: notes/assumptions/19.md, notes/assumptions/39.md,
notes/assumptions/41.md. -/
def Obligations.ControlRegistersResult : Prop :=
  (∀ s r (cr : BitVec 31), Ready onX s →
    (∀ v t, userCr s cr.toNat = some (.inl v) → Writes (crG r) v s t → exec (.crrd r cr) s = .next (finish t)) ∧
    (∀ v n, userCr s cr.toNat = some (.inr v) → exec (.crrd (.reg n) cr) s = .next (advance (putP n v s))) ∧
    (∀ (k : Fin 5) t, cr.toNat = 8 + k.val → Writes (crG r) (if (teamAt s s.cur k.val).isSome = true then s.cur.me[k] else 0) s t →
      exec (.crrd r cr) s = .next (finish t)) ∧
    (∀ t, s.getView s.pkg s.cur.tag = none → cr = 16 → Writes (crG r) 0 s t → exec (.crrd r cr) s = .next (finish t)) ∧
    (FaultReady s →
      (∀ v d, userCr s cr.toNat = some (.inr v) → Faults 0x01 0 (.crrd (.port d) cr) s ∧ Faults 0x01 0 (.crwr (.port d) cr) s) ∧
      (256 ≤ cr.toNat → cr.toNat < 512 → Faults 0x02 0 (.crrd r cr) s ∧ Faults 0x02 0 (.crwr r cr) s) ∧
      ((18 ≤ cr.toNat ∧ cr.toNat < 256) ∨ 512 ≤ cr.toNat → Faults 0x01 0 (.crrd r cr) s ∧ Faults 0x01 0 (.crwr r cr) s))) ∧
  (∀ s r v s1, Ready onX s → Reads (crG r) s v s1 →
    (v.toNat ≤ 5 → exec (.crwr r 0) s = .next (finish (withRegs (fun x => { x with round := v }) s1))) ∧
    (exec (.crwr r 17) s = .next (finish (withRegs (fun x => { x with anomaly := x.anomaly &&& ~~~v }) s1))) ∧
    (∀ cr : BitVec 31, cr = 1 ∨ cr = 7 ∨ cr = 8 ∨ cr = 9 ∨ cr = 10 ∨ cr = 11 ∨ cr = 12 ∨ cr = 14 ∨ cr = 16 →
      exec (.crwr r cr) s = .next (finish s1)) ∧
    (FaultReady s → 5 < v.toNat → Faults 0x01 0 (.crwr r 0) s) ∧
    (FaultReady s → (16 ≤ v.toNat → Faults 0x01 0 (.crwr r 2) s) ∧ (v &&& ~~~0x10F ≠ 0 → Faults 0x01 0 (.crwr r 3) s) ∧
      (32 ≤ v.toNat → Faults 0x01 0 (.crwr r 4) s)) ∧
    (hitched s = false →
      (v.toNat < 16 → exec (.crwr r 2) s = .next (finish (withRegs (fun x => { x with fmtA := v }) s1))) ∧
      (v &&& ~~~0x10F = 0 → exec (.crwr r 3) s = .next (finish (withRegs (fun x => { x with fmtB := v }) s1))) ∧
      (v.toNat < 32 → exec (.crwr r 4) s = .next (finish (withRegs (fun x => { x with fmtC := v }) s1)))) ∧
    (s.cur.seq = .s →
      PrivBecomes (.crwr r 0x100) { s.core.priv with dom := v &&& 0xFFFF } s ∧ PrivBecomes (.crwr r 0x101) { s.core.priv with vshare := v &&& 0xFF } s ∧
      PrivBecomes (.crwr r 0x106) { s.core.priv with haltgrp := v &&& 0xFFFFFFFF } s ∧ PrivBecomes (.crwr r 0x109) { s.core.priv with ologn := v } s ∧
      PrivBecomes (.crwr r 0x107) s.core.priv s ∧
      ∀ k : Fin 8, PrivBecomes (.crwr r (BitVec.ofNat 31 (0x118 + k.val))) { s.core.priv with leasen := s.core.priv.leasen.set k (v &&& 0xFFFFFFFF) } s)) ∧
  (∀ s (n : BitVec 4), Ready onX s → PReadable s n →
    let v := pval s n
    let r : CrOp := .reg n
    (exec (.crwr r 13) s = .next (advance (withRegs (fun x => { x with utrapv := v }) s))) ∧
    (exec (.crwr r 15) s = .next (advance (withRegs (fun x => { x with utpc := v }) s))) ∧
    (hitched s = false → exec (.crwr r 5) s = .next (advance (withRegs (fun x => { x with sclA := v }) s)) ∧
      exec (.crwr r 6) s = .next (advance (withRegs (fun x => { x with sclB := v }) s))) ∧
    (s.cur.seq = .s →
      PrivBecomes (.crwr r 0x103) { s.core.priv with qtab := v } s ∧ PrivBecomes (.crwr r 0x104) { s.core.priv with handler := v &&& ~~~1 } s ∧
      PrivBecomes (.crwr r 0x108) { s.core.priv with olog := v } s ∧ PrivBecomes (.crwr r 0x10F) { s.core.priv with huskp := v } s ∧
      ∀ k : Fin 8, PrivBecomes (.crwr r (BitVec.ofNat 31 (0x110 + k.val))) { s.core.priv with lease := s.core.priv.lease.set k (v &&& ~~~0xFFE0) } s))

/-- SVC with a handler set, on a core with no other agent of its own, starts the supervisor context at HANDLER with g1 = 3 × 256 + n, g2
the slot and p1 the SVC's address; the thread stands behind it. In supervisor state: TRET leaves it and gives the caller g4 to g7;
IDLE goes on once an interrupt is pending and waits before; HALTG triggers the groups of g[15:0] on the partition's other cores or
resumes them; PLBINV with nothing under way leaves no entry of its granules in any buffer or unit; HUSK without a user context
writes 1, with a quiet one starts the stream and writes 0 when it has ended; UNHUSK writes 1 over a user context, 2 without a
saved husk, and else restores the husk's threads to their slots and writes 0, into the husk's package where one of them runs in a view or
has a world.
The model's choice in points that the spec leaves open: notes/assumptions/38.md, notes/assumptions/39.md,
notes/assumptions/42.md. -/
def Obligations.SupervisorInstructionsResult : Prop :=
  (∀ s n k, Ready onThread s → ChunkEmpty s → buffered s = false → s.cur.slot = some k → s.cur.core = s.core.id →
    s.core.priv.handler ≠ 0 → (∀ b ∈ s.agents, ¬ (b.core = s.core.id ∧ b.husked = none ∧ (b.slot.isSome = true ∨ b.seq = .a ∨ b.seq = .m))) →
    (∀ a, s.seqOf s.core.id .s = some a → a.tid ≠ s.cur.tid) → s.nextTid ≠ s.cur.tid →
    ∃ t b, exec (.svc n) s = .next t ∧ t.core.sup = true ∧ t.core.caller = some k ∧ b ∈ t.agents ∧ b.seq = .s ∧ b.core = s.core.id ∧
      b.regs.pc = s.core.priv.handler ∧ b.regs.g[1] = BitVec.ofNat 64 (3 * 256 + n.toNat) ∧ b.regs.g[2] = BitVec.ofNat 64 k ∧
      b.regs.p[1] = s.cur.regs.pc ∧ t.mem = s.mem ∧ t.launch.lmem = s.launch.lmem ∧ t.cur.regs = { s.cur.regs with pc := s.cur.npc }) ∧
  (∀ s, s.cur.seq = .s → Ready onX s →
    (ChunkEmpty s → s.core.irqs = [] → s.cur.slot = none →
      (s.core.caller.isSome = true → Readable s 4 ∧ Readable s 5 ∧ Readable s 6 ∧ Readable s 7) →
      ∃ t, exec .tret s = .next t ∧ t.core.sup = false ∧ t.core.caller = none ∧ t.mem = s.mem ∧ t.launch.lmem = s.launch.lmem ∧ t.cur.regs.pc = s.cur.npc ∧
        (s.core.caller = none → t.agents = s.agents) ∧
        ∀ k, s.core.caller = some k → ∀ a ∈ s.agents, a.core = s.core.id → a.slot = some k → a.husked = none →
          ∃ b ∈ t.agents, b.tid = a.tid ∧ b.regs.pc = a.regs.pc ∧ ∀ n : Fin 64, b.regs.g[n] =
            if 4 ≤ n.val ∧ n.val ≤ 7 then s.cur.regs.g[n] else a.regs.g[n]) ∧
    (s.core.irqs ≠ [] → exec .idle s = .next (advance s)) ∧ (s.core.irqs = [] → exec .idle s = .next (park (.blocked .interrupt) s)) ∧
    (∀ g v s1, Reads g s v s1 → v.toNat < 2 ^ 17 → ∃ t, exec (.haltg g) s = .next t ∧ t.core.halted = s.core.halted ∧
      (t.core.haltDue = if v.getLsbD 16 then s.core.haltDue &&& ~~~(v.setWidth 16) else s.core.haltDue) ∧
      t.cur.regs = { s.cur.regs with pc := s.cur.npc } ∧ ∀ c ∈ s.cores, c.id ≠ s.core.id → spanPart s c.id = spanPart s s.core.id →
        ∃ d ∈ t.cores, d.id = c.id ∧ if v.getLsbD 16 then d.haltedBy = c.haltedBy &&& ~~~(v.setWidth 16)
          else d.haltDue = c.haltDue ||| (c.priv.haltgrp.extractLsb' 0 16 &&& v.setWidth 16)) ∧
    (∀ p g v s1, PReadable s p → Reads g s v s1 → (pval s p).toNat % 65536 = 0 → v.toNat < 2 ^ 32 →
      (v = 0 → exec (.plbinv p g) s = .next (finish s1)) ∧
      (v ≠ 0 → ChunkEmpty s → s.core.inval = none → (underWay (closing s1) (pval s p).toNat v.toNat).over = true →
        let lo := (pval s p).toNat / 65536
        let out (n : Nat) : Prop := n < lo ∨ lo + v.toNat ≤ n
        ∃ t, exec (.plbinv p g) s = .next t ∧ (∀ c ∈ t.core :: t.cores, ∀ e ∈ c.plb, out e.granule) ∧
          (∀ u ∈ t.tuc, ∀ e ∈ u.2, out e.1) ∧ t.mem = s.mem ∧ t.launch.lmem = s.launch.lmem ∧ t.cur.regs = { s.cur.regs with pc := s.cur.npc })) ∧
    (∀ g p s1, PReadable s p →
      (s.cur.answer.isSome = true → ∀ t, Writes g 0 (forgetAnswer s) t → exec (.husk g p) s = .next (finish t)) ∧
      (s.cur.answer = none → (pval s p).toNat % 65536 = 0 → ChunkEmpty s →
        (reachRange (rangeFuel huskSize) (pval s p) huskSize rW s = .ok ((), s1) →
          (hasUser (closing s1) s1.core.id = false → ∀ t, Writes g 1 (closing s1) t → exec (.husk g p) s = .next (advanceAlone t)) ∧
          (hasUser (closing s1) s1.core.id = true → s1.core.husking = none → coreQuiet (closing s1) s1.core.id = true →
            placesQuiet s1.core = true → ∃ t, exec (.husk g p) s = .next t ∧ t.core.husking = some (pval s p) ∧ t.cur.wait = some (.blocked .walker))) ∧
        (reachRange (rangeFuel huskSize) (pval s p) huskSize rR s = .ok ((), s1) →
          (hasUser (closing s1) s1.core.id = true → ∀ t, Writes g 1 (closing s1) t → exec (.unhusk g p) s = .next (advanceAlone t)) ∧
          (hasUser (closing s1) s1.core.id = false → huskGet (closing s1) (pval s p) 0 1 % 4 ≠ 2 →
            ∀ t, Writes g 2 (closing s1) t → exec (.unhusk g p) s = .next (advanceAlone t)) ∧
          (∀ h n, g = .reg n → Writable s n → hasUser (closing s1) s1.core.id = false → huskGet (closing s1) (pval s p) 0 1 % 4 = 2 →
            huskAt (closing s1) (pval s p) = some h → (launchOf (closing s1) h.launch).phase = .running →
            spanPart (closing s1) s1.core.id = some (launchOf (closing s1) h.launch).part →
            (huskTied (closing s1) h = false ∨ s1.core.id / 576 = h.core.id / 576) → h.arrivals = [] → s1.cur.core = s1.core.id → (h.slots.map (·.1)).Nodup → (∀ x ∈ h.slots, x.1 ≠ s1.cur.tid ∧ hasEnded s1 x.1 = false) →
            (h.core.hitch.any (hasEnded s1)) = false → h.core.vqueue = [] → ∃ t, exec (.unhusk g p) s = .next t ∧ gval t n = 0 ∧ t.core.priv.huskp = pval s p ∧
              (∀ h' ∈ t.husks, h'.at_ ≠ h.at_) ∧ ∀ x ∈ h.slots, ∀ a ∈ s.agents, a.tid = x.1 →
                ∃ b ∈ t.agents, b.tid = a.tid ∧ b.core = s.core.id ∧ b.slot = x.2 ∧ b.husked = none)))))

namespace Sys2Proof.Claims

/-- The agent in front stands on the core, the logical core and the launch in front. -/
def Fronted (s : State) : Prop := s.cur.launch = s.launch.id ∧ s.cur.lcore = s.lc.id ∧ s.cur.core = s.core.id

end Sys2Proof.Claims

/-- TRANSLATION_REQUEST caches the entry that the page table holds in the unit that serves the granule, or notes the granule as
absent once, and does nothing while a record of its die waits; TRANSLATION_REPLY puts the entry into the core's buffer. PADDOCK_APPLY writes the bytes of a record whose page has come, as the access codes of shared records let it (R7), and drops the record. TRAP_RECORD_RETRY
writes the first waiting record for whose kind its queue has room at WR, advances WR and raises the queue's vector. SUPERVISOR_ENTRY starts the handler with the oldest interrupt's source.
HUSK_STREAM_COMPLETE waits for a core at rest and then leaves its agents in the husk. A core halts by its groups or by the host and resumes. REPLAY_DIVERGED
ends the launch with status 5; QUANTUM_END moves a quantum on and starts the next one with no wait.
The model's choice in points that the spec leaves open: notes/assumptions/16.md, notes/assumptions/24.md,
notes/assumptions/28.md, notes/assumptions/29.md, notes/assumptions/42.md, notes/assumptions/66.md. -/
def Obligations.SystemUnitsResult : Prop :=
  (∀ s core (va : Addr),
    let g := va.toNat / 65536
    (unitStalled s core = true → exec (.translationRequest core va) s = .next s) ∧
    (∀ n, unitStalled s core = false → pageWalk s (s.getCore core) va.toNat = some n → ∃ t, exec (.translationRequest core va) s = .next t ∧
      ((aget (unitFor s core va.toNat) t.tuc).getD []).head? = some (g, BitVec.ofNat 64 n, BitVec.ofNat 64 (n / 2 ^ 64)) ∧
      t.absent.contains g = false ∧ t.mem = s.mem) ∧
    (unitStalled s core = false → pageWalk s (s.getCore core) va.toNat = none →
      (s.absent.contains g = true → exec (.translationRequest core va) s = .next s) ∧
      (s.absent.contains g = false → ∃ t, exec (.translationRequest core va) s = .next t ∧ t.absent = g :: s.absent)) ∧
    (∀ n, (s.getCore core).asked = some va → pageEntry s (s.getCore core) va.toNat = some n →
      ∃ t, exec (.translationReply core) s = .next t ∧ (t.getCore core).asked = none ∧ t.mem = s.mem ∧
        (t.getCore core).plb.head? = some (plbOf g (if (s.getCore core).sup then none else some ((s.getCore core).priv.dom.extractLsb' 0 16)) n))) ∧
  (∀ s page r a, Fronted s → s.paddocked.filter (·.page == page) = [r] → r.launch = s.launch.id → r.lcore = s.lc.id → r.tag = 0 →
    (pageEntry s (s.getCore r.core) (65536 * page)).isSome = true →
    let base := paddockBase (s.getCore r.core)
    let at_ := padSlot base r.index
    rawAcc s r.core (BitVec.ofNat 80 (readPhys s at_ 16)) = some a → homeWaits s r.core a.home = false →
    (∀ b ∈ s.allAgents, b.reserved = false) → (readPhys s (at_ + 25) 1).testBit 0 = false →
    isLocal a.key = false → (a.key + 64 ≤ base ∨ base + 8 ≤ a.key) → (a.key + 64 ≤ at_ ∨ at_ + 128 ≤ a.key) → a.key + 64 ≤ 2 ^ 79 → Memory.wf s.mem = true →
    ∃ t, exec (.paddockApply page) s = .next t ∧ t.paddocked = s.paddocked.filter (·.page != page) ∧
      (∀ i, i < 64 → baseByte t (a.key + i) =
        if (readPhys s (at_ + 16) 8).testBit i then softByte s (a.key + i) (readCell s.mem (at_ + 64 + i)) else baseByte s (a.key + i)) ∧
      ∀ k, (k < a.key ∨ a.key + 64 ≤ k) → (k < base ∨ base + 8 ≤ k) → baseByte t k = baseByte s k) ∧
  (∀ s pre r post n, s.trapWait = pre ++ r :: post → (∀ x ∈ pre, recordRoom s x = false) →
    let q := (s.getCore r.core).priv.trapq
    rawRead s r.core q 12 = some n →
    let wr := n / 2 ^ 32 % 2 ^ 32
    (wr + 2 ^ 32 - n / 2 ^ 64 % 2 ^ 32) % 2 ^ 32 < (if r.kind = 2 then 256 else 254) →
    let u := rawWrite (rawWrite { s with trapWait := pre ++ post } r.core (q + BitVec.ofNat 80 (64 + 64 * (wr % 256))) r.bytes)
      r.core (q + 4) (toBytes 4 ((wr + 1) % 2 ^ 32))
    exec .trapRecordRetry s = .next (raiseVector (r.core / 576) (((partOf u r.core).map (·.1)).getD 0)
      (u.modCore r.core fun c => { c with irqs := c.irqs ++ [1] }))) ∧
  (∀ s i rest, s.core.irqs = i :: rest → s.core.sup = false → s.core.halted = false → s.core.haltedBy = 0 → s.core.priv.handler ≠ 0 →
    (s.allAgents.map (·.tid)).Nodup → (∀ a ∈ s.allAgents, a.tid < s.nextTid) →
    (∀ a ∈ agentsOn s s.core.id, a.chunk.count = 0 ∧ a.chunk.wbuf = [] ∧ a.chunk.clre = []) →
    ∃ t b, exec (.supervisorEntry s.core.id) s = .next t ∧ (t.getCore s.core.id).sup = true ∧ (t.getCore s.core.id).irqs = rest ∧
      (t.getCore s.core.id).caller = none ∧ b ∈ t.allAgents ∧ b.seq = .s ∧ b.core = s.core.id ∧ b.regs.pc = s.core.priv.handler ∧
      b.regs.g[1] = BitVec.ofNat 64 (256 * i.toNat) ∧ t.mem = s.mem) ∧
  (∀ s p n, Fronted s → s.core.husking = some p → launchOn s s.core.id = some (s.launch.id, n) → (s.allAgents.map (·.tid)).Nodup →
    (∀ a ∈ s.allAgents, a.seq = .s → a.slot = none) → coreQuiet s s.core.id = true → placesQuiet s.core = true →
    ∃ t, exec (.huskStreamComplete s.core.id) s = .next t ∧ t.core.husking = none ∧ t.core.priv.huskp = p ∧
      (∀ a ∈ agentsOn s s.core.id, ∃ b ∈ t.allAgents, b.tid = a.tid ∧ b.husked = some p ∧ b.slot = none) ∧
      ∀ a, s.seqOf s.core.id .s = some a → ∃ b, t.seqOf s.core.id .s = some b ∧ b.tid = a.tid ∧ b.answer = some true) ∧
  (∀ s core, coreQuiet s core = false → exec (.huskStreamComplete core) s = .next s) ∧
  (∀ s core,
    (∃ t, exec (.haltGroupMemberHalt core) s = .next t ∧ (t.getCore core).haltedBy = (s.getCore core).haltedBy ||| (s.getCore core).haltDue ∧
      (t.getCore core).haltDue = 0 ∧ t.mem = s.mem) ∧
    (∃ t, exec (.hostDebugHalt core) s = .next t ∧ (t.getCore core).halted = true ∧ t.mem = s.mem ∧
      ∀ c ∈ s.core :: s.cores, c.id ≠ core → spanPart s c.id = spanPart s core → ∃ d ∈ t.core :: t.cores, d.id = c.id ∧
        d.haltDue = c.haltDue ||| (c.priv.haltgrp.extractLsb' 0 16 &&& (s.getCore core).priv.haltgrp.extractLsb' 16 16)) ∧
    (∃ t, exec (.coreResume core) s = .next t ∧ (t.getCore core).halted = false ∧ (t.getCore core).haltedBy = 0 ∧
      (t.getCore core).haltDue = 0 ∧ t.mem = s.mem)) ∧
  (∀ s, s.launch.mode = .replay → s.launch.phase = .running → allReplayWait s s.launch.id = true →
    ∃ t, exec .replayDiverged s = .next t ∧ t.launch.phase = .stopping ∧ t.launch.status = 5 ∧ t.mem = s.mem) ∧
  (∀ s, s.launch.mode = .quantum → s.launch.phase = .running → s.cur.launch = s.launch.id →
    (s.launch.quantum = .serve [] → ∃ t, exec .quantumEnd s = .next t ∧ t.launch.quantum = .drain ∧ t.mem = s.mem) ∧
    (s.launch.quantum = .drain → ∃ t, exec .quantumEnd s = .next t ∧ t.launch.quantum = .run ∧ t.mem = s.mem ∧
      ∀ a ∈ t.allAgents, a.launch = s.launch.id → a.wait = none ∧ a.qstart = a.retired))

namespace Sys2Proof.Claims

/-- An agent of the launch and the logical core in front. -/
def OfFront (s : State) (a : Agent) : Prop := Fronted s ∧ a.launch = s.launch.id ∧ a.lcore = s.lc.id
/-- A launch and a logical core are those in front. -/
def InFront (s : State) (launch lcore : Nat) : Prop := Fronted s ∧ launch = s.launch.id ∧ lcore = s.lc.id

end Sys2Proof.Claims

/-- POSTED_STORE_SEND sends the first unsent entry of its line under the agent's next number, unless an atomic of the agent to its
bytes or a release goes before; POSTED_RESEND_TIMEOUT sends an entry again. POSTED_REQUEST_ARRIVAL of a store that is in order writes its
bytes, as the access codes of shared records let it (R7), and no others, and acknowledges it, or refuses it without W; a halted home
acknowledges and queues it; one that was applied before gets the same response and changes no memory; one of another incarnation is
dropped and counted. POSTED_ACK_ARRIVAL frees the entry; REMOTE_REFUSED frees it, lists it, and ends the launch with its cause and
address. FLUSH_MARKER_ARRIVAL answers once the stores it counts are performed; each once its flit has come (`inTransit`). FLUSH_MARKER_ANSWER takes the marker down. Where an entry or a marker goes, a release of its agent
may go on (`releaseAt`).
The model's choice in points that the spec leaves open: notes/assumptions/22.md, notes/assumptions/45.md, notes/assumptions/66.md. -/
def Obligations.PostedRequestsResult : Prop :=
  (∀ s core (place : Fin 7) k e, ((s.getCore core).places[place]).entries.find? (fun e => e.id.entry == k) = some e →
    InFront s e.launch e.id.lcore →
    let p := (s.getCore core).places[place]
    (e.sent = false → e.hold = false → (∀ x ∈ p.entries.takeWhile (fun x => x.id != e.id), lineOf x.key ≠ lineOf e.key) →
      atomicFirst s core place.val e = false →
      ∃ u m e', exec (.postedStoreSend core place.val k) s = .next (releaseAt core place.val u) ∧
        u.net = s.net ++ [.posted m (s.getPkg e.pkg).inc] ∧
        m.id = { e.id with seqn := p.seqn } ∧ m.va = e.va ∧ m.key = e.key ∧ m.req = e.req ∧ m.pkg = e.pkg ∧
        ((u.getCore core).places[place]).seqn = p.seqn + 1 ∧ e' ∈ ((u.getCore core).places[place]).entries ∧
        e' = { e with sent := true, id := { e.id with seqn := p.seqn } } ∧ u.mem = s.mem) ∧
    (e.sent = true → ∃ t m, exec (.postedResendTimeout core place.val k) s = .next t ∧
      t.net = s.net ++ [.posted m (s.getPkg e.pkg).inc] ∧ m.id = e.id ∧ m.req = e.req ∧ t.mem = s.mem)) ∧
  (∀ s k m inc cells clean pois, s.net[k]? = some (.posted m inc) → InFront s m.launch m.id.lcore → down s m.pkg = false →
    inTransit s (.posted m.id) = false → m.req = .store cells clean pois →
    let back := (s.getPkg (pkgOf m.id.core)).inc
    (inc ≠ (s.getPkg m.pkg).inc → ∃ t, exec (.postedRequestArrival k) s = .next t ∧ t.net = s.net.eraseIdx k ∧ t.mem = s.mem ∧
      t.launch.lmem = s.launch.lmem ∧ (t.getPkg m.pkg).errcnt[5] = (countErr m.pkg 5 s |>.getPkg m.pkg).errcnt[5]) ∧
    (∀ c, inc = (s.getPkg m.pkg).inc → (windowOf s m).applied.find? (fun x => x.1 == m.id) = some (m.id, c) →
      ∃ t, exec (.postedRequestArrival k) s = .next t ∧ t.mem = s.mem ∧ t.launch.lmem = s.launch.lmem ∧
        t.net = s.net.eraseIdx k ++ [if c = 0 then .ack m.id back else .refusal m c back]) ∧
    (inc = (s.getPkg m.pkg).inc → (windowOf s m).applied.find? (fun x => x.1 == m.id) = none → tooOld (windowOf s m) m = false →
      homeAway s m.home = false → homeHalted s m.home = true →
      ∃ t, exec (.postedRequestArrival k) s = .next t ∧ t.mem = s.mem ∧ t.launch.lmem = s.launch.lmem ∧
        t.net = s.net.eraseIdx k ++ [.queued m (s.getLc m.home).core, .ack m.id back]) ∧
    (inc = (s.getPkg m.pkg).inc → (windowOf s m).applied.find? (fun x => x.1 == m.id) = none → tooOld (windowOf s m) m = false →
      homeAway s m.home = false → homeHalted s m.home = false → homeQueued (s.getLc m.home).core s.net = false → ∀ r, homeRights (dropNet k s) m = some r →
      rawKey (dropNet k s) m.id.core m.va = some m.key →
      (r &&& 2 ≠ 2 → ∃ t, exec (.postedRequestArrival k) s = .next t ∧ t.mem = s.mem ∧ t.net = s.net.eraseIdx k ++ [.refusal m 0x0F back]) ∧
      (r &&& 2 = 2 → (∀ c ∈ cells, m.key ≤ c.1 ∧ homeBusy (dropNet k s) m.pkg c.1 1 = false) → (cells.map (·.1)).Nodup →
        Memory.wf s.mem = true → Memory.wf s.launch.lmem = true →
        ∃ t, exec (.postedRequestArrival k) s = .next t ∧ (∀ c ∈ cells, baseByte t c.1 = softByte s c.1 c.2) ∧
          (∀ key, (∀ c ∈ cells, c.1 ≠ key) → baseByte t key = baseByte s key) ∧ t.net = s.net.eraseIdx k ++ [.ack m.id back] ∧
          (windowOf t m).applied.head? = some (m.id, 0) ∧ (windowOf t m).count = (windowOf s m).count + 1))) ∧
  (∀ s k (id : PostId) inc (h : id.place < 7), s.net[k]? = some (.ack id inc) → down s (pkgOf id.core) = false → inTransit s (.ack id) = false →
    inc = (s.getPkg (pkgOf id.core)).inc →
    ∃ u, exec (.postedAckArrival k) s = .next (releaseAt id.core id.place u) ∧ u.net = s.net.eraseIdx k ∧ u.mem = s.mem ∧
      ((u.getCore id.core).places[id.place]).entries = ((s.getCore id.core).places[id.place]).entries.filter fun e => e.id != id) ∧
  (∀ s k m cause inc a, s.net[k]? = some (.refusal m cause inc) → InFront s m.launch m.id.lcore → down s (pkgOf m.id.core) = false →
    inTransit s (.refusal m.id) = false → inc = (s.getPkg (pkgOf m.id.core)).inc → m.released = none → s.getAgent m.tid = some a → a.seq = .x →
    rivalOf s a = none → s.launch.fatal = none → s.launch.phase = .running →
    ∃ t r i, exec (.remoteRefused k) s = .next t ∧ t.launch.fatal = some r ∧ r.cause = cause ∧ r.addr = m.va ∧ r.pc = 0 ∧
      r.name = m.id.entry ∧ (i, .met) ∈ t.launch.pending ∧ i.kind = 3 ∧ i.fate = true ∧ i.cause = cause ∧
      i.seqn = m.id.seqn ∧ t.net = (freeEntry m.id (dropNet k s)).net) ∧
  (∀ s k core (place : Fin 7) pkg count inc, s.net[k]? = some (.marker core place.val pkg count inc) → down s pkg = false →
    inTransit s (.marker core place.val pkg) = false → inc = (s.getPkg pkg).inc → count ≤ uncounted s core place.val pkg →
    ∃ t, exec (.flushMarkerArrival k) s = .next t ∧
      t.net = s.net.eraseIdx k ++ [.answer core place.val pkg (s.getPkg (pkgOf core)).inc] ∧ t.mem = s.mem) ∧
  (∀ s k core (place : Fin 7) pkg inc b rest, s.net[k]? = some (.answer core place.val pkg inc) → down s (pkgOf core) = false →
    inTransit s (.answer core place.val pkg) = false → inc = (s.getPkg (pkgOf core)).inc → ((s.getCore core).places[place]).markers = (pkg, b) :: rest →
    ∃ u, exec (.flushMarkerAnswer k) s = .next (releaseAt core place.val u) ∧ u.net = s.net.eraseIdx k ∧
      ((u.getCore core).places[place]).markers = rest ∧ u.mem = s.mem)

/-- REMOTE_ACCESS_ARRIVAL reads the home's bytes, or performs the atomic there; REMOTE_LOAD_RETURN writes the register and the load is
out no more. NEIGHBOUR_PORT_DELIVERY puts the oldest word of its port into the FIFO. In a cycle of a torus a router ejects the flits that are
at their core, where a bad one is counted, and moves and ages the others that find a port; a link passes on its oldest flit if it is
good, counts each resend of a bad one, retrains after eight, and after the third failure is disabled at both ends with both packages
reset. Bulk packets are taken whole or dropped, asked
for, granted, sent again reserved, and lost where they carry another incarnation. INCARNATION_CHANGE takes the next number. A walker
command starts with its lines on their way, at most four to a packet; a line lands whole and nothing else changes; a complete command
counts its target and leaves; a promise falls due.
The model's choice in points that the spec leaves open: notes/assumptions/4.md, notes/assumptions/15.md, notes/assumptions/23.md,
notes/assumptions/24.md, notes/assumptions/44.md, notes/assumptions/50.md, notes/assumptions/66.md. -/
def Obligations.FabricResult : Prop :=
  (∀ s tid id a l, s.getAgent tid = some a → OfFront s a → a.loads.find? (·.id == id) = some l →
    let home := (loadHome s a l).getD a.lcore
    (l.value = none → l.ring = none → down s l.pkg = false → inTransit s (.load tid id) = false → earlierLoad a l = false →
      homeAway s home = false → homeHalted s home = false → homeQueued (s.getLc home).core s.net = false →
      (l.atomic = none → (l.dst = .sync false → emptyView s l.pkg 0 l.key = false) → ∃ t b l', exec (.remoteAccessArrival tid id) s = .next t ∧ t.getAgent tid = some b ∧ l' ∈ b.loads ∧ l'.id = id ∧
        l'.value = some (ofBytes ((List.range l.size).map fun i => baseByte s (l.key + i))) ∧ t.mem = s.mem) ∧
      (∀ op c cmp, l.atomic = some (op, c, cmp) → l.rel = false → poisoned s l.pkg 0 l.key = false →
        homeBusy s l.pkg l.key 8 = false → s.launch.mode = .free →
        Memory.wf s.mem = true → Memory.wf s.launch.lmem = true →
        ∃ t b l', exec (.remoteAccessArrival tid id) s = .next t ∧ t.getAgent tid = some b ∧ l' ∈ b.loads ∧ l'.id = id ∧
          l'.value = some (wordAt s l.key).toNat ∧ WordBecomes l.key 8 (atomicNew op (wordAt s l.key) c cmp).toNat s s t)) ∧
    (∀ v n, l.value = some v → inTransit s (.reply tid id) = false → a.rel = none → l.dst = .g n → n ≠ 0 → l.pois = 0 → l.fault = 0 →
      ∃ t b, exec (.remoteLoadReturn tid id) s = .next t ∧ t.getAgent tid = some b ∧ b.regs.g[n.toNat] = extended l.signed l.size v ∧
        (∀ m : Fin 64, m.val ≠ n.toNat → b.regs.g[m] = a.regs.g[m]) ∧ (∀ x ∈ b.loads, x.id ≠ id) ∧ t.mem = s.mem)) ∧
  (∀ s k n (d : Fin 4) w, s.launch.portq[k]? = some (n, d.val, w) → (∀ m ∈ s.launch.portq.take k, m.1 ≠ n ∨ m.2.1 ≠ d.val) →
    ((s.getLc n).ports[d]).length < 4 →
    ∃ t, exec (.neighbourPortDelivery k) s = .next t ∧ (t.getLc n).ports[d] = (s.getLc n).ports[d] ++ [w] ∧
      t.launch.portq = s.launch.portq.eraseIdx k ∧ t.mem = s.mem) ∧
  (∀ s pkg node, ∃ t, exec (.flitHop pkg node) s = .next t ∧ t.mem = s.mem ∧ (∀ f ∈ s.flits, f.pkg ≠ pkg → f ∈ t.flits) ∧
    (∀ f ∈ t.flits, f.pkg = pkg → f.entered = false ∧ f.age = 0 ∨ ∃ g ∈ s.flits, g.pkg = pkg ∧ f.cargo = g.cargo ∧ f.dst = g.dst ∧ f.src = g.src ∧
      (g.node = node → g.hopped = false → pkgOf g.dst = pkg → node ≠ g.dst % 576) ∧
      ({ f with hopped := g.hopped } = g ∨
        g.node = node ∧ g.hopped = false ∧ f.entered = true ∧ (∃ d, f.node = nodeNext node d) ∧
          f.age = if g.age = 127 then 127 else g.age + 1)) ∧
    (∀ g ∈ s.flits, g.pkg = pkg → (g.node = node → g.hopped = false → pkgOf g.dst = pkg ∧ node ≠ g.dst % 576) →
      ∃ f ∈ t.flits, f.pkg = pkg ∧ f.cargo = g.cargo ∧ f.dst = g.dst ∧ f.src = g.src) ∧
    ∀ g, s.flits.filter (fun f => f.pkg == pkg && f.node == node && !f.hopped) = [g] → pkgOf g.dst = pkg → node = g.dst % 576 → pkg < 128 →
      (Config.mishap s.choice 11 = false → t.flits.length + 1 = s.flits.length) ∧
      (Config.mishap s.choice 11 = true → (t.getPkg pkg).errcnt[2] =
        if (s.getPkg pkg).errcnt[2] = BitVec.allOnes 64 then BitVec.allOnes 64 else (s.getPkg pkg).errcnt[2] + 1)) ∧
  (∀ s id l, getLink s id = some l → l.disabled = false →
    (∀ f rest, l.held = f :: rest → l.failed < 9 →
      (∃ t, exec (.spanLinkFlitReceive id true) s = .next t ∧ getLink t id = some { l with held := rest, failed := 0 } ∧ t.mem = s.mem ∧
        ∃ g, t.flits = s.flits ++ [g] ∧ g.pkg = farEnd l f.pkg ∧ g.cargo = f.cargo ∧ g.dst = f.dst ∧ g.src = f.src ∧ g.age = f.age) ∧
      ∃ t, exec (.spanLinkFlitReceive id false) s = .next t ∧ getLink t id = some { l with failed := l.failed + 1 } ∧ t.flits = s.flits ∧
        (l.failed < 8 → f.pkg < 128 → (t.getPkg f.pkg).errcnt[2] = if (s.getPkg f.pkg).errcnt[2] = BitVec.allOnes 64 then BitVec.allOnes 64 else (s.getPkg f.pkg).errcnt[2] + 1)) ∧
    (9 ≤ l.failed →
      (∃ t, exec (.spanLinkRetrain id true) s = .next t ∧ getLink t id = some { l with failed := 0, retrains := 0 }) ∧
      (l.retrains < 2 → ∃ t, exec (.spanLinkRetrain id false) s = .next t ∧ getLink t id = some { l with retrains := l.retrains + 1 }) ∧
      (2 ≤ l.retrains → l.pkgA < 128 → l.pkgB < 128 → ∃ t, exec (.spanLinkRetrain id false) s = .next t ∧ (getLink t id).map (·.disabled) = some true ∧
        (t.getPkg l.pkgA).inReset = true ∧ (t.getPkg l.pkgB).inReset = true ∧
        (t.getPkg l.pkgA).lmask.getLsbD (linkNumber l l.pkgA) = false ∧ (t.getPkg l.pkgB).lmask.getLsbD (linkNumber l l.pkgB) = false ∧
        ((∀ x ∈ s.launch :: s.launches, x.phase ≠ .running) → t.mem = s.mem)))) ∧
  (∀ s k p, s.packets[k]? = some p → inTransit s (.packet p.id) = false →
    (∀ w, p.st = .sent → p.unit = none → (s.getCore p.core).walker.find? (·.id == p.cmd) = some w → down s p.dstPkg = false →
      (∀ lc ∈ launchLcs s w.launch, lc.id = p.dstLc → lc.away = false) →
      (p.inc = (s.getPkg p.dstPkg).inc →
        (∃ t, exec (.bulkPacketArrival k true) s = .next t ∧ t.packets = s.packets.eraseIdx k ∧
          (t.getCore p.core).walker.find? (·.id == p.cmd) = some { w with landing := w.landing ++ p.lines } ∧ t.mem = s.mem) ∧
        (p.reserved = false → ∃ t, exec (.bulkPacketArrival k false) s = .next t ∧ t.packets[k]? = some { p with st := .dropped })) ∧
      (p.inc ≠ (s.getPkg p.dstPkg).inc → ∀ room, ∃ t, exec (.bulkPacketArrival k room) s = .next t ∧
        t.packets[k]? = some { p with st := .lost } ∧ t.mem = s.mem)) ∧
    (p.st = .dropped → ∃ t, exec (.dropNoticeArrival k) s = .next t ∧ t.packets[k]? = some { p with st := .requested }) ∧
    (p.st = .requested → ∃ t, exec (.reservationRequestArrival k) s = .next t ∧ t.packets[k]? = some { p with st := .granted }) ∧
    (p.st = .granted → (∃ t, exec (.grantArrival k) s = .next t ∧ t.packets[k]? = some { p with st := .sent, reserved := true }) ∧
      ∃ t, exec (.grantExpiry k) s = .next t ∧ t.packets[k]? = some { p with st := .requested })) ∧
  (∀ s pkg, (s.getPkg pkg).rejoin = true → (s.getPkg pkg).inReset = false →
    (∀ c ∈ s.core :: s.cores, ∀ p ∈ c.places.toList, ∀ e ∈ p.entries, e.pkg ≠ pkg) → (∀ a ∈ s.allAgents, a.rel = none ∧ ∀ l ∈ a.loads, l.pkg ≠ pkg) →
    (∀ l ∈ s.launch :: s.launches, l.phase ≠ .running) →
    ∃ t, exec (.incarnationChange pkg) s = .next t ∧ (t.getPkg pkg).inc = (s.getPkg pkg).inc + 1 ∧ (t.getPkg pkg).rejoin = false ∧ t.mem = s.mem) ∧
  (∀ s core w, (s.getCore core).walker.find? (fun w => !w.started) = some w → Fronted s → w.launch = s.launch.id → w.lcore = s.lc.id →
    w.ring = none → w.gather = none → ∃ t w', exec (.walkerCommandStart core) s = .next t ∧ w' ∈ (t.getCore core).walker ∧
      w'.id = w.id ∧ w'.started = true ∧ t.mem = s.mem ∧
      ∀ l ∈ toLines (runMoves s core (core / 576) w.tag (w.kind == .tile) w.moves []),
        ∃ p ∈ t.packets, p.core = core ∧ p.cmd = w.id ∧ p.unit = none ∧ l ∈ p.lines ∧ p.lines.length ≤ 4 ∧ p.st = .sent) ∧
  (∀ s core k w j l pkg cells, findLine (s.getCore core).walker k = some (w, j) → w.landing[j]? = some l → Fronted s →
    w.launch = s.launch.id → w.lcore = s.lc.id → w.ring = none → s.launch.mode = .free → placeLine s core w l = some (pkg, 0, cells) →
    (∀ c ∈ cells, heldRange s c.1 1 = false) → reservedKeys s pkg 0 0 (cells.map (·.1)) = false →
    (cells.map (·.1)).Nodup → s.empty.Nodup → s.launch.lempty.Nodup →
    Memory.wf s.mem = true → Memory.wf s.launch.lmem = true →
    ∃ t, exec (.engineLineLanding core k) s = .next t ∧ (∀ c ∈ cells, baseByte t c.1 = softByte s c.1 c.2.1 ∧ baseEmpty t c.1 = false) ∧
      ∀ key, (∀ c ∈ cells, c.1 ≠ key) → baseByte t key = baseByte s key) ∧
  (∀ s core w n, (s.getCore core).walker.find? (·.id == w.id) = some w → Fronted s → w.launch = s.launch.id → w.lcore = s.lc.id →
    w.ring = none → w.started = true → w.cause = 0 → linesLeft s core w = [] → w.tile = none → w.targets = [n] → s.launch.mode = .free →
    ∃ t, exec (.walkerCommandComplete core w.id) s = .next t ∧ (∀ x ∈ (t.getCore core).walker, x.id ≠ w.id) ∧ t.mem = s.mem ∧
      ∀ k : Fin 16, w.cnt = some k.val → (t.getLc n).mc[k] = (s.getLc n).mc[k] + 1) ∧
  (∀ s tid a (d : Fin 8) core id, s.getAgent tid = some a → a.regs.d[d] = .cmd core id false →
    ∃ t b, exec (.promiseDue tid d.val) s = .next t ∧ t.getAgent tid = some b ∧ b.regs.d[d] = .cmd core id true ∧
      b.regs.g = a.regs.g ∧ t.mem = s.mem)

namespace Sys2Proof.Claims

/-- A launch of the state after, by its number. -/
def LaunchIn (t : State) (id : Nat) (p : Launch → Prop) : Prop := ∃ k ∈ allLaunches t, k.id = id ∧ p k

/-- The launch is refused: its record will say `st`, and RIDX goes past its packet. -/
def refusedWith (l : Launch) (st : Byte) (s : State) : State :=
  rawWrite (modLaunchId l.id (fun l => { l with phase := .final, status := st, reserved := [] }) s) (procCore s l.part)
    (descAddr s l.part l.queue + 24) (toBytes 4 ((l.lseq + 1) % 2 ^ 32))

end Sys2Proof.Claims

/-- QUEUE_NOTIFY reads WIDX of the queue it names. PACKET_DISPATCH serves each partition's next queue: it takes the packet with its
fields, or stops the queue at it and changes no other byte, or asks for the packet's page. LAUNCH_ADMIT admits a launch whose template and shape hold, and refuses others with their status;
LAUNCH_CAPACITY_RESERVE places its logical cores on free cores and reserves its boards; LAUNCH_START makes one entry seed per logical core, at the entry
address, g1 its number and p15 its local space, or asks the pager for a page of its leases, and refuses with status 4 where that gives up;
a launch that has lost a core goes back to be placed anew. LAUNCH_FAULT_STOP lists what is in flight in the order of
kinds, logical cores and sequence numbers. LAUNCH_ITEM_ACCOUNTING lists every item left. CREC_FINAL_WRITE writes the header with
FINAL, raises the queue's vector and tells the successor.
The model's choice in points that the spec leaves open: notes/assumptions/46.md, notes/assumptions/47.md,
notes/assumptions/48.md, notes/assumptions/68.md. -/
def Obligations.LaunchEventsResult : Prop :=
  (∀ s pkg off,
    (∀ x n, (s.getPkg pkg).plan[off / 256]? = some x → off % 4 = 0 →
      rawRead s (procCore s x.2.toNat) (descAddr s x.2.toNat (off % 256 / 4) + 28) 4 = some n →
      ∃ t, exec (.queueNotify pkg off) s = .next t ∧ t.mem = s.mem ∧
        ((t.pkts.find? (·.part == x.2.toNat)).bind fun q => aget (off % 256 / 4) q.widx) = some (BitVec.ofNat 32 n)) ∧
    ((s.getPkg pkg).plan[off / 256]? = none → exec (.queueNotify pkg off) s = .next s)) ∧
  (∀ s, exec .packetDispatch s = .next ((partsOf s).foldl (fun s part => dispatchPart part s) s)) ∧
  (∀ s part q ridx at_ x, nextQueue s part = some (q, ridx, at_) → rawRead s (procCore s part) at_ 64 = some x →
    let t := dispatchPart part s
    let crec := BitVec.ofNat 80 (field x 511 432)
    let good := (field x 7 0 = 1 ∨ field x 7 0 = 2) ∧ field x 207 16 = 0 ∧ field x 13 8 = 0 ∧ crecOk s part crec = true
    (good → ∃ l, t.launches = s.launches ++ [l] ∧ l.phase = .dispatched ∧ l.part = part ∧
      l.queue = q ∧ l.lseq = ridx ∧ l.crec = crec ∧ l.args = BitVec.ofNat 80 (field x 431 352) ∧
      l.tmpl = BitVec.ofNat 80 (field x 351 272) ∧ l.jkey = BitVec.ofNat 64 (field x 271 208) ∧ l.af = x.testBit 15 ∧
      l.rf = x.testBit 14 ∧ (l.fence = true ↔ field x 7 0 = 2) ∧ t.launch = s.launch ∧ t.mem = s.mem) ∧
    (∀ k, ¬ good → rawKey s (procCore s part) (descAddr s part q + 19) = some k → isLocal k = false → Memory.wf s.mem = true →
      t.launches = s.launches ∧ baseByte t k = baseByte s k ||| 0x40 ∧
        ∀ key, key ≠ k → baseByte t key = baseByte s key)) ∧
  (∀ s part q ridx at_, nextQueue s part = some (q, ridx, at_) → rawRead s (procCore s part) at_ 64 = none →
    let t := dispatchPart part s
    (t.getCore (procCore s part)).asked.isSome = true ∧ t.launches = s.launches ∧ t.mem = s.mem) ∧
  (∀ s l, firstIn s (fun l => l.phase == .dispatched && (!l.af || earlierOver s l)) = some l →
    (l.fence = true → exec .launchAdmit s = .next (refusedWith l 0 s)) ∧
    (l.fence = false → (l.tmpl.toNat % 64 ≠ 0 → exec .launchAdmit s = .next (refusedWith l 2 s)) ∧
      ∀ x, l.tmpl.toNat % 64 = 0 → rawRead s (procCore s l.part) l.tmpl 256 = some x →
        (templateOk x = false → exec .launchAdmit s = .next (refusedWith l 2 s)) ∧
        (templateOk x = true → shapeFits s (fromTemplate x l) = false → exec .launchAdmit s = .next (refusedWith (fromTemplate x l) 3 s)) ∧
        (templateOk x = true → shapeFits s (fromTemplate x l) = true → ∃ t, exec .launchAdmit s = .next t ∧ t.mem = s.mem ∧
          LaunchIn t l.id fun k => k = { fromTemplate x l with phase := .admitted }))) ∧
  (∀ s l, firstIn s (fun l => l.phase == .admitted && capacityFree s l) = some l →
    ∃ t, exec .launchCapacityReserve s = .next t ∧ t.mem = s.mem ∧ LaunchIn t l.id fun k => k.phase = .reserved ∧
      k.lcores = (((List.range l.l).zip (placement s l (coreTaken s))).map fun ic => { LCore.new ic.1 with core := ic.2 }) ∧
      k.lcores.length = l.l ∧ k.reserved = boardDies l (placement s l (coreTaken s)) ∧ (l.place = 0 → ∀ lc ∈ k.lcores, lc.core ∈ freeCores s l)) ∧
  (∀ s l, nextStart s = some l →
    (coreLost s l = true → exec .launchStart s =
      .next (modLaunchId l.id (fun l => { l with phase := .dispatched, lcores := [], reserved := [] }) s)) ∧
    (∀ va, coreLost s l = false → leaseMissing s l = some va →
      (Config.mishap s.cycle 8 = true → exec .launchStart s = .next (refusedWith l 4 s)) ∧
      (Config.mishap s.cycle 8 = false → exec .launchStart s = .next (procAsk l.part (BitVec.ofNat 80 va) s))) ∧
    (coreLost s l = false → leaseMissing s l = none → ∃ t, exec .launchStart s = .next t ∧ (LaunchIn t l.id fun k => k.phase = .running ∧ k.image = s.mem) ∧
      (∀ lc ∈ l.lcores, let p := (t.getCore lc.core).priv
        p.quantum = BitVec.ofNat 64 (modeCode l.mode * 2 ^ 17 + l.count) ∧ p.dom = (loadPriv l Priv.reset).dom ∧
        p.lease = (loadPriv l Priv.reset).lease ∧ p.leasen = (loadPriv l Priv.reset).leasen ∧ (t.getCore lc.core).mx = Machine.Matrix.zero) ∧
      ∀ i lc, l.lcores[i]? = some lc → ∃ a ∈ t.allAgents, a.tid = s.nextTid + i ∧ a.launch = l.id ∧ a.lcore = lc.id ∧
        a.core = lc.core ∧ a.seq = .x ∧ a.state = .ready ∧ a.regs.pc = l.entry ∧ a.regs.g[1] = BitVec.ofNat 64 lc.id ∧
        a.regs.p[15] = BitVec.ofNat 80 (placeAddr lc.id 0))) ∧
  (∀ s l, firstIn s (fun l => l.phase == .stopping && unitsQuiet s l.id) = some l →
    ∃ t, exec .launchFaultStop s = .next t ∧ t.mem = s.mem ∧ LaunchIn t l.id fun k => k.phase = .accounting ∧
      (k.pending.filter fun x => x.1.kind != 1 && x.1.kind != 5).Pairwise fun x y => x.1.kind < y.1.kind ∨ (x.1.kind = y.1.kind ∧ (x.1.lcore < y.1.lcore ∨
        (x.1.lcore = y.1.lcore ∧ x.1.seqn.toNat ≤ y.1.seqn.toNat)))) ∧
  (∀ s, (∀ l, firstIn s (fun l => l.phase == .accounting) = some l → ∃ t, exec .launchItemAccounting s = .next t ∧ t.mem = s.mem ∧
      LaunchIn t l.id fun k => k.phase = .final ∧ k.pending = []) ∧
    (∀ l, firstIn s (fun l => l.phase == .accounting) = none → firstIn s (ranOut s) = some l →
      ∃ t, exec .launchItemAccounting s = .next t ∧ t.mem = s.mem ∧ LaunchIn t l.id fun k => k.phase = .final) ∧
    (Fronted s → s.launch.phase = .accounting → ∃ t, exec .launchItemAccounting s = .next t ∧
      t.launch.items = s.launch.items ++ (((s.launch.pending.filter fun x => x.1.kind != 1 && x.1.kind != 5).map fun x =>
        if x.2.over s then { x.1 with fate := false, cause := 0 } else { x.1 with cause := ownCause s x.1 x.2 }) ++
          rivalItems s ++ (metOf s.launch 5).map (·.1) ++ seedItems s s.launch.id (metOf s.launch 1)))) ∧
  (∀ s l old, firstIn s (fun l => l.phase == .final) = some l → rawRead s (procCore s l.part) l.crec 64 = some old →
    let core := procCore s l.part
    let cap := field old 191 160
    let w := statusWord l cap
    let s1 := ((List.range l.items.length).zip l.items).foldl (fun s ii =>
      if ii.1 < cap then rawWrite s core (l.crec + BitVec.ofNat 80 (64 + 16 * ii.1)) ii.2.bytes else s) s
    w.toNat % 256 = l.status.toNat ∧ w.toNat / 256 % 256 = ((l.fatal.map fun r => r.cause.toNat).getD 0) ∧ w.getLsbD 31 = true ∧
    w.getLsbD 30 = decide (cap < l.items.length) ∧ w.getLsbD 29 = l.logTrunc ∧ w.toNat / 2 ^ 32 = l.items.length % 2 ^ 32 ∧
    ∃ t, exec .crecFinalWrite s = .next t ∧ t.mem = (rawWrite s1 core l.crec (toBytes 64 (crecHeader old l w))).mem ∧
      (LaunchIn t l.id fun k => k.phase = .ended ∧ k.word = some w) ∧ (∃ v, t.vectors = (pkgOf core, v) :: s.vectors ∧ v % 64 = l.queue % 64) ∧
      ∀ m ∈ allLaunches s, m.id ≠ l.id → m.part = l.part → m.queue = l.queue → m.lseq = (l.lseq + 1) % 2 ^ 32 → m.phase ≠ .none →
        LaunchIn t m.id fun k => k.pred = some (predWord w))

namespace Sys2Proof.Claims

/-- New entries of a measurement log, with MREG extended by the digest of each in turn (R361). -/
def LogGrows (m n : Mgmt) (es : List (List Byte × Nat)) : Prop :=
  n.log = m.log ++ es ∧ n.mreg = es.foldl (fun r e => sha256 (r ++ e.1)) m.mreg

end Sys2Proof.Claims

/-- PACKAGE_RESET holds the package and forgets its log. FIRMWARE_VERIFY releases the dies for an image that passes R360, under the fuse map, with five log
entries of types 1 to 5, and does nothing else but stop for one that fails; FIRMWARE_RETRY fetches again. Requests are answered in
the mailbox, with a signature of 384 bytes. PARTITION_CHANGE takes effect only where no launch runs in a partition that it affects.
ERRCNT_CLEAR zeroes one counter. CLUSTER_FAILURE clears one mask bit (a link's at both ends), advances GEN, logs it, and ends a
running launch that held the cluster. A checkpoint holds the partition's resident pages with their marks, and a restore brings back
them and no other page. The throttle changes only the clock; THERMAL_HALT halts the die. A window access happens only with the
rights; the capability window is read, and not written.
The model's choice in points that the spec leaves open: notes/assumptions/6.md, notes/assumptions/9.md,
notes/assumptions/43.md, notes/assumptions/49.md, notes/assumptions/50.md, notes/assumptions/51.md,
notes/assumptions/52.md. -/
def Obligations.BringUpEventsResult : Prop :=
  (∀ s pkg, pkg < 128 → ∃ t, exec (.packageReset pkg) s = .next t ∧ (t.getPkg pkg).inReset = true ∧ (t.getPkg pkg).mgmt.verified = false ∧
    (t.getPkg pkg).mgmt.fetching = true ∧ (t.getPkg pkg).mgmt.log = [] ∧ (t.getPkg pkg).mgmt.minSvn = (s.getPkg pkg).mgmt.fuseSvn ∧
    (t.getPkg pkg).cmask = (s.getPkg pkg).cmask ∧ ((∀ l ∈ allLaunches s, l.phase ≠ .running) → t.mem = s.mem) ∧ ∀ c ∈ t.cores, pkgOf c.id ≠ pkg) ∧
  (∀ s pkg image, let m := (s.getPkg pkg).mgmt
    ((m.verified = true ∨ m.fetching = false) → exec (.firmwareVerify pkg image) s = .next s) ∧
    (m.verified = false → m.fetching = true → pkg < 128 →
      (imageOk pkg m image = false → ∃ t, exec (.firmwareVerify pkg image) s = .next t ∧ (t.getPkg pkg).mgmt = { m with fetching := false } ∧
        (t.getPkg pkg).inReset = (s.getPkg pkg).inReset ∧ t.mem = s.mem) ∧
      (imageOk pkg m image = true → ∃ t es, exec (.firmwareVerify pkg image) s = .next t ∧ (t.getPkg pkg).inReset = false ∧
        (t.getPkg pkg).mgmt.verified = true ∧ LogGrows m (t.getPkg pkg).mgmt es ∧ es.map (·.2) = [1, 2, 3, 4, 5] ∧
        (es[1]?).map (·.1) = some (sha256 image) ∧ (t.getPkg pkg).cmask = (s.getPkg pkg).cmask &&& (s.getPkg pkg).fuses.1 ∧
        (t.getPkg pkg).lmask = (s.getPkg pkg).lmask &&& (s.getPkg pkg).fuses.2.1 ∧
        (t.getPkg pkg).smask = (s.getPkg pkg).smask &&& (s.getPkg pkg).fuses.2.2)) ∧
    (pkg < 128 → ∃ t, exec (.firmwareRetry pkg) s = .next t ∧ t.mem = s.mem ∧
      (t.getPkg pkg).mgmt = if m.verified then m else { m with fetching := true })) ∧
  (∀ s pkg nonce, let m := (s.getPkg pkg).mgmt
    (nonce.length ≠ 32 → exec (.attestationRequest pkg nonce) s = .next s) ∧
    (nonce.length = 32 → pkg < 128 → ∃ t sig, exec (.attestationRequest pkg nonce) s = .next t ∧ t.mem = s.mem ∧ sig.length = 384 ∧
      sig = deviceSign pkg s.choice (sha256 (nonce ++ m.mreg ++ sha256 (capBytes (s.getPkg pkg)))) ∧
      (t.getPkg pkg).mgmt.replies = (logBytes m ++ m.mreg ++ sig) :: m.replies) ∧
    (pkg < 128 → ∃ t, exec (.identityCertRequest pkg) s = .next t ∧ (t.getPkg pkg).mgmt.replies = Config.deviceCert pkg :: m.replies ∧ t.mem = s.mem)) ∧
  (∀ s pkg plan, let free := planOk plan = true ∧ ∀ k ∈ affected (s.getPkg pkg).plan plan, partBusy s k = false
    (¬ free → exec (.partitionChange pkg plan) s = .next s) ∧
    (free → pkg < 128 → ∃ t e, exec (.partitionChange pkg plan) s = .next t ∧ (t.getPkg pkg).plan = plan ∧ t.mem = s.mem ∧ e.2 = 4 ∧
      LogGrows (s.getPkg pkg).mgmt (t.getPkg pkg).mgmt [e])) ∧
  (∀ s pkg (k : Fin 8), ∃ t, exec (.errcntClear pkg k.val) s = .next t ∧ (t.getPkg pkg).errcnt[k] = 0 ∧ t.mem = s.mem ∧
    ∀ j : Fin 8, j ≠ k → (t.getPkg pkg).errcnt[j] = (s.getPkg pkg).errcnt[j]) ∧
  (∀ s pkg n, let p := s.getPkg pkg
    (p.cmask.getLsbD n = false → exec (.clusterFailure pkg (.cluster n)) s = .next s) ∧
    (pkg < 128 → p.cmask.getLsbD n = true → ∃ t e, exec (.clusterFailure pkg (.cluster n)) s = .next t ∧ (t.getPkg pkg).gen = p.gen + 1 ∧
      (∀ i, (t.getPkg pkg).cmask.getLsbD i = (p.cmask.getLsbD i && decide (i ≠ n))) ∧ e.2 = 5 ∧ LogGrows p.mgmt (t.getPkg pkg).mgmt [e] ∧
      (Fronted s → s.launch.phase = .running → s.launch.fatal = none →
        (∃ lc ∈ s.allLcs, lc.id < s.launch.l ∧ lc.away = false ∧ pkgOf lc.core = pkg ∧ lc.core % 576 / 4 = n) →
        t.launch.phase = .stopping ∧ ∃ r, t.launch.fatal = some r ∧ r.cause = 0x12)) ∧
    (pkg < 128 → p.smask.getLsbD n = true → ∃ t e, exec (.clusterFailure pkg (.stack n)) s = .next t ∧ (t.getPkg pkg).gen = p.gen + 1 ∧ t.mem = s.mem ∧
      (∀ i, (t.getPkg pkg).smask.getLsbD i = (p.smask.getLsbD i && decide (i ≠ n))) ∧ e.2 = 5 ∧ LogGrows p.mgmt (t.getPkg pkg).mgmt [e]) ∧
    (pkg < 128 → p.lmask.getLsbD n = true → ∃ t e, exec (.clusterFailure pkg (.link n)) s = .next t ∧ (t.getPkg pkg).gen = p.gen + 1 ∧ t.mem = s.mem ∧
      (∀ i, (t.getPkg pkg).lmask.getLsbD i = (p.lmask.getLsbD i && decide (i ≠ n))) ∧ e.2 = 5 ∧ LogGrows p.mgmt (t.getPkg pkg).mgmt [e] ∧
      ∀ l, (linksOf pkg)[n]? = some l → (getLink t l.id).map (·.disabled) = some true ∧
        (t.getPkg (farEnd l pkg)).lmask.getLsbD (linkNumber l (farEnd l pkg)) = false)) ∧
  (∀ s part, allHusked s part = true → Memory.wf s.mem = true →
    (∃ c, exec (.checkpointStream part) s = .next { s with checkpoint := some c } ∧ c.part = part ∧ c.frames = partFrames s part ∧
      Memory.wf c.cells = true ∧ (∀ x ∈ c.cells, x.1 / 65536 ∈ c.frames) ∧
      ∀ k, k / 65536 ∈ c.frames →
        readCell c.cells k = readCell s.mem k ∧ (k ∈ c.empty ↔ k ∈ s.empty) ∧ (k ∈ c.poison ↔ k ∈ s.poison)) ∧
    ∀ c, s.checkpoint = some c → c.part = part → Memory.wf c.cells = true → (∀ x ∈ c.cells, x.1 / 65536 ∈ c.frames) →
      ∃ t, exec (.checkpointRestore part) s = .next t ∧ t.agents = s.agents ∧ ∀ k,
        (readCell t.mem k = if k / 65536 ∈ c.frames then readCell c.cells k else readCell s.mem k) ∧
        (k ∈ t.empty ↔ k ∈ c.empty ∨ k ∈ s.empty ∧ k / 65536 ∉ c.frames) ∧
        (k ∈ t.poison ↔ k ∈ c.poison ∨ k ∈ s.poison ∧ k / 65536 ∉ c.frames)) ∧
  (∀ s pkg mhz, pkg < 128 → ∃ t, exec (.thermalThrottle pkg mhz) s = .next t ∧ t.cur = s.cur ∧ t.agents = s.agents ∧ t.core = s.core ∧
    t.cores = s.cores ∧ t.mem = s.mem ∧ let m := (s.getPkg pkg).mgmt
      (t.getPkg pkg).mgmt.mhz = if mhz < m.mhz ∧ mhz % 100 = 0 ∧ 1200 ≤ mhz then mhz else m.mhz) ∧
  (∀ s die, die / 4 < 128 → ∃ t, exec (.thermalHalt die) s = .next t ∧ t.mem = s.mem ∧
    (t.getPkg (die / 4)).mgmt.reports = die :: (s.getPkg (die / 4)).mgmt.reports ∧
    ∀ c, (t.getCore c).halted = ((s.getCore c).halted || decide (dieOf c = die))) ∧
  (∀ s pkg need n va, windowCheck s pkg need n va = .ok ↔ ∀ i, i < n → (va + BitVec.ofNat 80 i).toNat / 2 ^ 78 < 2 ∧
    ∃ r, windowRights s pkg (va + BitVec.ofNat 80 i) = some r ∧ r &&& need = need) ∧
  (∀ s pkg (va : Addr) bs len,
    (windowCheck s pkg 2 bs.length va = .ok → exec (.hostWindowAccess pkg (.global va) (some bs) len) s =
      .next (writeHome s pkg 0 0 ((List.range bs.length).zip bs |>.filterMap fun ib =>
        (rawKey s (576 * pkg) (va + BitVec.ofNat 80 ib.1)).map fun k => (k, ib.2)))) ∧
    (windowCheck s pkg 2 bs.length va = .refused → exec (.hostWindowAccess pkg (.global va) (some bs) len) s = .next s) ∧
    (windowCheck s pkg 1 len va = .ok → 0 < len → pkg < 128 → ∃ t n, exec (.hostWindowAccess pkg (.global va) none len) s = .next t ∧ t.mem = s.mem ∧
      rawRead s (576 * pkg) va len = some n ∧ (t.getPkg pkg).mgmt.replies = toBytes len n :: (s.getPkg pkg).mgmt.replies) ∧
    (windowCheck s pkg 1 len va = .refused → exec (.hostWindowAccess pkg (.global va) none len) s = .next s) ∧
    (∀ a, windowCheck s pkg 1 len va = .absent a →
      exec (.hostWindowAccess pkg (.global va) none len) s = .next (translationRequest (576 * pkg) a s)) ∧
    exec (.hostWindowAccess pkg (.capability va) (some bs) len) s = .next s ∧
    (pkg < 128 → ∃ t, exec (.hostWindowAccess pkg (.capability va) none len) s = .next t ∧ t.mem = s.mem ∧
      (t.getPkg pkg).mgmt.replies = capWindow (s.getPkg pkg) va.toNat len :: (s.getPkg pkg).mgmt.replies))

namespace Sys2Proof.Claims

/-- A seed that enters a slot: its pc, p15, g1 to g3 and predicates, and nothing else of its registers (R18). -/
def Seated (a b : Agent) (core slot n : Nat) : Prop :=
  b.slot = some slot ∧ b.state = .held ∧ b.core = core ∧ b.lcore = n ∧ b.regs.pc = a.regs.pc ∧ b.regs.p[15] = a.regs.p[15] ∧
  b.regs.q = a.regs.q ∧ ∀ i : Fin 64, b.regs.g[i] = if 1 ≤ i.val ∧ i.val ≤ 3 then a.regs.g[i] else 0

/-- The core from which a trap's record goes to its buffer: that of the first thread blocked on the cycle (R55). -/
def trapCore (s : State) (sigs : List (Nat × Nat)) : Nat :=
  (((threads s).filter fun a => (awaits a).any fun x => sigs.contains x && blockedOn s x a).head?.map (·.core)).getD s.core.id

end Sys2Proof.Claims

/-- An emit makes its signal PRESENT and ORs its value in, or ends the launch with CONTRADICTION at its pc. A renounce lowers counts, to
ABSENT at zero. A RESOLVE forces a signal of the cycle that is UNRESOLVED, and answers. In a team with a causality cycle no thread can
run, one is blocked in a test on a signal of the team, and such signals are on the cycle and have emitters, all blocked in a test; the
trap writes its record and starts the handler with the team, instant and number, waits for the record's page, or ends the launch; a
team that a handler already serves takes no second trap. A phase ends when every member has closed, and the next instant starts with quiet signals. A seed enters a free slot with
the registers a seed has, one that R14 bars fails. A trap that is due enters UTRAPV on X. FOLLOW attaches where a thread of the leader
stands; a full chunk commits.
The model's choice in points that the spec leaves open: notes/assumptions/30.md, notes/assumptions/33.md, notes/assumptions/61.md. -/
def Obligations.SignalAndThreadEvents : Prop :=
  (∀ s u b, s.getBoard u = some b →
    (∀ i v tid pc rel (h : i < 64), nextMsg s = some (.emit u i v tid pc rel) → (b.ended = false ∨ rel = none) →
      (b.sigs[i].status = .unresolved ∨ b.sigs[i].status = .present →
        ∃ t b', exec .signalEmitArrival s = .next t ∧ t.getBoard u = some b' ∧
          b'.sigs = b.sigs.set i { b.sigs[i] with emitted := true, status := .present, value := b.sigs[i].value ||| v } ∧
          t.launch.boardq = dropMsg s.launch.boardq (.emit u i v tid pc rel) ∧ t.launch.fatal = s.launch.fatal) ∧
      (b.sigs[i].status = .absent ∨ b.sigs[i].status = .forced → ∀ a, s.getAgent tid = some a → OfFront s a → a.seq = .x →
        rivalOf s a = none → s.launch.fatal = none → s.launch.phase = .running → rel = none →
        ∃ t r, exec .signalEmitArrival s = .next t ∧ t.launch.phase = .stopping ∧ t.launch.fatal = some r ∧ r.cause = 0x0B ∧
          r.pc = pc ∧ ∃ b', t.getBoard u = some b' ∧ b'.sigs = b.sigs)) ∧
    (∀ mask tid, nextMsg s = some (.clear u mask tid) → ∃ t b', exec .maskClearArrival s = .next t ∧ t.getBoard u = some b' ∧ t.mem = s.mem ∧
      ∀ i : Fin 64, b'.sigs[i] = if mask.getLsbD i.val then { b.sigs[i] with
        count := b.sigs[i].count - 1
        status := if b.sigs[i].count ≤ 1 ∧ b.sigs[i].status = .unresolved then .absent else b.sigs[i].status } else b.sigs[i]) ∧
    (∀ lvl i tid a (h : i < 64), nextMsg s = some (.resolve u lvl i tid) → s.getAgent tid = some a →
      let yes := (((a.serves.bind s.getBoard).any fun c => c.cycle.contains (lvl, i)) && b.sigs[i].status == .unresolved)
      ∃ t a' b', exec .resolveArrival s = .next t ∧ t.getAgent tid = some a' ∧ a'.answer = some yes ∧ t.getBoard u = some b' ∧
        b'.sigs = (if yes then b.sigs.set i { b.sigs[i] with status := .forced } else b.sigs) ∧ t.mem = s.mem) ∧
    (∀ r tid, nextMsg s = some (.register u r tid) → ∃ t b', exec .handlerRegistrationArrival s = .next t ∧ t.getBoard u = some b' ∧
      b'.handler = r ∧ b'.sigs = b.sigs ∧ t.mem = s.mem)) ∧
  (∀ s b sigs, s.getBoard b.uid = some b → findCycle s b = some sigs →
    (∀ a ∈ threads s, threadOf s b a = true → runnable a = false) ∧
    (∃ a ∈ threads s, threadOf s b a = true ∧ ∃ i, awaits a = some (b.uid, i)) ∧
    ∀ a ∈ threads s, threadOf s b a = true → ∀ i, awaits a = some (b.uid, i) → (b.uid, i) ∈ sigs ∧ emitters s b i ≠ [] ∧
      ∀ e ∈ emitters s b i, (awaits e).isSome = true) ∧
  (∀ s u b, s.getBoard u = some b →
    (cycleOf s b = none → exec (.causalityTrap u) s = .next s) ∧ (b.serving = true → exec (.causalityTrap u) s = .next s) ∧
    (∀ sigs, b.ended = false → b.comm = false → b.serving = false → s.launch.boardq = [] → cycleOf s b = some sigs →
      (∀ h va, b.handler = some h → unmappedAt s (trapCore s sigs) h.rbuf (cycleRecord s b sigs h.rsize).length = some va →
        ∃ t, exec (.causalityTrap u) s = .next t ∧ t.mem = s.mem ∧ t.getBoard u = some b ∧
          (t.getCore (trapCore s sigs)).asked.isSome = true) ∧
      (∀ h, b.handler = some h → unmappedAt s (trapCore s sigs) h.rbuf (cycleRecord s b sigs h.rsize).length = none → ∃ t a b', exec (.causalityTrap u) s = .next t ∧ t.getBoard u = some b' ∧ b'.serving = true ∧
        b'.sigs = b.sigs ∧ a ∈ t.agents ∧ a.tid = s.nextTid ∧ a.hndl = true ∧ a.serves = some b.uid ∧ a.lcore = h.pcore ∧ a.state = .ready ∧
        a.regs.pc = h.entry ∧ a.regs.p[15] = h.hfp ∧ a.regs.g[1] = b.val.setWidth 64 ∧ a.regs.g[2] = b.inst ∧
        a.regs.g[3] = BitVec.ofNat 64 b.seqn ∧ t.mem = (rawWrite s (trapCore s sigs) h.rbuf (cycleRecord s b sigs h.rsize)).mem) ∧
      (b.handler = none → b.world = none → s.launch.fatal = none → s.launch.phase = .running →
        ((threads s).any fun a => (awaits a).any fun x => sigs.contains x && blockedOn s x a) = true →
        ∃ t r, exec (.causalityTrap u) s = .next t ∧ t.launch.phase = .stopping ∧ t.launch.fatal = some r ∧ r.cause = 0x0A)) ∧
    (allClosed s b = false → exec (.computePhaseEnd u) s = .next s) ∧
    (allClosed s b = true → ∃ t b', exec (.computePhaseEnd u) s = .next t ∧ t.getBoard u = some b' ∧ b'.comm = true ∧
      (b'.paused = true ↔ b.parent.isSome = true ∧ ∀ a ∈ members s u, a.state = .paused → a.up = true) ∧ b'.sigs = b.sigs ∧ t.mem = s.mem) ∧
    (boundaryReady s b = false → exec (.instantStart u) s = .next s) ∧
    (boundaryReady s b = true → (s.launch.boards.map (·.uid)).Nodup → ∃ t b', exec (.instantStart u) s = .next t ∧
      t.getBoard u = some b' ∧ b'.inst = b.inst + 1 ∧ b'.comm = false ∧ b'.paused = false ∧ b'.seqn = 0 ∧ b'.cycle = [] ∧
      (∀ i : Fin 64, b'.sigs[i].emitted = false ∧ b'.sigs[i].value = 0 ∧
        b'.sigs[i].status = if b'.sigs[i].count = 0 then .absent else .unresolved) ∧
      ((s.allAgents.map (·.tid)).Nodup → (∀ x ∈ threads s, x.regs.depth = 0) → ∀ a ∈ members s u, a.state = .paused → a.leaving = false →
        a.rival = false → ∃ a', t.getAgent a.tid = some a' ∧ a'.cause = 0 ∧ a'.state = if a.slot.isSome then .held else .ready))) ∧
  (∀ s core slot, (s.allAgents.map (·.tid)).Nodup →
    (slotFree s core slot = false → exec (.takeSeed core slot) s = .next s ∧ exec (.handlerSeedSteal core slot) s = .next s) ∧
    (∀ a n, a.seq = .x → slotFree s core slot = true → let here := s.allAgents.filter (waitsHere s core)
      let ofTeam := leastLc (here.filter fun a => a.team.isSome && takesNow s a)
      (ofTeam = some a ∧ n = a.lcore ∨
        ofTeam = none ∧ leastLc (here.filter fun a => a.hndl && (lcFor s a core).isSome) = some a ∧ lcFor s a core = some n) →
      ∃ t b, exec (.takeSeed core slot) s = .next t ∧ t.getAgent a.tid = some b ∧
        (Seated a b core slot n ∨ b.state = .failed ∨ b = a) ∧
        (a.badSeed = none → a.regs.p[15] = 0 → Seated a b core slot n) ∧ (a.badSeed.isSome = true → b.state = .failed)) ∧
    (∀ a n, a.seq = .x → slotFree s core slot = true →
      s.allAgents.find? (fun a => handlerStands s a && (lcFor s a core).isSome) = some a → lcFor s a core = some n →
      ∃ t b, exec (.handlerSeedSteal core slot) s = .next t ∧ t.getAgent a.tid = some b ∧
        (Seated a b core slot n ∨ b.state = .failed ∨ b = a) ∧ (a.badSeed = none → a.regs.p[15] = 0 → Seated a b core slot n))) ∧
  (∀ s tid a, s.getAgent tid = some a →
    let leader := s.allAgents.find? fun b => b.launch == a.launch && b.seq == .x && b.state == .held && b.slot.isSome &&
      b.lcore == a.lcore / 4 * 4 && b.regs.pc == a.regs.pc && b.tid != tid
    (∀ l, a.follow = .waiting → leader = some l → ∃ t b, exec (.followAttach tid) s = .next t ∧ t.getAgent tid = some b ∧
      b.follow = .attached l.tid ∧ b.regs = a.regs ∧ t.mem = s.mem) ∧
    ((a.follow ≠ .waiting ∨ leader = none) → exec (.followAttach tid) s = .next s) ∧
    (a.traps = [] → exec (.userTrapEntry tid) s = .next s) ∧
    (trapDue a = false → exec (.userTrapEntry tid) s = .next s) ∧
    (∀ r rest, a.traps = r :: rest → a.staged = none → a.seq = .x → a.state = .held → a.slot.isSome = true → a.regs.handlerActive = false →
      a.regs.utrapv ≠ 0 → (s.getCore a.core).sup = false →
      (s.getCore a.core).halted = false → (s.getCore a.core).haltedBy = 0 → a.husked = none → a.ended = [] → a.chunk.count = 0 → a.chunk.wbuf = [] → a.chunk.clre = [] →
      ∃ t, exec (.userTrapEntry tid) s = .next t ∧ t.cur.tid = tid ∧ t.cur.traps = rest ∧ t.cur.regs.pc = a.regs.utrapv ∧
        t.cur.regs.handlerActive = true ∧ t.cur.regs.utcause = BitVec.ofNat 64 (seqCode r.seq * 1024 + r.cause.toNat) ∧
        t.cur.regs.utpc = (if r.seq = .x then a.regs.pc else r.pc) ∧
        t.cur.regs.xret = (if r.seq = .x then a.regs.xret else a.regs.pc) ∧ t.cur.regs.g = a.regs.g ∧ t.mem = s.mem)) ∧
  ∀ s, (s.cur.chunk.count < Config.chunkInstrs → exec .chunkLimit s = .next s) ∧
    (Config.chunkInstrs ≤ s.cur.chunk.count →
      ∀ t, commitChunk s = .done t ∨ commitChunk s = .squashed t → exec .chunkLimit s = .next t)

namespace Sys2Proof.Claims

/-- Memory in canonical form everywhere: the machine's memory, the local spaces and code of every launch, the checkpoint. -/
def MemoryCanonical (s : State) : Prop :=
  Memory.wf s.mem = true ∧ (∀ l ∈ allLaunches s, Memory.wf l.lmem = true ∧ Memory.wf l.image = true) ∧
  ∀ c, s.checkpoint = some c → Memory.wf c.cells = true

end Sys2Proof.Claims

/-- SHARE 1, COUNT 1,024 and LOGB 21 are the spec's; the other registers are 0, a choice of the model (notes/assumptions/2.md), as is
0 for a byte of memory that nothing has written (notes/assumptions/3.md). Every package is held in reset with an empty log, no agent
may issue, and memory is in canonical form. -/
def Obligations.ResetState : Prop :=
  MemoryCanonical State.reset ∧ (∀ k, baseByte State.reset k = 0) ∧
  (∀ core, let p := (State.reset.getCore core).priv
    p.vshare = 1 ∧ p.quantum = 1024 ∧ p.ptbase = 21 ∧ p.dom = 0 ∧ p.qtab = 0 ∧ p.handler = 0 ∧ p.trapq = 0 ∧ p.haltgrp = 0 ∧
    p.olog = 0 ∧ p.ologn = 0 ∧ p.shadow = 0 ∧ p.spillr = 0 ∧ p.rquota = 0 ∧ p.paddock = 0 ∧ p.huskp = 0 ∧
    (∀ i : Fin 8, p.lease[i] = 0 ∧ p.leasen[i] = 0)) ∧
  (∀ pkg, let p := State.reset.getPkg pkg
    p.inReset = true ∧ p.inc = 0 ∧ p.mgmt.verified = false ∧ p.mgmt.log = [] ∧ p.mgmt.mreg = List.replicate 32 0 ∧
    ∀ i : Fin 8, p.errcnt[i] = 0) ∧
  State.reset.cur.regs = Regs.zero ∧ State.reset.launch.phase = .none ∧ ∀ a, mayIssue State.reset a = false

/-- With nothing on the agenda and an agent that may issue and, on X, has the turn among its core's slots, the words of the chain at its pc are read from the code of its launch, and
what they decode to runs, with the base word's address and the next pc set; then the next agent has the turn. Words that are no
instruction raise ILLEGAL_INSN. An event on the agenda runs first, and any other agent passes its turn. The words are
worked out from the encoding tables: ADD g5,g6; SVC 0x21; CRRD g4,PARTN; VADD.m2 v1,v2,v3; FORKW g1,3; HALTG g5; DONE.
The model's choice in points that the spec leaves open: notes/assumptions/1.md, notes/assumptions/7.md. -/
def Obligations.StepRunsDecoded : Prop :=
  (∀ s e rest, s.agenda = e :: rest → step s = exec e { s with agenda := rest }) ∧
  (∀ s, s.agenda = [] → (mayIssue s s.cur = false ∨ isTurn s s.cur = false) → step s = .next (afterIssue s)) ∧
  (∀ s ws s1, s.agenda = [] → mayIssue s s.cur = true → isTurn s s.cur = true → fetchChain 5 s.cur.regs.pc (takeTurn s) = .ok (ws, s1) →
    (∀ i ch rest, decode ws = .ok (i, ch, rest) →
      let base := s.cur.regs.pc + BitVec.ofNat 80 (2 * (ch.words - 1))
      let r := exec i (s1.modCur fun a => { a with base := base, npc := base + 2 })
      (∀ t, r = .next t → step s = .next (afterIssue (endServe s.cur.tid (endTurn s.cur t)))) ∧
      (∀ f, r = .fault f → step s = .fault f) ∧ ∀ f, r = .refused f → step s = .refused f) ∧
    (∀ e, decode ws = .error e → e ≠ .fields true → ∀ t, exec (.illegalInsn 1 0) (takeTurn s) = .next t →
      step s = .next (afterIssue (endServe s.cur.tid (endTurn s.cur t))))) ∧
  (∀ s va w t, fetchWord va s = .ok (w, t) → va.toNat % 2 = 0 ∧ va.toNat < 2 ^ 79 ∧ ∃ key,
    w = readCell (if s.super then s.mem else s.launch.image) (key + 1) ++ readCell (if s.super then s.mem else s.launch.image) key) ∧
  (decode [0x1AB0#16]).toOption.map (·.1) = some (.add (.two 5 (.reg 6))) ∧
  (decode [0xFC06#16, 0x0908#16]).toOption.map (·.1) = some (.svc 0x21) ∧
  (decode [0xFC06#16, 0xF810#16, 0x0A39#16]).toOption.map (·.1) = some (.crrd (.reg 4) 0x107) ∧
  (decode [0xFC01#16, 0xFA03#16, 0x0892#16]).toOption.map (·.1) = some (.vadd 2 (.three 1 2 3)) ∧
  (decode [0xFC05#16, 0x0890#16]).toOption.map (·.1) = some (.forkw 1 2) ∧
  (decode [0xFC06#16, 0x0A87#16]).toOption.map (·.1) = some (.haltg (.reg 5)) ∧
  (decode [0xFC05#16, 0x1804#16]).toOption.map (·.1) = some .done

/-- Every well-formed instruction has words; whatever words follow them, the decoder reads that instruction, takes exactly its words
and leaves the rest. Events have no words and are not well-formed. -/
def Obligations.DecodeEncode : Prop :=
  ∀ i : Instr, wellFormed i = true → ∃ ws, encode i = some ws ∧ 1 ≤ ws.length ∧ ws.length ≤ 5 ∧
    ∀ rest, ∃ ch, decode (ws ++ rest) = .ok (i, ch, rest) ∧ ch.words = ws.length

/-- From any state whose memories are in canonical form (addresses rising, no listed byte 0), whatever step the machine takes, by any
instruction or event, leaves them so: equal memories stay equal data. -/
def Obligations.StepKeepsMemoryCanonical : Prop :=
  ∀ s t, MemoryCanonical s → step s = .next t → MemoryCanonical t

end Statements
end

