-- ==== Sys2Proof/Laws/State.lean ====
section
/-! SUPPORT. What each update of the state leaves in each field. -/

namespace Sys2Proof.Machine

/-! modCur. -/

@[simp] theorem State.modCur_cur (s : State) (f : Agent → Agent) : (s.modCur f).cur = f s.cur := rfl
@[simp] theorem State.modCur_agenda (s : State) (f : Agent → Agent) : (s.modCur f).agenda = s.agenda := rfl
@[simp] theorem State.modCur_plan (s : State) (f : Agent → Agent) : (s.modCur f).plan = s.plan := rfl
@[simp] theorem State.modCur_inputs (s : State) (f : Agent → Agent) : (s.modCur f).inputs = s.inputs := rfl
@[simp] theorem State.modCur_choice (s : State) (f : Agent → Agent) : (s.modCur f).choice = s.choice := rfl
@[simp] theorem State.modCur_cycle (s : State) (f : Agent → Agent) : (s.modCur f).cycle = s.cycle := rfl
@[simp] theorem State.modCur_agents (s : State) (f : Agent → Agent) : (s.modCur f).agents = s.agents := rfl
@[simp] theorem State.modCur_core (s : State) (f : Agent → Agent) : (s.modCur f).core = s.core := rfl
@[simp] theorem State.modCur_cores (s : State) (f : Agent → Agent) : (s.modCur f).cores = s.cores := rfl
@[simp] theorem State.modCur_lc (s : State) (f : Agent → Agent) : (s.modCur f).lc = s.lc := rfl
@[simp] theorem State.modCur_launch (s : State) (f : Agent → Agent) : (s.modCur f).launch = s.launch := rfl
@[simp] theorem State.modCur_launches (s : State) (f : Agent → Agent) : (s.modCur f).launches = s.launches := rfl
@[simp] theorem State.modCur_nextTid (s : State) (f : Agent → Agent) : (s.modCur f).nextTid = s.nextTid := rfl
@[simp] theorem State.modCur_mem (s : State) (f : Agent → Agent) : (s.modCur f).mem = s.mem := rfl
@[simp] theorem State.modCur_empty (s : State) (f : Agent → Agent) : (s.modCur f).empty = s.empty := rfl
@[simp] theorem State.modCur_poison (s : State) (f : Agent → Agent) : (s.modCur f).poison = s.poison := rfl
@[simp] theorem State.modCur_tuc (s : State) (f : Agent → Agent) : (s.modCur f).tuc = s.tuc := rfl
@[simp] theorem State.modCur_pins (s : State) (f : Agent → Agent) : (s.modCur f).pins = s.pins := rfl
@[simp] theorem State.modCur_dieqs (s : State) (f : Agent → Agent) : (s.modCur f).dieqs = s.dieqs := rfl
@[simp] theorem State.modCur_laneTurn (s : State) (f : Agent → Agent) : (s.modCur f).laneTurn = s.laneTurn := rfl
@[simp] theorem State.modCur_profq (s : State) (f : Agent → Agent) : (s.modCur f).profq = s.profq := rfl
@[simp] theorem State.modCur_packages (s : State) (f : Agent → Agent) : (s.modCur f).packages = s.packages := rfl
@[simp] theorem State.modCur_net (s : State) (f : Agent → Agent) : (s.modCur f).net = s.net := rfl
@[simp] theorem State.modCur_packets (s : State) (f : Agent → Agent) : (s.modCur f).packets = s.packets := rfl
@[simp] theorem State.modCur_flits (s : State) (f : Agent → Agent) : (s.modCur f).flits = s.flits := rfl
@[simp] theorem State.modCur_links (s : State) (f : Agent → Agent) : (s.modCur f).links = s.links := rfl
@[simp] theorem State.modCur_windows (s : State) (f : Agent → Agent) : (s.modCur f).windows = s.windows := rfl
@[simp] theorem State.modCur_absent (s : State) (f : Agent → Agent) : (s.modCur f).absent = s.absent := rfl
@[simp] theorem State.modCur_paddocked (s : State) (f : Agent → Agent) : (s.modCur f).paddocked = s.paddocked := rfl
@[simp] theorem State.modCur_trapWait (s : State) (f : Agent → Agent) : (s.modCur f).trapWait = s.trapWait := rfl
@[simp] theorem State.modCur_pkts (s : State) (f : Agent → Agent) : (s.modCur f).pkts = s.pkts := rfl
@[simp] theorem State.modCur_husks (s : State) (f : Agent → Agent) : (s.modCur f).husks = s.husks := rfl
@[simp] theorem State.modCur_arbiters (s : State) (f : Agent → Agent) : (s.modCur f).arbiters = s.arbiters := rfl
@[simp] theorem State.modCur_nextPkt (s : State) (f : Agent → Agent) : (s.modCur f).nextPkt = s.nextPkt := rfl
@[simp] theorem State.modCur_vectors (s : State) (f : Agent → Agent) : (s.modCur f).vectors = s.vectors := rfl
@[simp] theorem State.modCur_checkpoint (s : State) (f : Agent → Agent) : (s.modCur f).checkpoint = s.checkpoint := rfl

/-! mapAgents. -/

@[simp] theorem State.mapAgents_cur (s : State) (f : Agent → Agent) : (s.mapAgents f).cur = f s.cur := rfl
@[simp] theorem State.mapAgents_agents (s : State) (f : Agent → Agent) : (s.mapAgents f).agents = s.agents.map f := rfl
@[simp] theorem State.mapAgents_agenda (s : State) (f : Agent → Agent) : (s.mapAgents f).agenda = s.agenda := rfl
@[simp] theorem State.mapAgents_plan (s : State) (f : Agent → Agent) : (s.mapAgents f).plan = s.plan := rfl
@[simp] theorem State.mapAgents_inputs (s : State) (f : Agent → Agent) : (s.mapAgents f).inputs = s.inputs := rfl
@[simp] theorem State.mapAgents_choice (s : State) (f : Agent → Agent) : (s.mapAgents f).choice = s.choice := rfl
@[simp] theorem State.mapAgents_cycle (s : State) (f : Agent → Agent) : (s.mapAgents f).cycle = s.cycle := rfl
@[simp] theorem State.mapAgents_core (s : State) (f : Agent → Agent) : (s.mapAgents f).core = s.core := rfl
@[simp] theorem State.mapAgents_cores (s : State) (f : Agent → Agent) : (s.mapAgents f).cores = s.cores := rfl
@[simp] theorem State.mapAgents_lc (s : State) (f : Agent → Agent) : (s.mapAgents f).lc = s.lc := rfl
@[simp] theorem State.mapAgents_launch (s : State) (f : Agent → Agent) : (s.mapAgents f).launch = s.launch := rfl
@[simp] theorem State.mapAgents_launches (s : State) (f : Agent → Agent) : (s.mapAgents f).launches = s.launches := rfl
@[simp] theorem State.mapAgents_nextTid (s : State) (f : Agent → Agent) : (s.mapAgents f).nextTid = s.nextTid := rfl
@[simp] theorem State.mapAgents_mem (s : State) (f : Agent → Agent) : (s.mapAgents f).mem = s.mem := rfl
@[simp] theorem State.mapAgents_empty (s : State) (f : Agent → Agent) : (s.mapAgents f).empty = s.empty := rfl
@[simp] theorem State.mapAgents_poison (s : State) (f : Agent → Agent) : (s.mapAgents f).poison = s.poison := rfl
@[simp] theorem State.mapAgents_tuc (s : State) (f : Agent → Agent) : (s.mapAgents f).tuc = s.tuc := rfl
@[simp] theorem State.mapAgents_pins (s : State) (f : Agent → Agent) : (s.mapAgents f).pins = s.pins := rfl
@[simp] theorem State.mapAgents_dieqs (s : State) (f : Agent → Agent) : (s.mapAgents f).dieqs = s.dieqs := rfl
@[simp] theorem State.mapAgents_laneTurn (s : State) (f : Agent → Agent) : (s.mapAgents f).laneTurn = s.laneTurn := rfl
@[simp] theorem State.mapAgents_profq (s : State) (f : Agent → Agent) : (s.mapAgents f).profq = s.profq := rfl
@[simp] theorem State.mapAgents_packages (s : State) (f : Agent → Agent) : (s.mapAgents f).packages = s.packages := rfl
@[simp] theorem State.mapAgents_net (s : State) (f : Agent → Agent) : (s.mapAgents f).net = s.net := rfl
@[simp] theorem State.mapAgents_packets (s : State) (f : Agent → Agent) : (s.mapAgents f).packets = s.packets := rfl
@[simp] theorem State.mapAgents_flits (s : State) (f : Agent → Agent) : (s.mapAgents f).flits = s.flits := rfl
@[simp] theorem State.mapAgents_links (s : State) (f : Agent → Agent) : (s.mapAgents f).links = s.links := rfl
@[simp] theorem State.mapAgents_windows (s : State) (f : Agent → Agent) : (s.mapAgents f).windows = s.windows := rfl
@[simp] theorem State.mapAgents_absent (s : State) (f : Agent → Agent) : (s.mapAgents f).absent = s.absent := rfl
@[simp] theorem State.mapAgents_paddocked (s : State) (f : Agent → Agent) : (s.mapAgents f).paddocked = s.paddocked := rfl
@[simp] theorem State.mapAgents_trapWait (s : State) (f : Agent → Agent) : (s.mapAgents f).trapWait = s.trapWait := rfl
@[simp] theorem State.mapAgents_pkts (s : State) (f : Agent → Agent) : (s.mapAgents f).pkts = s.pkts := rfl
@[simp] theorem State.mapAgents_husks (s : State) (f : Agent → Agent) : (s.mapAgents f).husks = s.husks := rfl
@[simp] theorem State.mapAgents_arbiters (s : State) (f : Agent → Agent) : (s.mapAgents f).arbiters = s.arbiters := rfl
@[simp] theorem State.mapAgents_nextPkt (s : State) (f : Agent → Agent) : (s.mapAgents f).nextPkt = s.nextPkt := rfl
@[simp] theorem State.mapAgents_vectors (s : State) (f : Agent → Agent) : (s.mapAgents f).vectors = s.vectors := rfl
@[simp] theorem State.mapAgents_checkpoint (s : State) (f : Agent → Agent) : (s.mapAgents f).checkpoint = s.checkpoint := rfl

/-! modAgent. -/

@[simp] theorem State.modAgent_cur (s : State) (i : Nat) (f : Agent → Agent) : (s.modAgent i f).cur = (if s.cur.tid = i then f s.cur else s.cur) := rfl
@[simp] theorem State.modAgent_agents (s : State) (i : Nat) (f : Agent → Agent) : (s.modAgent i f).agents = s.agents.map fun a => if a.tid = i then f a else a := rfl
@[simp] theorem State.modAgent_agenda (s : State) (i : Nat) (f : Agent → Agent) : (s.modAgent i f).agenda = s.agenda := rfl
@[simp] theorem State.modAgent_plan (s : State) (i : Nat) (f : Agent → Agent) : (s.modAgent i f).plan = s.plan := rfl
@[simp] theorem State.modAgent_inputs (s : State) (i : Nat) (f : Agent → Agent) : (s.modAgent i f).inputs = s.inputs := rfl
@[simp] theorem State.modAgent_choice (s : State) (i : Nat) (f : Agent → Agent) : (s.modAgent i f).choice = s.choice := rfl
@[simp] theorem State.modAgent_cycle (s : State) (i : Nat) (f : Agent → Agent) : (s.modAgent i f).cycle = s.cycle := rfl
@[simp] theorem State.modAgent_core (s : State) (i : Nat) (f : Agent → Agent) : (s.modAgent i f).core = s.core := rfl
@[simp] theorem State.modAgent_cores (s : State) (i : Nat) (f : Agent → Agent) : (s.modAgent i f).cores = s.cores := rfl
@[simp] theorem State.modAgent_lc (s : State) (i : Nat) (f : Agent → Agent) : (s.modAgent i f).lc = s.lc := rfl
@[simp] theorem State.modAgent_launch (s : State) (i : Nat) (f : Agent → Agent) : (s.modAgent i f).launch = s.launch := rfl
@[simp] theorem State.modAgent_launches (s : State) (i : Nat) (f : Agent → Agent) : (s.modAgent i f).launches = s.launches := rfl
@[simp] theorem State.modAgent_nextTid (s : State) (i : Nat) (f : Agent → Agent) : (s.modAgent i f).nextTid = s.nextTid := rfl
@[simp] theorem State.modAgent_mem (s : State) (i : Nat) (f : Agent → Agent) : (s.modAgent i f).mem = s.mem := rfl
@[simp] theorem State.modAgent_empty (s : State) (i : Nat) (f : Agent → Agent) : (s.modAgent i f).empty = s.empty := rfl
@[simp] theorem State.modAgent_poison (s : State) (i : Nat) (f : Agent → Agent) : (s.modAgent i f).poison = s.poison := rfl
@[simp] theorem State.modAgent_tuc (s : State) (i : Nat) (f : Agent → Agent) : (s.modAgent i f).tuc = s.tuc := rfl
@[simp] theorem State.modAgent_pins (s : State) (i : Nat) (f : Agent → Agent) : (s.modAgent i f).pins = s.pins := rfl
@[simp] theorem State.modAgent_dieqs (s : State) (i : Nat) (f : Agent → Agent) : (s.modAgent i f).dieqs = s.dieqs := rfl
@[simp] theorem State.modAgent_laneTurn (s : State) (i : Nat) (f : Agent → Agent) : (s.modAgent i f).laneTurn = s.laneTurn := rfl
@[simp] theorem State.modAgent_profq (s : State) (i : Nat) (f : Agent → Agent) : (s.modAgent i f).profq = s.profq := rfl
@[simp] theorem State.modAgent_packages (s : State) (i : Nat) (f : Agent → Agent) : (s.modAgent i f).packages = s.packages := rfl
@[simp] theorem State.modAgent_net (s : State) (i : Nat) (f : Agent → Agent) : (s.modAgent i f).net = s.net := rfl
@[simp] theorem State.modAgent_packets (s : State) (i : Nat) (f : Agent → Agent) : (s.modAgent i f).packets = s.packets := rfl
@[simp] theorem State.modAgent_flits (s : State) (i : Nat) (f : Agent → Agent) : (s.modAgent i f).flits = s.flits := rfl
@[simp] theorem State.modAgent_links (s : State) (i : Nat) (f : Agent → Agent) : (s.modAgent i f).links = s.links := rfl
@[simp] theorem State.modAgent_windows (s : State) (i : Nat) (f : Agent → Agent) : (s.modAgent i f).windows = s.windows := rfl
@[simp] theorem State.modAgent_absent (s : State) (i : Nat) (f : Agent → Agent) : (s.modAgent i f).absent = s.absent := rfl
@[simp] theorem State.modAgent_paddocked (s : State) (i : Nat) (f : Agent → Agent) : (s.modAgent i f).paddocked = s.paddocked := rfl
@[simp] theorem State.modAgent_trapWait (s : State) (i : Nat) (f : Agent → Agent) : (s.modAgent i f).trapWait = s.trapWait := rfl
@[simp] theorem State.modAgent_pkts (s : State) (i : Nat) (f : Agent → Agent) : (s.modAgent i f).pkts = s.pkts := rfl
@[simp] theorem State.modAgent_husks (s : State) (i : Nat) (f : Agent → Agent) : (s.modAgent i f).husks = s.husks := rfl
@[simp] theorem State.modAgent_arbiters (s : State) (i : Nat) (f : Agent → Agent) : (s.modAgent i f).arbiters = s.arbiters := rfl
@[simp] theorem State.modAgent_nextPkt (s : State) (i : Nat) (f : Agent → Agent) : (s.modAgent i f).nextPkt = s.nextPkt := rfl
@[simp] theorem State.modAgent_vectors (s : State) (i : Nat) (f : Agent → Agent) : (s.modAgent i f).vectors = s.vectors := rfl
@[simp] theorem State.modAgent_checkpoint (s : State) (i : Nat) (f : Agent → Agent) : (s.modAgent i f).checkpoint = s.checkpoint := rfl

/-! mapCores. -/

@[simp] theorem State.mapCores_core (s : State) (f : Core → Core) : (s.mapCores f).core = f s.core := rfl
@[simp] theorem State.mapCores_cores (s : State) (f : Core → Core) : (s.mapCores f).cores = s.cores.map f := rfl
@[simp] theorem State.mapCores_agenda (s : State) (f : Core → Core) : (s.mapCores f).agenda = s.agenda := rfl
@[simp] theorem State.mapCores_plan (s : State) (f : Core → Core) : (s.mapCores f).plan = s.plan := rfl
@[simp] theorem State.mapCores_inputs (s : State) (f : Core → Core) : (s.mapCores f).inputs = s.inputs := rfl
@[simp] theorem State.mapCores_choice (s : State) (f : Core → Core) : (s.mapCores f).choice = s.choice := rfl
@[simp] theorem State.mapCores_cycle (s : State) (f : Core → Core) : (s.mapCores f).cycle = s.cycle := rfl
@[simp] theorem State.mapCores_cur (s : State) (f : Core → Core) : (s.mapCores f).cur = s.cur := rfl
@[simp] theorem State.mapCores_agents (s : State) (f : Core → Core) : (s.mapCores f).agents = s.agents := rfl
@[simp] theorem State.mapCores_lc (s : State) (f : Core → Core) : (s.mapCores f).lc = s.lc := rfl
@[simp] theorem State.mapCores_launch (s : State) (f : Core → Core) : (s.mapCores f).launch = s.launch := rfl
@[simp] theorem State.mapCores_launches (s : State) (f : Core → Core) : (s.mapCores f).launches = s.launches := rfl
@[simp] theorem State.mapCores_nextTid (s : State) (f : Core → Core) : (s.mapCores f).nextTid = s.nextTid := rfl
@[simp] theorem State.mapCores_mem (s : State) (f : Core → Core) : (s.mapCores f).mem = s.mem := rfl
@[simp] theorem State.mapCores_empty (s : State) (f : Core → Core) : (s.mapCores f).empty = s.empty := rfl
@[simp] theorem State.mapCores_poison (s : State) (f : Core → Core) : (s.mapCores f).poison = s.poison := rfl
@[simp] theorem State.mapCores_tuc (s : State) (f : Core → Core) : (s.mapCores f).tuc = s.tuc := rfl
@[simp] theorem State.mapCores_pins (s : State) (f : Core → Core) : (s.mapCores f).pins = s.pins := rfl
@[simp] theorem State.mapCores_dieqs (s : State) (f : Core → Core) : (s.mapCores f).dieqs = s.dieqs := rfl
@[simp] theorem State.mapCores_laneTurn (s : State) (f : Core → Core) : (s.mapCores f).laneTurn = s.laneTurn := rfl
@[simp] theorem State.mapCores_profq (s : State) (f : Core → Core) : (s.mapCores f).profq = s.profq := rfl
@[simp] theorem State.mapCores_packages (s : State) (f : Core → Core) : (s.mapCores f).packages = s.packages := rfl
@[simp] theorem State.mapCores_net (s : State) (f : Core → Core) : (s.mapCores f).net = s.net := rfl
@[simp] theorem State.mapCores_packets (s : State) (f : Core → Core) : (s.mapCores f).packets = s.packets := rfl
@[simp] theorem State.mapCores_flits (s : State) (f : Core → Core) : (s.mapCores f).flits = s.flits := rfl
@[simp] theorem State.mapCores_links (s : State) (f : Core → Core) : (s.mapCores f).links = s.links := rfl
@[simp] theorem State.mapCores_windows (s : State) (f : Core → Core) : (s.mapCores f).windows = s.windows := rfl
@[simp] theorem State.mapCores_absent (s : State) (f : Core → Core) : (s.mapCores f).absent = s.absent := rfl
@[simp] theorem State.mapCores_paddocked (s : State) (f : Core → Core) : (s.mapCores f).paddocked = s.paddocked := rfl
@[simp] theorem State.mapCores_trapWait (s : State) (f : Core → Core) : (s.mapCores f).trapWait = s.trapWait := rfl
@[simp] theorem State.mapCores_pkts (s : State) (f : Core → Core) : (s.mapCores f).pkts = s.pkts := rfl
@[simp] theorem State.mapCores_husks (s : State) (f : Core → Core) : (s.mapCores f).husks = s.husks := rfl
@[simp] theorem State.mapCores_arbiters (s : State) (f : Core → Core) : (s.mapCores f).arbiters = s.arbiters := rfl
@[simp] theorem State.mapCores_nextPkt (s : State) (f : Core → Core) : (s.mapCores f).nextPkt = s.nextPkt := rfl
@[simp] theorem State.mapCores_vectors (s : State) (f : Core → Core) : (s.mapCores f).vectors = s.vectors := rfl
@[simp] theorem State.mapCores_checkpoint (s : State) (f : Core → Core) : (s.mapCores f).checkpoint = s.checkpoint := rfl

/-! modLaunch. -/

@[simp] theorem State.modLaunch_launch (s : State) (f : Launch → Launch) : (s.modLaunch f).launch = f s.launch := rfl
@[simp] theorem State.modLaunch_agenda (s : State) (f : Launch → Launch) : (s.modLaunch f).agenda = s.agenda := rfl
@[simp] theorem State.modLaunch_plan (s : State) (f : Launch → Launch) : (s.modLaunch f).plan = s.plan := rfl
@[simp] theorem State.modLaunch_inputs (s : State) (f : Launch → Launch) : (s.modLaunch f).inputs = s.inputs := rfl
@[simp] theorem State.modLaunch_choice (s : State) (f : Launch → Launch) : (s.modLaunch f).choice = s.choice := rfl
@[simp] theorem State.modLaunch_cycle (s : State) (f : Launch → Launch) : (s.modLaunch f).cycle = s.cycle := rfl
@[simp] theorem State.modLaunch_cur (s : State) (f : Launch → Launch) : (s.modLaunch f).cur = s.cur := rfl
@[simp] theorem State.modLaunch_agents (s : State) (f : Launch → Launch) : (s.modLaunch f).agents = s.agents := rfl
@[simp] theorem State.modLaunch_core (s : State) (f : Launch → Launch) : (s.modLaunch f).core = s.core := rfl
@[simp] theorem State.modLaunch_cores (s : State) (f : Launch → Launch) : (s.modLaunch f).cores = s.cores := rfl
@[simp] theorem State.modLaunch_lc (s : State) (f : Launch → Launch) : (s.modLaunch f).lc = s.lc := rfl
@[simp] theorem State.modLaunch_launches (s : State) (f : Launch → Launch) : (s.modLaunch f).launches = s.launches := rfl
@[simp] theorem State.modLaunch_nextTid (s : State) (f : Launch → Launch) : (s.modLaunch f).nextTid = s.nextTid := rfl
@[simp] theorem State.modLaunch_mem (s : State) (f : Launch → Launch) : (s.modLaunch f).mem = s.mem := rfl
@[simp] theorem State.modLaunch_empty (s : State) (f : Launch → Launch) : (s.modLaunch f).empty = s.empty := rfl
@[simp] theorem State.modLaunch_poison (s : State) (f : Launch → Launch) : (s.modLaunch f).poison = s.poison := rfl
@[simp] theorem State.modLaunch_tuc (s : State) (f : Launch → Launch) : (s.modLaunch f).tuc = s.tuc := rfl
@[simp] theorem State.modLaunch_pins (s : State) (f : Launch → Launch) : (s.modLaunch f).pins = s.pins := rfl
@[simp] theorem State.modLaunch_dieqs (s : State) (f : Launch → Launch) : (s.modLaunch f).dieqs = s.dieqs := rfl
@[simp] theorem State.modLaunch_laneTurn (s : State) (f : Launch → Launch) : (s.modLaunch f).laneTurn = s.laneTurn := rfl
@[simp] theorem State.modLaunch_profq (s : State) (f : Launch → Launch) : (s.modLaunch f).profq = s.profq := rfl
@[simp] theorem State.modLaunch_packages (s : State) (f : Launch → Launch) : (s.modLaunch f).packages = s.packages := rfl
@[simp] theorem State.modLaunch_net (s : State) (f : Launch → Launch) : (s.modLaunch f).net = s.net := rfl
@[simp] theorem State.modLaunch_packets (s : State) (f : Launch → Launch) : (s.modLaunch f).packets = s.packets := rfl
@[simp] theorem State.modLaunch_flits (s : State) (f : Launch → Launch) : (s.modLaunch f).flits = s.flits := rfl
@[simp] theorem State.modLaunch_links (s : State) (f : Launch → Launch) : (s.modLaunch f).links = s.links := rfl
@[simp] theorem State.modLaunch_windows (s : State) (f : Launch → Launch) : (s.modLaunch f).windows = s.windows := rfl
@[simp] theorem State.modLaunch_absent (s : State) (f : Launch → Launch) : (s.modLaunch f).absent = s.absent := rfl
@[simp] theorem State.modLaunch_paddocked (s : State) (f : Launch → Launch) : (s.modLaunch f).paddocked = s.paddocked := rfl
@[simp] theorem State.modLaunch_trapWait (s : State) (f : Launch → Launch) : (s.modLaunch f).trapWait = s.trapWait := rfl
@[simp] theorem State.modLaunch_pkts (s : State) (f : Launch → Launch) : (s.modLaunch f).pkts = s.pkts := rfl
@[simp] theorem State.modLaunch_husks (s : State) (f : Launch → Launch) : (s.modLaunch f).husks = s.husks := rfl
@[simp] theorem State.modLaunch_arbiters (s : State) (f : Launch → Launch) : (s.modLaunch f).arbiters = s.arbiters := rfl
@[simp] theorem State.modLaunch_nextPkt (s : State) (f : Launch → Launch) : (s.modLaunch f).nextPkt = s.nextPkt := rfl
@[simp] theorem State.modLaunch_vectors (s : State) (f : Launch → Launch) : (s.modLaunch f).vectors = s.vectors := rfl
@[simp] theorem State.modLaunch_checkpoint (s : State) (f : Launch → Launch) : (s.modLaunch f).checkpoint = s.checkpoint := rfl

/-! modBoard. -/

@[simp] theorem State.modBoard_launch (s : State) (i : Nat) (f : Board → Board) : (s.modBoard i f).launch = { s.launch with boards := modFirst (·.uid == i) f s.launch.boards } := rfl
@[simp] theorem State.modBoard_agenda (s : State) (i : Nat) (f : Board → Board) : (s.modBoard i f).agenda = s.agenda := rfl
@[simp] theorem State.modBoard_plan (s : State) (i : Nat) (f : Board → Board) : (s.modBoard i f).plan = s.plan := rfl
@[simp] theorem State.modBoard_inputs (s : State) (i : Nat) (f : Board → Board) : (s.modBoard i f).inputs = s.inputs := rfl
@[simp] theorem State.modBoard_choice (s : State) (i : Nat) (f : Board → Board) : (s.modBoard i f).choice = s.choice := rfl
@[simp] theorem State.modBoard_cycle (s : State) (i : Nat) (f : Board → Board) : (s.modBoard i f).cycle = s.cycle := rfl
@[simp] theorem State.modBoard_cur (s : State) (i : Nat) (f : Board → Board) : (s.modBoard i f).cur = s.cur := rfl
@[simp] theorem State.modBoard_agents (s : State) (i : Nat) (f : Board → Board) : (s.modBoard i f).agents = s.agents := rfl
@[simp] theorem State.modBoard_core (s : State) (i : Nat) (f : Board → Board) : (s.modBoard i f).core = s.core := rfl
@[simp] theorem State.modBoard_cores (s : State) (i : Nat) (f : Board → Board) : (s.modBoard i f).cores = s.cores := rfl
@[simp] theorem State.modBoard_lc (s : State) (i : Nat) (f : Board → Board) : (s.modBoard i f).lc = s.lc := rfl
@[simp] theorem State.modBoard_launches (s : State) (i : Nat) (f : Board → Board) : (s.modBoard i f).launches = s.launches := rfl
@[simp] theorem State.modBoard_nextTid (s : State) (i : Nat) (f : Board → Board) : (s.modBoard i f).nextTid = s.nextTid := rfl
@[simp] theorem State.modBoard_mem (s : State) (i : Nat) (f : Board → Board) : (s.modBoard i f).mem = s.mem := rfl
@[simp] theorem State.modBoard_empty (s : State) (i : Nat) (f : Board → Board) : (s.modBoard i f).empty = s.empty := rfl
@[simp] theorem State.modBoard_poison (s : State) (i : Nat) (f : Board → Board) : (s.modBoard i f).poison = s.poison := rfl
@[simp] theorem State.modBoard_tuc (s : State) (i : Nat) (f : Board → Board) : (s.modBoard i f).tuc = s.tuc := rfl
@[simp] theorem State.modBoard_pins (s : State) (i : Nat) (f : Board → Board) : (s.modBoard i f).pins = s.pins := rfl
@[simp] theorem State.modBoard_dieqs (s : State) (i : Nat) (f : Board → Board) : (s.modBoard i f).dieqs = s.dieqs := rfl
@[simp] theorem State.modBoard_laneTurn (s : State) (i : Nat) (f : Board → Board) : (s.modBoard i f).laneTurn = s.laneTurn := rfl
@[simp] theorem State.modBoard_profq (s : State) (i : Nat) (f : Board → Board) : (s.modBoard i f).profq = s.profq := rfl
@[simp] theorem State.modBoard_packages (s : State) (i : Nat) (f : Board → Board) : (s.modBoard i f).packages = s.packages := rfl
@[simp] theorem State.modBoard_net (s : State) (i : Nat) (f : Board → Board) : (s.modBoard i f).net = s.net := rfl
@[simp] theorem State.modBoard_packets (s : State) (i : Nat) (f : Board → Board) : (s.modBoard i f).packets = s.packets := rfl
@[simp] theorem State.modBoard_flits (s : State) (i : Nat) (f : Board → Board) : (s.modBoard i f).flits = s.flits := rfl
@[simp] theorem State.modBoard_links (s : State) (i : Nat) (f : Board → Board) : (s.modBoard i f).links = s.links := rfl
@[simp] theorem State.modBoard_windows (s : State) (i : Nat) (f : Board → Board) : (s.modBoard i f).windows = s.windows := rfl
@[simp] theorem State.modBoard_absent (s : State) (i : Nat) (f : Board → Board) : (s.modBoard i f).absent = s.absent := rfl
@[simp] theorem State.modBoard_paddocked (s : State) (i : Nat) (f : Board → Board) : (s.modBoard i f).paddocked = s.paddocked := rfl
@[simp] theorem State.modBoard_trapWait (s : State) (i : Nat) (f : Board → Board) : (s.modBoard i f).trapWait = s.trapWait := rfl
@[simp] theorem State.modBoard_pkts (s : State) (i : Nat) (f : Board → Board) : (s.modBoard i f).pkts = s.pkts := rfl
@[simp] theorem State.modBoard_husks (s : State) (i : Nat) (f : Board → Board) : (s.modBoard i f).husks = s.husks := rfl
@[simp] theorem State.modBoard_arbiters (s : State) (i : Nat) (f : Board → Board) : (s.modBoard i f).arbiters = s.arbiters := rfl
@[simp] theorem State.modBoard_nextPkt (s : State) (i : Nat) (f : Board → Board) : (s.modBoard i f).nextPkt = s.nextPkt := rfl
@[simp] theorem State.modBoard_vectors (s : State) (i : Nat) (f : Board → Board) : (s.modBoard i f).vectors = s.vectors := rfl
@[simp] theorem State.modBoard_checkpoint (s : State) (i : Nat) (f : Board → Board) : (s.modBoard i f).checkpoint = s.checkpoint := rfl

/-! modWorld. -/

@[simp] theorem State.modWorld_launch (s : State) (i : Nat) (f : World → World) : (s.modWorld i f).launch = { s.launch with worlds := modFirst (·.wid == i) f s.launch.worlds } := rfl
@[simp] theorem State.modWorld_agenda (s : State) (i : Nat) (f : World → World) : (s.modWorld i f).agenda = s.agenda := rfl
@[simp] theorem State.modWorld_plan (s : State) (i : Nat) (f : World → World) : (s.modWorld i f).plan = s.plan := rfl
@[simp] theorem State.modWorld_inputs (s : State) (i : Nat) (f : World → World) : (s.modWorld i f).inputs = s.inputs := rfl
@[simp] theorem State.modWorld_choice (s : State) (i : Nat) (f : World → World) : (s.modWorld i f).choice = s.choice := rfl
@[simp] theorem State.modWorld_cycle (s : State) (i : Nat) (f : World → World) : (s.modWorld i f).cycle = s.cycle := rfl
@[simp] theorem State.modWorld_cur (s : State) (i : Nat) (f : World → World) : (s.modWorld i f).cur = s.cur := rfl
@[simp] theorem State.modWorld_agents (s : State) (i : Nat) (f : World → World) : (s.modWorld i f).agents = s.agents := rfl
@[simp] theorem State.modWorld_core (s : State) (i : Nat) (f : World → World) : (s.modWorld i f).core = s.core := rfl
@[simp] theorem State.modWorld_cores (s : State) (i : Nat) (f : World → World) : (s.modWorld i f).cores = s.cores := rfl
@[simp] theorem State.modWorld_lc (s : State) (i : Nat) (f : World → World) : (s.modWorld i f).lc = s.lc := rfl
@[simp] theorem State.modWorld_launches (s : State) (i : Nat) (f : World → World) : (s.modWorld i f).launches = s.launches := rfl
@[simp] theorem State.modWorld_nextTid (s : State) (i : Nat) (f : World → World) : (s.modWorld i f).nextTid = s.nextTid := rfl
@[simp] theorem State.modWorld_mem (s : State) (i : Nat) (f : World → World) : (s.modWorld i f).mem = s.mem := rfl
@[simp] theorem State.modWorld_empty (s : State) (i : Nat) (f : World → World) : (s.modWorld i f).empty = s.empty := rfl
@[simp] theorem State.modWorld_poison (s : State) (i : Nat) (f : World → World) : (s.modWorld i f).poison = s.poison := rfl
@[simp] theorem State.modWorld_tuc (s : State) (i : Nat) (f : World → World) : (s.modWorld i f).tuc = s.tuc := rfl
@[simp] theorem State.modWorld_pins (s : State) (i : Nat) (f : World → World) : (s.modWorld i f).pins = s.pins := rfl
@[simp] theorem State.modWorld_dieqs (s : State) (i : Nat) (f : World → World) : (s.modWorld i f).dieqs = s.dieqs := rfl
@[simp] theorem State.modWorld_laneTurn (s : State) (i : Nat) (f : World → World) : (s.modWorld i f).laneTurn = s.laneTurn := rfl
@[simp] theorem State.modWorld_profq (s : State) (i : Nat) (f : World → World) : (s.modWorld i f).profq = s.profq := rfl
@[simp] theorem State.modWorld_packages (s : State) (i : Nat) (f : World → World) : (s.modWorld i f).packages = s.packages := rfl
@[simp] theorem State.modWorld_net (s : State) (i : Nat) (f : World → World) : (s.modWorld i f).net = s.net := rfl
@[simp] theorem State.modWorld_packets (s : State) (i : Nat) (f : World → World) : (s.modWorld i f).packets = s.packets := rfl
@[simp] theorem State.modWorld_flits (s : State) (i : Nat) (f : World → World) : (s.modWorld i f).flits = s.flits := rfl
@[simp] theorem State.modWorld_links (s : State) (i : Nat) (f : World → World) : (s.modWorld i f).links = s.links := rfl
@[simp] theorem State.modWorld_windows (s : State) (i : Nat) (f : World → World) : (s.modWorld i f).windows = s.windows := rfl
@[simp] theorem State.modWorld_absent (s : State) (i : Nat) (f : World → World) : (s.modWorld i f).absent = s.absent := rfl
@[simp] theorem State.modWorld_paddocked (s : State) (i : Nat) (f : World → World) : (s.modWorld i f).paddocked = s.paddocked := rfl
@[simp] theorem State.modWorld_trapWait (s : State) (i : Nat) (f : World → World) : (s.modWorld i f).trapWait = s.trapWait := rfl
@[simp] theorem State.modWorld_pkts (s : State) (i : Nat) (f : World → World) : (s.modWorld i f).pkts = s.pkts := rfl
@[simp] theorem State.modWorld_husks (s : State) (i : Nat) (f : World → World) : (s.modWorld i f).husks = s.husks := rfl
@[simp] theorem State.modWorld_arbiters (s : State) (i : Nat) (f : World → World) : (s.modWorld i f).arbiters = s.arbiters := rfl
@[simp] theorem State.modWorld_nextPkt (s : State) (i : Nat) (f : World → World) : (s.modWorld i f).nextPkt = s.nextPkt := rfl
@[simp] theorem State.modWorld_vectors (s : State) (i : Nat) (f : World → World) : (s.modWorld i f).vectors = s.vectors := rfl
@[simp] theorem State.modWorld_checkpoint (s : State) (i : Nat) (f : World → World) : (s.modWorld i f).checkpoint = s.checkpoint := rfl

/-! modCore. -/

@[simp] theorem State.modCore_agenda (s : State) (i : Nat) (f : Core → Core) : (s.modCore i f).agenda = s.agenda := by
  unfold State.modCore; repeat' split
  all_goals rfl
@[simp] theorem State.modCore_plan (s : State) (i : Nat) (f : Core → Core) : (s.modCore i f).plan = s.plan := by
  unfold State.modCore; repeat' split
  all_goals rfl
@[simp] theorem State.modCore_inputs (s : State) (i : Nat) (f : Core → Core) : (s.modCore i f).inputs = s.inputs := by
  unfold State.modCore; repeat' split
  all_goals rfl
@[simp] theorem State.modCore_choice (s : State) (i : Nat) (f : Core → Core) : (s.modCore i f).choice = s.choice := by
  unfold State.modCore; repeat' split
  all_goals rfl
@[simp] theorem State.modCore_cycle (s : State) (i : Nat) (f : Core → Core) : (s.modCore i f).cycle = s.cycle := by
  unfold State.modCore; repeat' split
  all_goals rfl
@[simp] theorem State.modCore_cur (s : State) (i : Nat) (f : Core → Core) : (s.modCore i f).cur = s.cur := by
  unfold State.modCore; repeat' split
  all_goals rfl
@[simp] theorem State.modCore_agents (s : State) (i : Nat) (f : Core → Core) : (s.modCore i f).agents = s.agents := by
  unfold State.modCore; repeat' split
  all_goals rfl
@[simp] theorem State.modCore_lc (s : State) (i : Nat) (f : Core → Core) : (s.modCore i f).lc = s.lc := by
  unfold State.modCore; repeat' split
  all_goals rfl
@[simp] theorem State.modCore_launch (s : State) (i : Nat) (f : Core → Core) : (s.modCore i f).launch = s.launch := by
  unfold State.modCore; repeat' split
  all_goals rfl
@[simp] theorem State.modCore_launches (s : State) (i : Nat) (f : Core → Core) : (s.modCore i f).launches = s.launches := by
  unfold State.modCore; repeat' split
  all_goals rfl
@[simp] theorem State.modCore_nextTid (s : State) (i : Nat) (f : Core → Core) : (s.modCore i f).nextTid = s.nextTid := by
  unfold State.modCore; repeat' split
  all_goals rfl
@[simp] theorem State.modCore_mem (s : State) (i : Nat) (f : Core → Core) : (s.modCore i f).mem = s.mem := by
  unfold State.modCore; repeat' split
  all_goals rfl
@[simp] theorem State.modCore_empty (s : State) (i : Nat) (f : Core → Core) : (s.modCore i f).empty = s.empty := by
  unfold State.modCore; repeat' split
  all_goals rfl
@[simp] theorem State.modCore_poison (s : State) (i : Nat) (f : Core → Core) : (s.modCore i f).poison = s.poison := by
  unfold State.modCore; repeat' split
  all_goals rfl
@[simp] theorem State.modCore_tuc (s : State) (i : Nat) (f : Core → Core) : (s.modCore i f).tuc = s.tuc := by
  unfold State.modCore; repeat' split
  all_goals rfl
@[simp] theorem State.modCore_pins (s : State) (i : Nat) (f : Core → Core) : (s.modCore i f).pins = s.pins := by
  unfold State.modCore; repeat' split
  all_goals rfl
@[simp] theorem State.modCore_dieqs (s : State) (i : Nat) (f : Core → Core) : (s.modCore i f).dieqs = s.dieqs := by
  unfold State.modCore; repeat' split
  all_goals rfl
@[simp] theorem State.modCore_laneTurn (s : State) (i : Nat) (f : Core → Core) : (s.modCore i f).laneTurn = s.laneTurn := by
  unfold State.modCore; repeat' split
  all_goals rfl
@[simp] theorem State.modCore_profq (s : State) (i : Nat) (f : Core → Core) : (s.modCore i f).profq = s.profq := by
  unfold State.modCore; repeat' split
  all_goals rfl
@[simp] theorem State.modCore_packages (s : State) (i : Nat) (f : Core → Core) : (s.modCore i f).packages = s.packages := by
  unfold State.modCore; repeat' split
  all_goals rfl
@[simp] theorem State.modCore_net (s : State) (i : Nat) (f : Core → Core) : (s.modCore i f).net = s.net := by
  unfold State.modCore; repeat' split
  all_goals rfl
@[simp] theorem State.modCore_packets (s : State) (i : Nat) (f : Core → Core) : (s.modCore i f).packets = s.packets := by
  unfold State.modCore; repeat' split
  all_goals rfl
@[simp] theorem State.modCore_flits (s : State) (i : Nat) (f : Core → Core) : (s.modCore i f).flits = s.flits := by
  unfold State.modCore; repeat' split
  all_goals rfl
@[simp] theorem State.modCore_links (s : State) (i : Nat) (f : Core → Core) : (s.modCore i f).links = s.links := by
  unfold State.modCore; repeat' split
  all_goals rfl
@[simp] theorem State.modCore_windows (s : State) (i : Nat) (f : Core → Core) : (s.modCore i f).windows = s.windows := by
  unfold State.modCore; repeat' split
  all_goals rfl
@[simp] theorem State.modCore_absent (s : State) (i : Nat) (f : Core → Core) : (s.modCore i f).absent = s.absent := by
  unfold State.modCore; repeat' split
  all_goals rfl
@[simp] theorem State.modCore_paddocked (s : State) (i : Nat) (f : Core → Core) : (s.modCore i f).paddocked = s.paddocked := by
  unfold State.modCore; repeat' split
  all_goals rfl
@[simp] theorem State.modCore_trapWait (s : State) (i : Nat) (f : Core → Core) : (s.modCore i f).trapWait = s.trapWait := by
  unfold State.modCore; repeat' split
  all_goals rfl
@[simp] theorem State.modCore_pkts (s : State) (i : Nat) (f : Core → Core) : (s.modCore i f).pkts = s.pkts := by
  unfold State.modCore; repeat' split
  all_goals rfl
@[simp] theorem State.modCore_husks (s : State) (i : Nat) (f : Core → Core) : (s.modCore i f).husks = s.husks := by
  unfold State.modCore; repeat' split
  all_goals rfl
@[simp] theorem State.modCore_arbiters (s : State) (i : Nat) (f : Core → Core) : (s.modCore i f).arbiters = s.arbiters := by
  unfold State.modCore; repeat' split
  all_goals rfl
@[simp] theorem State.modCore_nextPkt (s : State) (i : Nat) (f : Core → Core) : (s.modCore i f).nextPkt = s.nextPkt := by
  unfold State.modCore; repeat' split
  all_goals rfl
@[simp] theorem State.modCore_vectors (s : State) (i : Nat) (f : Core → Core) : (s.modCore i f).vectors = s.vectors := by
  unfold State.modCore; repeat' split
  all_goals rfl
@[simp] theorem State.modCore_checkpoint (s : State) (i : Nat) (f : Core → Core) : (s.modCore i f).checkpoint = s.checkpoint := by
  unfold State.modCore; repeat' split
  all_goals rfl

/-! modLc. -/

@[simp] theorem State.modLc_agenda (s : State) (i : Nat) (f : LCore → LCore) : (s.modLc i f).agenda = s.agenda := by
  unfold State.modLc; repeat' split
  all_goals rfl
@[simp] theorem State.modLc_plan (s : State) (i : Nat) (f : LCore → LCore) : (s.modLc i f).plan = s.plan := by
  unfold State.modLc; repeat' split
  all_goals rfl
@[simp] theorem State.modLc_inputs (s : State) (i : Nat) (f : LCore → LCore) : (s.modLc i f).inputs = s.inputs := by
  unfold State.modLc; repeat' split
  all_goals rfl
@[simp] theorem State.modLc_choice (s : State) (i : Nat) (f : LCore → LCore) : (s.modLc i f).choice = s.choice := by
  unfold State.modLc; repeat' split
  all_goals rfl
@[simp] theorem State.modLc_cycle (s : State) (i : Nat) (f : LCore → LCore) : (s.modLc i f).cycle = s.cycle := by
  unfold State.modLc; repeat' split
  all_goals rfl
@[simp] theorem State.modLc_cur (s : State) (i : Nat) (f : LCore → LCore) : (s.modLc i f).cur = s.cur := by
  unfold State.modLc; repeat' split
  all_goals rfl
@[simp] theorem State.modLc_agents (s : State) (i : Nat) (f : LCore → LCore) : (s.modLc i f).agents = s.agents := by
  unfold State.modLc; repeat' split
  all_goals rfl
@[simp] theorem State.modLc_core (s : State) (i : Nat) (f : LCore → LCore) : (s.modLc i f).core = s.core := by
  unfold State.modLc; repeat' split
  all_goals rfl
@[simp] theorem State.modLc_cores (s : State) (i : Nat) (f : LCore → LCore) : (s.modLc i f).cores = s.cores := by
  unfold State.modLc; repeat' split
  all_goals rfl
@[simp] theorem State.modLc_launches (s : State) (i : Nat) (f : LCore → LCore) : (s.modLc i f).launches = s.launches := by
  unfold State.modLc; repeat' split
  all_goals rfl
@[simp] theorem State.modLc_nextTid (s : State) (i : Nat) (f : LCore → LCore) : (s.modLc i f).nextTid = s.nextTid := by
  unfold State.modLc; repeat' split
  all_goals rfl
@[simp] theorem State.modLc_mem (s : State) (i : Nat) (f : LCore → LCore) : (s.modLc i f).mem = s.mem := by
  unfold State.modLc; repeat' split
  all_goals rfl
@[simp] theorem State.modLc_empty (s : State) (i : Nat) (f : LCore → LCore) : (s.modLc i f).empty = s.empty := by
  unfold State.modLc; repeat' split
  all_goals rfl
@[simp] theorem State.modLc_poison (s : State) (i : Nat) (f : LCore → LCore) : (s.modLc i f).poison = s.poison := by
  unfold State.modLc; repeat' split
  all_goals rfl
@[simp] theorem State.modLc_tuc (s : State) (i : Nat) (f : LCore → LCore) : (s.modLc i f).tuc = s.tuc := by
  unfold State.modLc; repeat' split
  all_goals rfl
@[simp] theorem State.modLc_pins (s : State) (i : Nat) (f : LCore → LCore) : (s.modLc i f).pins = s.pins := by
  unfold State.modLc; repeat' split
  all_goals rfl
@[simp] theorem State.modLc_dieqs (s : State) (i : Nat) (f : LCore → LCore) : (s.modLc i f).dieqs = s.dieqs := by
  unfold State.modLc; repeat' split
  all_goals rfl
@[simp] theorem State.modLc_laneTurn (s : State) (i : Nat) (f : LCore → LCore) : (s.modLc i f).laneTurn = s.laneTurn := by
  unfold State.modLc; repeat' split
  all_goals rfl
@[simp] theorem State.modLc_profq (s : State) (i : Nat) (f : LCore → LCore) : (s.modLc i f).profq = s.profq := by
  unfold State.modLc; repeat' split
  all_goals rfl
@[simp] theorem State.modLc_packages (s : State) (i : Nat) (f : LCore → LCore) : (s.modLc i f).packages = s.packages := by
  unfold State.modLc; repeat' split
  all_goals rfl
@[simp] theorem State.modLc_net (s : State) (i : Nat) (f : LCore → LCore) : (s.modLc i f).net = s.net := by
  unfold State.modLc; repeat' split
  all_goals rfl
@[simp] theorem State.modLc_packets (s : State) (i : Nat) (f : LCore → LCore) : (s.modLc i f).packets = s.packets := by
  unfold State.modLc; repeat' split
  all_goals rfl
@[simp] theorem State.modLc_flits (s : State) (i : Nat) (f : LCore → LCore) : (s.modLc i f).flits = s.flits := by
  unfold State.modLc; repeat' split
  all_goals rfl
@[simp] theorem State.modLc_links (s : State) (i : Nat) (f : LCore → LCore) : (s.modLc i f).links = s.links := by
  unfold State.modLc; repeat' split
  all_goals rfl
@[simp] theorem State.modLc_windows (s : State) (i : Nat) (f : LCore → LCore) : (s.modLc i f).windows = s.windows := by
  unfold State.modLc; repeat' split
  all_goals rfl
@[simp] theorem State.modLc_absent (s : State) (i : Nat) (f : LCore → LCore) : (s.modLc i f).absent = s.absent := by
  unfold State.modLc; repeat' split
  all_goals rfl
@[simp] theorem State.modLc_paddocked (s : State) (i : Nat) (f : LCore → LCore) : (s.modLc i f).paddocked = s.paddocked := by
  unfold State.modLc; repeat' split
  all_goals rfl
@[simp] theorem State.modLc_trapWait (s : State) (i : Nat) (f : LCore → LCore) : (s.modLc i f).trapWait = s.trapWait := by
  unfold State.modLc; repeat' split
  all_goals rfl
@[simp] theorem State.modLc_pkts (s : State) (i : Nat) (f : LCore → LCore) : (s.modLc i f).pkts = s.pkts := by
  unfold State.modLc; repeat' split
  all_goals rfl
@[simp] theorem State.modLc_husks (s : State) (i : Nat) (f : LCore → LCore) : (s.modLc i f).husks = s.husks := by
  unfold State.modLc; repeat' split
  all_goals rfl
@[simp] theorem State.modLc_arbiters (s : State) (i : Nat) (f : LCore → LCore) : (s.modLc i f).arbiters = s.arbiters := by
  unfold State.modLc; repeat' split
  all_goals rfl
@[simp] theorem State.modLc_nextPkt (s : State) (i : Nat) (f : LCore → LCore) : (s.modLc i f).nextPkt = s.nextPkt := by
  unfold State.modLc; repeat' split
  all_goals rfl
@[simp] theorem State.modLc_vectors (s : State) (i : Nat) (f : LCore → LCore) : (s.modLc i f).vectors = s.vectors := by
  unfold State.modLc; repeat' split
  all_goals rfl
@[simp] theorem State.modLc_checkpoint (s : State) (i : Nat) (f : LCore → LCore) : (s.modLc i f).checkpoint = s.checkpoint := by
  unfold State.modLc; repeat' split
  all_goals rfl

/-! modPkg. -/

@[simp] theorem State.modPkg_agenda (s : State) (i : Nat) (f : Package → Package) : (s.modPkg i f).agenda = s.agenda := by
  unfold State.modPkg; repeat (first | rfl | split)
@[simp] theorem State.modPkg_plan (s : State) (i : Nat) (f : Package → Package) : (s.modPkg i f).plan = s.plan := by
  unfold State.modPkg; repeat (first | rfl | split)
@[simp] theorem State.modPkg_inputs (s : State) (i : Nat) (f : Package → Package) : (s.modPkg i f).inputs = s.inputs := by
  unfold State.modPkg; repeat (first | rfl | split)
@[simp] theorem State.modPkg_choice (s : State) (i : Nat) (f : Package → Package) : (s.modPkg i f).choice = s.choice := by
  unfold State.modPkg; repeat (first | rfl | split)
@[simp] theorem State.modPkg_cycle (s : State) (i : Nat) (f : Package → Package) : (s.modPkg i f).cycle = s.cycle := by
  unfold State.modPkg; repeat (first | rfl | split)
@[simp] theorem State.modPkg_cur (s : State) (i : Nat) (f : Package → Package) : (s.modPkg i f).cur = s.cur := by
  unfold State.modPkg; repeat (first | rfl | split)
@[simp] theorem State.modPkg_agents (s : State) (i : Nat) (f : Package → Package) : (s.modPkg i f).agents = s.agents := by
  unfold State.modPkg; repeat (first | rfl | split)
@[simp] theorem State.modPkg_core (s : State) (i : Nat) (f : Package → Package) : (s.modPkg i f).core = s.core := by
  unfold State.modPkg; repeat (first | rfl | split)
@[simp] theorem State.modPkg_cores (s : State) (i : Nat) (f : Package → Package) : (s.modPkg i f).cores = s.cores := by
  unfold State.modPkg; repeat (first | rfl | split)
@[simp] theorem State.modPkg_lc (s : State) (i : Nat) (f : Package → Package) : (s.modPkg i f).lc = s.lc := by
  unfold State.modPkg; repeat (first | rfl | split)
@[simp] theorem State.modPkg_launch (s : State) (i : Nat) (f : Package → Package) : (s.modPkg i f).launch = s.launch := by
  unfold State.modPkg; repeat (first | rfl | split)
@[simp] theorem State.modPkg_launches (s : State) (i : Nat) (f : Package → Package) : (s.modPkg i f).launches = s.launches := by
  unfold State.modPkg; repeat (first | rfl | split)
@[simp] theorem State.modPkg_nextTid (s : State) (i : Nat) (f : Package → Package) : (s.modPkg i f).nextTid = s.nextTid := by
  unfold State.modPkg; repeat (first | rfl | split)
@[simp] theorem State.modPkg_mem (s : State) (i : Nat) (f : Package → Package) : (s.modPkg i f).mem = s.mem := by
  unfold State.modPkg; repeat (first | rfl | split)
@[simp] theorem State.modPkg_empty (s : State) (i : Nat) (f : Package → Package) : (s.modPkg i f).empty = s.empty := by
  unfold State.modPkg; repeat (first | rfl | split)
@[simp] theorem State.modPkg_poison (s : State) (i : Nat) (f : Package → Package) : (s.modPkg i f).poison = s.poison := by
  unfold State.modPkg; repeat (first | rfl | split)
@[simp] theorem State.modPkg_tuc (s : State) (i : Nat) (f : Package → Package) : (s.modPkg i f).tuc = s.tuc := by
  unfold State.modPkg; repeat (first | rfl | split)
@[simp] theorem State.modPkg_pins (s : State) (i : Nat) (f : Package → Package) : (s.modPkg i f).pins = s.pins := by
  unfold State.modPkg; repeat (first | rfl | split)
@[simp] theorem State.modPkg_dieqs (s : State) (i : Nat) (f : Package → Package) : (s.modPkg i f).dieqs = s.dieqs := by
  unfold State.modPkg; repeat (first | rfl | split)
@[simp] theorem State.modPkg_laneTurn (s : State) (i : Nat) (f : Package → Package) : (s.modPkg i f).laneTurn = s.laneTurn := by
  unfold State.modPkg; repeat (first | rfl | split)
@[simp] theorem State.modPkg_profq (s : State) (i : Nat) (f : Package → Package) : (s.modPkg i f).profq = s.profq := by
  unfold State.modPkg; repeat (first | rfl | split)
@[simp] theorem State.modPkg_net (s : State) (i : Nat) (f : Package → Package) : (s.modPkg i f).net = s.net := by
  unfold State.modPkg; repeat (first | rfl | split)
@[simp] theorem State.modPkg_packets (s : State) (i : Nat) (f : Package → Package) : (s.modPkg i f).packets = s.packets := by
  unfold State.modPkg; repeat (first | rfl | split)
@[simp] theorem State.modPkg_flits (s : State) (i : Nat) (f : Package → Package) : (s.modPkg i f).flits = s.flits := by
  unfold State.modPkg; repeat (first | rfl | split)
@[simp] theorem State.modPkg_links (s : State) (i : Nat) (f : Package → Package) : (s.modPkg i f).links = s.links := by
  unfold State.modPkg; repeat (first | rfl | split)
@[simp] theorem State.modPkg_windows (s : State) (i : Nat) (f : Package → Package) : (s.modPkg i f).windows = s.windows := by
  unfold State.modPkg; repeat (first | rfl | split)
@[simp] theorem State.modPkg_absent (s : State) (i : Nat) (f : Package → Package) : (s.modPkg i f).absent = s.absent := by
  unfold State.modPkg; repeat (first | rfl | split)
@[simp] theorem State.modPkg_paddocked (s : State) (i : Nat) (f : Package → Package) : (s.modPkg i f).paddocked = s.paddocked := by
  unfold State.modPkg; repeat (first | rfl | split)
@[simp] theorem State.modPkg_trapWait (s : State) (i : Nat) (f : Package → Package) : (s.modPkg i f).trapWait = s.trapWait := by
  unfold State.modPkg; repeat (first | rfl | split)
@[simp] theorem State.modPkg_pkts (s : State) (i : Nat) (f : Package → Package) : (s.modPkg i f).pkts = s.pkts := by
  unfold State.modPkg; repeat (first | rfl | split)
@[simp] theorem State.modPkg_husks (s : State) (i : Nat) (f : Package → Package) : (s.modPkg i f).husks = s.husks := by
  unfold State.modPkg; repeat (first | rfl | split)
@[simp] theorem State.modPkg_arbiters (s : State) (i : Nat) (f : Package → Package) : (s.modPkg i f).arbiters = s.arbiters := by
  unfold State.modPkg; repeat (first | rfl | split)
@[simp] theorem State.modPkg_nextPkt (s : State) (i : Nat) (f : Package → Package) : (s.modPkg i f).nextPkt = s.nextPkt := by
  unfold State.modPkg; repeat (first | rfl | split)
@[simp] theorem State.modPkg_vectors (s : State) (i : Nat) (f : Package → Package) : (s.modPkg i f).vectors = s.vectors := by
  unfold State.modPkg; repeat (first | rfl | split)
@[simp] theorem State.modPkg_checkpoint (s : State) (i : Nat) (f : Package → Package) : (s.modPkg i f).checkpoint = s.checkpoint := by
  unfold State.modPkg; repeat (first | rfl | split)

end Sys2Proof.Machine
end

