-- ==== Sys2Proof/Laws/Memory.lean ====
section
/-! SUPPORT. Memory cells: the canonical form, read after write, and that every memory operation keeps the form. -/

namespace Sys2Proof.Machine

/-! Lists of cells. -/

@[simp] theorem readCell_nil (k : Nat) : readCell [] k = 0 := rfl
theorem readCell_cons (a : Nat) (b : Byte) (m : List Host.Cell) (k : Nat) :
    readCell ((a, b) :: m) k = if a = k then b else readCell m k := by
  simp only [readCell, aget]; split <;> rfl

theorem memory_wf_cons (a : Nat) (b : Byte) (m : List Host.Cell) :
    Memory.wf ((a, b) :: m) = true ↔ b ≠ 0 ∧ (∀ x ∈ m, a < x.1) ∧ Memory.wf m = true := by
  induction m generalizing a b with
  | nil => simp [Memory.wf]
  | cons c m ih =>
    obtain ⟨a', b'⟩ := c
    have step : Memory.wf ((a, b) :: (a', b') :: m) = true ↔ (b ≠ 0 ∧ a < a') ∧ Memory.wf ((a', b') :: m) = true := by
      simp [Memory.wf]
    rw [step]
    constructor
    · rintro ⟨⟨hb, ha⟩, h⟩
      refine ⟨hb, fun x hx => ?_, h⟩
      obtain rfl | hx := List.mem_cons.mp hx
      · exact ha
      · exact Nat.lt_trans ha (((ih a' b').mp h).2.1 x hx)
    · rintro ⟨hb, ha, h⟩
      exact ⟨⟨hb, ha (a', b') (by simp)⟩, h⟩

/-- A cell below every listed one reads 0. -/
theorem readCell_below {m : List Host.Cell} {k : Nat} (h : ∀ x ∈ m, k < x.1) : readCell m k = 0 := by
  induction m with
  | nil => rfl
  | cons c m ih =>
    obtain ⟨a, b⟩ := c
    have : a ≠ k := Nat.ne_of_gt (h (a, b) (by simp))
    rw [readCell_cons, if_neg this]
    exact ih fun x hx => h x (by simp [hx])

theorem mem_writeCell {m : List Host.Cell} {a : Nat} {b : Byte} {x : Host.Cell} (h : x ∈ writeCell m a b) :
    x ∈ m ∨ x.1 = a := by
  induction m with
  | nil => unfold writeCell at h; split at h <;> simp_all
  | cons c m ih =>
    obtain ⟨a', b'⟩ := c
    unfold writeCell at h
    repeat' split at h
    all_goals simp_all
    all_goals rcases h with h | h <;> simp_all
    cases ih <;> simp_all

/-- A write keeps the canonical form. -/
theorem writeCell_wf {m : List Host.Cell} (h : Memory.wf m = true) (a : Nat) (b : Byte) :
    Memory.wf (writeCell m a b) = true := by
  induction m with
  | nil => unfold writeCell; split <;> simp_all [Memory.wf]
  | cons c m ih =>
    obtain ⟨a', b'⟩ := c
    have hc := (memory_wf_cons _ _ _).mp h
    unfold writeCell
    split
    · rename_i hlt
      split
      · exact h
      · exact (memory_wf_cons _ _ _).mpr ⟨by assumption, fun x hx => by
          obtain rfl | hx := List.mem_cons.mp hx
          · exact hlt
          · exact Nat.lt_trans hlt (hc.2.1 x hx), h⟩
    · split
      · rename_i heq
        split
        · exact hc.2.2
        · exact (memory_wf_cons _ _ _).mpr ⟨by assumption, fun x hx => heq ▸ hc.2.1 x hx, hc.2.2⟩
      · refine (memory_wf_cons _ _ _).mpr ⟨hc.1, fun x hx => ?_, ih hc.2.2⟩
        obtain hx | hx := mem_writeCell hx
        · exact hc.2.1 x hx
        · omega

/-- Read after write: the byte written there, any other as before. -/
theorem readCell_writeCell {m : List Host.Cell} (h : Memory.wf m = true) (a : Nat) (b : Byte) (k : Nat) :
    readCell (writeCell m a b) k = if k = a then b else readCell m k := by
  induction m with
  | nil =>
    unfold writeCell; split
    · rename_i hb; simp [hb]
    · rw [readCell_cons]; simp [eq_comm]
  | cons c m ih =>
    obtain ⟨a', b'⟩ := c
    have hc := (memory_wf_cons _ _ _).mp h
    unfold writeCell
    split
    · rename_i hlt
      split
      · rename_i hb
        split
        · rename_i hk
          rw [hk, hb, readCell_cons, if_neg (by omega)]
          exact readCell_below fun x hx => Nat.lt_trans hlt (hc.2.1 x hx)
        · rfl
      · rw [readCell_cons]; simp [eq_comm]
    · split
      · rename_i heq
        split
        · rename_i hb
          split
          · rename_i hk
            rw [hk, hb]
            exact readCell_below fun x hx => heq ▸ hc.2.1 x hx
          · rw [readCell_cons, if_neg (by omega)]
        · rw [readCell_cons, readCell_cons]
          by_cases hk : k = a
          · simp [hk]
          · rw [if_neg (Ne.symm hk), if_neg hk, if_neg (by omega)]
      · rw [readCell_cons, readCell_cons, ih hc.2.2]
        by_cases hk : a' = k
        · rw [if_pos hk, if_neg (by omega), if_pos hk]
        · simp [hk]

/-- Memories in canonical form that read alike are the same data. -/
theorem memory_ext {m n : List Host.Cell} (hm : Memory.wf m = true) (hn : Memory.wf n = true)
    (h : ∀ k, readCell m k = readCell n k) : m = n := by
  induction m generalizing n with
  | nil =>
    cases n with
    | nil => rfl
    | cons d n =>
      have hd := (memory_wf_cons d.1 d.2 n).mp hn
      have := h d.1
      rw [readCell_cons d.1 d.2, if_pos rfl] at this
      exact absurd this.symm hd.1
  | cons c m ih =>
    have hc := (memory_wf_cons c.1 c.2 m).mp hm
    cases n with
    | nil =>
      have := h c.1
      rw [readCell_cons c.1 c.2, if_pos rfl] at this
      exact absurd this hc.1
    | cons d n =>
      have hd := (memory_wf_cons d.1 d.2 n).mp hn
      obtain ⟨a, b⟩ := c
      obtain ⟨a', b'⟩ := d
      have hab : a = a' := by
        rcases Nat.lt_trichotomy a a' with hlt | heq | hlt
        · have := h a
          rw [readCell_cons, if_pos rfl, readCell_cons, if_neg (by omega),
            readCell_below fun x hx => Nat.lt_trans hlt (hd.2.1 x hx)] at this
          exact absurd this hc.1
        · exact heq
        · have := h a'
          rw [readCell_cons, if_neg (by omega), readCell_below fun x hx => Nat.lt_trans hlt (hc.2.1 x hx),
            readCell_cons, if_pos rfl] at this
          exact absurd this.symm hd.1
      subst hab
      have hb : b = b' := by simpa [readCell_cons] using h a
      subst hb
      congr 1
      refine ih hc.2.2 hd.2.2 fun k => ?_
      by_cases hk : a = k
      · subst hk
        rw [readCell_below hc.2.1, readCell_below hd.2.1]
      · simpa [readCell_cons, hk] using h k

theorem foldl_writeCell_wf {α : Type} (l : List α) (f : α → Nat) (g : α → Byte) {m : List Host.Cell}
    (h : Memory.wf m = true) : Memory.wf (l.foldl (fun m x => writeCell m (f x) (g x)) m) = true := by
  induction l generalizing m with
  | nil => exact h
  | cons x l ih => exact ih (writeCell_wf h _ _)

/-! The state's memories. -/

/-- The machine's memory and the local spaces of the launch in front are in canonical form. -/
abbrev CellsWf (s : State) : Prop := Memory.wf s.mem = true ∧ Memory.wf s.launch.lmem = true

theorem reset_cellsWf : CellsWf State.reset := ⟨rfl, rfl⟩

theorem setBaseByte_cellsWf {s : State} (h : CellsWf s) (k : Nat) (b : Byte) : CellsWf (setBaseByte s k b) := by
  unfold setBaseByte; split
  · exact ⟨h.1, writeCell_wf h.2 _ _⟩
  · exact ⟨writeCell_wf h.1 _ _, h.2⟩

/-- Read after write of a byte under no view. -/
theorem baseByte_setBaseByte {s : State} (h : CellsWf s) (k : Nat) (b : Byte) (j : Nat) :
    baseByte (setBaseByte s k b) j = if j = k then b else baseByte s j := by
  unfold setBaseByte baseByte
  by_cases hk : isLocal k = true <;> by_cases hj : isLocal j = true
  · simp [hk, hj, readCell_writeCell h.2]
  · have : j ≠ k := fun e => hj (e ▸ hk)
    simp [hk, hj, this]
  · have : j ≠ k := fun e => hk (e ▸ hj)
    simp [hk, hj, this]
  · simp [hk, hj, readCell_writeCell h.1]

/-- What leaves every memory as it is. -/
abbrev SameCells (s t : State) : Prop := t.mem = s.mem ∧ t.launch.lmem = s.launch.lmem

theorem SameCells.wf {s t : State} (h : SameCells s t) (w : CellsWf s) : CellsWf t := by
  rw [CellsWf, h.1, h.2]; exact w
theorem SameCells.byte {s t : State} (h : SameCells s t) (k : Nat) : baseByte t k = baseByte s k := by
  unfold baseByte; rw [h.1, h.2]
theorem SameCells.trans {s t u : State} (h : SameCells s t) (g : SameCells t u) : SameCells s u :=
  ⟨g.1.trans h.1, g.2.trans h.2⟩

theorem setBaseEmpty_same (s : State) (k : Nat) (e : Bool) : SameCells s (setBaseEmpty s k e) := by
  unfold setBaseEmpty; dsimp only; split <;> exact ⟨rfl, rfl⟩
theorem setBasePois_same (s : State) (k : Nat) (e : Bool) : SameCells s (setBasePois s k e) := by
  unfold setBasePois; dsimp only; split <;> exact ⟨rfl, rfl⟩
theorem modView_same (s : State) (p t : Nat) (f : View → View) : SameCells s (modView s p t f) := ⟨rfl, rfl⟩
theorem copyLine_same (s : State) (p t k : Nat) : SameCells s (copyLine s p t k) := by
  unfold copyLine; split
  · exact ⟨rfl, rfl⟩
  · exact ⟨by simp [modView], by simp [modView]⟩
theorem modLine_same (s : State) (p t k : Nat) (f : VLine → VLine) : SameCells s (modLine s p t k f) := ⟨rfl, rfl⟩
theorem setEmptyView_same (s : State) (p t k : Nat) (e : Bool) : SameCells s (setEmptyView s p t k e) := by
  unfold setEmptyView; split
  · exact setBaseEmpty_same _ _ _
  · exact (copyLine_same _ _ _ _).trans (modLine_same _ _ _ _ _)
theorem setPoison_same (s : State) (p t k : Nat) (e : Bool) : SameCells s (setPoison s p t k e) := by
  unfold setPoison; split
  · exact setBasePois_same _ _ _
  · exact (copyLine_same _ _ _ _).trans (modLine_same _ _ _ _ _)
theorem noteLine_same (s : State) (p t w l : Nat) : SameCells s (noteLine s p t w l) := ⟨rfl, rfl⟩

theorem foldl_same {α : Type} (f : State → α → State) (hf : ∀ s x, SameCells s (f s x)) (l : List α) (s : State) :
    SameCells s (l.foldl f s) := by
  induction l generalizing s with
  | nil => exact ⟨rfl, rfl⟩
  | cons x l ih => exact (hf s x).trans (ih _)

theorem foldl_cellsWf {α : Type} (f : State → α → State) (hf : ∀ s x, CellsWf s → CellsWf (f s x)) (l : List α)
    {s : State} (h : CellsWf s) : CellsWf (l.foldl f s) := by
  induction l generalizing s with
  | nil => exact h
  | cons x l ih => exact ih (hf s x h)

theorem writeView_tag0 (s : State) (p k : Nat) (b : Byte) : writeView s p 0 k b = setBaseByte s k b := by simp [writeView]

theorem writeView_cellsWf {s : State} (h : CellsWf s) (p t k : Nat) (b : Byte) : CellsWf (writeView s p t k b) := by
  unfold writeView; split
  · exact setBaseByte_cellsWf h _ _
  · exact ((copyLine_same _ _ _ _).trans (modLine_same _ _ _ _ _)).wf h

/-- Bytes written one after another: the last byte given for an address stands there. -/
def lastByte (cells : List (Nat × Byte)) (k : Nat) (old : Byte) : Byte :=
  cells.foldl (fun b c => if c.1 = k then c.2 else b) old

theorem lastByte_other {cells : List (Nat × Byte)} {k : Nat} (h : ∀ c ∈ cells, c.1 ≠ k) (old : Byte) :
    lastByte cells k old = old := by
  induction cells generalizing old with
  | nil => rfl
  | cons c l ih =>
    have hc := h c (by simp)
    unfold lastByte
    rw [List.foldl_cons, if_neg hc]
    exact ih (fun x hx => h x (by simp [hx])) old

theorem writeBytes_rest_same (s : State) (p t w : Nat) (cells : List (Nat × Byte)) (clean : List Nat) :
    SameCells (cells.foldl (fun s c => writeView s p t c.1 c.2) s) (writeBytes s p t w cells clean) := by
  unfold writeBytes; dsimp only
  refine SameCells.trans (foldl_same _ (fun s k => ?_) _ _) (foldl_same _ (fun s l => noteLine_same _ _ _ _ _) _ _)
  split
  · exact setPoison_same _ _ _ _ _
  · exact ⟨rfl, rfl⟩

theorem writeBytes_cellsWf {s : State} (h : CellsWf s) (p t w : Nat) (cells : List (Nat × Byte)) (clean : List Nat) :
    CellsWf (writeBytes s p t w cells clean) :=
  (writeBytes_rest_same s p t w cells clean).wf (foldl_cellsWf _ (fun _ _ h => writeView_cellsWf h _ _ _ _) _ h)
theorem fillFrame_same (x : Nat × Nat × Nat) (s : State) : SameCells s (fillFrame x s) := ⟨rfl, rfl⟩
/-- A page that becomes resident changes full-empty bits alone. -/
theorem madeResident_same (s t : State) (keys : List Nat) : SameCells t (madeResident s t keys) := by
  unfold madeResident
  split
  · exact ⟨rfl, rfl⟩
  · exact foldl_same (fun t x => fillFrame x t) (fun _ _ => fillFrame_same _ _) _ _
theorem writeHome_cellsWf {s : State} (h : CellsWf s) (p t w : Nat) (cells : List (Nat × Byte)) (clean : List Nat) :
    CellsWf (writeHome s p t w cells clean) := (madeResident_same _ _ _).wf (writeBytes_cellsWf h _ _ _ _ _)

/-- Outside the records that hardware and software share, a write of software leaves its own bytes. -/
theorem softByte_plain {s : State} {k : Nat} (h : recordAccess s k = none) (b : Byte) : softByte s k b = b := by
  simp [softByte, h]
theorem writeHome_plain {s : State} {cells : List (Nat × Byte)} (h : ∀ c ∈ cells, recordAccess s c.1 = none)
    (p t w : Nat) : writeHome s p t w cells = madeResident s (writeBytes s p t w cells) (cells.map (·.1)) := by
  unfold writeHome
  have same : (cells.map fun c => (c.1, softIn s p t c.1 c.2)) = cells := by
    refine (List.map_congr_left fun c hc => ?_).trans (List.map_id _)
    simp [softIn, softByte, h c hc]
  rw [same]

/-- Everything that a write at its home under no view does to the bytes. -/
theorem writeBytes_byte {s : State} (h : CellsWf s) (p w : Nat) (cells : List (Nat × Byte)) (clean : List Nat) (k : Nat) :
    baseByte (writeBytes s p 0 w cells clean) k = lastByte cells k (baseByte s k) := by
  rw [(writeBytes_rest_same s p 0 w cells clean).byte]
  induction cells generalizing s with
  | nil => rfl
  | cons c l ih =>
    rw [List.foldl_cons, writeView_tag0, ih (setBaseByte_cellsWf h _ _), baseByte_setBaseByte h]
    unfold lastByte
    rw [List.foldl_cons]
    simp [eq_comm]

theorem rawWrite_cellsWf {s : State} (h : CellsWf s) (core : Nat) (va : Addr) (bs : List Byte) :
    CellsWf (rawWrite s core va bs) := by
  unfold rawWrite
  refine foldl_cellsWf _ (fun s x hs => ?_) _ h
  split
  · exact writeBytes_cellsWf hs _ _ _ _ _
  · exact hs

theorem landLine_cellsWf {s : State} (h : CellsWf s) (p t w : Nat) (cells : List (Nat × Byte × Bool)) :
    CellsWf (landLine p t w cells s) := by
  unfold landLine; dsimp only
  exact ((foldl_same _ (fun s k => setEmptyView_same _ _ _ _ _) _ _).trans
    (foldl_same _ (fun s k => setPoison_same _ _ _ _ _) _ _)).wf (writeHome_cellsWf h _ _ _ _ _)

theorem physBytes_cellsWf {s : State} (h : CellsWf s) (pa : Nat) (bs : List Byte) : CellsWf (physBytes pa bs s) :=
  ⟨foldl_writeCell_wf _ _ _ h.1, h.2⟩

theorem argCells_wf (l : Launch) (lcs : List LCore) : Memory.wf (argCells l lcs) = true := by
  unfold argCells
  suffices ∀ m, Memory.wf m = true → Memory.wf (lcs.foldl (fun m lc => ((List.range 16).zip (toBytes 16 l.args.toNat)).foldl
      (fun m ib => writeCell m (placeAddr lc.id (48 + ib.1)) ib.2) m) m) = true from this [] rfl
  induction lcs with
  | nil => exact fun _ h => h
  | cons lc lcs ih => exact fun m h => ih _ (foldl_writeCell_wf _ _ _ h)

/-- A change of the launch in front that leaves its local spaces. -/
theorem modLaunch_cellsWf {s : State} (h : CellsWf s) (f : Launch → Launch) (hf : (f s.launch).lmem = s.launch.lmem) :
    CellsWf (s.modLaunch f) := ⟨h.1, hf ▸ h.2⟩

theorem emptyWords_same (s : State) (p t : Nat) (ks : List Nat) : SameCells s (emptyWords p t ks s) :=
  foldl_same _ (fun _ _ => setEmptyView_same _ _ _ _ _) _ _
theorem poisonWords_same (s : State) (p t : Nat) (ks : List Nat) : SameCells s (poisonWords p t ks s) :=
  foldl_same _ (fun _ _ => setPoison_same _ _ _ _ _) _ _
/-- The stores of a chunk's commit keep the form. -/
theorem applyChunk_cellsWf {s : State} (h : CellsWf s) (c : Chunk) : CellsWf (applyChunk c s) :=
  ((emptyWords_same _ _ _ _).trans (poisonWords_same _ _ _ _)).wf (writeHome_cellsWf h _ _ _ _ _)

theorem logEvent_cellsWf {s : State} (h : CellsWf s) (lc sq kind site : Nat) (pred : Option Nat) :
    CellsWf (logEvent s lc sq kind site pred) := by
  unfold logEvent; dsimp only
  split
  · split
    · exact h
    · refine modLaunch_cellsWf (rawWrite_cellsWf ?_ _ _ _) _ rfl
      exact modLaunch_cellsWf h _ rfl
  · split <;> exact h

theorem modCore_cellsWf {s : State} (h : CellsWf s) (i : Nat) (f : Core → Core) : CellsWf (s.modCore i f) := by
  unfold State.modCore; repeat' split
  all_goals exact h
theorem raiseVector_same (p k : Nat) (s : State) : SameCells s (raiseVector p k s) := ⟨rfl, rfl⟩
theorem trigger_same (g : BitVec 16) (i : Nat) (s : State) : SameCells s (trigger g i s) := ⟨rfl, rfl⟩
theorem haltCore_cellsWf {s : State} (h : CellsWf s) (i : Nat) : CellsWf (haltCore i s) :=
  ((trigger_same _ _ _).trans (raiseVector_same _ _ _)).wf (modCore_cellsWf h _ _)

theorem queueRecord_cellsWf {s : State} (h : CellsWf s) (r : TrapRec) : CellsWf (queueRecord r s) := by
  have hw : ∀ (s : State), CellsWf s → ∀ i p b j v c, CellsWf (rawWrite (rawWrite s i p b) j v c) :=
    fun s h _ _ _ _ _ _ => rawWrite_cellsWf (rawWrite_cellsWf h _ _ _) _ _ _
  have h' : CellsWf { s with trapWait := s.trapWait ++ [r] } := h
  unfold queueRecord; dsimp only
  repeat' split
  all_goals first
    | exact h
    | exact (raiseVector_same _ _ _).wf (modCore_cellsWf (hw _ h _ _ _ _ _ _) _ _)
    | exact haltCore_cellsWf (rawWrite_cellsWf h' _ _ _) _

theorem endLaunch_cellsWf {s : State} (h : CellsWf s) (r : TrapRec) (st : Byte) : CellsWf (endLaunch r st s) := by
  unfold endLaunch; split
  · exact h
  · exact queueRecord_cellsWf (modLaunch_cellsWf h _ rfl) r

end Sys2Proof.Machine
end

