-- ==== Sys2Proof/Laws/Ops.lean ====
section
/-! SUPPORT. What the shared operations answer, once for each: readers and writers of registers and operands, and the
frame around a meaning's body. -/

namespace Sys2Proof.Machine

/-! The monad of bodies. -/

@[simp] theorem run_pure {α : Type} (a : α) (s : State) : (pure a : Run α) s = .ok (a, s) := rfl
@[simp] theorem run_bind {α β : Type} (x : Run α) (f : α → Run β) (s : State) :
    (x >>= f) s = match x s with
      | .ok (a, t) => f a t
      | .error e => .error e := by
  simp only [bind, StateT.bind, Except.bind]; cases x s <;> rfl
@[simp] theorem run_map {α β : Type} (f : α → β) (x : Run α) (s : State) :
    (f <$> x) s = match x s with
      | .ok (a, t) => .ok (f a, t)
      | .error e => .error e := by
  simp only [Functor.map, StateT.map, bind, Except.bind, pure, Except.pure]; cases x s <;> rfl
@[simp] theorem run_get (s : State) : (get : Run State) s = .ok (s, s) := rfl
@[simp] theorem run_set (t s : State) : (set t : Run Unit) s = .ok ((), t) := rfl
@[simp] theorem run_modify (f : State → State) (s : State) : (modify f : Run Unit) s = .ok ((), f s) := rfl
@[simp] theorem run_throw {α : Type} (e : Stop) (s : State) : (throw e : Run α) s = .error e := rfl
@[simp] theorem run_ite {α : Type} (c : Prop) [Decidable c] (x y : Run α) (s : State) :
    (if c then x else y) s = if c then x s else y s := by split <;> rfl
theorem run_require (b : Bool) (c : Byte) (a : Addr) (s : State) :
    require b c a s = if b then .ok ((), s) else .error (.fault c a) := by
  cases b <;> rfl

/-! Registers. -/

theorem readG_ok {s : State} {n : GReg} (h : Readable s n) : readG n s = .ok (gval s n, s) := by
  by_cases h0 : n = 0
  · simp [readG, gval, h0]
  · obtain h | ⟨h1, h2, h3⟩ := h
    · exact absurd h h0
    · simp only [readG, gval, run_bind, run_get, h1, h2, h3, Bool.false_eq_true, if_false, run_pure, run_ite]
      split <;> rfl

theorem writeG_ok {s : State} {n : GReg} (v : Word) (h : Writable s n) : writeG n v s = .ok ((), putG n v s) := by
  by_cases h0 : n = 0
  · simp [writeG, putG, h0]
  · obtain h | h := h
    · exact absurd h h0
    · simp [writeG, putG, h]

theorem readP_ok {s : State} {n : BitVec 4} (h : PReadable s n) : readP n s = .ok (pval s n, s) := by
  simp only [readP, run_bind, run_get, h, Bool.false_eq_true, if_false]; rfl

theorem writeP_ok (s : State) (n : BitVec 4) (v : Addr) : writeP n v s = .ok ((), putP n v s) := rfl
theorem readQ_ok (s : State) (n : BitVec 3) : readQ n s = .ok (qval s n, s) := rfl
theorem writeQ_ok (s : State) (n : BitVec 3) (b : Bool) : writeQ n b s = .ok ((), putQ n b s) := rfl
theorem setNpc_ok (s : State) (v : Addr) : setNpc v s = .ok ((), s.modCur fun a => { a with npc := v }) := rfl

/-! Chunks. -/

theorem endChunk_ok {s : State} (h : ChunkEmpty s) : endChunk s = .ok ((), s) := by
  simp [endChunk, h.1, h.2.1, h.2.2.1, h.2.2.2.2.1]
theorem closeAfter_ok (s : State) : closeAfter s = .ok ((), closing s) := rfl
theorem betweenChunks_ok {s : State} (h : ChunkEmpty s) : betweenChunks s = .ok ((), closing s) := by
  simp [betweenChunks, endChunk_ok h, releaseOver, h.2.2.2.2.2, closeAfter_ok]

/-! Operands. -/

theorem readOp_ok {o : GOp} {s t : State} {v : Word} (h : Reads o s v t) : readOp o s = .ok (v, t) := by
  cases o with
  | reg n => obtain ⟨h1, rfl, rfl⟩ := h; exact readG_ok h1
  | port d =>
    obtain ⟨h1, rest, h2, rfl⟩ := h
    have h2' : ((closing s).getLc (closing s).cur.lcore).ports[dirIx d] = v :: rest := h2
    simp only [readOp, portRead, run_bind, betweenChunks_ok h1, run_get, h2', run_modify, run_pure]
    rfl

theorem writeOp_ok {o : GOp} {s t : State} {v : Word} (h : Writes o v s t) : writeOp o v s = .ok ((), t) := by
  cases o with
  | reg n => obtain ⟨h1, rfl⟩ := h; exact writeG_ok v h1
  | port d =>
    obtain ⟨h1, h2, rfl⟩ := h
    have h2' : ¬ 4 ≤ portHeld (closing s) (neighbour (max 1 (closing s).launch.l) (closing s).launch.w
        (closing s).cur.lcore d) (dirIx (opposite d)) := Nat.not_le.2 h2
    simp only [writeOp, portWrite, run_bind, betweenChunks_ok h1, run_get, run_ite]
    rw [if_neg h2']
    rfl

theorem writeQDst_ok {o : QDst} {s t : State} {b : Bool} (h : WritesQ o b s t) : writeQDst o b s = .ok ((), t) := by
  cases o with
  | q n => subst h; rfl
  | bq q =>
    obtain ⟨h1, h2⟩ := h
    simp only [writeQDst, run_bind, betweenChunks_ok h1, run_get, run_ite]
    by_cases hq : s.launch.mode = .quantum ∧ s.cur.seq ≠ .s
    · have hc : (closing s).launch.mode = .quantum ∧ (closing s).cur.seq ≠ .s := hq
      rw [if_pos hq] at h2
      obtain ⟨h2, rfl⟩ := h2
      rw [if_pos hc]
      exact if_neg (Nat.not_le.2 h2)
    · have hc : ¬ ((closing s).launch.mode = .quantum ∧ (closing s).cur.seq ≠ .s) := hq
      rw [if_neg hq] at h2
      obtain ⟨h2, rfl⟩ := h2
      rw [if_neg hc]
      exact if_neg (Nat.not_le.2 h2)

/-! The frame around a body. -/

theorem retire_open {s : State} (h : s.cur.chunk.closed = false) : retire s = .done (advance s) := by
  simp [retire, advance, h, State.modCur]

theorem retire_alone {s : State} (h : ChunkEmpty s) (hc : s.cur.chunk.closed = true) :
    retire s = .done (advanceAlone s) := by
  obtain ⟨h1, h2, h3, h4, -, -⟩ := h
  simp [retire, advanceAlone, freshChunk, Agent.newChunk, h1, h2, h3, h4, hc, State.modCur, commitChunk]

theorem modLc_cur (s : State) (n : Nat) (f : LCore → LCore) : (s.modLc n f).cur = s.cur := by
  simp only [State.modLc, State.modLaunch]; repeat (first | rfl | split)
theorem modLc_core (s : State) (n : Nat) (f : LCore → LCore) : (s.modLc n f).core = s.core := by
  simp only [State.modLc, State.modLaunch]; repeat (first | rfl | split)

theorem putG_chunk (n : GReg) (v : Word) (s : State) : (putG n v s).cur.chunk = s.cur.chunk := rfl
theorem putP_chunk (n : BitVec 4) (v : Addr) (s : State) : (putP n v s).cur.chunk = s.cur.chunk := rfl
theorem putQ_chunk (n : BitVec 3) (b : Bool) (s : State) : (putQ n b s).cur.chunk = s.cur.chunk := rfl

theorem reads_tidy {o : GOp} {s t : State} {v : Word} (h : Reads o s v t) (hs : Tidy s) : Tidy t := by
  cases o with
  | reg n => obtain ⟨-, -, rfl⟩ := h; exact hs
  | port d => obtain ⟨h1, rest, -, rfl⟩ := h; right; simp only [ChunkEmpty, modLc_cur]; exact h1
theorem writes_tidy {o : GOp} {s t : State} {v : Word} (h : Writes o v s t) (hs : Tidy s) : Tidy t := by
  cases o with
  | reg n => obtain ⟨-, rfl⟩ := h; exact hs
  | port d => obtain ⟨h1, -, rfl⟩ := h; exact .inr h1
theorem writesQ_tidy {o : QDst} {s t : State} {b : Bool} (h : WritesQ o b s t) (hs : Tidy s) : Tidy t := by
  cases o with
  | q n => subst h; exact hs
  | bq q =>
    obtain ⟨h1, h2⟩ := h
    split at h2 <;> obtain ⟨-, rfl⟩ := h2 <;> exact .inr h1

/-- A readable register stays writable when an operand has been read. -/
theorem reads_writable {o : GOp} {s t : State} {v : Word} {n : GReg} (h : Reads o s v t) (hn : Readable s n) :
    Writable t n := by
  cases o with
  | reg m => obtain ⟨-, -, rfl⟩ := h; exact hn.imp id fun h => h.2.1
  | port d =>
    obtain ⟨-, rest, -, rfl⟩ := h
    refine hn.imp id fun h => ?_
    simp only [vectorMarks, modLc_cur, modLc_core]; exact h.2.1

/-- What a body that answers makes of the step: the issue completes. -/
theorem issue_ok {l : Legal} {body : Run Unit} {s t : State} (hr : Ready l s) (hb : body s = .ok ((), t))
    (ht : Tidy t) : issue l body s = .next (finish t) := by
  obtain ⟨ha, hn, -⟩ := hr
  have hn' : ¬ Config.chunkInstrs ≤ s.cur.chunk.count := Nat.not_le.2 hn
  simp only [issue, ha, if_true, runBody, hn', if_false, hb, conclude]
  cases hc : t.cur.chunk.closed with
  | false => simp [retire_open hc, finish, hc]
  | true =>
    obtain h | h := ht
    · rw [hc] at h; cases h
    · simp [retire_alone h hc, finish, hc]

end Sys2Proof.Machine
end

