-- ==== Sys2Proof/Laws/PerInstr.lean ====
section
/-! SUPPORT. Statements about every constructor of `Instr`: which have words. -/

namespace Sys2Proof

/-- A well-formed instruction has words; an event is not well-formed (spec/10 R172). -/
def Laws.HasWords.Statement (i : Instr) : Prop := wellFormed i = true → (encode i).isSome = true

namespace Laws.HasWords

theorem nop : Statement .nop := fun _ => rfl
theorem ret : Statement .ret := fun _ => rfl
theorem yield : Statement .yield := fun _ => rfl
theorem rtu : Statement .rtu := fun _ => rfl
theorem follow : Statement .follow := fun _ => rfl
theorem trap (code : Byte) : Statement (.trap code) := fun _ => rfl
theorem chunk : Statement .chunk := fun _ => rfl
theorem b (off : Word) : Statement (.b off) := fun _ => rfl
theorem call (off : Word) : Statement (.call off) := fun _ => rfl
theorem j (p : BitVec 4) : Statement (.j p) := fun _ => rfl
theorem callP (p : BitVec 4) : Statement (.callP p) := fun _ => rfl
theorem loop (g : GReg) (off : Word) : Statement (.loop g off) := fun _ => rfl
theorem bc (q : BitVec 3) (off : Word) : Statement (.bc q off) := fun _ => rfl
theorem bcN (q : BitVec 3) (off : Word) : Statement (.bcN q off) := fun _ => rfl
theorem bq (off : Word) : Statement (.bq off) := fun _ => rfl
theorem bqp (q : QDst) : Statement (.bqp q) := fun _ => rfl
theorem sleep (d : BitVec 3) : Statement (.sleep d) := fun _ => rfl
theorem waitc (k : BitVec 4) (g : GOp) : Statement (.waitc k g) := fun _ => rfl
theorem waitcSub (k : BitVec 4) (g : GOp) : Statement (.waitcSub k g) := fun _ => rfl
theorem fenceAcq : Statement .fenceAcq := fun _ => rfl
theorem fenceRel : Statement .fenceRel := fun _ => rfl
theorem fenceFull : Statement .fenceFull := fun _ => rfl
theorem flush : Statement .flush := fun _ => rfl
theorem add (r : RR) : Statement (.add r) := fun _ => rfl
theorem sub (r : RR) : Statement (.sub r) := fun _ => rfl
theorem and (r : RR) : Statement (.and r) := fun _ => rfl
theorem or (r : RR) : Statement (.or r) := fun _ => rfl
theorem xor (r : RR) : Statement (.xor r) := fun _ => rfl
theorem andn (r : RR) : Statement (.andn r) := fun _ => rfl
theorem min (r : RR) : Statement (.min r) := fun _ => rfl
theorem max (r : RR) : Statement (.max r) := fun _ => rfl
theorem minu (r : RR) : Statement (.minu r) := fun _ => rfl
theorem maxu (r : RR) : Statement (.maxu r) := fun _ => rfl
theorem mul (r : RR) : Statement (.mul r) := fun _ => rfl
theorem mulh (r : RR) : Statement (.mulh r) := fun _ => rfl
theorem mulhu (r : RR) : Statement (.mulhu r) := fun _ => rfl
theorem clmul (r : RR) : Statement (.clmul r) := fun _ => rfl
theorem clmulh (r : RR) : Statement (.clmulh r) := fun _ => rfl
theorem insr (a : GReg) (b : GOp) (pos len1 : BitVec 6) : Statement (.insr a b pos len1) := fun _ => rfl
theorem div (r : RR) : Statement (.div r) := fun _ => rfl
theorem divu (r : RR) : Statement (.divu r) := fun _ => rfl
theorem rem (r : RR) : Statement (.rem r) := fun _ => rfl
theorem remu (r : RR) : Statement (.remu r) := fun _ => rfl
theorem shl (r : RR) : Statement (.shl r) := fun _ => rfl
theorem shr (r : RR) : Statement (.shr r) := fun _ => rfl
theorem sar (r : RR) : Statement (.sar r) := fun _ => rfl
theorem rol (r : RR) : Statement (.rol r) := fun _ => rfl
theorem mov (r : RU) : Statement (.mov r) := fun _ => rfl
theorem neg (r : RU) : Statement (.neg r) := fun _ => rfl
theorem abs (r : RU) : Statement (.abs r) := fun _ => rfl
theorem popc (r : RU) : Statement (.popc r) := fun _ => rfl
theorem clz (r : RU) : Statement (.clz r) := fun _ => rfl
theorem ctz (r : RU) : Statement (.ctz r) := fun _ => rfl
theorem bswap (r : RU) : Statement (.bswap r) := fun _ => rfl
theorem extr (d b : GOp) (pos len1 : BitVec 6) : Statement (.extr d b pos len1) := fun _ => rfl
theorem sel (k : BitVec 3) (d b : GOp) (c : GReg) : Statement (.sel k d b c) := fun _ => rfl
theorem addi (g : GReg) (imm : Word) : Statement (.addi g imm) := fun _ => rfl
theorem ldi (g : GOp) (imm : Word) : Statement (.ldi g imm) := fun _ => rfl
theorem ldih (g : GReg) (imm : BitVec 32) : Statement (.ldih g imm) := fun _ => rfl
theorem shlImm (g : GReg) (n : BitVec 6) : Statement (.shlImm g n) := fun _ => rfl
theorem shrImm (g : GReg) (n : BitVec 6) : Statement (.shrImm g n) := fun _ => rfl
theorem sarImm (g : GReg) (n : BitVec 6) : Statement (.sarImm g n) := fun _ => rfl
theorem rolImm (g : GReg) (n : BitVec 6) : Statement (.rolImm g n) := fun _ => rfl
theorem paddi (p : BitVec 4) (imm : Word) : Statement (.paddi p imm) := fun _ => rfl
theorem cmp (cc : BitVec 3) (q : QDst) (b : GOp) (c : Option GReg) : Statement (.cmp cc q b c) := fun _ => rfl
theorem cmpi (cc : BitVec 3) (q : QDst) (b : GOp) (imm : Word) : Statement (.cmpi cc q b imm) := fun _ => rfl
theorem padd (r : PaddArgs) : Statement (.padd r) := fun _ => rfl
theorem pset (p : BitVec 4) (g : GOp) (c : Option GReg) : Statement (.pset p g c) := fun _ => rfl
theorem pget (g : GOp) (p : BitVec 4) : Statement (.pget g p) := fun _ => rfl
theorem pgetHi (g : GOp) (p : BitVec 4) : Statement (.pgetHi g p) := fun _ => rfl
theorem pmake (p : BitVec 4) (g : GOp) (c : Option GReg) : Statement (.pmake p g c) := fun _ => rfl
theorem qand (a b : BitVec 3) : Statement (.qand a b) := fun _ => rfl
theorem qor (a b : BitVec 3) : Statement (.qor a b) := fun _ => rfl
theorem qnot (a : QDst) (b : BitVec 3) : Statement (.qnot a b) := fun _ => rfl
theorem pcmp (cc : BitVec 2) (q : QDst) (b : BitVec 4) (c : Option (BitVec 4)) : Statement (.pcmp cc q b c) := fun _ => rfl
theorem qset (q : QDst) (v : Bool) : Statement (.qset q v) := fun _ => rfl
theorem faddF64 (r : RR) : Statement (.faddF64 r) := fun _ => rfl
theorem fsubF64 (r : RR) : Statement (.fsubF64 r) := fun _ => rfl
theorem fmulF64 (r : RR) : Statement (.fmulF64 r) := fun _ => rfl
theorem ffmaF64 (a : GReg) (b : GOp) (c : GReg) : Statement (.ffmaF64 a b c) := fun _ => rfl
theorem fdivF64 (r : RR) : Statement (.fdivF64 r) := fun _ => rfl
theorem fsqrtF64 (r : RU) : Statement (.fsqrtF64 r) := fun _ => rfl
theorem fminF64 (r : RR) : Statement (.fminF64 r) := fun _ => rfl
theorem fmaxF64 (r : RR) : Statement (.fmaxF64 r) := fun _ => rfl
theorem faddF32 (r : RR) : Statement (.faddF32 r) := fun _ => rfl
theorem fsubF32 (r : RR) : Statement (.fsubF32 r) := fun _ => rfl
theorem fmulF32 (r : RR) : Statement (.fmulF32 r) := fun _ => rfl
theorem ffmaF32 (a : GReg) (b : GOp) (c : GReg) : Statement (.ffmaF32 a b c) := fun _ => rfl
theorem fdivF32 (r : RR) : Statement (.fdivF32 r) := fun _ => rfl
theorem fsqrtF32 (r : RU) : Statement (.fsqrtF32 r) := fun _ => rfl
theorem fminF32 (r : RR) : Statement (.fminF32 r) := fun _ => rfl
theorem fmaxF32 (r : RR) : Statement (.fmaxF32 r) := fun _ => rfl
theorem faddF16 (r : RR) : Statement (.faddF16 r) := fun _ => rfl
theorem fsubF16 (r : RR) : Statement (.fsubF16 r) := fun _ => rfl
theorem fmulF16 (r : RR) : Statement (.fmulF16 r) := fun _ => rfl
theorem ffmaF16 (a : GReg) (b : GOp) (c : GReg) : Statement (.ffmaF16 a b c) := fun _ => rfl
theorem fdivF16 (r : RR) : Statement (.fdivF16 r) := fun _ => rfl
theorem fsqrtF16 (r : RU) : Statement (.fsqrtF16 r) := fun _ => rfl
theorem fminF16 (r : RR) : Statement (.fminF16 r) := fun _ => rfl
theorem fmaxF16 (r : RR) : Statement (.fmaxF16 r) := fun _ => rfl
theorem faddBf16 (r : RR) : Statement (.faddBf16 r) := fun _ => rfl
theorem fsubBf16 (r : RR) : Statement (.fsubBf16 r) := fun _ => rfl
theorem fmulBf16 (r : RR) : Statement (.fmulBf16 r) := fun _ => rfl
theorem ffmaBf16 (a : GReg) (b : GOp) (c : GReg) : Statement (.ffmaBf16 a b c) := fun _ => rfl
theorem fdivBf16 (r : RR) : Statement (.fdivBf16 r) := fun _ => rfl
theorem fsqrtBf16 (r : RU) : Statement (.fsqrtBf16 r) := fun _ => rfl
theorem fminBf16 (r : RR) : Statement (.fminBf16 r) := fun _ => rfl
theorem fmaxBf16 (r : RR) : Statement (.fmaxBf16 r) := fun _ => rfl
theorem fcmpF64 (cc : BitVec 2) (q : QDst) (b : GOp) (c : Option GReg) : Statement (.fcmpF64 cc q b c) := fun _ => rfl
theorem fcmpF32 (cc : BitVec 2) (q : QDst) (b : GOp) (c : Option GReg) : Statement (.fcmpF32 cc q b c) := fun _ => rfl
theorem fcmpF16 (cc : BitVec 2) (q : QDst) (b : GOp) (c : Option GReg) : Statement (.fcmpF16 cc q b c) := fun _ => rfl
theorem fcmpBf16 (cc : BitVec 2) (q : QDst) (b : GOp) (c : Option GReg) : Statement (.fcmpBf16 cc q b c) := fun _ => rfl
theorem fcvt (dst src : BitVec 3) (sat : Bool) (d b : GOp) : Statement (.fcvt dst src sat d b) := fun _ => rfl
theorem fclass (f : FFmt) (r : RU) : Statement (.fclass f r) := fun _ => rfl
theorem fmov (f : FFmt) (r : RU) : Statement (.fmov f r) := fun _ => rfl
theorem ld (sz : Size) (g : GOp) (base : PBase) (disp : Word) : Statement (.ld sz g base disp) := fun _ => rfl
theorem ldWr (sz : Size) (g : GOp) (base : PBase) (disp : Word) : Statement (.ldWr sz g base disp) := fun _ => rfl
theorem lds (sz : Size) (g : GOp) (base : PBase) (disp : Word) : Statement (.lds sz g base disp) := fun _ => rfl
theorem ldsWr (sz : Size) (g : GOp) (base : PBase) (disp : Word) : Statement (.ldsWr sz g base disp) := fun _ => rfl
theorem st (sz : Size) (g : GOp) (base : PBase) (disp : Word) : Statement (.st sz g base disp) := fun _ => rfl
theorem stRel (sz : Size) (g : GOp) (base : PBase) (disp : Word) : Statement (.stRel sz g base disp) := fun _ => rfl
theorem ldAcq (sz : Size) (g : GOp) (base : PBase) (disp : Word) : Statement (.ldAcq sz g base disp) := fun _ => rfl
theorem ldq (g : GReg) (base : PBase) (disp : Word) : Statement (.ldq g base disp) := fun _ => rfl
theorem ldqWr (g : GReg) (base : PBase) (disp : Word) : Statement (.ldqWr g base disp) := fun _ => rfl
theorem ldqAcq (g : GReg) (base : PBase) (disp : Word) : Statement (.ldqAcq g base disp) := fun _ => rfl
theorem ldsync (sz : Size) (g : GOp) (base : PBase) (disp : Word) : Statement (.ldsync sz g base disp) := fun _ => rfl
theorem clre (p : BitVec 4) (g : GOp) : Statement (.clre p g) := fun _ => rfl
theorem pref (p : BitVec 4) (disp : Word) : Statement (.pref p disp) := fun _ => rfl
theorem pin (st : GOp) (p : BitVec 4) (len : GReg) : Statement (.pin st p len) := fun _ => rfl
theorem unpin (p : BitVec 4) (g : GOp) : Statement (.unpin p g) := fun _ => rfl
theorem ldp (p : BitVec 4) (base : PBase) (disp : Word) : Statement (.ldp p base disp) := fun _ => rfl
theorem ldpWr (p : BitVec 4) (base : PBase) (disp : Word) : Statement (.ldpWr p base disp) := fun _ => rfl
theorem ldpAcq (p : BitVec 4) (base : PBase) (disp : Word) : Statement (.ldpAcq p base disp) := fun _ => rfl
theorem stp (p : BitVec 4) (base : PBase) (disp : Word) : Statement (.stp p base disp) := fun _ => rfl
theorem stpRel (p : BitVec 4) (base : PBase) (disp : Word) : Statement (.stpRel p base disp) := fun _ => rfl
theorem aAdd (a : GOp) (base : PBase) (c : GReg) : Statement (.aAdd a base c) := fun _ => rfl
theorem aAnd (a : GOp) (base : PBase) (c : GReg) : Statement (.aAnd a base c) := fun _ => rfl
theorem aOr (a : GOp) (base : PBase) (c : GReg) : Statement (.aOr a base c) := fun _ => rfl
theorem aXor (a : GOp) (base : PBase) (c : GReg) : Statement (.aXor a base c) := fun _ => rfl
theorem aMin (a : GOp) (base : PBase) (c : GReg) : Statement (.aMin a base c) := fun _ => rfl
theorem aMax (a : GOp) (base : PBase) (c : GReg) : Statement (.aMax a base c) := fun _ => rfl
theorem aSwap (a : GOp) (base : PBase) (c : GReg) : Statement (.aSwap a base c) := fun _ => rfl
theorem aCas (a : GReg) (base : PBase) (c : GReg) : Statement (.aCas a base c) := fun _ => rfl
theorem aAddAcq (a : GOp) (base : PBase) (c : GReg) : Statement (.aAddAcq a base c) := fun _ => rfl
theorem aAndAcq (a : GOp) (base : PBase) (c : GReg) : Statement (.aAndAcq a base c) := fun _ => rfl
theorem aOrAcq (a : GOp) (base : PBase) (c : GReg) : Statement (.aOrAcq a base c) := fun _ => rfl
theorem aXorAcq (a : GOp) (base : PBase) (c : GReg) : Statement (.aXorAcq a base c) := fun _ => rfl
theorem aMinAcq (a : GOp) (base : PBase) (c : GReg) : Statement (.aMinAcq a base c) := fun _ => rfl
theorem aMaxAcq (a : GOp) (base : PBase) (c : GReg) : Statement (.aMaxAcq a base c) := fun _ => rfl
theorem aSwapAcq (a : GOp) (base : PBase) (c : GReg) : Statement (.aSwapAcq a base c) := fun _ => rfl
theorem aCasAcq (a : GReg) (base : PBase) (c : GReg) : Statement (.aCasAcq a base c) := fun _ => rfl
theorem aAddRel (a : GOp) (base : PBase) (c : GReg) : Statement (.aAddRel a base c) := fun _ => rfl
theorem aAndRel (a : GOp) (base : PBase) (c : GReg) : Statement (.aAndRel a base c) := fun _ => rfl
theorem aOrRel (a : GOp) (base : PBase) (c : GReg) : Statement (.aOrRel a base c) := fun _ => rfl
theorem aXorRel (a : GOp) (base : PBase) (c : GReg) : Statement (.aXorRel a base c) := fun _ => rfl
theorem aMinRel (a : GOp) (base : PBase) (c : GReg) : Statement (.aMinRel a base c) := fun _ => rfl
theorem aMaxRel (a : GOp) (base : PBase) (c : GReg) : Statement (.aMaxRel a base c) := fun _ => rfl
theorem aSwapRel (a : GOp) (base : PBase) (c : GReg) : Statement (.aSwapRel a base c) := fun _ => rfl
theorem aCasRel (a : GReg) (base : PBase) (c : GReg) : Statement (.aCasRel a base c) := fun _ => rfl
theorem rAdd (a : GOp) (base : PBase) (disp : Word) : Statement (.rAdd a base disp) := fun _ => rfl
theorem rMin (a : GOp) (base : PBase) (disp : Word) : Statement (.rMin a base disp) := fun _ => rfl
theorem rMax (a : GOp) (base : PBase) (disp : Word) : Statement (.rMax a base disp) := fun _ => rfl
theorem rAnd (a : GOp) (base : PBase) (disp : Word) : Statement (.rAnd a base disp) := fun _ => rfl
theorem rOr (a : GOp) (base : PBase) (disp : Word) : Statement (.rOr a base disp) := fun _ => rfl
theorem rXor (a : GOp) (base : PBase) (disp : Word) : Statement (.rXor a base disp) := fun _ => rfl
theorem rAddF64 (a : GOp) (base : PBase) (disp : Word) : Statement (.rAddF64 a base disp) := fun _ => rfl
theorem rAddF32 (a : GOp) (base : PBase) (disp : Word) : Statement (.rAddF32 a base disp) := fun _ => rfl
theorem vsett (g : GOp) : Statement (.vsett g) := fun _ => rfl
theorem mand (r : MM) : Statement (.mand r) := fun _ => rfl
theorem mor (r : MM) : Statement (.mor r) := fun _ => rfl
theorem mnot (a b : BitVec 3) : Statement (.mnot a b) := fun _ => rfl
theorem mpop (g : GOp) (m : BitVec 3) : Statement (.mpop g m) := fun _ => rfl
theorem compress (a b : BitVec 5) : Statement (.compress a b) := fun _ => rfl
theorem vadd (gm : BitVec 3) (r : VV) : Statement (.vadd gm r) := fun _ => rfl
theorem vsub (gm : BitVec 3) (r : VV) : Statement (.vsub gm r) := fun _ => rfl
theorem vmul (gm : BitVec 3) (r : VV) : Statement (.vmul gm r) := fun _ => rfl
theorem vfma (gm : BitVec 3) (a b c : BitVec 5) : Statement (.vfma gm a b c) := fun _ => rfl
theorem vdiv (gm : BitVec 3) (r : VV) : Statement (.vdiv gm r) := fun _ => rfl
theorem vsqrt (gm : BitVec 3) (a b : BitVec 5) : Statement (.vsqrt gm a b) := fun _ => rfl
theorem vmin (gm : BitVec 3) (r : VV) : Statement (.vmin gm r) := fun _ => rfl
theorem vmax (gm : BitVec 3) (r : VV) : Statement (.vmax gm r) := fun _ => rfl
theorem vand (gm : BitVec 3) (r : VV) : Statement (.vand gm r) := fun _ => rfl
theorem vor (gm : BitVec 3) (r : VV) : Statement (.vor gm r) := fun _ => rfl
theorem vxor (gm : BitVec 3) (r : VV) : Statement (.vxor gm r) := fun _ => rfl
theorem vshl (gm : BitVec 3) (r : VV) : Statement (.vshl gm r) := fun _ => rfl
theorem vshr (gm : BitVec 3) (r : VV) : Statement (.vshr gm r) := fun _ => rfl
theorem vsar (gm : BitVec 3) (r : VV) : Statement (.vsar gm r) := fun _ => rfl
theorem vcmp (gm : BitVec 3) (cc : BitVec 3) (md : BitVec 3) (b c : BitVec 5) : Statement (.vcmp gm cc md b c) := fun _ => rfl
theorem vsel (gm : BitVec 3) (a b c : BitVec 5) : Statement (.vsel gm a b c) := fun _ => rfl
theorem vmov (gm : BitVec 3) (a b : BitVec 5) : Statement (.vmov gm a b) := fun _ => rfl
theorem vbcast (gm : BitVec 3) (a : BitVec 5) (g : GOp) : Statement (.vbcast gm a g) := fun _ => rfl
theorem vld (gm : BitVec 3) (a : BitVec 5) (base : PBase) (disp : Word) : Statement (.vld gm a base disp) := fun _ => rfl
theorem vst (gm : BitVec 3) (a : BitVec 5) (base : PBase) (disp : Word) : Statement (.vst gm a base disp) := fun _ => rfl
theorem vlds (gm : BitVec 3) (a : BitVec 5) (base : PBase) (c : GReg) : Statement (.vlds gm a base c) := fun _ => rfl
theorem vsts (gm : BitVec 3) (a : BitVec 5) (base : PBase) (c : GReg) : Statement (.vsts gm a base c) := fun _ => rfl
theorem vgather (gm : BitVec 3) (a : BitVec 5) (base : PBase) (c : BitVec 5) : Statement (.vgather gm a base c) := fun _ => rfl
theorem vscatter (gm : BitVec 3) (a : BitVec 5) (base : PBase) (c : BitVec 5) : Statement (.vscatter gm a base c) := fun _ => rfl
theorem vred (gm : BitVec 3) (op : BitVec 3) (g : GOp) (b : BitVec 5) : Statement (.vred gm op g b) := fun _ => rfl
theorem vscan (gm : BitVec 3) (op : BitVec 3) (a b : BitVec 5) : Statement (.vscan gm op a b) := fun _ => rfl
theorem vperm (gm : BitVec 3) (a b c : BitVec 5) : Statement (.vperm gm a b c) := fun _ => rfl
theorem vshuf (gm : BitVec 3) (a b c : BitVec 5) : Statement (.vshuf gm a b c) := fun _ => rfl
theorem vcvt (gm : BitVec 3) (f : BitVec 4) (sat : Bool) (a b : BitVec 5) : Statement (.vcvt gm f sat a b) := fun _ => rfl
theorem vqnt (gm : BitVec 3) (f : BitVec 4) (sat : Bool) (a b : BitVec 5) : Statement (.vqnt gm f sat a b) := fun _ => rfl
theorem mma (t : BitVec 2) (p : BitVec 4) (c : GReg) : Statement (.mma t p c) := fun _ => rfl
theorem mmas (t : BitVec 2) (p : BitVec 4) (c : GReg) : Statement (.mmas t p c) := fun _ => rfl
theorem mzero (t : BitVec 2) : Statement (.mzero t) := fun _ => rfl
theorem mcommit : Statement .mcommit := fun _ => rfl
theorem mwaitb (n : Byte) : Statement (.mwaitb n) := fun _ => rfl
theorem mtrn (t u : BitVec 2) : Statement (.mtrn t u) := fun _ => rfl
theorem accrd (t : BitVec 2) (p : BitVec 4) (c : GReg) : Statement (.accrd t p c) := fun _ => rfl
theorem accwr (t : BitVec 2) (p : BitVec 4) (c : GReg) : Statement (.accwr t p c) := fun _ => rfl
theorem wload (p : BitVec 4) (g : GOp) : Statement (.wload p g) := fun _ => rfl
theorem dict (p : BitVec 4) : Statement (.dict p) := fun _ => rfl
theorem copy (d : BitVec 3) (cnt : Option (BitVec 4)) (dst : WDst) (src : BitVec 4) (g : GReg) : Statement (.copy d cnt dst src g) := fun _ => rfl
theorem copym (d : BitVec 3) (cnt : Option (BitVec 4)) (dst src desc : BitVec 4) : Statement (.copym d cnt dst src desc) := fun _ => rfl
theorem tile (d : BitVec 3) (cnt : Option (BitVec 4)) (dst src desc : BitVec 4) : Statement (.tile d cnt dst src desc) := fun _ => rfl
theorem gather (d : BitVec 3) (cnt : Option (BitVec 4)) (dst src desc : BitVec 4) : Statement (.gather d cnt dst src desc) := fun _ => rfl
theorem mcast (d : BitVec 3) (cnt : Option (BitVec 4)) (dst src desc : BitVec 4) : Statement (.mcast d cnt dst src desc) := fun _ => rfl
theorem hitch (aoff moff : BitVec 9) (mask : Byte) : Statement (.hitch aoff moff mask) := fun _ => rfl
theorem hitchP (pa pm : BitVec 4) (mask : Byte) : Statement (.hitchP pa pm mask) := fun _ => rfl
theorem unhitch : Statement .unhitch := fun _ => rfl
theorem rest : Statement .rest := fun _ => rfl
theorem hcfg (h : BitVec 3) (g : GOp) : Statement (.hcfg h g) := fun _ => rfl
theorem advpG (h : BitVec 3) (g : GOp) : Statement (.advpG h g) := fun _ => rfl
theorem advpN (h : BitVec 3) (n : BitVec 31) : Statement (.advpN h n) := fun _ => rfl
theorem advcG (h : BitVec 3) (g : GOp) : Statement (.advcG h g) := fun _ => rfl
theorem advcN (h : BitVec 3) (n : BitVec 31) : Statement (.advcN h n) := fun _ => rfl
theorem tkt (g : GOp) (h : BitVec 3) (c : Option GReg) : Statement (.tkt g h c) := fun _ => rfl
theorem rfill (g : GOp) (h : BitVec 3) (c : Option GReg) : Statement (.rfill g h c) := fun _ => rfl
theorem rtake (g : GOp) (h : BitVec 3) : Statement (.rtake g h) := fun _ => rfl
theorem pause : Statement .pause := fun _ => rfl
theorem pauseUp : Statement .pauseUp := fun _ => rfl
theorem emit (s : SigOp) : Statement (.emit s) := fun _ => rfl
theorem emitv (s : SigOp) (g : GOp) : Statement (.emitv s g) := fun _ => rfl
theorem test (q : QDst) (s : SigOp) : Statement (.test q s) := fun _ => rfl
theorem testv (q : QDst) (g : GOp) (s : SigOp) : Statement (.testv q g s) := fun _ => rfl
theorem renounce (k : BitVec 3) (g : GOp) : Statement (.renounce k g) := fun _ => rfl
theorem resolve (q : QDst) (s : SigOp) : Statement (.resolve q s) := fun _ => rfl
theorem abortw (s : SigOp) (off : Word) : Statement (.abortw s off) := fun _ => rfl
theorem suspw (s : SigOp) : Statement (.suspw s) := fun _ => rfl
theorem endw : Statement .endw := fun _ => rfl
theorem instn (g : GOp) (l : Lvl) : Statement (.instn g l) := fun _ => rfl
theorem teamj (g : GOp) : Statement (.teamj g) := fun _ => rfl
theorem teaml : Statement .teaml := fun _ => rfl
theorem teamh (p : BitVec 4) (l : Lvl) : Statement (.teamh p l) := fun _ => rfl
theorem cause (g : GOp) : Statement (.cause g) := fun _ => rfl
theorem forkw (g : BitVec 2) (n1 : BitVec 4) : Statement (.forkw g n1) := fun _ => rfl
theorem widx (g : GOp) : Statement (.widx g) := fun _ => rfl
theorem claimw : Statement .claimw := fun _ => rfl
theorem joinw (g : GOp) : Statement (.joinw g) := fun _ => rfl
theorem choosew (q : QDst) (g : GOp) : Statement (.choosew q g) := fun _ => rfl
theorem abandw : Statement .abandw := fun _ => rfl
theorem wstat (g h : GOp) : Statement (.wstat g h) := fun _ => rfl
theorem demand (p : BitVec 4) (h : BitVec 3) (l : Option Lvl) : Statement (.demand p h l) := fun _ => rfl
theorem xgo (p : BitVec 4) : Statement (.xgo p) := fun _ => rfl
theorem xwait : Statement .xwait := fun _ => rfl
theorem xstat (g h : GOp) : Statement (.xstat g h) := fun _ => rfl
theorem profq (g : GOp) : Statement (.profq g) := fun _ => rfl
theorem predw (g : GOp) : Statement (.predw g) := fun _ => rfl
theorem hints : Statement .hints := fun _ => rfl
theorem spawn (gd : GOp) (gk : GReg) (p : BitVec 4) : Statement (.spawn gd gk p) := fun _ => rfl
theorem spawnb (gd : GOp) (gk : GReg) (p : BitVec 4) : Statement (.spawnb gd gk p) := fun _ => rfl
theorem take (gd : GOp) (p : BitVec 4) : Statement (.take gd p) := fun _ => rfl
theorem deal (gd : GOp) (p : BitVec 4) : Statement (.deal gd p) := fun _ => rfl
theorem done : Statement .done := fun _ => rfl
theorem svc (n : Byte) : Statement (.svc n) := fun _ => rfl
theorem crrd (r : CrOp) (cr : BitVec 31) : Statement (.crrd r cr) := fun _ => rfl
theorem crwr (r : CrOp) (cr : BitVec 31) : Statement (.crwr r cr) := fun _ => rfl
theorem plbinv (p : BitVec 4) (g : GOp) : Statement (.plbinv p g) := fun _ => rfl
theorem husk (g : GOp) (p : BitVec 4) : Statement (.husk g p) := fun _ => rfl
theorem unhusk (g : GOp) (p : BitVec 4) : Statement (.unhusk g p) := fun _ => rfl
theorem tret : Statement .tret := fun _ => rfl
theorem haltg (g : GOp) : Statement (.haltg g) := fun _ => rfl
theorem idle : Statement .idle := fun _ => rfl
theorem takeSeed (core : Nat) (slot : Nat) : Statement (.takeSeed core slot) := fun h => Bool.noConfusion h
theorem followAttach (tid : Nat) : Statement (.followAttach tid) := fun h => Bool.noConfusion h
theorem chunkLimit : Statement .chunkLimit := fun h => Bool.noConfusion h
theorem userTrapEntry (tid : Nat) : Statement (.userTrapEntry tid) := fun h => Bool.noConfusion h
theorem vectorQueueExecute (core : Nat) : Statement (.vectorQueueExecute core) := fun h => Bool.noConfusion h
theorem laneGroupGrant (cluster : Nat) : Statement (.laneGroupGrant cluster) := fun h => Bool.noConfusion h
theorem tileOperationStart (core : Nat) : Statement (.tileOperationStart core) := fun h => Bool.noConfusion h
theorem tileOperationFinish (core : Nat) : Statement (.tileOperationFinish core) := fun h => Bool.noConfusion h
theorem engineLineLanding (core : Nat) (k : Nat) : Statement (.engineLineLanding core k) := fun h => Bool.noConfusion h
theorem walkerCommandComplete (core : Nat) (cmd : Nat) : Statement (.walkerCommandComplete core cmd) := fun h => Bool.noConfusion h
theorem promiseDue (tid : Nat) (d : Nat) : Statement (.promiseDue tid d) := fun h => Bool.noConfusion h
theorem neighbourPortDelivery (k : Nat) : Statement (.neighbourPortDelivery k) := fun h => Bool.noConfusion h
theorem postedRequestArrival (k : Nat) : Statement (.postedRequestArrival k) := fun h => Bool.noConfusion h
theorem postedAckArrival (k : Nat) : Statement (.postedAckArrival k) := fun h => Bool.noConfusion h
theorem postedResendTimeout (core : Nat) (place : Nat) (entry : Nat) : Statement (.postedResendTimeout core place entry) := fun h => Bool.noConfusion h
theorem flushMarkerArrival (k : Nat) : Statement (.flushMarkerArrival k) := fun h => Bool.noConfusion h
theorem flushMarkerAnswer (k : Nat) : Statement (.flushMarkerAnswer k) := fun h => Bool.noConfusion h
theorem remoteAccessArrival (tid : Nat) (id : Nat) : Statement (.remoteAccessArrival tid id) := fun h => Bool.noConfusion h
theorem remoteLoadReturn (tid : Nat) (id : Nat) : Statement (.remoteLoadReturn tid id) := fun h => Bool.noConfusion h
theorem remoteRefused (k : Nat) : Statement (.remoteRefused k) := fun h => Bool.noConfusion h
theorem flitHop (pkg node : Nat) : Statement (.flitHop pkg node) := fun h => Bool.noConfusion h
theorem spanLinkFlitReceive (link : Nat) (good : Bool) : Statement (.spanLinkFlitReceive link good) := fun h => Bool.noConfusion h
theorem spanLinkRetrain (link : Nat) (ok : Bool) : Statement (.spanLinkRetrain link ok) := fun h => Bool.noConfusion h
theorem bulkPacketArrival (k : Nat) (room : Bool) : Statement (.bulkPacketArrival k room) := fun h => Bool.noConfusion h
theorem dropNoticeArrival (k : Nat) : Statement (.dropNoticeArrival k) := fun h => Bool.noConfusion h
theorem reservationRequestArrival (k : Nat) : Statement (.reservationRequestArrival k) := fun h => Bool.noConfusion h
theorem grantArrival (k : Nat) : Statement (.grantArrival k) := fun h => Bool.noConfusion h
theorem grantExpiry (k : Nat) : Statement (.grantExpiry k) := fun h => Bool.noConfusion h
theorem incarnationChange (pkg : Nat) : Statement (.incarnationChange pkg) := fun h => Bool.noConfusion h
theorem signalEmitArrival : Statement .signalEmitArrival := fun h => Bool.noConfusion h
theorem maskClearArrival : Statement .maskClearArrival := fun h => Bool.noConfusion h
theorem resolveArrival : Statement .resolveArrival := fun h => Bool.noConfusion h
theorem handlerRegistrationArrival : Statement .handlerRegistrationArrival := fun h => Bool.noConfusion h
theorem causalityTrap (team : Nat) : Statement (.causalityTrap team) := fun h => Bool.noConfusion h
theorem computePhaseEnd (team : Nat) : Statement (.computePhaseEnd team) := fun h => Bool.noConfusion h
theorem instantStart (team : Nat) : Statement (.instantStart team) := fun h => Bool.noConfusion h
theorem claimArrival (k : Nat) : Statement (.claimArrival k) := fun h => Bool.noConfusion h
theorem rivalKill (tid : Nat) : Statement (.rivalKill tid) := fun h => Bool.noConfusion h
theorem viewCommitComplete (wid : Nat) (idx : Nat) : Statement (.viewCommitComplete wid idx) := fun h => Bool.noConfusion h
theorem viewTagFree (pkg : Nat) (tag : Nat) : Statement (.viewTagFree pkg tag) := fun h => Bool.noConfusion h
theorem calendarCompute (team : Nat) : Statement (.calendarCompute team) := fun h => Bool.noConfusion h
theorem calendarArrival (team : Nat) (rank : Nat) : Statement (.calendarArrival team rank) := fun h => Bool.noConfusion h
theorem exchangePhaseStart (team : Nat) (rank : Nat) : Statement (.exchangePhaseStart team rank) := fun h => Bool.noConfusion h
theorem exchangeUnitLanding (team : Nat) (k : Nat) : Statement (.exchangeUnitLanding team k) := fun h => Bool.noConfusion h
theorem exchangeSegmentEnd (team : Nat) (rank : Nat) : Statement (.exchangeSegmentEnd team rank) := fun h => Bool.noConfusion h
theorem residualPhaseStart (team : Nat) : Statement (.residualPhaseStart team) := fun h => Bool.noConfusion h
theorem arbiterHeartbeat (beat : Heartbeat) : Statement (.arbiterHeartbeat beat) := fun h => Bool.noConfusion h
theorem arbiterFailover : Statement .arbiterFailover := fun h => Bool.noConfusion h
theorem spillRefill (die : Nat) : Statement (.spillRefill die) := fun h => Bool.noConfusion h
theorem spillResume (die : Nat) : Statement (.spillResume die) := fun h => Bool.noConfusion h
theorem queueBalance (a : Nat) (b : Nat) : Statement (.queueBalance a b) := fun h => Bool.noConfusion h
theorem handlerSeedSteal (core : Nat) (slot : Nat) : Statement (.handlerSeedSteal core slot) := fun h => Bool.noConfusion h
theorem replayDiverged : Statement .replayDiverged := fun h => Bool.noConfusion h
theorem quantumEnd : Statement .quantumEnd := fun h => Bool.noConfusion h
theorem queueNotify (pkg : Nat) (off : Nat) : Statement (.queueNotify pkg off) := fun h => Bool.noConfusion h
theorem packetDispatch : Statement .packetDispatch := fun h => Bool.noConfusion h
theorem launchAdmit : Statement .launchAdmit := fun h => Bool.noConfusion h
theorem launchCapacityReserve : Statement .launchCapacityReserve := fun h => Bool.noConfusion h
theorem launchStart : Statement .launchStart := fun h => Bool.noConfusion h
theorem launchFaultStop : Statement .launchFaultStop := fun h => Bool.noConfusion h
theorem launchItemAccounting : Statement .launchItemAccounting := fun h => Bool.noConfusion h
theorem crecFinalWrite : Statement .crecFinalWrite := fun h => Bool.noConfusion h
theorem translationRequest (core : Nat) (va : Addr) : Statement (.translationRequest core va) := fun h => Bool.noConfusion h
theorem translationReply (core : Nat) : Statement (.translationReply core) := fun h => Bool.noConfusion h
theorem paddockApply (page : Nat) : Statement (.paddockApply page) := fun h => Bool.noConfusion h
theorem trapRecordRetry : Statement .trapRecordRetry := fun h => Bool.noConfusion h
theorem supervisorEntry (core : Nat) : Statement (.supervisorEntry core) := fun h => Bool.noConfusion h
theorem huskStreamComplete (core : Nat) : Statement (.huskStreamComplete core) := fun h => Bool.noConfusion h
theorem haltGroupMemberHalt (core : Nat) : Statement (.haltGroupMemberHalt core) := fun h => Bool.noConfusion h
theorem hostDebugHalt (core : Nat) : Statement (.hostDebugHalt core) := fun h => Bool.noConfusion h
theorem coreResume (core : Nat) : Statement (.coreResume core) := fun h => Bool.noConfusion h
theorem packageReset (pkg : Nat) : Statement (.packageReset pkg) := fun h => Bool.noConfusion h
theorem firmwareVerify (pkg : Nat) (image : List Byte) : Statement (.firmwareVerify pkg image) := fun h => Bool.noConfusion h
theorem firmwareRetry (pkg : Nat) : Statement (.firmwareRetry pkg) := fun h => Bool.noConfusion h
theorem attestationRequest (pkg : Nat) (nonce : List Byte) : Statement (.attestationRequest pkg nonce) := fun h => Bool.noConfusion h
theorem identityCertRequest (pkg : Nat) : Statement (.identityCertRequest pkg) := fun h => Bool.noConfusion h
theorem partitionChange (pkg : Nat) (plan : List (BitVec 4 × Byte)) : Statement (.partitionChange pkg plan) := fun h => Bool.noConfusion h
theorem errcntClear (pkg : Nat) (k : Nat) : Statement (.errcntClear pkg k) := fun h => Bool.noConfusion h
theorem clusterFailure (pkg : Nat) (u : FailedUnit) : Statement (.clusterFailure pkg u) := fun h => Bool.noConfusion h
theorem checkpointStream (part : Nat) : Statement (.checkpointStream part) := fun h => Bool.noConfusion h
theorem checkpointRestore (part : Nat) : Statement (.checkpointRestore part) := fun h => Bool.noConfusion h
theorem thermalThrottle (pkg : Nat) (mhz : Nat) : Statement (.thermalThrottle pkg mhz) := fun h => Bool.noConfusion h
theorem thermalHalt (die : Nat) : Statement (.thermalHalt die) := fun h => Bool.noConfusion h
theorem illegalInsn (cause : Byte) (addr : Addr) : Statement (.illegalInsn cause addr) := fun h => Bool.noConfusion h
theorem postedStoreSend (core : Nat) (place : Nat) (entry : Nat) : Statement (.postedStoreSend core place entry) := fun h => Bool.noConfusion h
theorem walkerCommandStart (core : Nat) : Statement (.walkerCommandStart core) := fun h => Bool.noConfusion h
theorem hostWindowAccess (pkg : Nat) (place : HostBar) (data : Option (List Byte)) (len : Nat) : Statement (.hostWindowAccess pkg place data len) := fun h => Bool.noConfusion h

end Laws.HasWords

end Sys2Proof
end

