-- ==== Sys2Proof/Laws/Stops.lean ====
section
/-! SUPPORT. What an issue comes to where its body does not answer: waits, faults, user traps; and what reaching an
address can change. -/

namespace Sys2Proof.Machine

theorem commitChunk_empty {s : State} (h : ChunkEmpty s) : commitChunk s = .done (freshChunk s) := by
  obtain ⟨h1, h2, h3, -⟩ := h
  simp only [commitChunk, h1, h2, h3, and_self, if_true]
  rfl

/-- An issue whose body stops: the stop decides, with the chunk's commit before a fault. -/
theorem issue_error {l : Legal} {body : Run Unit} {s : State} {e : Stop} (hr : Ready l s) (hb : body s = .error e)
    (he : e ≠ .commit) : issue l body s = conclude s (.next s) (.error e) := by
  obtain ⟨ha, hn, -⟩ := hr
  have hn' : ¬ Config.chunkInstrs ≤ s.cur.chunk.count := Nat.not_le.2 hn
  simp only [issue, ha, if_true, runBody, hn', if_false, hb]
  cases e <;> first | rfl | exact absurd rfl he

theorem issue_wait {l : Legal} {body : Run Unit} {s : State} {w : Wait} (hr : Ready l s) (hb : body s = .error (.wait w)) :
    issue l body s = .next (park w s) := issue_error hr hb (by simp)
theorem issue_keep {l : Legal} {body : Run Unit} {s t : State} {w : Wait} (hr : Ready l s)
    (hb : body s = .error (.keep t w)) : issue l body s = .next (park w t) := issue_error hr hb (by simp)
theorem issue_absent {l : Legal} {body : Run Unit} {s : State} {va : Addr} (hr : Ready l s)
    (hb : body s = .error (.absent va)) :
    issue l body s = .next (park (.resource .pageRemoval) { s with core := { s.core with asked := some va } }) :=
  issue_error hr hb (by simp)

/-- A fault with nothing in the chunk: it is taken at once (R342). -/
theorem issue_fault {l : Legal} {body : Run Unit} {s : State} {c : Byte} {a : Addr} (hr : Ready l s) (h : ChunkEmpty s)
    (hb : body s = .error (.fault c a)) : issue l body s = .next (takeFault c a (freshChunk s)) := by
  rw [issue_error hr hb (by simp)]
  simp only [conclude, thenCommit, commitChunk_empty h]
  simp [freshChunk, State.modCur, h.2.2.2.2.1]

/-- A recoverable trap with nothing in the chunk (R200). -/
theorem issue_utrap {l : Legal} {body : Run Unit} {s : State} {c : Byte} (hr : Ready l s) (h : ChunkEmpty s)
    (hb : body s = .error (.utrap c)) : issue l body s = .next (takeUserTrap c (freshChunk s)) := by
  rw [issue_error hr hb (by simp)]
  simp only [conclude, thenCommit, commitChunk_empty h]
  simp [freshChunk, State.modCur, h.2.2.2.2.1]

/-- An instruction that the sequencer does not issue raises ILLEGAL_INSN (R190). -/
theorem issue_illegal {l : Legal} {body : Run Unit} {s : State} (ha : l.on s.cur.seq = false) (h : ChunkEmpty s) :
    issue l body s = .next (takeFault cIllegal 0 (freshChunk s)) := by
  have hn : ¬ Config.chunkInstrs ≤ s.cur.chunk.count := by rw [h.1]; decide
  simp only [issue, ha, Bool.false_eq_true, if_false, runBody, hn, illegal, fault, run_throw, conclude, thenCommit,
    commitChunk_empty h]
  simp [freshChunk, State.modCur, h.2.2.2.2.1]

/-- What reaching an address may leave: the buffer of the core and the unit's cache differ, and nothing else changes. -/
def Translated (s t : State) : Prop :=
  t = { s with core := { s.core with plb := t.core.plb }, tuc := t.tuc }

theorem translated_refl (s : State) : Translated s s := rfl
theorem translated_ask {s t : State} {did : Option (BitVec 16)} {va : Nat} {fresh : Bool} {e : PlbEntry}
    (h : askUnit s did va fresh = some (e, t)) : Translated s t := by
  unfold askUnit at h
  split at h
  · cases h
  · cases h; rfl

theorem physKey_state {s t : State} {va k : Nat} (h : physKey s va s = .ok (k, t)) : t = s := by
  cases hp : pageEntry s s.core va with
  | none => simp [physKey, hp] at h
  | some n =>
    simp only [physKey, hp, run_ite, run_throw, run_pure] at h
    split at h
    · cases h
    · cases h; rfl

theorem translated_trans {s t u : State} (h : Translated s t) (g : Translated t u) : Translated s u := by
  unfold Translated at *; rw [g, h]

/-- The body answers only with the buffer and the cache changed. -/
def Leaves {α : Type} (s : State) (x : Run α) : Prop := ∀ u a t, Translated s u → x u = .ok (a, t) → Translated s t

theorem leaves_pure {α : Type} (s : State) (a : α) : Leaves s (pure a : Run α) := fun u b t hu h => by
  cases h; exact hu
theorem leaves_throw {α : Type} (s : State) (e : Stop) : Leaves s (throw e : Run α) := fun u b t hu h => by cases h
theorem leaves_bind {α β : Type} {s : State} {x : Run α} {f : α → Run β} (hx : Leaves s x) (hf : ∀ a, Leaves s (f a)) :
    Leaves s (x >>= f) := fun u b t hu h => by
  rw [run_bind] at h
  cases hx' : x u with
  | error e => simp [hx'] at h
  | ok r => rw [hx'] at h; exact hf _ _ _ _ (hx _ _ _ hu hx') h
theorem leaves_get_bind {β : Type} {s : State} {f : State → Run β} (hf : ∀ u, Translated s u → Leaves s (f u)) :
    Leaves s (get >>= f) := fun u b t hu h => by
  rw [run_bind, run_get] at h; exact hf u hu _ _ _ hu h
theorem leaves_ite {α : Type} {s : State} {c : Prop} [Decidable c] {x y : Run α} (hx : c → Leaves s x)
    (hy : ¬ c → Leaves s y) : Leaves s (if c then x else y) := by split <;> simp_all
theorem leaves_set {s t : State} (h : Translated s t) : Leaves s (set t : Run Unit) := fun u b v hu h' => by
  cases h'; exact h
theorem leaves_plb {s : State} (e : PlbEntry) : Leaves s (modify fun s => { s with core := fillPlb s.core e } : Run Unit) :=
  fun u b t hu h => by cases h; unfold Translated at *; rw [hu]; rfl
theorem leaves_physKey (s : State) (u : State) (va : Nat) : Leaves s (physKey u va) := fun v b t hv h => by
  cases hp : pageEntry u u.core va with
  | none => simp [physKey, hp] at h
  | some n =>
    simp only [physKey, hp, run_ite, run_throw, run_pure] at h
    split at h
    · cases h
    · cases h; exact hv

end Sys2Proof.Machine
end

