-- ==== Sys2Proof/Tests/Slice0.lean ====
section
/-! SUPPORT. Tests: terms that are no instructions, words worked out from the encoding tables, single steps, and for each
statement a state and operands that meet its hypotheses. -/

set_option Elab.async false

namespace Sys2Proof.Tests

open Sys2Proof Sys2Proof.Machine Sys2Proof.Claims

/-! Ill-formed terms, one or more for each check (spec/10 R173 to R188). -/

theorem test_refuses_wide_offset : wellFormed (.b (2 ^ 43 : Nat)) = false ∧ wellFormed (.b (2 ^ 43 - 1 : Nat)) = true := by decide +kernel
theorem test_refuses_wide_high_half : wellFormed (.ldih 16 (2 ^ 31)) = false ∧ wellFormed (.ldih 0 (2 ^ 32 - 1)) = true := by
  decide +kernel
theorem test_refuses_two_banks : wellFormed (.add (.three (.reg 1) (.reg 17) 2)) = false ∧
    wellFormed (.extr (.reg 1) (.reg 17) 0 0) = false ∧ wellFormed (.wstat (.reg 1) (.reg 17)) = false := by decide +kernel
theorem test_refuses_high_register_without_extension : wellFormed (.pget (.reg 16) 1) = false ∧
    wellFormed (.add (.two 1 (.reg 16))) = false ∧ wellFormed (.mov (.two (.reg 16) (.reg 1))) = false ∧
    wellFormed (.cmp 0 (.q 1) (.reg 16) none) = false ∧ wellFormed (.padd (.two 1 (.reg 16))) = false := by decide +kernel
theorem test_refuses_queue_of_supervisor : wellFormed (.bqp (.bq .s)) = false ∧ wellFormed (.qnot (.bq .s) 1) = false := by decide +kernel
theorem test_refuses_wait_for_256_slots : wellFormed (.ld 3 (.reg 1) (.handle 2 255) 0) = false ∧
    wellFormed (.aAdd (.reg 1) (.handle 2 255) 3) = false := by decide +kernel
theorem test_refuses_amount_form_of_add : wellFormed (.add (.imm (.reg 1) (.reg 2) 3)) = false ∧
    wellFormed (.shl (.imm (.reg 1) (.reg 2) 3)) = true ∧ wellFormed (.vadd 0 (.imm 1 2 3)) = false := by decide +kernel
theorem test_refuses_vector_banks : wellFormed (.vadd 0 (.three 1 17 2)) = false ∧ wellFormed (.vbcast 0 17 (.reg 1)) = false ∧
    wellFormed (.vbcast 0 1 (.reg 33)) = false := by decide +kernel
theorem test_refuses_field_past_bit_63 : wellFormed (.extr (.reg 1) (.reg 2) 60 4) = false ∧
    wellFormed (.extr (.reg 1) (.reg 2) 60 3) = true ∧ wellFormed (.insr 1 (.reg 2) 63 1) = false := by decide +kernel
theorem test_refuses_level_5 : wellFormed (.emit ⟨.l 5, 0⟩) = false ∧ wellFormed (.teamh 1 (.l 6)) = false ∧
    wellFormed (.instn (.reg 1) (.l 5)) = false ∧ wellFormed (.renounce 5 (.reg 1)) = false ∧
    wellFormed (.demand 1 2 (some (.l 5))) = false := by decide +kernel
theorem test_refuses_fork_of_one : wellFormed (.forkw 1 0) = false ∧ wellFormed (.forkw 0 1) = false := by decide +kernel
theorem test_refuses_odd_pair : wellFormed (.ldq 3 (.ptr 1) 0) = false ∧ wellFormed (.ldqAcq 5 (.ptr 1) 0) = false := by decide +kernel
theorem test_refuses_signed_64 : wellFormed (.lds 3 (.reg 1) (.ptr 1) 0) = false := by decide +kernel
theorem test_refuses_conversion_code_6 : wellFormed (.fcvt 6 0 false (.reg 1) (.reg 2)) = false ∧
    wellFormed (.fcvt 0 6 false (.reg 1) (.reg 2)) = false := by decide +kernel
theorem test_refuses_reduction_7 : wellFormed (.vred 0 7 (.reg 1) 2) = false ∧ wellFormed (.vscan 0 7 1 2) = false := by decide +kernel
theorem test_refuses_five_extensions : wellFormed (.ld 3 (.reg 17) (.handle 1 0) (2 ^ 18 : Nat)) = false ∧
    wellFormed (.vld 0 17 (.handle 1 0) 256) = false := by decide +kernel
theorem test_refuses_events : wellFormed .chunkLimit = false ∧ wellFormed .quantumEnd = false ∧ wellFormed (.packageReset 0) = false := by
  decide +kernel

/-! Decoding: words written out by R172 to R188, base words as MAJOR, A, B, MINOR; page words 0xFC00 + page. -/

/-- The words are the instruction, with none left over. -/
def isWord (ws : List (BitVec 16)) (i : Instr) : Prop := (decode ws).toOption.map (fun x => (x.1, x.2.2)) = some (i, [])
abbrev base (major : BitVec 5) (a b : BitVec 4) (minor : BitVec 3) : BitVec 16 := (major ++ a ++ b ++ minor : BitVec 16)

/-- The worked encodings of spec/10. -/
theorem test_decode_worked : isWord [0x4088] (.addi 1 1) ∧ isWord [0xFA70, 0x2BBD] (.shr (.imm (.reg 7) (.reg 7) 48)) ∧
    isWord [0xF9FF, 0x5128] (.cmpi 0 (.q 2) (.reg 5) (-1)) ∧ isWord [0xFF00, 0xAA93] (.ld 3 (.reg 5) (.handle 2 0) 0) ∧
    isWord [0xFC05, 0x0890] (.forkw 1 2) ∧ isWord [0xFC04, 0xF9C5, 0x0802] (.emit ⟨.inner, 5⟩) ∧
    isWord [0xF800, 0xF980, 0xF801, 0xF800, 0x4401] (.ldi (.reg 8) 0x60002000) ∧ isWord [0x0FC8] (.b (-7)) := by
  unfold isWord; decide +kernel
theorem test_decode_control : isWord [base 0 0 0 1] .nop ∧ isWord [base 0 8 1 6] (.trap 0x81) ∧ isWord [base 1 0xA 3 5] (.bcN 2 3) ∧
    isWord [0xFA80, base 1 2 0xF 4] (.loop 18 (-1)) ∧ isWord [0xFE02, base 1 12 0 7] (.bqp (.bq .m)) := by unfold isWord; decide +kernel
theorem test_decode_sync : isWord [0xFA80, base 2 9 1 2] (.waitcSub 9 (.reg 17)) ∧ isWord [base 2 0 0 4] .fenceRel := by
  unfold isWord; decide +kernel
theorem test_decode_integer : isWord [0xFA83, base 3 1 2 1] (.sub (.three (.reg 17) (.reg 18) 3)) ∧
    isWord [base 5 3 4 2] (.rem (.two 3 (.reg 4))) ∧ isWord [0xF80A, 0xF807, base 6 1 2 7] (.extr (.reg 1) (.reg 2) 10 7) ∧
    isWord [0xFA07, base 7 1 2 3] (.sel 3 (.reg 1) (.reg 2) 7) ∧ isWord [0xFE00, base 6 9 2 0] (.mov (.two (.port .east) (.reg 2))) := by
  unfold isWord; decide +kernel
theorem test_decode_pointer : isWord [0xFA05, base 0xB 1 2 0] (.padd (.three 1 2 5)) ∧ isWord [base 0xC 3 4 2] (.pcmp 2 (.q 3) 4 none) := by
  unfold isWord; decide +kernel
theorem test_decode_float : isWord [base 0xE 1 2 5] (.fsqrtF32 (.two (.reg 1) (.reg 2))) ∧ isWord [0xFA06, base 0x11 3 2 7] (.fcmpF32 3 (.q 3) (.reg 2) (some 6)) ∧
    isWord [0xFA4C, base 0x13 1 2 2] (.fcvt 2 4 true (.reg 1) (.reg 2)) ∧ isWord [base 0x14 1 2 3] (.fclass .bf16 (.two (.reg 1) (.reg 2))) := by
  unfold isWord; decide +kernel
theorem test_decode_memory : isWord [0xF9F8, base 0x17 5 2 7] (.stRel 3 (.reg 5) (.ptr 2) (-8)) ∧ isWord [base 0x18 4 2 6] (.ldqAcq 4 (.ptr 2) 0) ∧
    isWord [0xFA06, base 0x19 1 2 6] (.pin (.reg 1) 2 6) ∧ isWord [base 0x1A 7 2 3] (.stp 7 (.ptr 2) 0) := by unfold isWord; decide +kernel
theorem test_decode_atomic : isWord [0xFA86, base 0x1C 1 2 7] (.aCasAcq 17 (.ptr 2) 6) ∧ isWord [0xFF03, base 0x1E 1 2 6] (.rAddF64 (.reg 1) (.handle 2 3) 0) := by
  unfold isWord; decide +kernel
theorem test_decode_vector : isWord [0xFC01, base 0 5 0 1] (.vsett (.reg 5)) ∧ isWord [0xFC01, base 0 4 2 5] (.mpop (.reg 4) 2) := by
  unfold isWord; decide +kernel
theorem test_decode_vector_forms : isWord [0xFC01, 0xFA03, base 1 1 2 2] (.vadd 2 (.three 1 2 3)) ∧
    isWord [0xFC01, 0xFA83, 0xF806, base 0xF 1 2 0] (.vcmp 0 6 1 18 3) ∧ isWord [0xFC01, 0xF840, base 0x13 1 2 3] (.vld 3 1 (.ptr 2) 64) ∧
    isWord [0xFC01, 0xF803, base 0x19 4 2 0] (.vred 0 3 (.reg 4) 2) ∧ isWord [0xFC01, 0xF812, base 0x1D 1 2 0] (.vcvt 0 2 true 1 2) := by
  unfold isWord; decide +kernel
theorem test_decode_matrix : isWord [0xFC02, 0xFA09, base 1 3 2 1] (.mmas 3 2 9) ∧ isWord [0xFC02, base 1 0 5 4] (.mwaitb 5) ∧
    isWord [0xFC02, 0xFA09, base 2 1 2 0] (.accrd 1 2 9) := by unfold isWord; decide +kernel
theorem test_decode_engine : isWord [0xFC03, 0xFA09, 0xF834, base 1 10 2 0] (.copy 2 (some 4) (.ptr 2) 3 9) ∧
    isWord [0xFC03, 0xF804, 0xF9FE, base 2 0xA 5 0] (.hitch 4 (-2) 0xA5) ∧ isWord [0xFC03, 0xF801, base 3 2 3 2] (.advpN 2 19) ∧
    isWord [0xFC03, 0xFA05, base 3 4 6 5] (.tkt (.reg 4) 6 (some 5)) := by unfold isWord; decide +kernel
theorem test_decode_reactive : isWord [0xFC04, 0xF885, base 1 2 3 5] (.testv (.q 2) (.reg 3) ⟨.l 2, 5⟩) ∧
    isWord [0xFC04, 0xF805, 0xF9FF, base 2 0xF 8 0] (.abortw ⟨.l 0, 5⟩ (-8)) ∧ isWord [0xFC04, base 1 3 4 6] (.renounce 4 (.reg 3)) := by
  unfold isWord; decide +kernel
theorem test_decode_task : isWord [0xFC05, 0xF802, base 2 3 4 0] (.demand 3 4 (some (.l 2))) ∧
    isWord [0xFC05, 0xFA09, base 3 1 2 1] (.spawnb (.reg 1) 9 2) ∧ isWord [0xFC05, base 3 0 0 4] .done := by unfold isWord; decide +kernel
theorem test_decode_system : isWord [0xFC06, base 1 2 1 0] (.svc 0x21) ∧ isWord [0xFC06, 0xF810, base 1 3 4 2] (.crwr (.reg 3) 0x104) ∧
    isWord [0xFC06, base 1 5 6 4] (.husk (.reg 5) 6) ∧ isWord [0xFC06, base 1 5 0 7] (.haltg (.reg 5)) ∧ isWord [0xFC06, base 2 0 0 0] .idle := by
  unfold isWord; decide +kernel
/-- R189: 0x0000, 0xFFFF, a reserved cell, a reserved page, a fifth extension, a second page are no instructions. -/
theorem test_decode_refuses : (decode [0x0000]).toOption = none ∧ (decode [0xFFFF]).toOption = none ∧ (decode [base 0xC 0 0 5]).toOption = none ∧
    (decode [0xFC07, 0x0001]).toOption = none ∧ (decode [0xF800, 0xF800, 0xF800, 0xF800, 0xF800]).toOption = none ∧
    (decode [0xFC00, 0xFC00, 0x0001]).toOption = none ∧ (decode [0xFC05, base 1 1 0 0]).toOption = none := by decide +kernel

/-! Witnesses: states and operands that meet the hypotheses of each statement, its clauses one by one. -/

/-- A page entry in the translation unit's cache: every domain, home logical core 0 (R334). -/
def pageWith (rights granule frame : Nat) : Nat × List (Nat × Word × Word) :=
  let n := 2 ^ 84 + frame * 2 ^ 48 + 0xFFFF * 2 ^ 32 + rights * 2 ^ 27
  (granule % 8, [(granule, BitVec.ofNat 64 n, BitVec.ofNat 64 (n / 2 ^ 64))])
abbrev page : Nat → Nat → Nat × List (Nat × Word × Word) := pageWith 31
/-- A package out of reset, with every unit of its fuse map gone. -/
def pk (n : Nat) : Package := { Package.new n with inReset := false, fuses := (0, 0, 0) }
/-- One thread in slot 0 of a running launch of four logical cores of 64 KiB, with pages 1 to 3 in the unit's cache. -/
def w0 : State :=
  let r := { Regs.zero with g := (Regs.zero.g.set 1 1029).set 2 0x100 |>.set 5 5 |>.set 6 6, utrapv := 0x100, pc := 0x10000 }
  { State.reset with
    packages := [pk 0]
    tuc := [page 1 1, page 2 2, page 3 3]
    launch := { Launch.none with phase := .running, l := 4, w := 2, lsize := 65536, matrix := true }
    cur := { Agent.new 0 with slot := some 0, state := .held, regs := r, chunk := Chunk.empty r, npc := 0x10002 } }
/-- The same with the sequencer, the registers, the launch, the core or the logical core changed. -/
def onSeq (q : Seq) (s : State) : State := s.modCur fun a => { a with seq := q }
def reg (n : Fin 64) (v : Word) (s : State) : State := s.modCur fun a => { a with regs := { a.regs with g := a.regs.g.set n v } }
def ptr (n : Fin 16) (v : Addr) (s : State) : State := s.modCur fun a => { a with regs := { a.regs with p := a.regs.p.set n v } }
def withCore (f : Core → Core) (s : State) : State := { s with core := f s.core }
def withLc (f : LCore → LCore) (s : State) : State := { s with lc := f s.lc }
def withLaunch (f : Launch → Launch) (s : State) : State := { s with launch := f s.launch }
/-- The byte `off` of the own local space. -/
abbrev loc (off : Nat) : Addr := BitVec.ofNat 80 (2 ^ 79 + off)
/-- One word in every input FIFO. -/
def wPort : State := withLc (fun c => { c with ports := Vector.replicate 4 [7] }) w0

theorem reads_reg {s : State} {n : GReg} (h : Readable s n) : Reads (.reg n) s (gval s n) s := And.intro h (And.intro rfl rfl)
theorem writes_reg {s : State} {n : GReg} {v : Word} (h : Writable s n) : Writes (.reg n) v s (putG n v s) := And.intro h rfl
theorem reads_port (d : Dir) : ∃ t, Reads (.port d) wPort 7 t := by
  cases d <;> exact ⟨_, And.intro (by decide +kernel) ⟨[], by decide +kernel, rfl⟩⟩
theorem writes_port (d : Dir) (v : Word) : ∃ t, Writes (.port d) v w0 t := by
  cases d <;> exact ⟨_, And.intro (by decide +kernel) (And.intro (by decide +kernel) rfl)⟩

/-- Registers g0 to g63, ports, on X, A, M and in supervisor state. -/
theorem witness_IntegerOperationResult : (∀ d, ∃ t, Reads (.port d) wPort 7 t) ∧ (∀ d v, ∃ t, Writes (.port d) v w0 t) ∧
    (∀ q ∈ [Seq.x, .a, .m, .s], Ready onAll (onSeq q w0)) ∧ (∀ n : GReg, Readable w0 n ∧ Writable w0 n) ∧ Ready onAll wPort := by
  refine ⟨reads_port, writes_port, ?_⟩
  decide +kernel
theorem witness_DivisionResult : Reads (.reg 0) w0 0 w0 ∧ gval w0 6 ≠ 0 ∧ ChunkEmpty w0 ∧ gval w0 0 = 0 ∧ Readable w0 0 ∧
    w0.cur.seq = .x ∧ w0.cur.regs.handlerActive = false ∧ w0.cur.regs.utrapv ≠ 0 := by
  refine ⟨reads_reg (by decide +kernel), ?_⟩
  decide +kernel
theorem witness_UnaryAndFieldResult : Reads (.reg 63) w0 (gval w0 63) w0 ∧ Ready onAll w0 ∧ Readable w0 6 ∧ qval w0 0 = true ∧
    qval w0 7 = false := by
  refine ⟨reads_reg (by decide +kernel), ?_⟩
  decide +kernel
theorem witness_ImmediateResult : Ready onAll w0 ∧ Readable w0 0 ∧ Readable w0 63 ∧ ∀ p : BitVec 4, PReadable w0 p := by decide +kernel
theorem optReadable_none (s : State) : optReadable s none := by
  intro n h
  cases h
theorem optReadable_some {s : State} {n : GReg} (h : Readable s n) : optReadable s (some n) := by
  intro m hm
  cases hm
  exact h
/-- A predicate and the queues of X, A and M with room. -/
theorem witness_CompareResult : Reads (.reg 5) w0 5 w0 ∧ optReadable w0 (some 6) ∧ (∀ n b, WritesQ (.q n) b w0 (putQ n b w0)) ∧
    (∀ q b, ∃ t, WritesQ (.bq q) b w0 t) ∧ PReadable w0 15 := by
  refine ⟨reads_reg (n := 5) (by decide +kernel), optReadable_some (by decide +kernel), fun _ _ => rfl, ?_, by decide +kernel⟩
  intro q b
  cases q <;> exact ⟨_, And.intro (by decide +kernel) (And.intro (by decide +kernel) rfl)⟩
theorem witness_PointerArithmeticResult : optReadable w0 (some 6) ∧ Ready onAll w0 ∧ PReadable w0 0 ∧ Readable w0 5 :=
  And.intro (optReadable_some (by decide +kernel)) (by decide +kernel)
theorem witness_PlaceWindowAddress : optReadable w0 (some 2) ∧ Readable w0 1 ∧ Readable w0 2 ∧ gval w0 1 = 1029 ∧ gval w0 2 = 0x100 :=
  And.intro (optReadable_some (by decide +kernel)) (by decide +kernel)
theorem witness_FloatResult : Reads (.reg 5) w0 5 w0 ∧ Ready onXA w0 ∧ Ready onXA (onSeq .a w0) ∧ (5 : BitVec 3).toNat ≤ 5 :=
  And.intro (reads_reg (n := 5) (by decide +kernel)) (by decide +kernel)
/-- The largest finite values, infinity and −0. -/
theorem witness_FloatEncodingRoundTrip : ∀ x ∈ [(f64, 0x7FEFFFFFFFFFFFFF), (f64, 0xFFF0000000000000), (f32, 0x80000000), (f16, 1),
    (bf16, 0x7F7F)], x.2 < 2 ^ x.1.bits ∧ (decodeF x.1 x.2).isNan = false := by decide +kernel
/-- A bit in the queue; an empty one; even pointers; g not 0. -/
theorem witness_BranchAndCallResult : Ready onXA w0 ∧ ChunkEmpty w0 ∧ Ready onX w0 ∧
    (withCore (fun c => { c with bqX := [true] }) w0).core.bqOf .x = [true] ∧ w0.core.bqOf .m = [] ∧ PReadable w0 0 ∧
    (pval w0 0).toNat % 2 = 0 ∧ (63 : GReg) ≠ 0 ∧ Readable w0 63 := by decide +kernel
/-- A handler of a thread whose A trapped. -/
def agentA : Agent := { Agent.new 1 with seq := .a, host := some 0, stopped := true }
def wTrapped : State :=
  { withCore (fun c => { c with hitch := some 0 }) w0 with
    cur := { w0.cur with regs := { w0.cur.regs with handlerActive := true, utcause := 0x407 } }
    agents := [agentA] }
theorem witness_UserTrapEntryAndReturn : Ready onX wTrapped ∧ w0.cur.seq = .x ∧ ChunkEmpty wTrapped ∧ (0x80 : Byte).toNat ≥ 0x80 ∧
    w0.cur.regs.handlerActive = false ∧ w0.cur.regs.utrapv ≠ 0 ∧ wTrapped.cur.regs.handlerActive = true ∧
    wTrapped.cur.regs.utcause.extractLsb' 10 2 = 1 ∧ wTrapped.seqOf wTrapped.cur.core .a = some agentA ∧ wTrapped.cur.tid ≠ agentA.tid ∧
    (∀ c ∈ wTrapped.agents, c.tid = agentA.tid → c = agentA) ∧
    (wTrapped.modCur fun a => { a with regs := { a.regs with utcause := 7 } }).cur.regs.utcause.extractLsb' 10 2 = 0 := by decide +kernel
/-- A chunk with one stored byte, one word to empty and one home met. -/
def wChunk : State := w0.modCur fun a => { a with chunk := { a.chunk with
  count := 1, wbuf := [(65536, 9)], wlines := [1024], clre := [65544], homes := [0] } }
theorem witness_ChunkCommitWritesItsStores : Ready onXA wChunk ∧ wChunk.cur.tag = 0 ∧ wChunk.launch.mode = .free ∧
    wChunk.cur.chunk.conflict = false ∧ wChunk.cur.ended = [] ∧ wChunk.cur.rel = none ∧ wChunk.cur.relStore = [] ∧
    (∀ h ∈ wChunk.cur.chunk.homes, homeStands wChunk wChunk.core.id h = false) ∧
    (∀ k ∈ wChunk.cur.chunk.clre, heldRange wChunk k 8 = false) ∧
    (∀ l ∈ wChunk.cur.chunk.wlines, reservedLine wChunk wChunk.pkg 0 wChunk.cur.tid l = false) ∧
    (∀ c ∈ wChunk.cur.chunk.wbuf, heldRange wChunk c.1 1 = false) ∧ Memory.wf wChunk.mem = true ∧ Memory.wf wChunk.launch.lmem = true ∧
    wChunk.cur.chunk.vrel = false ∧ wChunk.cur.seq ≠ .s ∧ wChunk.cur.chunk.count ≠ 0 := by decide +kernel
/-- A plain ring of two slots at 0, one filled and one free. -/
def wRing : State := withLc (fun c => { c with handles := c.handles.set 2 { Handle.off with mode := 1, logn := 1, logs := 3, p := 1 } }) w0
def ringOf (s : State) (h : Fin 8) : Handle := (s.getLc s.cur.lcore).handles[h]
theorem witness_PointerAndHandleOperands : PReadable w0 15 ∧ ChunkEmpty wRing ∧ wRing.cur.seq ≠ .a ∧ wRing.cur.seq ≠ .m ∧
    (ringOf wRing 2).mode = 1 ∧ (0 : Byte).toNat + 1 ≤ 2 ^ (ringOf wRing 2).logn ∧ (0 : Byte).toNat + 1 ≤ (ringOf wRing 2).filled ∧
    (0 : Byte).toNat + 1 ≤ (ringOf wRing 2).free := by decide +kernel
/-- The last byte of the last logical core, one beyond, the reserved space, an odd address. -/
theorem witness_PlaceWindowAccess : 3 < w0.launch.l ∧ 65528 < w0.launch.lsize ∧ (8 ∣ 2 ^ 60) ∧ 65528 % 8 = 0 ∧ homeShut w0 w0.core.id 3 = false ∧
    (3#80 <<< 78).extractLsb' 78 2 = 3 ∧ (loc 65536).extractLsb' 78 2 = 2 ∧ w0.launch.lsize ≤ (loc 65536).toNat % 2 ^ 60 ∧
    (loc 1).toNat % 2 ≠ 0 := by decide +kernel

/-- p1 at 64 in the own local space, p2 at the same offset of logical core 1, which stands in package 1. -/
def wMem : State :=
  { ptr 1 (loc 64) (ptr 2 (BitVec.ofNat 80 (2 ^ 79 + 2 ^ 60 + 64)) w0) with
    launch := { w0.launch with lcores := [{ LCore.new 1 with core := 576 }] }
    packages := [pk 0, pk 1] }
abbrev here : Acc := { key := 2 ^ 79 + 64, home := 0, pkg := 0 }
abbrev there : Acc := { key := 2 ^ 79 + 2 ^ 60 + 64, home := 1, pkg := 1 }
theorem ok_of {α : Type} {x : Except Stop α} {a : α} (h : x.toOption = some a) : x = .ok a := by
  cases x with
  | ok b => simpa [Except.toOption] using h
  | error e => simp [Except.toOption] at h
theorem aligned_of {s t : State} {va : Addr} {n : Nat} {need : Rights} {a : Acc} (h : va.toNat % n = 0)
    (hr : reach va need s = .ok (a, t)) : reachAligned va n need s = .ok (a, t) := by
  unfold reachAligned require
  simpa [h] using hr
theorem reaches_here (dest : Bool) (n : Nat) (h : (loc 64).toNat % n = 0) :
    Reaches (.ptr 1) 0 dest n (if dest then rW else rR) wMem wMem (loc 64) here :=
  ⟨wMem, by cases dest <;> rfl, aligned_of h (by cases dest <;> exact ok_of (by decide +kernel))⟩
theorem reaches_there (dest : Bool) (n : Nat) (h : (pval wMem 2).toNat % n = 0) :
    Reaches (.ptr 2) 0 dest n (if dest then rW else rR) wMem wMem (pval wMem 2) there :=
  ⟨wMem, by cases dest <;> rfl, aligned_of h (by cases dest <;> exact ok_of (by decide +kernel))⟩
theorem reachesAt_here : ReachesAt (.ptr 1) 11 wMem wMem (loc 64) here := ⟨wMem, ok_of (by decide +kernel), ok_of (by decide +kernel)⟩
theorem reachesAt_there : ReachesAt (.ptr 2) 11 wMem wMem (pval wMem 2) there :=
  ⟨wMem, ok_of (by decide +kernel), ok_of (by decide +kernel)⟩
theorem released_wMem : Released0 wMem := by
  unfold Released0
  decide +kernel
theorem freeCommit_wMem : FreeCommit wMem := by
  unfold FreeCommit
  decide +kernel
theorem witness_HomeLoadResult : Reaches (.ptr 1) 0 false 8 rR wMem wMem (loc 64) here ∧ Reaches (.ptr 1) 0 false 16 rR wMem wMem (loc 64) here ∧
    (∃ t, Writes (.reg 63) (extended true 8 0) (noteRead here.key wMem) t) ∧ Ready onXA wMem ∧ here.pkg = wMem.pkg ∧
    meetsPoison wMem here.key 16 = false ∧ ChunkEmpty wMem ∧ Writable wMem 62 ∧ Writable wMem 63 ∧ seenN wMem here.key 16 < 2 ^ 80 := by
  refine ⟨reaches_here _ _ (by decide +kernel), reaches_here _ _ (by decide +kernel), ⟨_, writes_reg (by decide +kernel)⟩, ?_⟩
  decide +kernel
theorem witness_PlainLoadResult : Reaches (.ptr 1) 0 false 1 rR wMem wMem (loc 64) here ∧ Fetched wMem here.key 1 0 wMem ∧ Ready onXA wMem ∧
    here.pkg = wMem.pkg ∧ meetsPoison wMem here.key 1 = false := by
  refine ⟨reaches_here _ _ (by decide +kernel), ⟨.inl (by decide +kernel), wMem.choice, [], rfl⟩, ?_⟩
  decide +kernel
theorem witness_StoreResultAndFrame : Reaches (.ptr 1) 0 true 4 rW wMem wMem (loc 64) here ∧ Reads (.reg 5) wMem 5 wMem ∧ Released0 wMem ∧
    FreeCommit wMem ∧ Ready onXA wMem ∧ here.pkg = wMem.pkg ∧ Tidy wMem ∧ wMem.cur.tag = 0 ∧ wMem.cur.chunk.wlines.length < 48 ∧
    wMem.cur.rel = none ∧ wMem.cur.relStore = [] ∧ heldRange wMem here.key 16 = false ∧ ChunkEmpty wMem ∧ PReadable wMem 15 := by
  refine ⟨reaches_here _ _ (by decide +kernel), reads_reg (n := 5) (by decide +kernel), released_wMem, freeCommit_wMem, ?_⟩
  decide +kernel
/-- A quota of one line, with the lengths 8 and 64. -/
def wSpan : State := withCore (fun c => { c with priv := { c.priv with rquota := 1 } }) (reg 8 8 (reg 9 64 wMem))
/-- Fifteen lines pinned in the set of a line's home. -/
def wSet : State := { wSpan with pins := (List.range 15).map fun i => { pinOf wSpan here with line := (pinOf wSpan here).line + 1024 * (i + 1) } }
/-- SET_FULL, QUOTA and LIMIT for a PIN of the one line. -/
def pinCase (s : State) : Bool × Bool × Bool :=
  let after := ([here].map (pinOf s) ++ s.pins).eraseDupsBy sameLine
  ([here].any fun a => 15 < after.countP fun q => Machine.setOf q == Machine.setOf (pinOf s a),
    decide (s.core.priv.rquota.toNat % 2 ^ 32 < 1), [here].any fun a => 255 ≤ ((s.pins.filter (sameLine (pinOf s a))).map (·.count)).sum)
theorem witness_FullEmptyAndPinResult : (∃ u t, Writes (.reg 7) 0 (closing (noteRead here.key wMem)) u ∧ retire u = .done t) ∧
    (∃ u, Writes (.reg 7) 0 (closing (noteRead here.key wMem)) u ∧ FreeCommit u) ∧
    reachSteps 1 8 (loc 64) rW wSpan = .ok ([here], wSpan) ∧ reachSteps 1 8 (pval wMem 2) rW wSpan = .ok ([there], wSpan) ∧
    reachEmpty (loc 64) 8 wMem = .ok ((), wMem) ∧ reachSteps 1 64 (loc 64) rR wSpan = .ok ([here], wSpan) ∧
    reachSteps 1 64 (loc 64) 0 wSpan = .ok ([here], wSpan) ∧ emptyView wMem 0 0 here.key = false ∧
    wMem.cur.chunk.clre.contains (wordOf here.key) = false ∧ wMem.cur.ended = [] ∧
    emptyView (withLaunch (fun l => { l with lempty := [here.key] }) wMem) 0 0 here.key = true ∧ (gval wSpan 8).toNat % 8 = 0 ∧
    gval wSpan 8 ≠ 0 ∧ heldRange wSpan here.key 8 = false ∧ wSpan.cur.rel = none ∧
    newLines wSpan ([lineOf (wordOf here.key)] ++ wSpan.cur.ended.flatMap (·.wlines)) ≤ (wSpan.getPkg wSpan.pkg).tagLines ∧
    there.pkg ≠ wSpan.pkg ∧ ChunkEmpty wSpan ∧ basePois wSpan there.key = false ∧ pinCase wSpan = (false, false, false) ∧
    pinCase wMem = (false, true, false) ∧ pinCase wSet = (true, false, false) ∧
    pinCase { wSpan with pins := [{ pinOf wSpan here with count := 255 }] } = (false, false, true) ∧ (wSpan.pins.Pairwise fun x y => samePin x y = false) := by
  refine ⟨⟨_, _, writes_reg (by decide +kernel), rfl⟩, ⟨_, writes_reg (by decide +kernel), ?_⟩, ok_of (by decide +kernel),
    ok_of (by decide +kernel), ok_of (by decide +kernel), ok_of (by decide +kernel), ok_of (by decide +kernel), ?_⟩
  · unfold FreeCommit
    decide +kernel
  · decide +kernel
/-- A promise of a command that stands in the walker, one that has gone, one that has not fallen due. -/
def wCmd : WCmd :=
  { id := 0, kind := .copy, launch := 0, tid := 0, owner := 0, seq := .x, lcore := 0, tag := 0, d := 0, seqn := 0
    moves := [{ dst := loc 128, src := loc 64, len := 8 }], gather := none, ring := none, ringDone := 0, cnt := some 15, targets := [0]
    tile := none, started := false, landing := [], handed := false, cause := 0, released := none }
def promise (p : Promise) (s : State) : State := s.modCur fun a => { a with regs := { a.regs with d := a.regs.d.set 7 p } }
def wWalk : State := promise (.cmd 0 0 true) (withCore (fun c => { c with walker := [wCmd] }) w0)
/-- A remote load of 8 bytes of logical core 1 into g7. -/
def rload : RLoad :=
  { id := 0, dst := .g 7, addr := pval wMem 2, key := there.key, size := 8, signed := false, atomic := none, value := none, pkg := 1
    pois := 0, pc := 0x10000, rel := false, ring := none, fault := 0, plain := false, inc := 0 }
def wLoad : State := wMem.modCur fun a => { a with loads := [rload] }
theorem witness_WaitsAndFencesResult : Reads (.reg 0) wMem 0 wMem ∧ (∃ t, retire (closing wMem) = .done t) ∧ Released0 wMem ∧ FreeCommit wMem ∧
    ¬ Released0 wLoad ∧ ChunkEmpty wLoad ∧ w0.cur.regs.d[7] = .due ∧ (promise (.cmd 0 0 false) w0).cur.regs.d[7] = .cmd 0 0 false ∧
    wWalk.cur.regs.d[7] = .cmd 0 0 true ∧ (wWalk.getCore 0).walker.any (·.id == 0) = true ∧ wWalk.launch.mode = .free ∧ wWalk.cur.seq = .x ∧
    ChunkEmpty wWalk ∧ wWalk.cur.regs.handlerActive = false ∧ wWalk.cur.regs.utrapv ≠ 0 ∧
    ((promise (.cmd 0 0 true) w0).getCore 0).walker.any (·.id == 0) = false ∧
    ((wMem.getLc 0).mc[15] - (0 : Word).setWidth 32).toNat < 2 ^ 31 ∧ ¬ ((wMem.getLc 0).mc[15] - (1 : Word).setWidth 32).toNat < 2 ^ 31 ∧
    (w0.core.walker.any fun c => c.tid == w0.cur.tid && c.seq == w0.cur.seq) = false := by
  refine ⟨reads_reg (n := 0) (by decide +kernel), ⟨_, rfl⟩, released_wMem, freeCommit_wMem, ?_⟩
  unfold Released0
  decide +kernel
theorem witness_AtomicResult : ReachesAt (.ptr 1) 11 wMem wMem (loc 64) here ∧ Released0 wMem ∧ AtomicReady here 0 wMem ∧
    AtomicReady here 63 wMem ∧ Ready onXA wMem ∧ Readable wMem 6 ∧ Readable wMem 63 := by
  refine ⟨reachesAt_here, released_wMem, ?_⟩
  unfold AtomicReady
  decide +kernel
/-- The agent's place in the journal of its core. -/
def placeOf (s : State) : Place := s.core.places[s.cur.place]
theorem witness_RemoteAccessIsSent : Reaches (.ptr 2) 0 false 16 rR wMem wMem (pval wMem 2) there ∧
    Reaches (.ptr 2) 0 true 8 rW wMem wMem (pval wMem 2) there ∧ ReachesAt (.ptr 2) 11 wMem wMem (pval wMem 2) there ∧ Released0 wMem ∧
    there.pkg ≠ wMem.pkg ∧ ChunkEmpty wMem ∧ wMem.cur.loads.length < 64 ∧ sbCovers wMem (pval wMem 2) there.key 16 = false ∧
    ((placeOf wMem).entries.filter fun e => e.req.meets there.key 16 || (e.sent && lineOf e.key == lineOf there.key)) = [] ∧
    heldRange wMem there.key 16 = false ∧ buffered wMem = false ∧ (placeOf wMem).entries.length < 32 ∧
    (∀ e ∈ (placeOf wMem).entries, lineOf e.key ≠ lineOf there.key) ∧ wMem.launch.mode ≠ .quantum := by
  refine ⟨reaches_there false 16 (by decide +kernel), reaches_there true 8 (by decide +kernel), reachesAt_there, released_wMem, ?_⟩
  decide +kernel
theorem witness_ReductionResult : Reaches (.ptr 1) 0 true 8 10 wMem wMem (loc 64) here ∧ Reaches (.ptr 2) 0 true 4 10 wMem wMem (pval wMem 2) there ∧
    Readable wMem 5 ∧ heldRange wMem here.key 8 = false ∧ heldRange wMem there.key 4 = false ∧ ChunkEmpty wMem ∧
    reservedLine wMem wMem.pkg 0 wMem.cur.tid (lineOf here.key) = false ∧ reservedLine wMem wMem.pkg 0 wMem.cur.tid (lineOf there.key) = false ∧
    wMem.cur.tag = 0 ∧ wMem.launch.mode = .free ∧ poisoned wMem wMem.pkg 0 here.key = false ∧ there.pkg ≠ wMem.pkg ∧ buffered wMem = false ∧
    (placeOf wMem).entries.length < 32 ∧ Memory.wf wMem.mem = true ∧ Memory.wf wMem.launch.lmem = true := by
  refine ⟨⟨wMem, rfl, ok_of (by decide +kernel)⟩, ⟨wMem, rfl, ok_of (by decide +kernel)⟩, ?_⟩
  decide +kernel
/-- h0 idle; h2 plain; h3 a reorder ring of two slots at 64 with ticket 0 out and marked, h4 one with ticket 1 out and not marked. -/
def wReorder : State := withLc (fun c =>
  let h := { Handle.off with mode := 2, logn := 1, logs := 3, base := 64 }
  { c with handles := (c.handles.set 3 { h with t := 1, marks := [0] }).set 4 { h with k := 1, t := 2 } }) wRing
theorem witness_HandleAndRingResult : Released0 wReorder ∧ wReorder.cur.seq = .x ∧ Ready onX wReorder ∧ ChunkEmpty wReorder ∧
    wReorder.launch.mode = .free ∧ pkgOf (wReorder.getLc wReorder.cur.lcore).core = wReorder.pkg ∧ (ringOf wReorder 0).busy = false ∧
    Readable wReorder 5 ∧ (ringOf wReorder 2).mode = 1 ∧ 1 ≤ (ringOf wReorder 2).free ∧ 1 ≤ (ringOf wReorder 2).filled ∧
    (ringOf wReorder 3).mode = 2 ∧ (ringOf wReorder 3).t < (ringOf wReorder 3).c + 2 ^ (ringOf wReorder 3).logn ∧
    (∀ j, j < 1 → (ringOf wReorder 3).marks.contains ((ringOf wReorder 3).k + j) = true) ∧
    (ringOf wReorder 3).marks.contains ((ringOf wReorder 3).k + 1) = false ∧
    (ringOf wReorder 4).mode = 2 ∧ (ringOf wReorder 4).k ≤ 1 ∧ 1 < (ringOf wReorder 4).t ∧ (ringOf wReorder 4).marks.contains 1 = false ∧
    (1 : BitVec 31).toNat ≤ (ringOf wReorder 4).k - (ringOf wReorder 4).c := by
  unfold Released0
  decide +kernel
/-- A descriptor of 2^8 slots of 8 bytes at the end of the space, and one that makes the handle idle; a ring in another package. -/
theorem witness_HandleAndRingResult_remote : (let d := (BitVec.ofNat 64 (2 ^ 63 + 8 * 2 ^ 32 + 3 * 2 ^ 28 + 63488)).toNat
     d / 2 ^ 62 = 2 ∧ d / 2 ^ 32 % 16 = 8 ∧ d / 2 ^ 28 % 16 = 3 ∧ d / 2 ^ 36 % 2 ^ 26 = 0 ∧ d / 2 ^ 18 % 2 ^ 10 = 0 ∧
       d % 2 ^ 18 % 2 ^ 3 = 0 ∧ d % 2 ^ 18 + 2 ^ 8 * 2 ^ 3 ≤ wMem.launch.lsize) ∧ gval (reg 1 0 wMem) 1 = 0 ∧ gval (reg 1 1 wMem) 1 = 1 ∧
    1 < wMem.launch.l ∧ (wMem.getLc 1).away = false ∧ pkgOf (wMem.getLc 1).core ≠ wMem.pkg ∧ buffered wMem = false ∧
    wMem.cur.loads.length < 64 := by decide +kernel
/-- The file held, m3 with lane 0 alone, binary32 elements. -/
def wVec : State :=
  { withCore (fun c => { c with vholder := some 0, vmask := c.vmask.set 3 1 }) wMem with
    cur := { wMem.cur with regs := { wMem.cur.regs with vtype := 1 } } }
/-- The east neighbour's FIFO, as the thread in front finds it. -/
def eastHeld (s : State) : Nat := portHeld s (neighbour (max 1 s.launch.l) s.launch.w s.cur.lcore .east) (dirIx (opposite .east))
theorem witness_VectorIssueQueues : Reads (.reg 5) wVec 5 wVec ∧ HoldsFile wVec ∧ CanQueue (.vadd 3 (.three 31 30 29)) wVec ∧
    CanQueue (.vbcast 3 1 (.reg 5)) wVec ∧ FileOnly (.vadd 3 (.three 31 30 29)) ∧ FileOnly (.mpop (.reg 63) 7) ∧ Ready onVec wVec ∧
    Ready onVec (onSeq .a wVec) ∧ wVec.core.vqueue = [] ∧ ChunkEmpty wVec ∧ eastHeld wVec < 4 ∧
    wVec.core.mpois.getLsbD 7 = false ∧ wVec.core.vpois[31] = 0 ∧ vtypeOk (vtyOf wVec.cur.regs.vtype) (.vred 0 0 (.port .west) 31) = true ∧
    vsettOk (gval wVec 6) (decide (wVec.cur.seq = .a)) = true ∧ (gval wVec 6).getLsbD 8 = false ∧ gval wVec 2 = 256 ∧ wVec.cur.seq = .x ∧
    w0.core.vholder = none ∧ w0.core.vfree = false ∧ w0.cur.chunk.vrel = false := by
  refine ⟨reads_reg (n := 5) (by decide +kernel), ?_⟩
  unfold HoldsFile CanQueue FileOnly
  decide +kernel
/-- An operation at the queue's head, granted or waiting. -/
def vop (i : Instr) (vtype : Word) (need : Nat) : VOp :=
  { id := 0, tid := 0, owner := 0, seq := .x, instr := i, vtype := vtype, mode := 0, base := 0, srn := 0, g := 0, elems := [], data := []
    lines := 0, need := need }
def wQueue (i : Instr) (vtype : Word) (need : Nat) : State := withCore (fun c => { c with vqueue := [vop i vtype need] }) wVec
theorem witness_VectorArithmeticElements : ((wQueue (.vadd 3 (.two 1 2)) 0x86 0).getCore 0).vqueue = [vop (.vadd 3 (.two 1 2)) 0x86 0] ∧
    vtypeOk (vtyOf 0x86) (.vadd 3 (.two 1 2)) = true ∧ (vtyOf 0x86).w ∈ [8, 16, 32, 64] ∧ (vtyOf 0x86).isInt = true ∧
    vtypeOk (vtyOf 0) (.vfma 0 1 2 3) = true ∧ (vtyOf 0).w ∈ [8, 16, 32, 64] ∧ vtypeOk (vtyOf 6) (.vsar 0 (.imm 1 2 63)) = true ∧
    (vtyOf 6).w = 8 ∧ (0 : BitVec 3).toNat < 5 := by decide +kernel
theorem witness_VectorMoveMaskAndReduce : ((wQueue (.mpop (.reg 31) 3) 1 0).getCore 0).vqueue = [vop (.mpop (.reg 31) 3) 1 0] ∧
    vtypeOk (vtyOf 0x46) (.vcmp 0 2 1 2 3) = true ∧ (vtyOf 0x46).isInt = true ∧ (vtyOf 0x46).w ∈ [8, 16, 32, 64] ∧
    vtypeOk (vtyOf 0xC7) (.vred 0 0 (.reg 1) 2) = true ∧ (vtyOf 0xC7).w = 64 ∧
    (wQueue (.mpop (.reg 31) 3) 1 0).cur.tid = (vop (.mpop (.reg 31) 3) 1 0).tid ∧ (31 : GReg) ≠ 0 := by decide +kernel
theorem elems_here (how : VAddr) (h : how = .unit 0 ∨ how = .stride 5 ∨ how = .index 31) (dest : Bool) :
    ElemsReached 3 (.ptr 1) how dest (if dest then rW else rR) wVec wVec [(0, loc 64, here)] := by
  refine ⟨loc 64, wVec, [(0, loc 64)], by cases dest <;> rfl, ?_, by cases dest <;> exact ok_of (by decide +kernel)⟩
  rcases h with rfl | rfl | rfl <;> exact ok_of (by decide +kernel)
theorem witness_VectorMemoryResult : ElemsReached 3 (.ptr 1) (.unit 0) false rR wVec wVec [(0, loc 64, here)] ∧
    ElemsReached 3 (.ptr 1) (.stride 5) true rW wVec wVec [(0, loc 64, here)] ∧ HoldsFile wVec ∧ FreeCommit wVec ∧ NoRecords wVec ∧
    Ready onVec wVec ∧ wVec.core.vqueue = [] ∧ wVec.cur.staged = none ∧ (vtyOf wVec.cur.regs.vtype).w ∈ [8, 16, 32, 64] ∧
    Readable wVec 5 ∧ gval wVec 5 = 5 ∧ here.pkg = wVec.pkg ∧ Tidy wVec ∧ wVec.cur.chunk.l1 = [] ∧ heldRange wVec here.key 4 = false ∧
    wVec.cur.tag = 0 ∧ ChunkEmpty wVec ∧ wVec.cur.chunk.closed = false := by
  refine ⟨elems_here _ (.inl rfl) false, elems_here _ (.inr (.inl rfl)) true, ?_⟩
  unfold HoldsFile FreeCommit NoRecords
  decide +kernel
theorem witness_LaneGroupsServeTheBacklog : ((wQueue (.vadd 0 (.two 1 2)) 0 8).getCore (4 * 0 + 0)).vqueue = [vop (.vadd 0 (.two 1 2)) 0 8] ∧
    (∀ j, j < 4 → j ≠ 0 → ((wQueue (.vadd 0 (.two 1 2)) 0 8).getCore (4 * 0 + j)).backlogged = false) := by decide +kernel

/-- M on a core with no operation under way: g7 describes a tile operation of one k-group, g8 a window of one element, g9 a WLOAD
of one line, and p1 is aligned. -/
def wM : State := reg 7 (BitVec.ofNat 64 (1 * 2 ^ 42)) (reg 8 (BitVec.ofNat 64 (1 * 2 ^ 26)) (reg 9 (BitVec.ofNat 64 (2 ^ 39)) (onSeq .m
  (wMem.modCur fun a => { a with regs := { a.regs with fmtA := 1, fmtB := 1, fmtC := 2 } }))))
def opRun (seq : Nat) (op : TileOp) (started finished : Bool) : OpRun := { seq := seq, tid := 0, op := op, started := started, finished := finished }
/-- An open batch with one operation, and as many batches outstanding, whose operation is not started. -/
def wOps (finished : Bool) (n : Nat) : State := withCore (fun c => { c with mx := { c.mx with
  opened := [opRun 0 (.mzero 0) finished finished]
  batches := (List.range n).map fun i => { id := i, ops := [opRun i (.mzero 0) false false], handed := none, poisoned := false } } }) wM
/-- What MMA samples from g7 and p1. -/
def mma1 : MmaOp := sampledMma false 3 1 7 wM
theorem witness_TileOperationsJoinTheBatch : reachRange (rangeFuel 16) (pval wM 1) 16 rR wM = .ok ((), wM) ∧ Reads (.reg 9) wM (gval wM 9) wM ∧
    (∀ r ∈ mmaRanges mma1, OwnRange wM r.1 r.2) ∧ OwnRange wM (pval wM 1).toNat ((pval wM 1).toNat + 32) ∧
    (∀ n, n < 5 → NothingRetires (wOps false n)) ∧ NothingRetires (wOps true 0) ∧ NothingRetires wM ∧
    Ready onM wM ∧ wM.launch.matrix = true ∧ wM.core.mx.opened.length < 64 ∧ Readable wM 7 ∧ PReadable wM 1 ∧ mmaFieldsOk mma1 = true ∧
    mma1.aptr.toNat % 16 = 0 ∧ (enterRanges wM.core.mx.openId (mmaRanges mma1) wM.core.mx.ranges).isSome = true ∧
    (gval wM 9).toNat % 2 ^ 39 = 0 ∧ (gval wM 9).toNat / 2 ^ 39 % 2 ^ 13 = 1 ∧ (wOps false 3).core.mx.opened ≠ [] ∧
    (wOps false 3).core.mx.batches.length < 4 ∧ (wOps false 3).core.mx.batches ≠ [] ∧ (wOps true 0).core.mx.opened.all (·.finished) = true ∧
    4 ≤ (wOps false 4).core.mx.batches.length ∧ handedOpen wM.core = false ∧ wM.core.mx.retPois = false ∧
    (0 : Byte).toNat < (wOps false 3).core.mx.batches.length ∧ (pval wM 1).toNat % 32 = 0 ∧
    (wM.core.mx.ops.any (carries (!wM.core.mx.cur))) = false := by
  refine ⟨ok_of (by decide +kernel), reads_reg (by decide +kernel), ?_⟩
  unfold OwnRange NothingRetires
  decide +kernel
theorem witness_TileOperationsJoinTheBatch_sparse : mmaFieldsOk (sampledMma true 3 1 7
    (wM.modCur fun a => { a with regs := { a.regs with fmtA := 2, fmtB := 2 } })) = true := by decide +kernel
theorem witness_AccumulatorWindowResult : Readable wM 8 ∧ (accDescOf (gval wM 8)).rows = 1 ∧ (accDescOf (gval wM 8)).cols = 1 ∧
    OwnRange wM (pval wM 1).toNat ((pval wM 1).toNat + 2) ∧ wM.core.mx.ops.any (targetsWindow (accDescOf (gval wM 8)) 3) = false ∧
    WindowOk (gval wM 8) 3 2 true ∧ WindowOk (gval wM 8) 3 2 false ∧ (wM.cur.regs.round.extractLsb' 0 3).toNat < 5 ∧
    heldRange wM (pval wM 1).toNat 2 = false ∧ Memory.wf wM.launch.lmem = true := by
  unfold OwnRange WindowOk
  decide +kernel
/-- One operation, not started, started. -/
def wTile (op : TileOp) (started : Bool) : State := withCore (fun c => { c with hitch := some 0, mx := { c.mx with
  batches := [{ id := 0, ops := [opRun 5 op started false], handed := none, poisoned := false }] } }) w0
theorem witness_TileOperationEvents : ∀ op ∈ [TileOp.mzero 1, .mtrn 1 2, .mma mma1], ∀ started : Bool,
    let s := wTile op started
    ((s.getCore 0).mx.ops.map (·.seq)).Nodup ∧ opRun 5 op started false ∈ (s.getCore 0).mx.ops ∧
    (∀ x ∈ (s.getCore 0).mx.ops, x.finished = false → 5 ≤ x.seq) ∧ s.getAgent (opRun 5 op started false).tid = some s.cur ∧
    s.cur.core = 0 ∧ s.core.id = 0 ∧ s.launch.id = s.cur.launch ∧ s.lc.id = s.cur.lcore ∧
    mma1.sparse = false ∧ mma1.fa = 1 ∧ mma1.fb = 1 ∧ mma1.pal = false := by decide +kernel

/-- A descriptor at p3 in memory that is all zeros but for what a command needs. -/
def wDesc (x : Nat) : State :=
  let cells := ((List.range 64).zip (toBytes 64 x)).foldl (fun m ib => writeCell m ((loc 512).toNat + ib.1) ib.2) []
  ptr 3 (loc 512) (withLaunch (fun l => { l with lmem := cells }) (reg 10 8 wMem))
def wCopyM : State := withCore (fun c => { c with hitch := some 0 }) (wDesc (2 ^ 224 + 2 ^ 228 + (loc 64).toNat * 2 ^ 128 + 2 ^ 42 * 2 ^ 64 + 8))
theorem witness_WalkerCommandsAreAccepted : RangesOk [(loc 64, 8)] rR (closing (wDesc 0)) (closing (wDesc 0)) ∧
    RangesOk [(loc 64, 8)] 18 (closing (wDesc 0)) (closing (wDesc 0)) ∧ NoHazard (closing (wDesc 0)) (loc 64) 8 ∧
    Ready onXA wMem ∧ ChunkEmpty wMem ∧ buffered wMem = false ∧ wMem.core.walker.length < 16 ∧ gval (wDesc 0) 10 = 8 ∧
    (gval (reg 10 (BitVec.ofNat 64 (3 * 2 ^ 32 + 8)) wMem) 10).toNat / 2 ^ 32 < wMem.launch.l ∧
    (∀ x ∈ [2 ^ 32 + 8, (loc 64).toNat * 2 ^ 64 + 3 * 2 ^ 32 + 1, 2 ^ 64 + 4 * 2 ^ 32 + 8],
      (readDesc 3 (closing (wDesc x))).toOption = some (x, closing (wDesc x))) ∧
    (2 ^ 32 + 8) / 2 ^ 192 % 2 ^ 320 = 0 ∧ (2 ^ 32 + 8) / 2 ^ 32 % 2 ^ 32 = 1 ∧ (((loc 64).toNat * 2 ^ 64 + 3 * 2 ^ 32 + 1) / 2 ^ 144 % 2 ^ 368 = 0) ∧
    ((BitVec.ofNat 80 (((loc 64).toNat * 2 ^ 64 + 3 * 2 ^ 32 + 1) / 2 ^ 64)).toNat % 8 = 0) ∧ (2 ^ 64 + 4 * 2 ^ 32 + 8) / 2 ^ 82 % 2 ^ 430 = 0 ∧
    (∀ e, e < 4 → localCore (loc 64).toNat + e * 1 < wMem.launch.l) ∧ wCopyM.core.hitch = some wCopyM.cur.tid ∧ wCopyM.launch.matrix = true ∧
    mmaFieldsOk { mma1 with tile := 0 } = true ∧ (loc 64).toNat % 16 = 0 ∧ (readDesc 3 (closing wCopyM)).toOption.isSome = true := by
  refine ⟨ok_of (by decide +kernel), ok_of (by decide +kernel), ?_⟩
  unfold NoHazard
  decide +kernel

/-- A board of a team at level 4 with value 0x80000000, its signal 63 with a status. -/
def wBoard (st : SigStatus) (count : Nat) : Board :=
  { uid := 0, val := 0x80000000, level := 4, unit := 0, parent := none, world := none, inst := 7, comm := false
    sigs := (Vector.replicate 64 SigCell.quiet).set 63 { SigCell.quiet with status := st, count := count, value := 9, emitted := true }
    handler := none, seqn := 0, serving := false, cycle := [], trapInst := 0, paused := false, ended := false, xch := none }
/-- The thread is a member of that team; its frame area stands at 1,024 in its local space. -/
def wTeam (b : Board) : State :=
  { withLaunch (fun l => { l with boards := [b] }) (ptr 15 (loc 1024) wMem) with
    cur := { (ptr 15 (loc 1024) wMem).cur with team := some 0, teamVal := 0x80000000 } }
theorem named (b : Board) (h : b.uid = 0) : NamedBoard (wTeam b) .inner b := by
  simp [NamedBoard, wTeam, withLaunch, ptr, State.getBoard, State.modCur, h]
abbrev topLvl : SigOp := ⟨.inner, 63⟩
def wMember : State := wTeam (wBoard .absent 0)
theorem named_level : NamedBoard wMember (.l 4) (wBoard .absent 0) := by
  unfold NamedBoard
  decide +kernel
theorem released_wMember : Released0 wMember := by
  unfold Released0
  decide +kernel
theorem board_signal (st : SigStatus) (n : Nat) : ((wBoard st n).sigs[63]).status = st ∧ ((wBoard st n).sigs[63]).count = n := by
  simp [wBoard]
/-- A handler's thread that serves the team. -/
def wHandler : State := (wTeam (wBoard .unresolved 1)).modCur fun a => { a with hndl := true, serves := some 0, answer := some true }
theorem witness_SignalInstructionsResult : (∀ st n, NamedBoard (wTeam (wBoard st n)) topLvl.lvl (wBoard st n)) ∧
    NamedBoard wMember (.l 4) (wBoard .absent 0) ∧ (∀ st n, ((wBoard st n).sigs[63]).status = st ∧ ((wBoard st n).sigs[63]).count = n) ∧
    (∃ t, WritesQ (.bq .a) true (closing wMember) t) ∧ Ready onThread wMember ∧ ChunkEmpty wMember ∧
    outsideLevel wMember wMember.cur 4 = false ∧ Readable wMember 63 ∧ (∀ a ∈ wMember.agents, a.tid ≠ wMember.cur.tid) ∧
    wHandler.cur.hndl = true ∧ wHandler.cur.answer = some true ∧ chainFrom 12 wHandler 0 = [wBoard .unresolved 1] ∧
    wMember.cur.answer = none ∧ wMember.cur.asking = false ∧ wMember.cur.serves = none := by
  refine ⟨fun st n => named _ rfl, named_level, board_signal, ⟨_, And.intro (by decide +kernel) (And.intro (by decide +kernel) rfl)⟩, ?_⟩
  decide +kernel
abbrev frame0 : Acc := { key := 2 ^ 79 + 1088, home := 0, pkg := 0 }
theorem witness_FramesAndCausesResult : NamedBoard wMember (.l 4) (wBoard .absent 0) ∧
    reachAligned (pval wMember 15 + BitVec.ofNat 80 64) 16 rW wMember = .ok (frame0, wMember) ∧
    (∃ t, Writes (.reg 63) (wBoard .absent 0).inst wMember t) ∧ wMember.cur.regs.depth = 0 ∧ PReadable wMember 15 ∧ pval wMember 15 ≠ 0 ∧
    frame0.pkg = wMember.pkg ∧ wMember.cur.rel = none ∧ heldRange wMember frame0.key 16 = false ∧ wMember.cur.tag = 0 ∧
    wMember.cur.chunk.wlines.length < 48 ∧ wMember.cur.chunk.closed = false ∧ wMember.cur.team.isSome = true ∧
    0 < (wMember.modCur fun a => { a with regs := { a.regs with depth := 8 } }).cur.regs.depth := by
  refine ⟨named_level, ok_of (by decide +kernel), ⟨_, writes_reg (by decide +kernel)⟩, ?_⟩
  decide +kernel
/-- A registration of 64 zero bytes, and one with an entry, a record buffer and its size. -/
def wReg (x : Nat) : State :=
  let cells := ((List.range 64).zip (toBytes 64 x)).foldl (fun m ib => writeCell m ((loc 512).toNat + ib.1) ib.2) []
  ptr 3 (loc 512) (withLaunch (fun l => { l with lmem := cells }) wMember)
def wRegWords : List Acc := (List.range 8).map fun i => { key := 2 ^ 79 + 512 + 8 * i, home := 0, pkg := 0 }
def wJoin : State := reg 4 0x80000000 (withLaunch (fun l => { l with boards := [wBoard .absent 0] }) w0)
theorem witness_TeamMembershipResult : Released0 wMember ∧ reachSteps 8 8 (pval (wReg 0) 3) rR (closing (wReg 0)) = .ok (wRegWords, closing (wReg 0)) ∧
    reachRange (rangeFuel 64) (loc 4096) 64 rW (closing (wReg 0)) = .ok ((), closing (wReg 0)) ∧
    (frameArea wMember).toOption = some (loc 1024, wMember) ∧
    Ready onThread wJoin ∧ ChunkEmpty wJoin ∧ Readable wJoin 4 ∧ wJoin.cur.team = none ∧ wJoin.cur.rival = false ∧
    wJoin.cur.regs.p[15] = 0 ∧ (gval wJoin 4).toNat / 2 ^ 24 % 2 ^ 5 = 0 ∧ (gval wJoin 4).toNat / 2 ^ 29 % 8 ≤ 4 ∧
    wJoin.cur.answer = none ∧ wJoin.cur.asking = false ∧
    (wJoin.launch.boards.find? fun b => b.val.toNat == (gval wJoin 4).toNat % 2 ^ 32 && !b.ended) = some (wBoard .absent 0) ∧
    wMember.cur.team.isSome = true ∧ wMember.cur.regs.depth = 0 ∧ wMember.cur.rival = false ∧ wMember.cur.hndl = false ∧
    rivalOf wMember wMember.cur = none ∧ (∀ k : Fin 5, wMember.cur.me[k] = 0) ∧
    (wMember.modCur fun a => { a with answer := some true }).cur.answer.isSome = true ∧
    (wMember.modCur fun a => { a with asking := true }).cur.asking = true ∧ (∀ a ∈ wRegWords, meetsPoison (closing (wReg 0)) a.key 8 = false) ∧
    (∀ x ∈ [0, 2 + (loc 4096).toNat * 2 ^ 160 + 64 * 2 ^ 256],
      ofBytes (wRegWords.flatMap fun a => readViewN (closing (wReg x)) 0 0 a.key 8) = x) := by
  refine ⟨released_wMember, ok_of (by decide +kernel), ok_of (by decide +kernel), ?_⟩
  decide +kernel
/-- The reads and writes of the frame area, one after the other. -/
def suspendRun (s : State) : Except Stop (Unit × State) :=
  (do let _ ← frameMasks (loc 1024) 0; framePut (loc 1024) 40 (toBytes 8 0) : Run Unit) (closing s)
def yieldRun (s : State) : Except Stop (Unit × State) :=
  (do framePut (loc 1024) 40 (toBytes 8 0); framePut (loc 1024) 192 (List.replicate 40 0); framePut (loc 1024) 232 [1] : Run Unit) (closing s)
theorem witness_SuspensionResult : Released0 wMember ∧
    (suspendRun wMember).toOption.isSome = true ∧ (yieldRun wMember).toOption.isSome = true ∧
    Ready onThread wMember ∧ ChunkEmpty wMember ∧ wMember.launch.mode ≠ .quantum ∧ wMember.core.id = wMember.cur.core ∧
    (∀ a ∈ wMember.agents, a.tid ≠ wMember.cur.tid) ∧ (frameArea wMember).toOption = some (loc 1024, wMember) ∧
    hitched w0 = false ∧ pinnedNow w0 = false ∧ pinnedNow wMember = false ∧ PReadable w0 15 ∧ pval w0 15 = 0 ∧ w0.cur.team = none ∧
    pinnedNow (wRing.modCur fun a => { a with hcfged := true }) = true := by
  refine ⟨released_wMember, ?_⟩
  decide +kernel
/-- Hitched, A and M resting. -/
def wHitched : State :=
  { withCore (fun c => { c with hitch := some 0 }) w0 with
    agents := [{ Agent.new 1 with seq := .a, host := some 0, rested := true }, { Agent.new 2 with seq := .m, host := some 0, rested := true }] }
theorem witness_HitchResult : (NothingRetires (onSeq .m w0) ∧ Released0 (onSeq .a w0)) ∧ Ready onThread w0 ∧ ChunkEmpty w0 ∧ w0.cur.loads = [] ∧
    w0.core.hitch = none ∧ w0.core.hitchQ = [] ∧
    (w0.core.vqueue.any fun o => o.tid == w0.cur.tid && o.seq == .x && (vopDest o.instr).isSome) = false ∧
    (w0.cur.base + BitVec.ofInt 80 (2 * (8 : Int))).toNat % 2 = 0 ∧ wHitched.core.hitch = some wHitched.cur.tid ∧ wHitched.core.mx.opened = [] ∧
    wHitched.core.mx.batches = [] ∧ handedOpen wHitched.core = false ∧ wHitched.core.mx.retPois = false ∧ wHitched.cur.host = none ∧
    (∀ b ∈ wHitched.agents, b.core = wHitched.core.id → (b.seq = .a ∨ b.seq = .m) → b.rested = true) ∧
    Ready onAM (onSeq .a w0) ∧ Ready onAM (onSeq .m w0) ∧ (onSeq .m w0).core.mx.opened = [] ∧ PReadable w0 13 ∧ pval w0 13 = 0 ∧
    pval (ptr 13 2 w0) 13 ≠ 0 ∧ (pval (ptr 13 2 w0) 13).toNat % 2 = 0 := by
  unfold NothingRetires Released0
  decide +kernel
theorem witness_ThreadEndResult : Released0 w0 ∧ Ready onThread w0 ∧ ChunkEmpty w0 ∧ w0.core.hitch ≠ some w0.cur.tid ∧
    (w0.getCore w0.cur.core).hitch ≠ some w0.cur.tid ∧ w0.cur.own = none ∧ w0.cur.world = none ∧ w0.cur.serves = none ∧ w0.cur.card = none ∧
    (∀ k : Fin 5, w0.cur.me[k] = 0) ∧ (∀ a ∈ w0.agents, a.tid ≠ w0.cur.tid) := by
  unfold Released0
  decide +kernel
/-- A forker (thread 0) and its world of two rivals with tags 1 and 2; the rival in front. -/
def wRival (i : Nat) (code : EndCode) : Rival := { idx := i, tid := i + 1, tag := i + 1, code := code, cause := 0, lines := 0, sb := [], sbEnt := 0, sbLen := 0 }
def wWorld (st : WState) (code : EndCode) : World :=
  { wid := 0, forker := 0, lcore := 0, pkg := 0, n := 2, depth := 1, ptag := 0, state := st, rivals := [wRival 0 code, wRival 1 code], winner := none
    committing := none, linesDone := false, claims := [], team := none, origin := 0 }
def wView (tag : Nat) : View :=
  { pkg := 0, tag := tag, ptag := 0, idx := tag - 1, n1 := 1, depth := 1, gone := false, lines := [{ line := 1024, data := 7, empty := 0, pois := 0 }] }
def wForker (st : WState) (code : EndCode) : State :=
  { withLaunch (fun l => { l with worlds := [wWorld st code], views := [wView 1, wView 2] }) w0 with
    cur := { w0.cur with own := some 0 }
    agents := (List.range 2).map fun i =>
      { Agent.new (i + 1) with world := some 0, ridx := i, rival := true, tag := i + 1, state := .held, slot := some (i + 1) } }
def wInRival : State := (wForker .opened .live).modCur fun a => { a with own := none, world := some 0, rival := true, ridx := 1, tag := 2 }
theorem witness_ForkResult : (∀ w, ownWorld w0 = some w → w.state = .resolved) ∧ Ready onThread w0 ∧ ChunkEmpty w0 ∧ (3 : BitVec 2) ≠ 0 ∧
    (15 : BitVec 4) ≠ 0 ∧ Writable w0 3 ∧ ownWorld (wForker .opened .live) = some (wWorld .opened .live) ∧ worldDepth w0 ≠ 4 ∧
    w0.launch.mode = .free ∧ ({ w0 with packages := [{ pk 0 with freeTags := [] }] }.getPkg 0).freeTags.length < 2 ∧
    16 ≤ (w0.getPkg 0).freeTags.length ∧ w0.cur.team = none ∧ (∀ m : GReg, m = 1 ∨ m = 2 ∨ m = 3 → loadMarks w0 m = false ∧ vectorMarks w0 m = false) ∧
    PReadable w0 15 ∧ boardFree wMember (wMember.cur.core / 144) = true := by
  refine And.intro (fun w h => nomatch h) ?_
  decide +kernel
theorem witness_ForkResult_deep :
    worldDepth (withLaunch (fun l => { l with views := [{ wView 1 with depth := 4 }] }) (w0.modCur fun a => { a with tag := 1 })) = 4 ∧
    boardFree (withLaunch (fun l => { l with boards := List.replicate 1024 (wBoard .absent 0) }) wMember) 0 = false := by
  decide +kernel
theorem witness_WorldInstructionsResult : Ready onThread wInRival ∧ wInRival.cur.host = none ∧ ChunkEmpty wInRival ∧
    wInRival.cur.world = some 0 ∧ wInRival.cur.promoted = false ∧ wInRival.cur.asking = false ∧ wInRival.getWorld 0 = some (wWorld .opened .live) ∧
    hitched wInRival = false ∧ (wWorld .opened .live).rivals.find? (fun r => r.idx == wInRival.cur.ridx) = some (wRival 1 .live) ∧
    (wInRival.modCur fun a => { a with promoted := true }).cur.promoted = true ∧ ownWorld w0 = none ∧
    ownWorld (wForker .opened .done) = some (wWorld .opened .done) ∧ (∀ r ∈ (wWorld .opened .done).rivals, r.code ≠ .live) ∧
    (wWorld .opened .done).rivals.find? (fun r => r.idx == 1) = some (wRival 1 .done) ∧ (wWorld .opened .done).committing = none ∧
    (wForker .opened .live).getView 0 1 = some (wView 1) ∧ (wWorld .opened .live).state ≠ .resolved ∧
    ownWorld (wForker .resolved .done) = some (wWorld .resolved .done) ∧ (wWorld .opened .done).rivals.find? (fun r => r.idx == 5) = none := by
  decide +kernel
/-- Rival 1 has claimed. -/
def wClaimed : State := withLaunch (fun l => { l with worlds := [{ wWorld .opened .live with claims := [1] }] }) (wForker .opened .live)
/-- Rival 0 is to be killed. -/
def wKilled : State := (wForker .claimed .live).modAgent 1 fun a => { a with killed := true }
/-- A view that CHOOSEW chose is under commit. -/
def wCommit : State := withLaunch (fun l => { l with worlds := [{ wWorld .opened .done with committing := some 1 }] }) (wForker .opened .done)
theorem witness_WorldEventsResult : (wClaimed.getWorld 0 = some { wWorld .opened .live with claims := [1] } ∧ pickOne wClaimed.cycle [1] = some 1 ∧
      wClaimed.launch.mode = .free ∧ ((wWorld .opened .live).rivals.any fun r => r.idx == 1 && r.code == .live) = true ∧
      ∀ r ∈ (wWorld .opened .live).rivals, r.idx ≠ 1 → r.code = .live ∧ (wClaimed.getAgent r.tid).any runsNow = true) ∧
    ((wKilled.getAgent 1).any (fun a => a.killed && a.world == some 0 && a.launch == wKilled.launch.id && a.ridx == 0) = true ∧
      wKilled.cur.launch = wKilled.launch.id ∧ wKilled.cur.host = none ∧
      wKilled.getWorld 0 = some (wWorld .claimed .live)) ∧
    (wCommit.getWorld 0 = some { wWorld .opened .done with committing := some 1 } ∧ wCommit.getView 0 2 = some (wView 2) ∧
      (∀ l ∈ (wView 2).lines, 64 * l.line + 64 ≤ 2 ^ 79 ∧ reservedLine wCommit 0 0 0 l.line = false) ∧ (wRival 1 .done).sb = [] ∧
      (wWorld .opened .done).ptag = 0 ∧ Memory.wf wCommit.mem = true) ∧
    ({ w0 with packages := [{ pk 0 with dirtyTags := [255] }] }.getPkg 0).dirtyTags.contains 255 = true ∧
    tagClean { w0 with packages := [{ pk 0 with dirtyTags := [255] }] } 0 255 = true := by decide +kernel

/-- Logical cores 0 and 1 are the ranks of the team's exchange; h3 of logical core 0 is a reorder ring of 256-byte slots. -/
def wXch (x : Exchange) (p0 p1 : XPart) : State :=
  { withLaunch (fun l => { l with lcores := [{ LCore.new 1 with xp := p1 }] }) (wTeam { wBoard .absent 0 with xch := some x }) with
    lc := { w0.lc with xp := p0, handles := w0.lc.handles.set 3 { Handle.off with mode := 2, logn := 4, logs := 8, base := 4096 } } }
def xNew : Exchange := { ranks := [0, 1], calendar := none, gen := 0, units := [], residual := none }
def xPart (st : XState) : XPart :=
  { XPart.idle with state := st, demand := [2 ^ 23, 3], ring := some 3, table := [(0, 0), (loc 64, 600)], bytes := [0, 0], units := [0, 0] }
def wIdle : State := wXch xNew XPart.idle XPart.idle
def wPosted : State := wXch xNew (xPart .posted) XPart.idle
def wOverran : State := wXch xNew { xPart .done with overran := true } XPart.idle
theorem team_of_idle : TeamOf wIdle none { wBoard .absent 0 with xch := some xNew } := by
  show wIdle.cur.team.bind wIdle.getBoard = some { wBoard .absent 0 with xch := some xNew }
  decide +kernel
theorem witness_ExchangeInstructionsResult : (∃ table s1, sendEntries 0 (loc 64) 2 0 (closing wPosted) = .ok (table, s1) ∧
      s1.lc = wPosted.lc ∧ s1.launch = wPosted.launch ∧ s1.cur = (closing wPosted).cur) ∧
    TeamOf wIdle none { wBoard .absent 0 with xch := some xNew } ∧ Ready onThread wIdle ∧ ChunkEmpty wIdle ∧ buffered wIdle = false ∧
    xNew.ranks.length ≤ 1024 ∧ xNew.ranks.contains wIdle.cur.lcore = true ∧ wIdle.lc.xp.state = .idle ∧
    (reachSteps 2 4 (loc 64) rR (closing wIdle)).toOption.map (·.1.length) = some 2 ∧ xNew.ranks.Nodup ∧
    wIdle.lc.handles[3].mode = 2 ∧ wIdle.lc.handles[3].logs = 8 ∧ wPosted.lc.xp.state = .posted ∧ PReadable wPosted 1 ∧
    (ranksOf wPosted wPosted.lc.xp.team).findIdx (· == wPosted.cur.lcore) = 0 ∧
    (wXch xNew (xPart .sending) XPart.idle).lc.xp.state = .sending ∧ wOverran.lc.xp.state = .done ∧ wOverran.lc.xp.overran = true ∧
    wOverran.cur.regs.handlerActive = false ∧ wOverran.cur.regs.utrapv ≠ 0 := by
  refine ⟨⟨_, _, rfl, by decide +kernel⟩, team_of_idle, ?_⟩
  decide +kernel
theorem witness_CalendarCarriesTheDemand : (wXch xNew (xPart .ready) (xPart .ready)).getBoard 0 = some { wBoard .absent 0 with xch := some xNew } ∧
    xNew.calendar = none ∧ xNew.ranks ≠ [] ∧
    (∀ n ∈ xNew.ranks, ((wXch xNew (xPart .ready) (xPart .ready)).getLc n).xp.state = .ready ∧
      ((wXch xNew (xPart .ready) (xPart .ready)).getLc n).xp.team = 0) := by decide +kernel
def xCal : List XPhase := [{ pairs := [(1, 0)], len := 1 }, { pairs := [(0, 1), (1, 0)], len := 2 }]
def xRun (us : List XUnit) : Exchange := { xNew with calendar := some xCal, units := us }
def xUnit : XUnit := { src := 1, dst := 0, idx := 0, data := List.replicate 256 (7, false), residual := false, gen := 0 }
theorem witness_ExchangeEventsResult : exchangeOf (wXch (xRun []) (xPart .ready) (xPart .ready)) 0 = some (xRun [], xCal) ∧ (xRun []).ranks[0]? = some 0 ∧
    (let s := wXch (xRun []) (xPart .sending) { xPart .sending with phase := 1 };
      (s.getLc 0).xp.state = .sending ∧ (s.getLc 0).xp.gen = (xRun []).gen ∧ s.launch.phase = .running ∧ (s.getLc 0).away = false ∧
        (xCal[0]?).map (·.pairs.find? (·.1 == 0)) = some none) ∧
    (let s := wXch (xRun []) { xPart .sending with phase := 1 } { xPart .sending with phase := 1 };
      (xCal[1]?).map (·.pairs.find? (·.1 == 0)) = some (some (0, 1)) ∧ phaseReceived s 0 (xRun []) xCal 1 1 = true ∧ hasRing s 0 (xRun []) 1 = true ∧
        1 < (s.getLc 0).xp.bytes.length ∧ 1 < (s.getLc 0).xp.units.length) ∧
    (let s := wXch (xRun []) { xPart .sending with phase := 2, units := [0, 3] } (xPart .sending);
      xCal.length ≤ (s.getLc 0).xp.phase ∧ (s.getLc 0).xp.segEnded = false ∧ unitsLeft s 0 (xRun []) = [] ∧
        (∀ d, d < 2 → hasRing s 0 (xRun []) d = true → stated s 0 (xRun []) 0 d ≤ listAt (s.getLc 0).xp.units d)) ∧
    (let s := wXch (xRun []) { xPart .sending with segEnded := true, table := [(0, 0), (loc 64, 1024)] } { xPart .sending with segEnded := true, demand := [0, 0] };
      (∀ m ∈ (xRun []).ranks, (xpartOf s 0 m).team = 0 → (xpartOf s 0 m).segEnded = true ∧ (xpartOf s 0 m).gen = (xRun []).gen) ∧
        unitsLeft s 0 (xRun []) = [] ∧ nextResidual s 0 (xRun []) 0 = some 0) ∧
    (let s := wXch (xRun [xUnit]) (xPart .sending) (xPart .sending);
      let r := ticketAt 0 0 (ticketPlace s 0 (xRun [xUnit]) 0 1 0 false) s;
      r.2 = some (0, 3, 0) ∧ (r.1.getLc 0).away = false ∧ (getHandle r.1 0 3).c ≤ 0 ∧ (getHandle r.1 0 3).marks.contains 0 = false ∧
        heldRange r.1 (placeAddr 0 ((getHandle r.1 0 3).slot 0)) 256 = false ∧ Memory.wf r.1.launch.lmem = true) := by decide +kernel
/-- The primary copy of the arbiter has missed three heartbeats while an exchange is under way. -/
def wMissed : State :=
  { wXch (xRun []) (xPart .sending) (xPart .sending) with
    arbiters := [{ part := 0, primary := some (0, 0), standby := some (1, 0), missed := 3, gen := 0 }] }
theorem witness_ExchangeEventsResult_arbiter : (arbiterOf wMissed 0).primary = some (0, 0) ∧ (arbiterOf wMissed 0).standby = some (1, 0) ∧
    3 ≤ (arbiterOf wMissed 0).missed ∧ (partsOf wMissed).find? (failoverDue wMissed) = some 0 ∧ wMissed.launches = [] ∧ wMissed.launch.part = 0 ∧
    wMissed.launch.boards = [{ wBoard .absent 0 with xch := some (xRun []) }] ∧ (xRun []).calendar.isSome = true := by decide +kernel

/-- A record of 64 bytes at p1 and a die queue. -/
def wRecord (x : Nat) (q : DieQ) : State :=
  let cells := ((List.range 64).zip (toBytes 64 x)).foldl (fun m ib => writeCell m ((loc 64).toNat + ib.1) ib.2) []
  { withLaunch (fun l => { l with lmem := cells }) wMem with dieqs := [q], agents := [{ Agent.new 9 with state := .ready, queued := true }] }
def qEntry : QEntry := { tid := 9, key := 0, pass := 0, cluster := 0, pkg := 0, tagged := false, origin := 0 }
def dieQ (es ring : List QEntry) : DieQ := { die := 0, entries := es, ring := ring, holding := [], reserved := 0, stalled := false, raised := none, shown := none }
def goodSeed : Nat := 0xFFFFFF * 2 ^ 160 + 4096
def goodCard : Nat := 4096 + 8 * 2 ^ 160 + 8 * 2 ^ 192 + 1 * 2 ^ 224 + 2 * 2 ^ 240
def wSeed : State := wRecord goodSeed (dieQ [] [])
def wTake : State := wRecord 0 (dieQ [qEntry] [])
/-- The only seed of the launch stands in the ring, so it is behind the window. -/
def wBehind : State := wRecord 0 (dieQ [] [qEntry])
theorem released_wSeed : Released0 wSeed := by
  unfold Released0
  decide +kernel
theorem witness_TaskInstructionsResult : Released0 wSeed ∧ CanTake (.reg 63) wSeed ∧ CanTake (.port .east) wSeed ∧ Ready onThread wSeed ∧
    ChunkEmpty wSeed ∧ wSeed.launch.mode = .free ∧ wSeed.cur.asking = false ∧ wSeed.cur.answer = none ∧ wSeed.cur.tag = 0 ∧ PReadable wSeed 1 ∧
    Readable wSeed 5 ∧ (viewRecord (loc 64) rR true wSeed).toOption = some ((here, goodSeed), closing wSeed) ∧ seedBad goodSeed = false ∧
    cardBad goodCard = false ∧ (wSeed.getDie 0).entries.length + 2 ≤ 16384 ∧ (wSeed.getDie 0).reserved < totalRoom wSeed 0 ∧
    totalRoom wSeed 0 ≤ ((wRecord goodSeed { dieQ [] [] with reserved := 2 ^ 31 }).getDie 0).reserved ∧
    (viewRecord (loc 64) (Machine.rR ||| Machine.rW ||| Machine.rA) false (wRecord goodCard (dieQ [] []))).toOption = some ((here, goodCard), closing (wRecord goodCard (dieQ [] []))) ∧
    reservedLine (wRecord goodCard (dieQ [] [])) 0 0 0 (lineOf here.key) = false ∧ Memory.wf (wRecord goodCard (dieQ [] [])).launch.lmem = true := by
  refine ⟨released_wSeed, ?_⟩
  unfold CanTake
  decide +kernel
theorem witness_TaskInstructionsResult_take : (reachAligned (loc 64) 64 rW wTake).toOption = some (here, wTake) ∧ heldRange wTake here.key 64 = false ∧
    chooseTake .free 0 ((windowOf16 (wTake.getDie 0).entries).filter (mayTakeOut wTake)) = some qEntry ∧
    (wTake.getAgent qEntry.tid).isSome = true ∧ qEntry.tid ≠ wTake.cur.tid ∧ Memory.wf wTake.mem = true ∧ Memory.wf wTake.launch.lmem = true ∧
    (∀ b ∈ wTake.agents, b.reserved = false) ∧ ((wSeed.getDie 0).entries ++ (wSeed.getDie 0).ring).any (mayTakeOut wSeed) = false ∧
    chooseTake .free 0 ((windowOf16 (wBehind.getDie 0).entries).filter (mayTakeOut wBehind)) = none ∧
    ((wBehind.getDie 0).entries ++ (wBehind.getDie 0).ring).any (mayTakeOut wBehind) = true := by decide +kernel
/-- A ring of 1,024 records at 0x20000 whose header stands at 0x10000, with HEAD 0 and TAIL 1. -/
def wSpill (q : DieQ) : State :=
  { withCore (fun c => { c with priv := { c.priv with spillr := 0x10000 } }) w0 with
    mem := [(65538, 2), (65564, 1), (65572, 10)], dieqs := [q], agents := [{ Agent.new 9 with state := .ready, queued := true }] }
def wRefill : State := wSpill (dieQ [] [qEntry])
def wHeld : State := wSpill { dieQ [] [] with holding := [(qEntry, 0)] }
def wBalance : State := withLaunch (fun l => { l with lcores := [{ LCore.new 1 with core := 144 }] }) (wSpill (dieQ [qEntry] []))
theorem witness_OrderAndQueueUnitsResult : Released0 w0 ∧ w0.launch.pred = some 0 ∧ (withLaunch (fun l => { l with pred := none }) w0).launch.pred = none ∧
    buffered w0 = false ∧ (wRefill.getDie 0).ring = [qEntry] ∧ ringHeader wRefill 0 = some (10, 0, 1, 0x20000) ∧
    (rawRead wRefill 0 (ringSlot 10 0x20000 0) 64).isSome = true ∧
    ((wRefill.getAgent 9).any fun a => a.state == .ready && (launchOf wRefill a.launch).phase == .running) = true ∧
    (wHeld.getDie 0).holding = [(qEntry, 0)] ∧ ringHeader wHeld 0 = some (10, 0, 1, 0x20000) ∧ ringRoom wHeld 0 ≠ 0 ∧
    (rawKey wHeld 0 (ringSlot 10 0x20000 1)).isSome = true ∧ (wHeld.getAgent 0).isSome = true ∧ (wHeld.getAgent qEntry.tid).isSome = true ∧
    diesAdjacent wBalance 0 1 = true ∧ (wBalance.getDie 1).entries.length < (wBalance.getDie 0).entries.length ∧
    (∀ e ∈ (wBalance.getDie 0).entries, movable wBalance 0 1 e = true) ∧ ((wBalance.getDie 0).entries.map (·.tid)).Nodup := by
  unfold Released0
  decide +kernel

theorem witness_FaultEndsTheLaunch : FaultReady w0 ∧ PReadable wMem 1 ∧ (pval wMem 1 + (1 : Word).signExtend 80).toNat % 2 ^ (3 : Size).toNat ≠ 0 ∧
    (pval (ptr 1 (3#80 <<< 78) w0) 1).toNat % 2 ^ (3 : Size).toNat = 0 ∧ (pval (ptr 1 (3#80 <<< 78) w0) 1).extractLsb' 78 2 = 3 ∧
    (pval (ptr 1 1 w0) 1).toNat % 8 ≠ 0 ∧ (pval (ptr 1 1 w0) 1).toNat % 2 = 1 ∧ (onSeq .s w0).cur.seq = .s ∧ ChunkEmpty (onSeq .s w0) ∧
    (onSeq .s w0).core.id = (onSeq .s w0).cur.core ∧ Ready onX (onSeq .s w0) := by
  unfold FaultReady
  decide +kernel
theorem witness_QuantumRegister : w0.launch.count ≤ 65536 ∧ (gval (onSeq .s (reg 1 256 w0)) 1).toNat % 2 ^ 17 = 256 ∧
    (gval (onSeq .s (reg 1 65536 w0)) 1).toNat % 2 ^ 17 = 65536 ∧ (gval (onSeq .s (reg 1 255 w0)) 1).toNat % 2 ^ 17 < 256 ∧
    65536 < (gval (onSeq .s (reg 1 65537 w0)) 1).toNat % 2 ^ 17 ∧ Readable (onSeq .s w0) 1 ∧ Writable (onSeq .s w0) 15 := by decide +kernel
theorem witness_ControlRegistersResult : userCr w0 0 = some (.inl 0) ∧ userCr w0 17 = some (.inl 0) ∧ userCr w0 13 = some (.inr 0x100) ∧
    (8 + (4 : Fin 5).val = 12) ∧ w0.getView w0.pkg w0.cur.tag = none ∧ (511 : BitVec 31).toNat < 512 ∧ 18 ≤ (255 : BitVec 31).toNat ∧
    (gval (reg 1 5 w0) 1).toNat ≤ 5 ∧ 5 < (gval (reg 1 6 w0) 1).toNat ∧ (gval (reg 1 15 w0) 1).toNat < 16 ∧ (0x10F : Word) &&& ~~~0x10F = 0 ∧
    (0x110 : Word) &&& ~~~0x10F ≠ 0 ∧ hitched w0 = false ∧ PReadable w0 15 := by decide +kernel

/-- A core in supervisor state with a handler, and a launch whose local spaces hold a husk. -/
def wSup : State :=
  let s := withCore (fun c => { c with sup := true, priv := { c.priv with handler := 0x10000 } }) (onSeq .s w0)
  ptr 1 (loc 0) { s with cur := { s.cur with slot := none }, launch := { s.launch with lsize := 0x80000 } }
def wHusk (b : Byte) : State :=
  { wSup with
    lc := { wSup.lc with away := true }
    launch := { wSup.launch with lmem := [(2 ^ 79, b)] }
    agents := [{ Agent.new 5 with husked := some (loc 0), state := .held }]
    husks := [{ at_ := loc 0, core := Core.new 3, slots := [(5, some 2)], lcs := [0], launch := 0, lseq := 0, queue := 0, arrivals := [] }] }
theorem witness_SupervisorInstructionsResult : (let s := withCore (fun c => { c with priv := { c.priv with handler := 0x10000 } }) w0;
      Ready onThread s ∧ buffered s = false ∧ s.cur.slot = some 0 ∧ s.cur.core = s.core.id ∧ s.core.priv.handler ≠ 0 ∧ s.agents = [] ∧
        s.seqOf s.core.id .s = none ∧ s.nextTid ≠ s.cur.tid) ∧
    (wSup.cur.seq = .s ∧ Ready onX wSup ∧ ChunkEmpty wSup ∧ wSup.core.irqs = [] ∧ wSup.cur.slot = none ∧
      (withCore (fun c => { c with irqs := [1] }) wSup).core.irqs ≠ [] ∧ (gval (reg 4 0x1FFFF wSup) 4).toNat < 2 ^ 17 ∧ wSup.core.inval = none ∧
      (underWay (closing wSup) (pval wSup 1).toNat 0xFFFF).over = true ∧ (pval wSup 1).toNat % 65536 = 0 ∧ wSup.cur.answer = none) ∧
    (reachRange (rangeFuel huskSize) (loc 0) huskSize rW wSup).toOption.isSome = true ∧ hasUser (closing wSup) 0 = true ∧ wSup.core.husking = none ∧
    coreQuiet (closing wSup) 0 = true ∧ placesQuiet wSup.core = true := by decide +kernel
theorem witness_SupervisorInstructionsResult_unhusk : (let s := withCore (fun c => { c with caller := some 1 }) { wSup with agents := [{ Agent.new 5 with slot := some 1 }] };
      s.core.caller = some 1 ∧ ∀ a ∈ s.agents, a.core = s.core.id ∧ a.slot = some 1 ∧ a.husked = none) ∧
    hasUser (closing { wSup with lc := { wSup.lc with away := true } }) 0 = false ∧
    hasUser (closing (wHusk 2)) 0 = false ∧ huskGet (closing (wHusk 2)) (loc 0) 0 1 % 4 = 2 ∧ huskGet (closing (wHusk 1)) (loc 0) 0 1 % 4 ≠ 2 ∧
    ((wHusk 2).husks.find? fun h => h.at_ == loc 0).isSome = true ∧ (launchOf (closing (wHusk 2)) 0).phase = .running ∧
    spanPart (closing (wHusk 2)) 0 = some (launchOf (closing (wHusk 2)) 0).part ∧ (wHusk 2).cur.core = (wHusk 2).core.id ∧
    (wHusk 2).core.id / 576 = (Core.new 3).id / 576 ∧ (wHusk 2).cur.tid ≠ 5 ∧ hasEnded (wHusk 2) 5 = false ∧
    (Core.new 3).hitch.any (hasEnded (wHusk 2)) = false ∧ (Core.new 3).vqueue = [] := by decide +kernel
theorem witness_SystemUnitsResult_pages : (let c := w0.core; let i : Nat := 1 ^^^ ((mix (BitVec.ofNat 64 (2 ^ 62))).toNat % 2 ^ 21);
      let s := physBytes (64 * i) (toBytes 16 placeEntry) { w0 with tuc := [] };
      pageWalk s (s.getCore 0) 0x10000 = some placeEntry ∧ pageWalk { w0 with tuc := [] } c 0x10000 = none ∧ w0.absent.contains 1 = false ∧
        ((withCore (fun c => { c with asked := some 0x10000 }) w0).getCore 0).asked = some 0x10000 ∧ (pageEntry w0 c 0x10000).isSome = true) := by
  decide +kernel
/-- A paddock at 1 GiB with one record, for the first line of granule 1, of its byte 63. -/
def padRec : PadRec := { core := 0, index := 0, page := 1, launch := 0, lcore := 0, seq := .x, tag := 0 }
def wPad : State := { withCore (fun c => { c with priv := { c.priv with paddock := 0x40000001 } }) w0 with
  paddocked := [padRec], mem := [(0x40000008, 1), (0x40000082, 1), (0x40000097, 0x80), (0x400000FF, 0x55)] }
theorem witness_SystemUnitsResult_paddock : Fronted wPad ∧ wPad.paddocked.filter (·.page == 1) = [padRec] ∧
    (pageEntry wPad (wPad.getCore 0) 65536).isSome = true ∧
    rawAcc wPad 0 (BitVec.ofNat 80 (readPhys wPad (padSlot (paddockBase (wPad.getCore 0)) 0) 16)) = some { key := 65536, home := 0, pkg := 0 } ∧
    (readPhys wPad (padSlot (paddockBase (wPad.getCore 0)) 0 + 25) 1).testBit 0 = false ∧ isLocal 65536 = false ∧
    65536 + 64 ≤ paddockBase (wPad.getCore 0) ∧ 65536 + 64 ≤ padSlot (paddockBase (wPad.getCore 0)) 0 ∧ Memory.wf wPad.mem = true ∧ padRec.launch = wPad.launch.id ∧
    padRec.lcore = wPad.lc.id ∧ 65536 + 64 ≤ 2 ^ 79 := by
  unfold Fronted
  decide +kernel
/-- A core whose thread has a remote load out. -/
def wMidLoad : State := wLoad
def trapRec : TrapRec :=
  { queue := 0, lseq := 0, pc := 0, addr := 0, lcore := 0, core := 0, name := 0, rv := false, ridx := 0, seq := 0, kind := 2, cause := 4 }
theorem witness_SystemUnitsResult_units : (let s := withCore (fun c => { c with priv := { c.priv with trapq := 0x10000 } }) { w0 with trapWait := [trapRec] };
      (rawRead s 0 (s.getCore 0).priv.trapq 12) = some 0) ∧
    (let s := withCore (fun c => { c with irqs := [3], priv := { c.priv with handler := 0x10000 } }) w0;
      s.core.sup = false ∧ s.core.halted = false ∧ s.core.haltedBy = 0 ∧ s.core.priv.handler ≠ 0 ∧ (s.allAgents.map (·.tid)).Nodup ∧
        (∀ a ∈ s.allAgents, a.tid < s.nextTid) ∧ (∀ a ∈ agentsOn s s.core.id, a.chunk.count = 0 ∧ a.chunk.wbuf = [] ∧ a.chunk.clre = [])) ∧
    (let s := withCore (fun c => { c with husking := some (loc 0) }) w0;
      launchOn s s.core.id = some (s.launch.id, 0) ∧ (∀ a ∈ s.allAgents, a.seq = .s → a.slot = none) ∧ (s.allAgents.map (·.tid)).Nodup ∧
        coreQuiet s s.core.id = true ∧ placesQuiet s.core = true ∧ coreQuiet wMidLoad 0 = false) ∧
    (let s := withLaunch (fun l => { l with mode := .replay }) (w0.modCur fun a => { a with wait := some (.blocked .replay) });
      s.launch.phase = .running ∧ allReplayWait s s.launch.id = true) ∧
    (withLaunch (fun l => { l with mode := .quantum, quantum := .serve [] }) w0).launch.quantum = .serve [] ∧
    (withLaunch (fun l => { l with mode := .quantum, quantum := .drain }) w0).launch.quantum = .drain := by decide +kernel

/-- A posted store of one byte to logical core 1's local space, in the journal, or on its way. -/
def postId : PostId := { core := 0, place := 0, lcore := 0, entry := 31, seqn := 7 }
def jEntry (sent : Bool) : JEntry :=
  { id := postId, tid := 0, launch := 0, seq := .x, pkg := 1, home := 1, va := pval wMem 2, key := there.key, req := .store [(there.key, 5)] [] [], sent := sent
    hold := false, released := none }
def wJournal (sent : Bool) : State :=
  withCore (fun c => { c with places := c.places.set 0 { Place.empty with entries := [jEntry sent], markers := [(1, false)] } }) wMem
/-- The first place of core 0. -/
def place0 (s : State) : Place := (s.getCore 0).places[0]
def posted : Posted :=
  { id := postId, tid := 0, launch := 0, seq := .x, pkg := 1, home := 1, va := pval wMem 2, key := there.key, req := .store [(there.key, 5)] [] [], released := none }
def window (c : Byte) (n : Nat) : Window := { core := 0, place := 0, pkg := 1, launch := 0, home := 1, applied := [(postId, c)], count := n }
def wNet (m : Msg) : State := { wJournal true with net := [m] }
def wArrives : State := wNet (.posted posted 0)
def wRefused : State := wNet (.refusal posted 0x0F 0)
theorem witness_PostedRequestsResult : (∀ sent : Bool, (place0 (wJournal sent)).entries.find? (fun e => e.id.entry == 31) = some (jEntry sent) ∧
      InFront (wJournal sent) (jEntry sent).launch (jEntry sent).id.lcore ∧
      (∀ x ∈ (place0 (wJournal sent)).entries.takeWhile (fun x => x.id != postId), lineOf x.key ≠ lineOf there.key) ∧
      atomicFirst (wJournal sent) 0 0 (jEntry sent) = false) ∧
    (wArrives.net[0]? = some (.posted posted 0) ∧ InFront wArrives posted.launch posted.id.lcore ∧ down wArrives posted.pkg = false ∧
      0 = (wArrives.getPkg 1).inc ∧ 1 ≠ (wArrives.getPkg 1).inc ∧ (windowOf wArrives posted).applied.find? (fun x => x.1 == postId) = none ∧
      tooOld (windowOf wArrives posted) posted = false ∧ homeAway wArrives posted.home = false ∧ homeHalted wArrives posted.home = false ∧
      homeRights (dropNet 0 wArrives) posted = some 31 ∧ rawKey (dropNet 0 wArrives) 0 posted.va = some posted.key ∧
      homeBusy (dropNet 0 wArrives) 1 posted.key 1 = false ∧ homeQueued (wArrives.getLc posted.home).core wArrives.net = false ∧
      inTransit wArrives (.posted postId) = false ∧ Memory.wf wArrives.mem = true ∧ Memory.wf wArrives.launch.lmem = true) ∧
    (windowOf { wArrives with windows := [window 0x0F 1] } posted).applied.find? (fun x => x.1 == postId) = some (postId, 0x0F) ∧
    homeRights { wMem with tuc := [pageWith 29 1 1] } { posted with va := 0x10000 } = some 29 ∧ ((29 : Rights) &&& 2 ≠ 2) ∧
    (postId.place < 5 ∧ down (wNet (.ack postId 0)) (pkgOf postId.core) = false ∧ 0 = ((wNet (.ack postId 0)).getPkg 0).inc ∧ inTransit (wNet (.ack postId 0)) (.ack postId) = false) ∧
    (InFront wRefused posted.launch posted.id.lcore ∧ down wRefused 0 = false ∧ wRefused.getAgent posted.tid = some wRefused.cur ∧
      wRefused.cur.seq = .x ∧ rivalOf wRefused wRefused.cur = none ∧ wRefused.launch.fatal = none ∧ wRefused.launch.phase = .running ∧ posted.released = none ∧ inTransit wRefused (.refusal postId) = false) ∧
    (place0 (wNet (.answer 0 0 1 0))).markers = [(1, false)] := by
  unfold InFront Fronted
  decide +kernel

/-- The home's core is halted. -/
theorem witness_PostedRequestsResult_halted : (let s := { wArrives with
        cores := [{ Core.new 144 with haltedBy := 1 }], launch := { wArrives.launch with lcores := [{ LCore.new 1 with core := 144 }] } };
      homeAway s posted.home = false ∧ homeHalted s posted.home = true ∧ tooOld (windowOf s posted) posted = false) ∧
    1 ≤ uncounted { wNet (.marker 0 0 1 1 0) with windows := [window 0 1] } 0 0 1 ∧ inTransit (wNet (.marker 0 0 1 1 0)) (.marker 0 0 1) = false ∧
    inTransit (wNet (.answer 0 0 1 0)) (.answer 0 0 1) = false := by decide +kernel

def rAccess (value : Option Nat) (atomic : Option (AOp × Word × Word)) : RLoad :=
  { rload with id := 4, dst := .g 63, signed := true, atomic := atomic, value := value }
def wLoads (l : RLoad) : State := wMem.modCur fun a => { a with loads := [l] }
/-- A flit on its way to core 5 of package 1. -/
def flit : Flit := { cargo := .posted postId, pkg := 0, node := 7, dst := 581, age := 3, src := 0, entered := true, hopped := false }
def wLink (failed retrains : Nat) : State :=
  { wMem with links := (linksOf 0).map fun l => if l.id = 0 then { l with held := [flit], failed := failed, retrains := retrains } else l }
def packet (st : PkState) (inc : Byte) : Packet :=
  { id := 0, core := 0, cmd := 0, dstPkg := 1, dstLc := 1, dstCore := 576, lines := [{ cells := [(loc 128, 7, false)] }], unit := none, st := st
    reserved := false, inc := inc }
def wPackets (st : PkState) (inc : Byte) : State := { withCore (fun c => { c with walker := [wCmd] }) wMem with packets := [packet st inc] }
/-- Package 1 has been reset, and everything that it was at has ended. -/
def wRejoin : State := { withLaunch (fun l => { l with phase := .ended }) w0 with packages := [pk 0, { pk 1 with rejoin := true }] }
/-- The flits of an access have come, and nothing waits at its home. -/
theorem witness_FabricResult_access : ∀ l ∈ [rAccess none none, rAccess none (some (.add, 1, 0)), rAccess (some 9) none],
    inTransit (wLoads l) (.load 0 4) = false ∧ inTransit (wLoads l) (.reply 0 4) = false ∧
      homeQueued ((wLoads l).getLc ((loadHome (wLoads l) (wLoads l).cur l).getD 0)).core (wLoads l).net = false := by decide +kernel
theorem witness_FabricResult : (∀ st inc, (wPackets st inc).packets[0]? = some (packet st inc) ∧ inTransit (wPackets st inc) (.packet 0) = false) ∧
    (∀ l ∈ [rAccess none none, rAccess none (some (.add, 1, 0)), rAccess (some 9) none],
      (wLoads l).getAgent 0 = some (wLoads l).cur ∧ OfFront (wLoads l) (wLoads l).cur ∧ (wLoads l).cur.loads.find? (·.id == 4) = some l ∧
        l.ring = none ∧ l.fault = 0 ∧ down (wLoads l) l.pkg = false ∧ earlierLoad (wLoads l).cur l = false ∧ homeAway (wLoads l) ((loadHome (wLoads l) (wLoads l).cur l).getD 0) = false ∧
        homeHalted (wLoads l) ((loadHome (wLoads l) (wLoads l).cur l).getD 0) = false ∧ poisoned (wLoads l) l.pkg 0 l.key = false ∧ homeBusy (wLoads l) l.pkg l.key 8 = false) ∧
    (let s := withLaunch (fun l => { l with portq := [(1, 2, 9)] }) w0; s.launch.portq[0]? = some (1, 2, 9) ∧ ((s.getLc 1).ports[2]).length < 4) ∧
    (∀ x ∈ [(0, 0), (8, 0), (9, 0), (9, 2)], ((getLink (wLink x.1 x.2) 0).map fun l => (l.held, l.failed, l.retrains, l.disabled)) = some ([flit], x.1, x.2, false)) ∧
    (∀ inc : Byte, inc = 0 ∨ inc = 1 → ((wPackets .sent inc).getCore 0).walker.find? (·.id == 0) = some wCmd ∧ down (wPackets .sent inc) 1 = false ∧
      (∀ lc ∈ launchLcs (wPackets .sent inc) 0, lc.away = false) ∧ ((wPackets .sent inc).getPkg 1).inc = 0) ∧
    (promise (.cmd 0 0 false) w0).cur.regs.d[7] = .cmd 0 0 false := by
  refine ⟨fun _ _ => ⟨rfl, by
    show inTransit wMem (.packet 0) = false
    decide +kernel⟩, ?_⟩
  unfold OfFront Fronted
  decide +kernel
theorem witness_FabricResult_rejoin : (wRejoin.getPkg 1).rejoin = true ∧ (wRejoin.getPkg 1).inReset = false ∧
    (∀ c ∈ wRejoin.core :: wRejoin.cores, ∀ p ∈ c.places.toList, ∀ e ∈ p.entries, e.pkg ≠ 1) ∧
    (∀ a ∈ wRejoin.allAgents, a.rel = none ∧ ∀ l ∈ a.loads, l.pkg ≠ 1) ∧ ∀ l ∈ wRejoin.launch :: wRejoin.launches, l.phase ≠ .running := by
  decide +kernel
def wWalker (w : WCmd) : State := withCore (fun c => { c with walker := [w] }) w0
def wStarted : WCmd := { wCmd with started := true }
def wLanding : WCmd := { wStarted with landing := [{ cells := [(loc 128, 7, false)] }] }
theorem witness_FabricResult_walker : findLine ((wWalker wLanding).getCore 0).walker 0 = some (wLanding, 0) ∧ Fronted (wWalker wLanding) ∧
    wLanding.launch = (wWalker wLanding).launch.id ∧ wLanding.lcore = (wWalker wLanding).lc.id ∧ wLanding.ring = none ∧
    placeLine (wWalker wLanding) 0 wLanding { cells := [(loc 128, 7, false)] } = some (0, 0, [((loc 128).toNat, 7, false)]) ∧
    heldRange (wWalker wLanding) (loc 128).toNat 1 = false ∧ reservedKeys (wWalker wLanding) 0 0 0 [(loc 128).toNat] = false ∧
    (wWalker wLanding).empty.Nodup ∧ (wWalker wLanding).launch.lempty.Nodup := by
  unfold Fronted
  exact ⟨by decide +kernel, by decide +kernel, by decide +kernel⟩
theorem witness_FabricResult_commands : ((wWalker wStarted).getCore 0).walker.find? (·.id == wStarted.id) = some wStarted ∧ wStarted.cause = 0 ∧
    linesLeft (wWalker wStarted) 0 wStarted = [] ∧ wStarted.tile = none ∧ wStarted.targets = [0] ∧ wStarted.cnt = some 15 ∧
    ((wWalker wCmd).getCore 0).walker.find? (fun w => !w.started) = some wCmd ∧ wCmd.gather = none := by
  decide +kernel

/-- Queue 0 of partition 0 at 0x10000 with one packet at 0x10400, whose template stands at 0x10C00 and whose record at 0x10800; one
enabled cluster. -/
def wHost (ls : List Launch) : State :=
  { withCore (fun c => { c with priv := { c.priv with qtab := 0x10000 } }) State.reset with
    packages := [{ pk 0 with cmask := 1 }]
    tuc := [page 1 1]
    pkts := [{ part := 0, turn := 0, widx := [(0, 1)] }]
    launches := ls
    mem := [(0x10001, 4), (0x10002, 1), (0x10010, 1), (0x10013, 0x80), (0x1001C, 1), (0x10400, 1), (0x10423, 0x0C), (0x10424, 1), (0x10437, 8),
      (0x10438, 1), (0x10814, 1), (0x10C04, 0x10), (0x10C05, 0xFC), (0x10C06, 3)] }
def launch1 (p : LPhase) : Launch := { Launch.none with id := 1, phase := p, tmpl := 0x10C00, crec := 0x10800, l := 1, w := 1, lsize := 4096 }
theorem witness_LaunchEventsResult : ((wHost []).getPkg 0).plan[0 / 256]? = some (0xF, 0) ∧ ((wHost []).getPkg 0).plan[256 / 256]? = none ∧
    rawRead (wHost []) (procCore (wHost []) 0) (descAddr (wHost []) 0 0 + 28) 4 = some 1 ∧ nextQueue (wHost []) 0 = some (0, 0, 0x10400) ∧
    (let x := (rawRead (wHost []) 0 0x10400 64).getD 0;
      field x 7 0 = 1 ∧ field x 207 16 = 0 ∧ field x 13 8 = 0 ∧ crecOk (wHost []) 0 (BitVec.ofNat 80 (field x 511 432)) = true) ∧
    (let s := { wHost [] with mem := [(0x10001, 4), (0x10002, 1), (0x10010, 1), (0x10013, 0x80), (0x1001C, 1)] };
      nextQueue s 0 = some (0, 0, 0x10400) ∧ field ((rawRead s 0 0x10400 64).getD 1) 7 0 = 0 ∧ (rawKey s 0 (descAddr s 0 0 + 19)).isSome = true) ∧
    firstIn (wHost [launch1 .dispatched]) (fun l => l.phase == .dispatched && (!l.af || earlierOver (wHost [launch1 .dispatched]) l)) = some (launch1 .dispatched) ∧
    (let x := (rawRead (wHost []) 0 0x10C00 256).getD 0; templateOk x = true ∧ shapeFits (wHost []) (fromTemplate x (launch1 .dispatched)) = true ∧
      templateOk 0 = false ∧ shapeFits (wHost []) (fromTemplate (x + 17) (launch1 .dispatched)) = false) ∧
    firstIn (wHost [launch1 .admitted]) (fun l => l.phase == .admitted && capacityFree (wHost [launch1 .admitted]) l) = some (launch1 .admitted) := by
  decide +kernel
/-- A reserved launch with one logical core. -/
def reserved1 (leases : List (Nat × Nat × BitVec 5)) : Launch := { launch1 .reserved with lcores := [LCore.new 0], leases := leases }
theorem witness_LaunchEventsResult_start : nextStart (wHost [reserved1 []]) = some (reserved1 []) ∧
    leaseMissing (wHost [reserved1 []]) (reserved1 []) = none ∧ nextStart (wHost [reserved1 [(9, 1, 31)]]) = some (reserved1 [(9, 1, 31)]) ∧
    (leaseMissing (wHost [reserved1 [(9, 1, 31)]]) (reserved1 [(9, 1, 31)])).isSome = true ∧ coreLost (wHost [reserved1 []]) (reserved1 []) = false ∧
    coreLost (wHost [reserved1 []]) { reserved1 [] with lcores := [LCore.new 0, { LCore.new 1 with core := 143 * 4 }] } = true ∧
    firstIn (wHost [launch1 .stopping]) (fun l => l.phase == .stopping && unitsQuiet (wHost [launch1 .stopping]) l.id) = some (launch1 .stopping) ∧
    firstIn (wHost [launch1 .accounting]) (fun l => l.phase == .accounting) = some (launch1 .accounting) ∧
    firstIn (wHost [launch1 .running]) (fun l => l.phase == .accounting) = none ∧
    firstIn (wHost [launch1 .running]) (ranOut (wHost [launch1 .running])) = some (launch1 .running) ∧
    (withLaunch (fun l => { l with phase := .accounting }) w0).launch.phase = .accounting ∧
    firstIn (wHost [launch1 .final]) (fun l => l.phase == .final) = some (launch1 .final) ∧
    (rawRead (wHost [launch1 .final]) (procCore (wHost []) 0) 0x10800 64).isSome = true := by decide +kernel
/-- The queue's turn has come, and the page of its packet has no entry. -/
theorem witness_LaunchEventsResult_page : (let s := { wHost [] with mem := (wHost []).mem.map fun c => if c.1 = 0x10001 then (c.1, 0) else if c.1 = 0x10002 then (c.1, 5) else c };
    (nextQueue s 0).isSome = true ∧ ((nextQueue s 0).bind fun q => rawRead s 0 q.2.2 64) = none) := by decide +kernel
/-! Clauses with premises of their own. -/

/-- A first user of the vector file, with g2 to release it at once and g6 a descriptor. -/
theorem witness_VectorIssueQueues_first : Ready onVec w0 ∧ Readable w0 2 ∧ Readable w0 6 ∧ w0.core.vqueue = [] ∧ w0.core.vholder = none ∧
    w0.cur.seq = .x ∧ gval w0 2 = 256 ∧ vsettOk (gval w0 6) (decide (w0.cur.seq = .a)) = true ∧ (gval w0 6).getLsbD 8 = false := by decide +kernel
theorem witness_VectorArithmeticElements_float : (vtyOf 1).isFloat = true ∧ vtypeOk (vtyOf 1) (.vmin 0 (.two 1 2)) = true ∧
    vtypeOk (vtyOf 1) (.vmax 3 (.three 1 2 3)) = true ∧ (vtyOf 1).w ∈ [8, 16, 32, 64] := by decide +kernel
/-- Each condition, operation and conversion with a type that it takes. -/
theorem witness_VectorMoveMaskAndReduce_types : (∀ x ∈ [(0x01, Instr.vcmp 0 3 1 2 3), (0x00, .vcmp 0 6 1 2 3), (0x01, .vcmp 0 7 1 2 3), (0x47, .vcmp 0 4 1 2 3),
      (0x46, .vcmp 0 5 1 2 3), (0x01, .vred 0 1 (.reg 1) 2), (0x02, .vred 0 2 (.reg 1) 2), (0x04, .vred 0 6 (.reg 1) 2), (0x01, .vscan 0 3 1 2),
      (0xC6, .vscan 3 0 1 2), (0x01, .vcvt 0 2 true 1 2), (0x46, .vcvt 0 7 true 1 2), (0x01, .vqnt 0 4 false 1 2), (0x02, .vqnt 0 8 true 1 2),
      (0x02, .compress 1 2), (0x06, .compress 1 2), (0x04, .compress 1 2)], vtypeOk (vtyOf (BitVec.ofNat 64 x.1)) x.2 = true ∧
      (vtyOf (BitVec.ofNat 64 x.1)).w ∈ [8, 16, 32, 64]) ∧ (vop (.mpop (.reg 31) 3) 1 0).mode.toNat < 5 ∧
    (wQueue (.mpop (.reg 31) 3) 1 0).cur.seq = (vop (.mpop (.reg 31) 3) 1 0).seq := by decide +kernel
theorem witness_AccumulatorWindowResult_reserved : ∀ b ∈ wM.agents, b.reserved = false := by decide +kernel
/-- Every shape of operands: binary64, binary32, blocks of I4X, a palette, sparse rows; and a WLOAD of one line. -/
theorem witness_TileOperationEvents_formats : (∀ m ∈ [{ mma1 with fa := 0, fb := 0, tile := 2 }, { mma1 with fa := 2, fb := 3 }, { mma1 with fa := 4, fb := 4 },
      { mma1 with fa := 8, fb := 8 }, { mma1 with fa := 2, fb := 2, pal := true }, { mma1 with sparse := true, fa := 2, fb := 2 },
      { mma1 with sparse := true, fa := 6, fb := 6 }], mmaFieldsOk m = true) ∧
    (∀ started : Bool, let s := wTile (.wload (loc 64) (BitVec.ofNat 64 (2 ^ 39))) started
      ((s.getCore 0).mx.ops.map (·.seq)).Nodup ∧ opRun 5 (.wload (loc 64) (BitVec.ofNat 64 (2 ^ 39))) started false ∈ (s.getCore 0).mx.ops ∧
        s.getAgent 0 = some s.cur) := by decide +kernel

/-- A handler that has joined no team: with no team to name, with one, with its question out, with the answer. -/
def hndlOnly (f : Agent → Agent) : State := (withLaunch (fun l => { l with boards := [wBoard .unresolved 1] }) wMem).modCur fun a => f { a with hndl := true }
theorem witness_SignalInstructionsResult_resolve : (∃ t, WritesQ (.bq .a) true ((closing (hndlOnly fun a => { a with answer := some true })).modCur fun a =>
      { a with answer := none, asking := false, resolved := a.resolved + 1 }) t) ∧ (∃ t, WritesQ (.q 7) false (closing (hndlOnly id)) t) ∧
    (∀ f ∈ [id, (fun a => { a with answer := some true }), (fun a => { a with asking := true }), (fun a : Agent => { a with serves := some 0 })],
      Ready onThread (hndlOnly f) ∧ ChunkEmpty (hndlOnly f) ∧ (hndlOnly f).cur.hndl = true ∧ (hndlOnly f).cur.team = none) ∧
    (hndlOnly fun a => { a with answer := some true }).cur.answer = some true ∧
    (hndlOnly fun a => { a with asking := true }).cur.asking = true ∧ (hndlOnly fun a => { a with asking := true }).cur.answer = none ∧
    (hndlOnly id).cur.serves = none ∧ (hndlOnly id).cur.asking = false ∧
    ((hndlOnly fun a => { a with serves := some 0 }).cur.serves.map (chainFrom 12 (hndlOnly id))) = some [wBoard .unresolved 1] := by
  refine ⟨⟨_, And.intro (by decide +kernel) (And.intro (by decide +kernel) rfl)⟩, ⟨_, rfl⟩, ?_⟩
  simp only [List.mem_cons, List.not_mem_nil, or_false, forall_eq_or_imp, forall_eq]
  decide +kernel
/-- Of no team; of a team with a frame; a handler. -/
def wFramed : State := wMember.modCur fun a => { a with regs := { a.regs with depth := 8 } }
theorem witness_FramesAndCausesResult_any : Ready onThread w0 ∧ w0.cur.team.isNone = true ∧ (∃ t, Writes (.reg 63) 0 w0 t) ∧ Ready onThread wFramed ∧
    0 < wFramed.cur.regs.depth ∧ wFramed.cur.team.isSome = true ∧ wHandler.cur.hndl = true ∧ (∃ t, Writes (.reg 63) wMember.cur.cause wMember t) ∧
    wMember.cur.relStore = [] := by
  refine ⟨by decide +kernel, by decide +kernel, ⟨_, writes_reg (by decide +kernel)⟩, by decide +kernel, by decide +kernel, by decide +kernel,
    by decide +kernel, ⟨_, writes_reg (by decide +kernel)⟩, by decide +kernel⟩
/-- Pinned, with a frame area and without. -/
def pinnedOf (s : State) : State := withLc (fun c => { c with handles := wRing.lc.handles }) (s.modCur fun a => { a with hcfged := true })
theorem witness_SuspensionResult_pinned : pinnedNow (pinnedOf w0) = true ∧ hitched (pinnedOf w0) = false ∧ pval (pinnedOf w0) 15 = 0 ∧
    (pinnedOf w0).cur.team = none ∧ Released0 (pinnedOf w0) ∧ pinnedNow (pinnedOf wMember) = true ∧ hitched (pinnedOf wMember) = false ∧
    (frameArea (pinnedOf wMember)).toOption = some (loc 1024, pinnedOf wMember) ∧ Released0 (pinnedOf wMember) ∧
    (framePut (loc 1024) 40 (toBytes 8 0) (closing (pinnedOf wMember))).toOption.isSome = true ∧
    (pinnedOf wMember).core.id = (pinnedOf wMember).cur.core := by
  unfold Released0
  decide +kernel
theorem witness_ForkResult_package : w0.pkg < 128 := by decide +kernel
theorem witness_WorldEventsResult_records : NoRecords wCommit := by
  unfold NoRecords
  decide +kernel
theorem witness_CalendarCarriesTheDemand_arbiter :
    (arbiterOf (wXch xNew (xPart .ready) (xPart .ready)) (wXch xNew (xPart .ready) (xPart .ready)).launch.part).primary.isSome = true := by decide +kernel
theorem witness_ExchangeEventsResult_running : wMissed.launch.phase = .running ∧
    (let s := wXch (xRun [xUnit]) (xPart .sending) (xPart .sending)
     let s1 := (ticketAt 0 0 (ticketPlace s 0 (xRun [xUnit]) 0 1 0 false) s).1
     coreHalted (s1.getCore (s1.getLc 0).core) = false) := by decide +kernel
/-- A card in this package, and one in another that nothing of the thread is on its way to; queues with 4 and no seeds. -/
def wFour : State := wSpill (dieQ ((List.range 4).map fun i => { qEntry with tid := 9 + i }) [])
theorem witness_TaskInstructionsResult_card : here.pkg = (closing (wRecord goodCard (dieQ [] []))).pkg ∧
    (ownPosted (pval wMem 2) there.key 64 wMem).toOption = some (none, wMem) := by decide +kernel
theorem witness_OrderAndQueueUnitsResult_balance : occupancy wFour 1 < occupancy wFour 0 ∧
    min ((occupancy wFour 0 - occupancy wFour 1) / 4) 2 = 1 ∧ 1 ≤ (wFour.getDie 0).entries.length := by decide +kernel

theorem witness_SupervisorInstructionsResult_caller : (let s := withCore (fun c => { c with caller := some 1 }) wSup
    Readable s 4 ∧ Readable s 5 ∧ Readable s 6 ∧ Readable s 7) ∧
    huskAt (closing (wHusk 2)) (loc 0) = some { at_ := loc 0, core := Core.new 3, slots := [(5, some 2)], lcs := [0], launch := 0, lseq := 0, queue := 0, arrivals := [] } ∧
    huskTied (closing (wHusk 2)) { at_ := loc 0, core := Core.new 3, slots := [(5, some 2)], lcs := [0], launch := 0, lseq := 0, queue := 0, arrivals := [] } = false := by
  decide +kernel
/-- A report for which 254 records leave no room, and a fatal record behind it for which they do; its unit stalls. -/
def trapAbsent : TrapRec := { trapRec with kind := 0, cause := cPageAbsent }
def wRetry : State := withCore (fun c => { c with priv := { c.priv with trapq := 0x10000 } }) { w0 with trapWait := [trapAbsent, trapRec], mem := [(0x10004, 254)] }
theorem witness_SystemUnitsResult_more : wRetry.trapWait = [trapAbsent] ++ trapRec :: [] ∧
    recordRoom wRetry trapAbsent = false ∧ recordRoom wRetry trapRec = true ∧ unitStalled w0 0 = false ∧ unitStalled wRetry 0 = true ∧
    homeWaits wPad padRec.core 0 = false ∧ (∀ b ∈ wPad.allAgents, b.reserved = false) ∧ w0.cur.launch = w0.launch.id := by decide +kernel

/-- A queue of the torus: one flit at its core, one that goes on. -/
def wFlits (node : Nat) : State := { wMem with flits := [{ flit with pkg := 1, node := node }] }
theorem witness_FabricResult_flits : ((wFlits 5).flits.filter (fun f => f.pkg == 1 && f.node == 5 && !f.hopped)) = [{ flit with pkg := 1, node := 5 }] ∧
    pkgOf flit.dst = 1 ∧ flit.dst % 576 = 5 ∧ inTransit (wFlits 5) (.posted postId) = true ∧ inTransit wMem (.packet 0) = false ∧
    (∃ l, getLink (wLink 9 2) 0 = some l ∧ l.pkgA < 128 ∧ l.pkgB < 128 ∧ (flit.pkg : Nat) < 128) := by
  refine ⟨by decide +kernel, by decide +kernel, by decide +kernel, by decide +kernel, by decide +kernel, _, rfl, ?_⟩
  decide +kernel

/-- An image with no body under a test key of 3,072 bits: a header, the modulus, a signature made with the test key. -/
def testModulus : List Byte := toOctets 384
  0xacf844948e8076bf8c936b6d2c9402e11d2711133bb03986cd4fb8a3c1bba8b474fea8e22c5da5ba6507237de9854f039390518346e3492468941b509bbd64b96bc34b76ef2c74e19f861d4447891da401a96c518010884747985f1695c96005c533bde4ab7e06d794598994aff1c3b21bdeb6b79a8ff5ba3e3b4caa404e6306d6c7c79b272de1fcf9c6aa83f91c420e358bd2c3b7c63057521121686112db5f6ac9d614c4e35009fdfb3ad9b2efdd00eaf276794d9cf25c0b6cb63091dbb51325a9bf05dc81e0698aa95e28369bb40772bdd4386946424a15212b9a9a891e49932ce2517cfdccd6939128a2956f23a44796aa10c927a9f6e927557c79f5049b687a0e50bf41c855ccadac26c7202aff628fa2f40e6f5a563b9e3d104b6cb2b5e2673ea1553d38c75cbaf0eaa6afc798ae7e43973090a595b552c30f7df68f80b9d9943eec935ad95dd38a46b6c64f29181d9e59baf57c9588d4a91b1525fdca776544b1ce4aded1e50b3da7f456779c7a50c46837aa64087d357971946c55af
def testSignature : List Byte := toOctets 384
  0xabaab9c57aa9145cba8995935a11003636552aff387a0b81e361d2f76692bd6ed09ab23e6501fe4992ee5c0ea7f939d9a6eb1392d6b1d5bd8d7597fea1e3933013fd1deffd71ba8d26c2277da7be8221ec1a5d06ed0c05421ddb9867ccb0fa121d19296df487b12ae8d6bd15de54fcc1c6d310ce4461a760e0ccad8039a71c7856582f03da1bbeb1d58a6603ae770e73af197bf5815a436b41b3b51af9720046efe0508888022041376ab04bee9e44b6d2afb8095380b4919f929b8bc0a65b542bae60e6d738346811aaf804231745c3b6b24bfb8ffe1f4df449f7f1cffb2595f7b34b5c5ec32b0e2c8df31204d90685bcbc5bb4e80dfbd9ca96027934e8cea52aa2ca94b384805c13d5e24ca84c218fa8b9712910815a0bf72ceaac6d06bbd88bf644717e55d9b33de683e13719926ad924f8a87e1b04f2c5919184ca0c6bdbaab652617ec08fcd1cb24ea43ce60063d48bbbe0eb985d118aab6c10692b85eee12cf8d14225c660f2335bcb2adb54c63e812a65c38ec20f165d88837777a291
def testHeader : List Byte := toBytes 64 0x3000000000000000000000000000000014c554d44
def testImage : List Byte := testHeader ++ testModulus ++ testSignature
/-- Under fuses that hold the test key's hash the image passes (the hash is a free value, notes/assumptions/6.md). -/
theorem witness_BringUpEventsResult_image (h : Config.fusedKeyHash 0 = sha256 testModulus) : imageOk 0 Mgmt.reset testImage = true := by
  simp only [imageOk, Bool.and_eq_true]
  refine ⟨⟨⟨⟨⟨⟨⟨⟨?_, ?_⟩, ?_⟩, ?_⟩, ?_⟩, ?_⟩, ?_⟩, ?_⟩, ?_⟩ <;> first
    | decide +kernel
    | (rw [h]; exact beq_iff_eq.2 (congrArg sha256 (by decide +kernel)))
theorem witness_BringUpEventsResult : Fronted w0 ∧ imageOk 0 Mgmt.reset [] = false ∧ Mgmt.reset.verified = false ∧ Mgmt.reset.fetching = true ∧
    (List.replicate 32 (0 : Byte)).length = 32 ∧ planOk [(3, 0), (12, 1)] = true ∧ planOk [] = false ∧
    (w0.getPkg 0).cmask.getLsbD 143 = true ∧ (w0.getPkg 0).smask.getLsbD 7 = true ∧ (w0.getPkg 0).lmask.getLsbD 11 = true ∧
    ({ w0 with packages := [{ pk 0 with cmask := 0 }] }.getPkg 0).cmask.getLsbD 0 = false ∧ w0.launch.fatal = none ∧
    (∃ lc ∈ w0.allLcs, lc.away = false ∧ pkgOf lc.core = 0 ∧ lc.core % 576 / 4 = 0) ∧ allHusked w0 1 = true ∧ (1200 : Nat) % 100 = 0 ∧
    windowCheck w0 0 2 1 (loc 0) = .refused ∧ windowCheck w0 0 2 0 0 = .ok ∧ windowCheck w0 0 1 1 0x70000 = .absent 0x70000 := by
  unfold Fronted
  decide +kernel
/-- A machine with no launch. -/
def wPlan : State := { State.reset with packages := [pk 0] }
theorem witness_BringUpEventsResult_plan :
    ∀ x ∈ (wPlan.getPkg 0).plan ++ [(3, 0), (12, 1)], partBusy wPlan x.2.toNat = false := by
  have h : ((wPlan.getPkg 0).plan ++ [(3, 0), (12, 1)]).all (fun x => partBusy wPlan x.2.toNat == false) = true := by
    decide +kernel
  exact fun x hx => eq_of_beq (List.all_eq_true.1 h x hx)
/-- A page of every domain lets the host's window in, whatever its own domain is. -/
theorem witness_BringUpEventsResult_window : windowCheck w0 0 2 1 0x10000 = .ok ∧ windowCheck w0 0 1 1 0x10000 = .ok := by
  have h : windowRights w0 0 0x10000 = some 31 := by
    have h1 : pageEntry w0 (w0.getCore (576 * 0)) (0x10000 : Addr).toNat = some placeEntry := by decide +kernel
    simp only [windowRights, h1, Option.map_some, plbOf]
    rw [if_pos (by simp only [Option.all_some]; exact Bool.or_eq_true_iff.2 (.inr (by decide +kernel)))]
    decide +kernel
  constructor <;> (simp only [windowCheck, h]; decide +kernel)

/-- A message to the board; a member that tests the signal of a cycle; one that has paused; a seed that waits. -/
def wMsg (m : BoardMsg) (b : Board) : State := withLaunch (fun l => { l with boardq := [m] }) (wTeam b)
def cycleBoard (h : Option Registration) : Board := { wBoard .unresolved 1 with handler := h }
def wCycle (h : Option Registration) : State := (wTeam (cycleBoard h)).modCur fun a =>
  { a with wait := some (.test 0 4 63 false), me := (Vector.replicate 5 0).set 4 (1#64 <<< 63) }
/-- A record buffer in the own local space, and one in a page that has no entry. -/
def handlerAt (rbuf : Addr) : Registration := { entry := 0x10000, hfp := 0, rbuf := rbuf, rsize := 64, pcore := 0 }
def trapBoard (rbuf : Addr) : Board := cycleBoard (some (handlerAt rbuf))
def wTrap (rbuf : Addr) : State := wCycle (some (handlerAt rbuf))
def recordAt (rbuf : Addr) : Option Addr :=
  let s := wTrap rbuf
  unmappedAt s (trapCore s [(0, 63)]) rbuf (cycleRecord s (trapBoard rbuf) [(0, 63)] 64).length
def wPaused (comm : Bool) : State := (wTeam { wBoard .absent 0 with comm := comm }).modCur fun a => { a with state := .paused }
def wSeedOf (f : Agent → Agent) : State := { w0 with agents := [f { Agent.new 9 with state := .ready, lcore := 0 }] }
def wSeedTeam : State := wSeedOf fun a => { a with team := some 0 }
def wSeedHndl : State := wSeedOf fun a => { a with hndl := true }
theorem witness_SignalAndThreadEvents : (∀ m ∈ [BoardMsg.emit 0 63 5 0 0x10000 none, .clear 0 (1#64 <<< 63) 0, .resolve 0 4 63 0, .register 0 none 0],
      nextMsg (wMsg m (wBoard .unresolved 1)) = some m ∧ (wMsg m (wBoard .unresolved 1)).getBoard 0 = some (wBoard .unresolved 1)) ∧
    (let s := wMsg (.emit 0 63 5 0 0x10000 none) (wBoard .absent 0); s.getAgent 0 = some s.cur ∧ OfFront s s.cur ∧ s.cur.seq = .x ∧ rivalOf s s.cur = none) ∧
    (findCycle (wCycle none) (cycleBoard none) = some [(0, 63)] ∧ cycleOf (wCycle none) (cycleBoard none) = some [(0, 63)] ∧
      cycleOf (wTeam (wBoard .unresolved 1)) (wBoard .unresolved 1) = none ∧ (wCycle none).launch.boardq = [] ∧
      ((threads (wCycle none)).any fun a => (awaits a).any fun x => [(0, 63)].contains x && blockedOn (wCycle none) x a) = true) ∧
    ((wTrap (loc 512)).getBoard 0 = some (trapBoard (loc 512)) ∧ cycleOf (wTrap (loc 512)) (trapBoard (loc 512)) = some [(0, 63)] ∧
      recordAt (loc 512) = none ∧ (wTrap 0x70000).getBoard 0 = some (trapBoard 0x70000) ∧
      cycleOf (wTrap 0x70000) (trapBoard 0x70000) = some [(0, 63)] ∧ recordAt 0x70000 = some 0x70000) ∧
    (allClosed (wPaused false) (wBoard .absent 0) = true ∧ allClosed wMember (wBoard .absent 0) = false ∧ boundaryReady wMember (wBoard .absent 0) = false ∧
      boundaryReady (wPaused true) { wBoard .absent 0 with comm := true } = true ∧ ((wPaused true).launch.boards.map (·.uid)).Nodup ∧
      ((wPaused true).allAgents.map (·.tid)).Nodup ∧ (∀ x ∈ threads (wPaused true), x.regs.depth = 0) ∧
      (∀ a ∈ members (wPaused true) 0, a.state = .paused ∧ a.leaving = false ∧ a.rival = false) ∧ members (wPaused true) 0 ≠ []) := by
  unfold OfFront Fronted
  refine ⟨?_, ?_, ?_, ?_, ?_⟩ <;> decide +kernel
/-- A thread that waits to follow, where the leader of its cluster stands at the same pc. -/
def wFollow : State :=
  { withLaunch (fun l => { l with lcores := [{ LCore.new 1 with core := 1 }] }) w0 with
    agents := [{ Agent.new 4 with follow := .waiting, lcore := 1, core := 1, state := .held, slot := some 0, regs := w0.cur.regs }] }
/-- A thread whose A has trapped. -/
def wTrapDue : State := w0.modCur fun a => { a with traps := [{ cause := 8, seq := .a, pc := 0x200, behind := false }] }
theorem witness_SignalAndThreadEvents_threads : (wSeedTeam.allAgents.map (·.tid)).Nodup ∧ slotFree wSeedTeam 0 0 = false ∧
    slotFree wSeedTeam 0 3 = true ∧
    (leastLc ((wSeedTeam.allAgents.filter (waitsHere wSeedTeam 0)).filter fun a => a.team.isSome && !a.rival)).map (·.tid) = some 9 ∧
    ((leastLc ((wSeedHndl.allAgents.filter (waitsHere wSeedHndl 0)).filter (·.hndl))).map fun a => (a.tid, a.regs.p[15], a.badSeed)) = some (9, 0, none) ∧
    leastLc ((wSeedHndl.allAgents.filter (waitsHere wSeedHndl 0)).filter fun a => a.team.isSome && !a.rival) = none ∧
    ((leastLc (((wSeedOf fun a => { a with hndl := true, badSeed := some 1 }).allAgents.filter (waitsHere wSeedHndl 0)).filter (·.hndl))).map
      (·.badSeed)) = some (some 1) ∧
    (wSeedHndl.allAgents.find? fun a => a.hndl && a.state == .ready && !a.queued && (lcFor wSeedHndl a 0).isSome).map (·.tid) = some 9 ∧
    (wFollow.allAgents.any fun b => b.launch == 0 && b.seq == .x && b.state == .held && b.slot.isSome && b.lcore == 1 / 4 * 4 &&
      b.regs.pc == 0x10000 && b.tid != 4) = true ∧ (wFollow.getAgent 4).map (·.follow) = some .waiting ∧ trapDue w0.cur = false ∧
    (wTrapDue.cur.staged = none ∧ wTrapDue.cur.seq = .x ∧ wTrapDue.cur.state = .held ∧ wTrapDue.cur.slot.isSome = true ∧
      wTrapDue.cur.regs.handlerActive = false ∧ wTrapDue.cur.regs.utrapv ≠ 0 ∧ (wTrapDue.getCore 0).sup = false ∧
      (wTrapDue.getCore 0).halted = false ∧ (wTrapDue.getCore 0).haltedBy = 0 ∧ wTrapDue.cur.husked = none ∧ wTrapDue.cur.ended = [] ∧
      wTrapDue.cur.chunk.count = 0 ∧ wTrapDue.cur.chunk.wbuf = [] ∧ wTrapDue.cur.chunk.clre = []) ∧
    wChunk.cur.chunk.count < Config.chunkInstrs ∧
    (let s := wChunk.modCur fun a => { a with chunk := { a.chunk with count := 512 } }; Config.chunkInstrs ≤ s.cur.chunk.count ∧
      (match commitChunk s with | .done _ => true | _ => false) = true) := by decide +kernel

theorem witness_BringUpEventsResult_more : (0 : Nat) < 128 ∧ affected [(3, 0), (12, 1)] [(3, 0), (12, 2)] ≠ [] ∧
    (∀ k ∈ affected [(3, 0), (12, 1)] [(3, 0), (12, 2)], partBusy wPlan k = false) ∧
    (let c : Checkpoint := { part := 1, frames := [1], cells := [(65536, 7)], empty := [], poison := [], husks := [] }
     Memory.wf c.cells = true ∧ ∀ x ∈ c.cells, x.1 / 65536 ∈ c.frames) := by decide +kernel
theorem witness_SignalAndThreadEvents_more : ({ wBoard .absent 0 with serving := true }).serving = true ∧
    takesNow wSeedTeam { Agent.new 9 with state := .ready } = true ∧ lcFor wSeedHndl { Agent.new 9 with hndl := true } 0 = some 0 ∧
    (let s := { wSeedHndl with agents := wSeedHndl.agents ++ (List.range 4).map fun k => { Agent.new (20 + k) with slot := some k, state := .held } }
     handlerStands s { Agent.new 9 with hndl := true, state := .ready, lcore := 0 } = true) := by decide +kernel

/-- Code at the pc: ADD g5,g6; and 0x0000. -/
def wStep (w : Nat) : State := withLaunch (fun l => { l with
  image := writeCell (writeCell [] 65536 (BitVec.ofNat 8 w)) 65537 (BitVec.ofNat 8 (w / 256)) }) { w0 with core := fillPlb w0.core (plbOf 1 (some 0) placeEntry) }
theorem witness_ResetState : MemoryCanonical State.reset := ⟨by decide +kernel, by decide +kernel, fun c h => nomatch h⟩
theorem witness_StepRunsDecoded : (wStep 0x1AB0).agenda = [] ∧ mayIssue (wStep 0x1AB0) (wStep 0x1AB0).cur = true ∧
    isTurn (wStep 0x1AB0) (wStep 0x1AB0).cur = true ∧
    ((fetchChain 5 (wStep 0x1AB0).cur.regs.pc (takeTurn (wStep 0x1AB0))).toOption.map (·.1)) = some [0x1AB0] ∧
    ((fetchChain 5 (wStep 0).cur.regs.pc (takeTurn (wStep 0))).toOption.map (·.1)) = some [0] ∧
    (decode [0x0000]).toOption = none ∧ mayIssue State.reset State.reset.cur = false := by decide +kernel
theorem witness_DecodeEncode : wellFormed (.copy 7 (some 15) (.handle 7) 15 63) = true ∧ wellFormed (.ldi (.port .west) (-1)) = true := by decide +kernel
theorem witness_StepKeepsMemoryCanonical : MemoryCanonical (wStep 0x1AB0) ∧ ∃ t, step { wStep 0x1AB0 with agenda := [.thermalThrottle 0 1200] } = .next t :=
  ⟨⟨by decide +kernel, by decide +kernel, fun c h => nomatch h⟩, _, rfl⟩

end Sys2Proof.Tests
end

section
/-! What the record of a fault leaves of the thread in front and of its launch (R31, R342, R344). -/

namespace Sys2Proof.Machine

/-- A write at home under no view: of the agent in front it may mark chunks, of the launch in front it may change bytes of
local memory and their poison. -/
def HomeWrite (s t : State) : Prop :=
  t.cur = { s.cur with chunk := t.cur.chunk, ended := t.cur.ended } ∧
    t.launch = { s.launch with lmem := t.launch.lmem, lpoison := t.launch.lpoison }

theorem HomeWrite.of_eq {s t : State} (hc : t.cur = s.cur) (hl : t.launch = s.launch) : HomeWrite s t := by
  rw [HomeWrite, hc, hl]; exact ⟨rfl, rfl⟩

theorem HomeWrite.trans {s t u : State} (h : HomeWrite s t) (g : HomeWrite t u) : HomeWrite s u := by
  obtain ⟨hc, hl⟩ := h
  obtain ⟨gc, gl⟩ := g
  constructor
  · rw [gc, hc]
  · rw [gl, hl]

theorem foldl_homeWrite {α : Type} (f : State → α → State) (hf : ∀ s x, HomeWrite s (f s x)) (l : List α) (s : State) :
    HomeWrite s (l.foldl f s) := by
  induction l generalizing s with
  | nil => exact .of_eq rfl rfl
  | cons x l ih => exact (hf s x).trans (ih _)

theorem setBaseByte_homeWrite (s : State) (k : Nat) (b : Byte) : HomeWrite s (setBaseByte s k b) := by
  unfold setBaseByte; split <;> exact ⟨rfl, rfl⟩

theorem setBasePois_homeWrite (s : State) (k : Nat) (e : Bool) : HomeWrite s (setBasePois s k e) := by
  unfold setBasePois; dsimp only; split <;> exact ⟨rfl, rfl⟩

theorem setPoison_tag0 (s : State) (p k : Nat) (e : Bool) : setPoison s p 0 k e = setBasePois s k e := by simp [setPoison]

theorem noteLine_homeWrite (s : State) (p t w l : Nat) : HomeWrite s (noteLine s p t w l) := by
  refine ⟨?_, rfl⟩
  simp only [noteLine, State.mapAgents_cur]
  split <;> rfl

theorem writeBytes_homeWrite (s : State) (p w : Nat) (cells : List (Nat × Byte)) (clean : List Nat) :
    HomeWrite s (writeBytes s p 0 w cells clean) := by
  have bytes := foldl_homeWrite (fun s (c : Nat × Byte) => writeView s p 0 c.1 c.2)
    (fun s c => writeView_tag0 s p c.1 c.2 ▸ setBaseByte_homeWrite s c.1 c.2) cells s
  refine (bytes.trans (foldl_homeWrite _ (fun s k => ?_) clean _)).trans
    (foldl_homeWrite _ (fun s l => noteLine_homeWrite s p 0 w l) _ _)
  split
  · rw [setPoison_tag0]; exact setBasePois_homeWrite s k false
  · exact .of_eq rfl rfl

theorem rawWrite_homeWrite (s : State) (core : Nat) (va : Addr) (bs : List Byte) : HomeWrite s (rawWrite s core va bs) := by
  refine foldl_homeWrite _ (fun s x => ?_) _ s
  split
  · exact writeBytes_homeWrite s _ _ _ _
  · exact .of_eq rfl rfl

theorem ite_homeWrite {c : Prop} [Decidable c] {s t u : State} (ht : HomeWrite s t) (hu : HomeWrite s u) :
    HomeWrite s (if c then t else u) := by
  split
  · exact ht
  · exact hu

theorem modCore_homeWrite (s : State) (i : Nat) (f : Core → Core) : HomeWrite s (s.modCore i f) :=
  .of_eq (State.modCore_cur s i f) (State.modCore_launch s i f)
theorem raiseVector_homeWrite (p k : Nat) (s : State) : HomeWrite s (raiseVector p k s) := .of_eq rfl rfl
theorem trigger_homeWrite (g : BitVec 16) (i : Nat) (s : State) : HomeWrite s (trigger g i s) := .of_eq rfl rfl
theorem haltCore_homeWrite (i : Nat) (s : State) : HomeWrite s (haltCore i s) :=
  ((modCore_homeWrite s i _).trans (trigger_homeWrite _ _ _)).trans (raiseVector_homeWrite _ _ _)
theorem waitsInUnit_homeWrite (s : State) (l : List TrapRec) : HomeWrite s { s with trapWait := l } := .of_eq rfl rfl

theorem queueRecord_homeWrite (r : TrapRec) (s : State) : HomeWrite s (queueRecord r s) := by
  have waits := waitsInUnit_homeWrite s (s.trapWait ++ [r])
  unfold queueRecord
  dsimp only
  split
  · exact waits
  · refine ite_homeWrite ?_ (ite_homeWrite ?_ waits)
    · exact (((rawWrite_homeWrite s _ _ _).trans (rawWrite_homeWrite _ _ _ _)).trans (modCore_homeWrite _ _ _)).trans
        (raiseVector_homeWrite _ _ _)
    · exact (waits.trans (rawWrite_homeWrite _ _ _ _)).trans (haltCore_homeWrite _ _)

/-- The fatal record stands in the launch, which stops with the status given (R31, R342). -/
theorem endLaunch_running {s : State} (hf : s.launch.fatal = none) (hp : s.launch.phase = .running) (r : TrapRec) (st : Byte) :
    HomeWrite (s.modLaunch fun l => { l with fatal := some r, status := st, phase := .stopping }) (endLaunch r st s) := by
  have runs : ¬ (s.launch.fatal.isSome ∨ s.launch.phase = .none ∨ s.launch.phase = .final ∨ s.launch.phase = .ended) := by
    simp [hf, hp]
  rw [endLaunch, if_neg runs]
  exact queueRecord_homeWrite r _

theorem owner_cur {s : State} (h : s.cur.host = none) : s.owner s.cur = s.cur := by
  simp [State.owner, ownerTid, h, State.getAgent, State.allAgents]

/-- The cause of a fault is kept with its thread (R31). -/
def withFailCause (c : Byte) (s : State) : State :=
  (s.modAgent s.cur.tid fun a => { a with failCause := c }).modCur fun a => { a with failCause := c }

/-- A fault of a thread on X outside views ends its launch (R342). -/
theorem takeFault_thread {s : State} (hx : s.cur.seq = .x) (hh : s.cur.host = none) (hr : rivalOf s s.cur = none)
    (c : Byte) (a : Addr) :
    takeFault c a s = endLaunch (recordOf s s.cur 2 c s.cur.regs.pc a .x) 1 (withFailCause c s) := by
  simp only [takeFault, hx, owner_cur hh, hr, reduceCtorEq, if_false]
  rfl

end Sys2Proof.Machine

namespace Sys2Proof.Claims
open Sys2Proof.Machine

/-- A fault at issue of a thread outside views ends its launch, whatever instruction met it (R31, R342, R344). -/
theorem faults_of_error {l : Legal} {body : Run Unit} {i : Instr} {s : State} {c : Byte} {a : Addr}
    (hi : exec i s = issue l body s) (hr : Ready l s) (hs : FaultReady s) (hb : body s = .error (.fault c a)) :
    Faults c a i s := by
  obtain ⟨hx, hhost, hempty, hrival, hfatal, hphase⟩ := hs
  have taken : exec i s = .next (takeFault c a (freshChunk s)) := hi.trans (issue_fault hr hempty hb)
  rw [takeFault_thread (s := freshChunk s) hx hhost hrival] at taken
  obtain ⟨cur, launch⟩ := endLaunch_running (s := withFailCause c (freshChunk s)) hfatal hphase
    (recordOf (freshChunk s) (freshChunk s).cur 2 c s.cur.regs.pc a .x) 1
  refine ⟨_, _, taken, congrArg Launch.fatal launch, rfl, rfl, rfl, rfl, rfl, rfl, congrArg Launch.status launch,
    congrArg Launch.phase launch, ?_, congrArg Agent.failCause cur⟩
  refine (congrArg Agent.regs cur).trans ?_
  simp [withFailCause, freshChunk]

end Sys2Proof.Claims
end

section
/-! What reading an operand and finishing an issue leave. -/

namespace Sys2Proof.Machine

@[simp] theorem finish_core (s : State) : (finish s).core = s.core := by
  unfold finish; split <;> rfl
@[simp] theorem finish_mem (s : State) : (finish s).mem = s.mem := by
  unfold finish; split <;> rfl
@[simp] theorem finish_launch (s : State) : (finish s).launch = s.launch := by
  unfold finish; split <;> rfl
@[simp] theorem finish_regs (s : State) : (finish s).cur.regs = { s.cur.regs with pc := s.cur.npc } := by
  unfold finish; split <;> rfl
theorem finish_open {s : State} (h : s.cur.chunk.closed = false) : finish s = advance s := by
  simp [finish, h]

theorem modLc_lmem (s : State) (n : Nat) (f : LCore → LCore) : (s.modLc n f).launch.lmem = s.launch.lmem := by
  unfold State.modLc; repeat' split
  all_goals rfl

/-- What reading a g operand leaves unchanged: all but the FIFO that it may take a word from, and the chunk that it may close. -/
structure OperandRead (s t : State) : Prop where
  core : t.core = s.core
  mem : t.mem = s.mem
  lmem : t.launch.lmem = s.launch.lmem
  regs : t.cur.regs = s.cur.regs
  npc : t.cur.npc = s.cur.npc
  tid : t.cur.tid = s.cur.tid

theorem OperandRead.refl (s : State) : OperandRead s s := ⟨rfl, rfl, rfl, rfl, rfl, rfl⟩

theorem reads_operandRead {o : GOp} {s t : State} {v : Word} (h : Reads o s v t) : OperandRead s t := by
  cases o with
  | reg n => obtain ⟨-, -, rfl⟩ := h; exact .refl _
  | port d =>
    obtain ⟨-, rest, -, rfl⟩ := h
    constructor
    · exact State.modLc_core _ _ _
    · exact State.modLc_mem _ _ _
    · exact modLc_lmem _ _ _
    all_goals rw [State.modLc_cur]; rfl

theorem OperandRead.hitched {s t : State} (h : OperandRead s t) : hitched t = hitched s := by
  rw [Machine.hitched, Machine.hitched, h.core, h.tid]

end Sys2Proof.Machine
end

section
/-! Control registers (R192, R309): the tables of the numbers, and what CRRD and CRWR do for each kind of register. -/

namespace Sys2Proof.Machine

/-! The tables. -/

/-- A register of 64 bits answers to the number. -/
def IsWordCr (s : State) (n : Nat) : Prop := ∃ u, readCr s n = some (.w u)
/-- A register of 80 bits answers to the number. -/
def IsAddrCr (s : State) (n : Nat) : Prop := ∃ u, readCr s n = some (.a u)

theorem privileged_iff (n : Nat) : privileged n = true ↔ 256 ≤ n ∧ n < 512 := by
  simp [privileged]

theorem not_privileged {n : Nat} (h : n < 256) : ¬ privileged n = true := by
  rw [privileged_iff]; omega

theorem userReg_eq_none {n : Nat} (h : 18 ≤ n) (s : State) : userReg s n = none := by
  unfold userReg
  split
  case h_19 => rfl
  all_goals omega
theorem privReg_eq_none {n : Nat} (h : n < 256 ∨ 512 ≤ n) (s : State) : privReg s n = none := by
  have lease : ¬ (0x110 ≤ n ∧ n < 0x118) := by omega
  have leasen : ¬ (0x118 ≤ n ∧ n < 0x120) := by omega
  unfold privReg
  dsimp only
  split
  case h_17 => exact (if_neg lease).trans (if_neg leasen)
  all_goals simp at h
/-- Numbers that R192 and R309 do not list. -/
theorem readCr_unlisted {n : Nat} (h : (18 ≤ n ∧ n < 256) ∨ 512 ≤ n) (s : State) : readCr s n = none := by
  rw [readCr, userReg_eq_none (by omega), privReg_eq_none (by omega)]; rfl

theorem userCr_lt {s : State} {n : Nat} {x : Word ⊕ Addr} (h : Claims.userCr s n = some x) : n < 18 := by
  unfold Claims.userCr at h
  split at h
  case h_13 => cases h
  all_goals omega

theorem readCr_of_userCr_word {s : State} {n : Nat} {v : Word} (h : Claims.userCr s n = some (.inl v)) :
    readCr s n = some (.w v) := by
  unfold Claims.userCr at h
  split at h <;> cases h <;> rfl
theorem readCr_of_userCr_addr {s : State} {n : Nat} {v : Addr} (h : Claims.userCr s n = some (.inr v)) :
    readCr s n = some (.a v) := by
  unfold Claims.userCr at h
  split at h <;> cases h <;> rfl
theorem readCr_me (s : State) (k : Fin 5) : readCr s (8 + k.val) = some (.w (meWord s k)) := by
  fin_cases k <;> rfl
theorem readCr_world_committed {s : State} (h : s.getView s.pkg s.cur.tag = none) : readCr s 16 = some (.w 0) := by
  have zero : worldWord s = 0 := by simp [worldWord, h]
  rw [← zero]; rfl

theorem isWordCr_leasen (s : State) (k : Fin 8) : IsWordCr s (0x118 + k.val) := by
  fin_cases k <;> exact ⟨_, rfl⟩
theorem isAddrCr_lease (s : State) (k : Fin 8) : IsAddrCr s (0x110 + k.val) := by
  fin_cases k <;> exact ⟨_, rfl⟩

/-! The bodies of CRRD and CRWR (R351): one check of the name, and then the kind of register. -/

/-- The check of a control register's number, and what is done with the register that answers to it. -/
def withCr (cr : BitVec 31) (f : Option CrVal → Run Unit) : Run Unit := do
  let s ← get
  require (!privileged cr.toNat || s.super) cPrivilege
  f (readCr s cr.toNat)
def crrdOf (r : CrOp) : Option CrVal → Run Unit
  | none => illegal
  | some (.w v) => writeOp (crG r) v
  | some (.a v) => do writeP (← crP r) v
def crwrOf (r : CrOp) (cr : BitVec 31) : Option CrVal → Run Unit
  | none => illegal
  | some (.w _) => do
    let v ← readOp (crG r)
    if privileged cr.toNat then writePrivW cr.toNat v else writeUserW cr v
  | some (.a _) => do
    let v ← readP (← crP r)
    if privileged cr.toNat then writePrivA cr.toNat v else writeUserA cr v

theorem exec_crrd (r : CrOp) (cr : BitVec 31) (s : State) :
    exec (.crrd r cr) s = issue onX (withCr cr (crrdOf r)) s := rfl
theorem exec_crwr (r : CrOp) (cr : BitVec 31) (s : State) :
    exec (.crwr r cr) s = issue onX (withCr cr (crwrOf r cr)) s := rfl

/-- The agent may name the control register: a privileged one in supervisor state alone (R351). -/
def MayName (s : State) (n : Nat) : Prop := privileged n = true → s.cur.seq = .s

theorem mayName_unprivileged (s : State) {n : Nat} (h : n < 256 ∨ 512 ≤ n) : MayName s n := fun hp => by
  rw [privileged_iff] at hp; omega

theorem withCr_ok {s : State} {cr : BitVec 31} (h : MayName s cr.toNat) (f : Option CrVal → Run Unit) :
    withCr cr f s = f (readCr s cr.toNat) s := by
  have named : (!privileged cr.toNat || s.super) = true := by
    cases hp : privileged cr.toNat with
    | false => rfl
    | true => simp [State.super, h hp]
  simp only [withCr, run_bind, run_get, run_require, named, if_true]
theorem withCr_privilege {s : State} {cr : BitVec 31} (h : ¬ MayName s cr.toNat) (f : Option CrVal → Run Unit) :
    withCr cr f s = .error (.fault cPrivilege 0) := by
  obtain ⟨hp, hs⟩ := Classical.not_imp.mp h
  have unnamed : (!privileged cr.toNat || s.super) = false := by simp [State.super, hp, hs]
  simp only [withCr, run_bind, run_get, run_require, unnamed, Bool.false_eq_true, if_false]

theorem crP_port {α : Type} (d : Dir) (f : BitVec 4 → Run α) (s : State) :
    (crP (.port d) >>= f) s = .error (.fault cIllegal 0) := rfl

theorem crwrOf_word {s s1 : State} {r : CrOp} {v : Word} (h : Reads (crG r) s v s1) (cr : BitVec 31) (u : Word) :
    crwrOf r cr (some (.w u)) s = (if privileged cr.toNat then writePrivW cr.toNat v else writeUserW cr v) s1 := by
  simp only [crwrOf, run_bind, readOp_ok h]
theorem crwrOf_addr {s : State} {n : BitVec 4} (h : PReadable s n) (cr : BitVec 31) (u : Addr) :
    crwrOf (.reg n) cr (some (.a u)) s =
      (if privileged cr.toNat then writePrivA cr.toNat (pval s n) else writeUserA cr (pval s n)) s := by
  simp only [crwrOf, run_bind, crP, run_pure, readP_ok h]

/-! Writes of user registers. -/

theorem require_bind_ok {b : Bool} {c : Byte} {x : Run Unit} {s : State} (h : b = true) :
    (require b c >>= fun _ => x) s = x s := by
  simp only [run_bind, run_require, h, if_true]
theorem require_bind_fault {b : Bool} {c : Byte} {x : Run Unit} {s : State} (h : b = false) :
    (require b c >>= fun _ => x) s = .error (.fault c 0) := by
  simp only [run_bind, run_require, h, Bool.false_eq_true, if_false]

theorem writeFmt_unhitched {s : State} (h : hitched s = false) (n : BitVec 31) (v : Addr) (f : Regs → Regs) :
    writeFmt n v f s = .ok ((), Claims.withRegs f s) := by
  simp only [writeFmt, run_bind, run_get, h, Bool.false_eq_true, if_false, run_ite]
  rfl

theorem writeUserW_round (v : Word) : writeUserW 0 v = (do
    require (decide (v.toNat < 6)) cIllegal
    modify (Claims.withRegs fun x => { x with round := v })) := rfl
theorem writeUserW_fmtA (v : Word) : writeUserW 2 v = (do
    require (decide (v.toNat < 16)) cIllegal
    writeFmt 2 (v.setWidth 80) fun x => { x with fmtA := v }) := rfl
theorem writeUserW_fmtB (v : Word) : writeUserW 3 v = (do
    require (v &&& ~~~0x10F == 0) cIllegal
    writeFmt 3 (v.setWidth 80) fun x => { x with fmtB := v }) := rfl
theorem writeUserW_fmtC (v : Word) : writeUserW 4 v = (do
    require (decide (v.toNat < 32)) cIllegal
    writeFmt 4 (v.setWidth 80) fun x => { x with fmtC := v }) := rfl

theorem writeUserA_sclA (v : Addr) : writeUserA 5 v = writeFmt 5 v fun x => { x with sclA := v } := rfl
theorem writeUserA_sclB (v : Addr) : writeUserA 6 v = writeFmt 6 v fun x => { x with sclB := v } := rfl

/-! Writes of privileged registers. -/

/-- The registers that each core has for itself (R333, R343). -/
abbrev OwnCore (n : Nat) : Prop := n ≠ 0x105 ∧ n ≠ 0x10A ∧ n ≠ 0x10B ∧ n ≠ 0x10C ∧ n ≠ 0x10E

/-- The value that the chunk keeps, for a squash, and the write. -/
def privSet (n : Nat) (v : Addr) (s : State) : State :=
  putPriv n v (s.modCur fun a => { a with chunk := { a.chunk with privs := (n, s.core.priv.get n) :: a.chunk.privs } })
theorem setPriv_ok (n : Nat) (v : Addr) (s : State) : setPriv n v s = .ok ((), privSet n v s) := rfl

theorem putPriv_own {n : Nat} (h : OwnCore n) (v : Addr) (s : State) :
    putPriv n v s = s.mapCores fun c => if c.id == s.core.id then { c with priv := c.priv.put n v } else c := by
  obtain ⟨trapq, ptbase, shadow, spillr, paddock⟩ := h
  simp only [putPriv, privCores, trapq, ptbase, shadow, spillr, paddock, if_false, or_self]

theorem privSet_frame {n : Nat} (h : OwnCore n) (v : Addr) (s : State) :
    (privSet n v s).core.priv = s.core.priv.put n v ∧ (privSet n v s).mem = s.mem ∧ (privSet n v s).launch = s.launch ∧
      (privSet n v s).cur.regs = s.cur.regs ∧ (privSet n v s).cur.npc = s.cur.npc := by
  rw [privSet, putPriv_own h]
  refine ⟨?_, rfl, rfl, rfl, rfl⟩
  simp

theorem privSet_tidy {n : Nat} (h : OwnCore n) (v : Addr) {s : State} (ht : Tidy s) : Tidy (privSet n v s) := by
  rw [privSet, putPriv_own h]; exact ht

theorem setWidth_80_64 (v : Word) : (v.setWidth 80).setWidth 64 = v := by
  rw [BitVec.setWidth_setWidth_of_le v (by decide), BitVec.setWidth_eq]

theorem put_leasen (p : Priv) (k : Fin 8) (v : Word) :
    p.put (0x118 + k.val) (v.setWidth 80) = { p with leasen := p.leasen.set k (v &&& 0xFFFFFFFF) } := by
  have put : p.put (0x118 + k.val) (v.setWidth 80) = p.setLeasen k ((v.setWidth 80).setWidth 64) := by
    fin_cases k <;> rfl
  rw [put, setWidth_80_64, Priv.setLeasen, dif_pos k.isLt]
theorem put_lease (p : Priv) (k : Fin 8) (v : Addr) :
    p.put (0x110 + k.val) v = { p with lease := p.lease.set k (v &&& ~~~0xFFE0) } := by
  have put : p.put (0x110 + k.val) v = p.setLease k v := by
    fin_cases k <;> rfl
  rw [put, Priv.setLease, dif_pos k.isLt]
theorem writePrivW_leasen (k : Fin 8) (v : Word) :
    writePrivW (0x118 + k.val) v = setPriv (0x118 + k.val) (v.setWidth 80) := by
  fin_cases k <;> rfl
theorem writePrivA_lease (k : Fin 8) (v : Addr) : writePrivA (0x110 + k.val) v = setPriv (0x110 + k.val) v := by
  fin_cases k <;> rfl

end Sys2Proof.Machine
end

section
/-! What CRRD and CRWR of each kind of register complete with. -/

namespace Sys2Proof.Claims
open Sys2Proof.Machine

theorem ready_tidy {l : Legal} {s : State} (h : Ready l s) : Tidy s := by
  obtain ⟨-, -, isOpen⟩ := h
  exact .inl isOpen

/-! CRRD. -/

theorem crrd_word {s t : State} {r : CrOp} {cr : BitVec 31} {v : Word} (hr : Ready onX s) (hn : MayName s cr.toNat)
    (hcr : readCr s cr.toNat = some (.w v)) (hw : Writes (crG r) v s t) : exec (.crrd r cr) s = .next (finish t) := by
  have body : withCr cr (crrdOf r) s = .ok ((), t) := by
    rw [withCr_ok hn, hcr]; exact writeOp_ok hw
  exact issue_ok hr body (writes_tidy hw (ready_tidy hr))
theorem crrd_addr {s : State} {n : BitVec 4} {cr : BitVec 31} {v : Addr} (hr : Ready onX s) (hn : MayName s cr.toNat)
    (hcr : readCr s cr.toNat = some (.a v)) : exec (.crrd (.reg n) cr) s = .next (advance (putP n v s)) := by
  have body : withCr cr (crrdOf (.reg n)) s = .ok ((), putP n v s) := by
    rw [withCr_ok hn, hcr]; rfl
  have ⟨_, _, isOpen⟩ := hr
  rw [← finish_open (s := putP n v s) isOpen]
  exact issue_ok hr body (ready_tidy hr)

/-! The faults of the two. -/

section
variable {s : State} {cr : BitVec 31} (hr : Ready onX s) (hs : FaultReady s)
include hr hs

theorem cr_unlisted_faults (h : (18 ≤ cr.toNat ∧ cr.toNat < 256) ∨ 512 ≤ cr.toNat) (r : CrOp) :
    Faults 0x01 0 (.crrd r cr) s ∧ Faults 0x01 0 (.crwr r cr) s := by
  have named := mayName_unprivileged s (n := cr.toNat) (by omega)
  have none := readCr_unlisted h s
  exact ⟨faults_of_error (exec_crrd r cr s) hr hs (by rw [withCr_ok named, none]; rfl),
    faults_of_error (exec_crwr r cr s) hr hs (by rw [withCr_ok named, none]; rfl)⟩

theorem cr_privilege_faults (h : 256 ≤ cr.toNat) (h' : cr.toNat < 512) (r : CrOp) :
    Faults 0x02 0 (.crrd r cr) s ∧ Faults 0x02 0 (.crwr r cr) s := by
  have unnamed : ¬ MayName s cr.toNat := fun named => by
    have ⟨onThread, _⟩ := hs
    have super := named ((privileged_iff _).2 ⟨h, h'⟩)
    rw [onThread] at super
    cases super
  exact ⟨faults_of_error (exec_crrd r cr s) hr hs (withCr_privilege unnamed _),
    faults_of_error (exec_crwr r cr s) hr hs (withCr_privilege unnamed _)⟩

/-- A register of 80 bits and a port (R192). -/
theorem cr_port_faults {v : Addr} (h : userCr s cr.toNat = some (.inr v)) (d : Dir) :
    Faults 0x01 0 (.crrd (.port d) cr) s ∧ Faults 0x01 0 (.crwr (.port d) cr) s := by
  have listed := userCr_lt h
  have named := mayName_unprivileged s (n := cr.toNat) (by omega)
  have addr := readCr_of_userCr_addr h
  exact ⟨faults_of_error (exec_crrd _ cr s) hr hs (by rw [withCr_ok named, addr]; exact crP_port d _ s),
    faults_of_error (exec_crwr _ cr s) hr hs (by rw [withCr_ok named, addr]; exact crP_port d _ s)⟩

end

/-! CRWR of a register of 64 bits. -/

section
variable {s s1 : State} {r : CrOp} {v : Word} {cr : BitVec 31} (hv : Reads (crG r) s v s1)
include hv

/-- The body of a CRWR that names a register of 64 bits, once the operand has been read. -/
theorem crwr_word_body (hn : MayName s cr.toNat) (hcr : IsWordCr s cr.toNat) :
    withCr cr (crwrOf r cr) s = (if privileged cr.toNat then writePrivW cr.toNat v else writeUserW cr v) s1 := by
  obtain ⟨u, hcr⟩ := hcr
  rw [withCr_ok hn, hcr, crwrOf_word hv]

theorem crwr_userWord_body (hn : cr.toNat < 256) (hcr : IsWordCr s cr.toNat) :
    withCr cr (crwrOf r cr) s = writeUserW cr v s1 := by
  rw [crwr_word_body hv (mayName_unprivileged s (.inl hn)) hcr, if_neg (not_privileged hn)]

theorem crwr_userWord (hr : Ready onX s) (f : Regs → Regs) (hn : cr.toNat < 256) (hcr : IsWordCr s cr.toNat)
    (hw : writeUserW cr v s1 = .ok ((), withRegs f s1)) : exec (.crwr r cr) s = .next (finish (withRegs f s1)) := by
  have tidy : Tidy s1 := reads_tidy hv (ready_tidy hr)
  exact issue_ok hr ((crwr_userWord_body hv hn hcr).trans hw) tidy

theorem crwr_userWord_faults (hr : Ready onX s) (hs : FaultReady s) (hn : cr.toNat < 256) (hcr : IsWordCr s cr.toNat)
    (hw : writeUserW cr v s1 = .error (.fault cIllegal 0)) : Faults 0x01 0 (.crwr r cr) s :=
  faults_of_error (exec_crwr r cr s) hr hs ((crwr_userWord_body hv hn hcr).trans hw)

/-- A register that a user may only read: nothing happens (R192). -/
theorem crwr_readOnly (hr : Ready onX s) (hcr : cr = 1 ∨ cr = 7 ∨ cr = 8 ∨ cr = 9 ∨ cr = 10 ∨ cr = 11 ∨ cr = 12 ∨
    cr = 14 ∨ cr = 16) : exec (.crwr r cr) s = .next (finish s1) := by
  obtain ⟨listed, word, nothing⟩ : cr.toNat < 256 ∧ IsWordCr s cr.toNat ∧ writeUserW cr v = pure () := by
    rcases hcr with rfl | rfl | rfl | rfl | rfl | rfl | rfl | rfl | rfl <;> exact ⟨by decide, ⟨_, rfl⟩, rfl⟩
  exact crwr_userWord hv hr id listed word (by rw [nothing]; rfl)

end

/-! CRWR of a register of 80 bits. -/

section
variable {s : State} {n : BitVec 4} {cr : BitVec 31} (hv : PReadable s n)
include hv

theorem crwr_addr_body (hn : MayName s cr.toNat) (hcr : IsAddrCr s cr.toNat) : withCr cr (crwrOf (.reg n) cr) s =
    (if privileged cr.toNat then writePrivA cr.toNat (pval s n) else writeUserA cr (pval s n)) s := by
  obtain ⟨u, hcr⟩ := hcr
  rw [withCr_ok hn, hcr, crwrOf_addr hv]

theorem crwr_userAddr (hr : Ready onX s) (f : Regs → Regs) (hn : cr.toNat < 256) (hcr : IsAddrCr s cr.toNat)
    (hw : writeUserA cr (pval s n) s = .ok ((), withRegs f s)) :
    exec (.crwr (.reg n) cr) s = .next (advance (withRegs f s)) := by
  have ⟨_, _, isOpen⟩ := hr
  have body : withCr cr (crwrOf (.reg n) cr) s = .ok ((), withRegs f s) := by
    rw [crwr_addr_body hv (mayName_unprivileged s (.inl hn)) hcr, if_neg (not_privileged hn), hw]
  rw [← finish_open (s := withRegs f s) isOpen]
  exact issue_ok hr body (ready_tidy hr)

end

/-! CRWR of a privileged register in supervisor state (R309). -/

theorem privBecomes_of_finish {i : Instr} {s t : State} {p : Priv} (he : exec i s = .next (finish t))
    (hp : t.core.priv = p) (hmem : t.mem = s.mem) (hlmem : t.launch.lmem = s.launch.lmem)
    (hregs : t.cur.regs = s.cur.regs) (hnpc : t.cur.npc = s.cur.npc) : PrivBecomes i p s := by
  refine ⟨_, he, ?_, ?_, ?_, ?_⟩
  · rw [finish_core, hp]
  · rw [finish_mem, hmem]
  · rw [finish_launch, hlmem]
  · rw [finish_regs, hregs, hnpc]

/-- A CRWR that sets a privileged register of its core, once its operand has been read. -/
theorem privBecomes_of_setPriv {s s1 : State} {r : CrOp} {cr : BitVec 31} {n : Nat} {x : Addr} (hr : Ready onX s)
    (hread : OperandRead s s1) (ht : Tidy s1) (hown : OwnCore n) (hb : withCr cr (crwrOf r cr) s = setPriv n x s1) :
    PrivBecomes (.crwr r cr) (s.core.priv.put n x) s := by
  obtain ⟨priv, mem, launch, regs, npc⟩ := privSet_frame hown x s1
  have completes : exec (.crwr r cr) s = .next (finish (privSet n x s1)) :=
    issue_ok hr (hb.trans (setPriv_ok n x s1)) (privSet_tidy hown x ht)
  refine privBecomes_of_finish completes ?_ (mem.trans hread.mem) ?_ (regs.trans hread.regs) (npc.trans hread.npc)
  · rw [priv, hread.core]
  · rw [launch, hread.lmem]

theorem crwr_privWord {s s1 : State} {r : CrOp} {v : Word} {n : Nat} {x : Addr} {p : Priv} (hr : Ready onX s)
    (hv : Reads (crG r) s v s1) (hsup : s.cur.seq = .s) (cr : BitVec 31) (hn : cr.toNat = n) (hp : privileged n = true)
    (hown : OwnCore n) (hcr : IsWordCr s n) (hset : writePrivW n v = setPriv n x) (hput : s.core.priv.put n x = p) :
    PrivBecomes (.crwr r cr) p s := by
  subst hn hput
  refine privBecomes_of_setPriv hr (reads_operandRead hv) (reads_tidy hv (ready_tidy hr)) hown ?_
  rw [crwr_word_body hv (fun _ => hsup) hcr, if_pos hp, hset]

theorem crwr_privAddr {s : State} {m : BitVec 4} {n : Nat} {x : Addr} {p : Priv} (hr : Ready onX s)
    (hv : PReadable s m) (hsup : s.cur.seq = .s) (cr : BitVec 31) (hn : cr.toNat = n) (hp : privileged n = true)
    (hown : OwnCore n) (hcr : IsAddrCr s n) (hset : writePrivA n (pval s m) = setPriv n x)
    (hput : s.core.priv.put n x = p) : PrivBecomes (.crwr (.reg m) cr) p s := by
  subst hn hput
  refine privBecomes_of_setPriv hr (.refl s) (ready_tidy hr) hown ?_
  rw [crwr_addr_body hv (fun _ => hsup) hcr, if_pos hp, hset]

/-- PARTN is read-only (R326). -/
theorem crwr_partn {s s1 : State} {r : CrOp} {v : Word} (hr : Ready onX s) (hv : Reads (crG r) s v s1)
    (hsup : s.cur.seq = .s) : PrivBecomes (.crwr r 0x107) s.core.priv s := by
  have body : withCr 0x107 (crwrOf r 0x107) s = .ok ((), s1) :=
    (crwr_word_body hv (fun _ => hsup) ⟨_, rfl⟩).trans rfl
  have hread := reads_operandRead hv
  exact privBecomes_of_finish (issue_ok hr body (reads_tidy hv (ready_tidy hr))) (by rw [hread.core]) hread.mem
    hread.lmem hread.regs hread.npc

end Sys2Proof.Claims
end

section
/-! The clauses of the statement about control registers, and the statement. -/

open Sys2Proof Sys2Proof.Machine Sys2Proof.Claims

namespace Sys2Proof.Claims

/-- CRWR of the user registers of 64 bits that take a value (R117, R118, R192). -/
theorem crwr_user_words {s s1 : State} {r : CrOp} {v : Word} (hr : Ready onX s) (hv : Reads (crG r) s v s1) :
    (v.toNat ≤ 5 → exec (.crwr r 0) s = .next (finish (withRegs (fun x => { x with round := v }) s1))) ∧
    exec (.crwr r 17) s = .next (finish (withRegs (fun x => { x with anomaly := x.anomaly &&& ~~~v }) s1)) := by
  constructor
  · intro h
    refine crwr_userWord hv hr _ (by decide) ⟨_, rfl⟩ ?_
    rw [writeUserW_round, require_bind_ok (by simp; omega)]; rfl
  · exact crwr_userWord hv hr _ (by decide) ⟨_, rfl⟩ rfl

/-- CRWR of the matrix formats by a thread that is not hitched (R251). -/
theorem crwr_formats {s s1 : State} {r : CrOp} {v : Word} (hr : Ready onX s) (hv : Reads (crG r) s v s1)
    (hh : hitched s = false) :
    (v.toNat < 16 → exec (.crwr r 2) s = .next (finish (withRegs (fun x => { x with fmtA := v }) s1))) ∧
    (v &&& ~~~0x10F = 0 → exec (.crwr r 3) s = .next (finish (withRegs (fun x => { x with fmtB := v }) s1))) ∧
    (v.toNat < 32 → exec (.crwr r 4) s = .next (finish (withRegs (fun x => { x with fmtC := v }) s1))) := by
  have free : hitched s1 = false := (reads_operandRead hv).hitched.trans hh
  refine ⟨fun h => ?_, fun h => ?_, fun h => ?_⟩
  · refine crwr_userWord hv hr _ (by decide) ⟨_, rfl⟩ ?_
    rw [writeUserW_fmtA, require_bind_ok (by simpa using h), writeFmt_unhitched free]
  · refine crwr_userWord hv hr _ (by decide) ⟨_, rfl⟩ ?_
    rw [writeUserW_fmtB, require_bind_ok (by simpa using h), writeFmt_unhitched free]
  · refine crwr_userWord hv hr _ (by decide) ⟨_, rfl⟩ ?_
    rw [writeUserW_fmtC, require_bind_ok (by simpa using h), writeFmt_unhitched free]

/-- Reserved values of ROUND and of the matrix formats (R118, R192). -/
theorem crwr_reserved_faults {s s1 : State} {r : CrOp} {v : Word} (hr : Ready onX s) (hv : Reads (crG r) s v s1)
    (hs : FaultReady s) : (5 < v.toNat → Faults 0x01 0 (.crwr r 0) s) ∧ (16 ≤ v.toNat → Faults 0x01 0 (.crwr r 2) s) ∧
      (v &&& ~~~0x10F ≠ 0 → Faults 0x01 0 (.crwr r 3) s) ∧ (32 ≤ v.toNat → Faults 0x01 0 (.crwr r 4) s) := by
  refine ⟨fun h => ?_, fun h => ?_, fun h => ?_, fun h => ?_⟩
  · refine crwr_userWord_faults hv hr hs (by decide) ⟨_, rfl⟩ ?_
    rw [writeUserW_round, require_bind_fault (by simp; omega)]
  · refine crwr_userWord_faults hv hr hs (by decide) ⟨_, rfl⟩ ?_
    rw [writeUserW_fmtA, require_bind_fault (by simpa using h)]
  · refine crwr_userWord_faults hv hr hs (by decide) ⟨_, rfl⟩ ?_
    rw [writeUserW_fmtB, require_bind_fault (by simpa using h)]
  · refine crwr_userWord_faults hv hr hs (by decide) ⟨_, rfl⟩ ?_
    rw [writeUserW_fmtC, require_bind_fault (by simpa using h)]

/-- CRWR of the privileged registers of 64 bits (R309, R315). -/
theorem crwr_priv_words {s s1 : State} {r : CrOp} {v : Word} (hr : Ready onX s) (hv : Reads (crG r) s v s1)
    (hsup : s.cur.seq = .s) :
    PrivBecomes (.crwr r 0x100) { s.core.priv with dom := v &&& 0xFFFF } s ∧
    PrivBecomes (.crwr r 0x101) { s.core.priv with vshare := v &&& 0xFF } s ∧
    PrivBecomes (.crwr r 0x106) { s.core.priv with haltgrp := v &&& 0xFFFFFFFF } s ∧
    PrivBecomes (.crwr r 0x109) { s.core.priv with ologn := v } s ∧
    PrivBecomes (.crwr r 0x107) s.core.priv s ∧
    ∀ k : Fin 8, PrivBecomes (.crwr r (BitVec.ofNat 31 (0x118 + k.val)))
      { s.core.priv with leasen := s.core.priv.leasen.set k (v &&& 0xFFFFFFFF) } s := by
  refine ⟨?_, ?_, ?_, ?_, crwr_partn hr hv hsup, fun k => ?_⟩
  · exact crwr_privWord hr hv hsup _ rfl rfl (by decide) ⟨_, rfl⟩ rfl
      (congrArg (fun w => { s.core.priv with dom := w }) (setWidth_80_64 _))
  · exact crwr_privWord hr hv hsup _ rfl rfl (by decide) ⟨_, rfl⟩ rfl
      (congrArg (fun w => { s.core.priv with vshare := w }) (setWidth_80_64 _))
  · exact crwr_privWord hr hv hsup _ rfl rfl (by decide) ⟨_, rfl⟩ rfl
      (congrArg (fun w => { s.core.priv with haltgrp := w }) (setWidth_80_64 _))
  · exact crwr_privWord hr hv hsup _ rfl rfl (by decide) ⟨_, rfl⟩ rfl
      (congrArg (fun w => { s.core.priv with ologn := w }) (setWidth_80_64 _))
  · have number : (BitVec.ofNat 31 (0x118 + k.val)).toNat = 0x118 + k.val := by simp; omega
    exact crwr_privWord hr hv hsup _ number ((privileged_iff _).2 (by omega)) (by omega)
      (isWordCr_leasen s k) (writePrivW_leasen k v) (put_leasen _ k v)

/-- CRWR of the privileged registers of 80 bits (R309, R315, R349). -/
theorem crwr_priv_addrs {s : State} {n : BitVec 4} (hr : Ready onX s) (hv : PReadable s n) (hsup : s.cur.seq = .s) :
    PrivBecomes (.crwr (.reg n) 0x103) { s.core.priv with qtab := pval s n } s ∧
    PrivBecomes (.crwr (.reg n) 0x104) { s.core.priv with handler := pval s n &&& ~~~1 } s ∧
    PrivBecomes (.crwr (.reg n) 0x108) { s.core.priv with olog := pval s n } s ∧
    PrivBecomes (.crwr (.reg n) 0x10F) { s.core.priv with huskp := pval s n } s ∧
    ∀ k : Fin 8, PrivBecomes (.crwr (.reg n) (BitVec.ofNat 31 (0x110 + k.val)))
      { s.core.priv with lease := s.core.priv.lease.set k (pval s n &&& ~~~0xFFE0) } s := by
  refine ⟨?_, ?_, ?_, ?_, fun k => ?_⟩
  · exact crwr_privAddr hr hv hsup _ rfl rfl (by decide) ⟨_, rfl⟩ rfl rfl
  · exact crwr_privAddr hr hv hsup _ rfl rfl (by decide) ⟨_, rfl⟩ rfl rfl
  · exact crwr_privAddr hr hv hsup _ rfl rfl (by decide) ⟨_, rfl⟩ rfl rfl
  · exact crwr_privAddr hr hv hsup _ rfl rfl (by decide) ⟨_, rfl⟩ rfl rfl
  · have number : (BitVec.ofNat 31 (0x110 + k.val)).toNat = 0x110 + k.val := by simp; omega
    exact crwr_privAddr hr hv hsup _ number ((privileged_iff _).2 (by omega)) (by omega)
      (isAddrCr_lease s k) (writePrivA_lease k _) (put_lease _ k _)

/-- CRWR of the user registers of 80 bits (R192, R200, R251). -/
theorem crwr_user_addrs {s : State} {n : BitVec 4} (hr : Ready onX s) (hv : PReadable s n) :
    exec (.crwr (.reg n) 13) s = .next (advance (withRegs (fun x => { x with utrapv := pval s n }) s)) ∧
    exec (.crwr (.reg n) 15) s = .next (advance (withRegs (fun x => { x with utpc := pval s n }) s)) ∧
    (hitched s = false →
      exec (.crwr (.reg n) 5) s = .next (advance (withRegs (fun x => { x with sclA := pval s n }) s)) ∧
      exec (.crwr (.reg n) 6) s = .next (advance (withRegs (fun x => { x with sclB := pval s n }) s))) := by
  refine ⟨?_, ?_, fun hh => ⟨?_, ?_⟩⟩
  · exact crwr_userAddr hv hr _ (by decide) ⟨_, rfl⟩ rfl
  · exact crwr_userAddr hv hr _ (by decide) ⟨_, rfl⟩ rfl
  · exact crwr_userAddr hv hr _ (by decide) ⟨_, rfl⟩ (by rw [writeUserA_sclA, writeFmt_unhitched hh])
  · exact crwr_userAddr hv hr _ (by decide) ⟨_, rfl⟩ (by rw [writeUserA_sclB, writeFmt_unhitched hh])

end Sys2Proof.Claims

/-- Settles O49: the number decides whether the agent may name the register and of what kind it is; each kind has one rule for
CRRD and one for CRWR, and the clauses are these rules at the numbers of R192 and R309. -/
theorem controlRegistersResult : Obligations.ControlRegistersResult := by
  unfold Obligations.ControlRegistersResult
  refine ⟨fun s r cr hr => ⟨?_, ?_, ?_, ?_, fun hs => ⟨?_, ?_, ?_⟩⟩, fun s r v s1 hr hv => ?_, fun s n hr hv => ?_⟩
  · intro v t h hw
    have listed := userCr_lt h
    exact crrd_word hr (mayName_unprivileged s (by omega)) (readCr_of_userCr_word h) hw
  · intro v n h
    have listed := userCr_lt h
    exact crrd_addr hr (mayName_unprivileged s (by omega)) (readCr_of_userCr_addr h)
  · intro k t h hw
    have me : readCr s cr.toNat = some (.w (meWord s k)) := by rw [h]; exact readCr_me s k
    exact crrd_word hr (mayName_unprivileged s (by omega)) me hw
  · rintro t committed rfl hw
    exact crrd_word hr (mayName_unprivileged s (by decide)) (readCr_world_committed committed) hw
  · exact fun v d h => cr_port_faults hr hs h d
  · exact fun h h' => cr_privilege_faults hr hs h h' r
  · exact fun h => cr_unlisted_faults hr hs h r
  · obtain ⟨round, anomaly⟩ := crwr_user_words hr hv
    exact ⟨round, anomaly, fun cr => crwr_readOnly hv hr, fun hs => (crwr_reserved_faults hr hv hs).1,
      fun hs => (crwr_reserved_faults hr hv hs).2, crwr_formats hr hv, crwr_priv_words hr hv⟩
  · obtain ⟨utrapv, utpc, scales⟩ := crwr_user_addrs hr hv
    exact ⟨utrapv, utpc, scales, crwr_priv_addrs hr hv⟩

end

section
/-! What a write at its home leaves (R69, R94, R128): of the agents it may mark chunks alone, of the launch in front it may change
local memory and views, and every other part of the machine stands. -/

namespace Sys2Proof.Machine

theorem State.modCore_coreId (s : State) (i : Nat) (f : Core → Core) (hf : ∀ c, (f c).id = c.id) :
    (s.modCore i f).core.id = s.core.id := by
  unfold State.modCore
  split
  · exact hf _
  · split <;> rfl

/-- A change of agents that may mark the chunks of any but `who`. -/
structure MarksChunks (who : Nat) (f : Agent → Agent) : Prop where
  chunks : ∀ a, f a = { a with chunk := (f a).chunk, ended := (f a).ended }
  own : ∀ a, a.tid = who → f a = a

theorem marksChunks_id (who : Nat) : MarksChunks who id := ⟨fun _ => rfl, fun _ _ => rfl⟩

theorem MarksChunks.comp {who : Nat} {f g : Agent → Agent} (hg : MarksChunks who g) (hf : MarksChunks who f) :
    MarksChunks who (g ∘ f) := by
  constructor
  · intro a
    have hfa := hf.chunks a
    have hga := hg.chunks (f a)
    calc g (f a) = { f a with chunk := (g (f a)).chunk, ended := (g (f a)).ended } := hga
      _ = { a with chunk := (g (f a)).chunk, ended := (g (f a)).ended } := by rw [hfa]
  · intro a ha
    rw [Function.comp, hf.own a ha, hg.own a ha]

theorem MarksChunks.tid {who : Nat} {f : Agent → Agent} (h : MarksChunks who f) (a : Agent) : (f a).tid = a.tid := by
  rw [h.chunks a]

/-- What a write at its home on behalf of `who` leaves. -/
structure HomeFrame (who : Nat) (s t : State) : Prop where
  agents : ∃ f, MarksChunks who f ∧ t.cur = f s.cur ∧ t.agents = s.agents.map f
  rest : t = { s with
    cur := t.cur, agents := t.agents, mem := t.mem, empty := t.empty, poison := t.poison, packages := t.packages
    launch := { s.launch with
      lmem := t.launch.lmem, lempty := t.launch.lempty, lpoison := t.launch.lpoison, views := t.launch.views } }

/-- A step that leaves every agent. -/
theorem HomeFrame.of_rest {who : Nat} {s t : State} (h : t = { s with
    mem := t.mem, empty := t.empty, poison := t.poison, packages := t.packages
    launch := { s.launch with
      lmem := t.launch.lmem, lempty := t.launch.lempty, lpoison := t.launch.lpoison, views := t.launch.views } }) :
    HomeFrame who s t := by
  have cur : t.cur = s.cur := by rw [h]
  have agents : t.agents = s.agents := by rw [h]
  refine ⟨⟨id, marksChunks_id who, cur, by rw [agents, List.map_id]⟩, ?_⟩
  rw [cur, agents]; exact h

theorem HomeFrame.refl (who : Nat) (s : State) : HomeFrame who s s := .of_rest rfl

theorem HomeFrame.trans {who : Nat} {s t u : State} (h : HomeFrame who s t) (g : HomeFrame who t u) : HomeFrame who s u := by
  obtain ⟨f, hf, hcur, hagents⟩ := h.agents
  obtain ⟨f', hf', gcur, gagents⟩ := g.agents
  refine ⟨⟨f' ∘ f, hf'.comp hf, by rw [gcur, hcur]; rfl, by rw [gagents, hagents, List.map_map]⟩, ?_⟩
  rw [g.rest, h.rest]

theorem foldl_homeFrame {α : Type} {who : Nat} (f : State → α → State) (hf : ∀ s x, HomeFrame who s (f s x)) (l : List α)
    (s : State) : HomeFrame who s (l.foldl f s) := by
  induction l generalizing s with
  | nil => exact .refl who s
  | cons x l ih => exact (hf s x).trans (ih _)

theorem ite_homeFrame {c : Prop} [Decidable c] {who : Nat} {s t u : State} (ht : HomeFrame who s t)
    (hu : HomeFrame who s u) : HomeFrame who s (if c then t else u) := by
  split
  · exact ht
  · exact hu

section
variable (who : Nat) (s : State)

theorem modPkg_homeFrame (i : Nat) (f : Package → Package) : HomeFrame who s (s.modPkg i f) := by
  unfold State.modPkg
  exact ite_homeFrame (.of_rest rfl) (ite_homeFrame (.of_rest rfl) (.refl who s))
theorem setBaseByte_homeFrame (k : Nat) (b : Byte) : HomeFrame who s (setBaseByte s k b) :=
  ite_homeFrame (.of_rest rfl) (.of_rest rfl)
theorem setBasePois_homeFrame (k : Nat) (e : Bool) : HomeFrame who s (setBasePois s k e) :=
  ite_homeFrame (.of_rest rfl) (.of_rest rfl)
theorem modView_homeFrame (p t : Nat) (f : View → View) : HomeFrame who s (modView s p t f) := .of_rest rfl
theorem copyLine_homeFrame (p t k : Nat) : HomeFrame who s (copyLine s p t k) :=
  ite_homeFrame (.refl who s) ((modView_homeFrame who s p t _).trans (modPkg_homeFrame who _ _ _))
theorem modLine_homeFrame (p t k : Nat) (f : VLine → VLine) : HomeFrame who s (modLine s p t k f) :=
  modView_homeFrame who s p t _
theorem writeView_homeFrame (p t k : Nat) (b : Byte) : HomeFrame who s (writeView s p t k b) :=
  ite_homeFrame (setBaseByte_homeFrame who s k b) ((copyLine_homeFrame who s p t k).trans (modLine_homeFrame who _ _ _ _ _))
theorem setPoison_homeFrame (p t k : Nat) (e : Bool) : HomeFrame who s (setPoison s p t k e) :=
  ite_homeFrame (setBasePois_homeFrame who s k e) ((copyLine_homeFrame who s p t k).trans (modLine_homeFrame who _ _ _ _ _))

theorem noteLine_homeFrame (p t l : Nat) : HomeFrame who s (noteLine s p t who l) := by
  refine ⟨⟨_, ⟨fun a => ?_, fun a ha => ?_⟩, rfl, rfl⟩, rfl⟩
  · split <;> rfl
  · rw [if_neg fun h => h.1 ha]

theorem writeBytes_homeFrame (p t : Nat) (cells : List (Nat × Byte)) (clean : List Nat) :
    HomeFrame who s (writeBytes s p t who cells clean) := by
  unfold writeBytes
  dsimp only
  refine ((foldl_homeFrame _ (fun s c => writeView_homeFrame who s p t c.1 c.2) cells s).trans
    (foldl_homeFrame _ (fun s k => ?_) clean _)).trans
    (foldl_homeFrame _ (fun s l => noteLine_homeFrame who s p t l) _ _)
  exact ite_homeFrame (setPoison_homeFrame who s p t k false) (.refl who s)

theorem madeResident_homeFrame (old : State) (keys : List Nat) : HomeFrame who s (madeResident old s keys) := by
  unfold madeResident
  exact ite_homeFrame (.refl who s) (foldl_homeFrame (fun t x => fillFrame x t) (fun _ _ => .of_rest rfl) _ s)

theorem writeHome_homeFrame (p t : Nat) (cells : List (Nat × Byte)) (clean : List Nat) :
    HomeFrame who s (writeHome s p t who cells clean) :=
  (writeBytes_homeFrame who s p t _ clean).trans (madeResident_homeFrame who _ s _)

end

theorem rawWrite_homeFrame (s : State) (core : Nat) (va : Addr) (bs : List Byte) :
    HomeFrame 0 s (rawWrite s core va bs) := by
  refine foldl_homeFrame _ (fun s x => ?_) _ s
  split
  · exact writeBytes_homeFrame 0 s _ _ _ _
  · exact .refl 0 s

/-! What follows for the parts that a proof asks for. -/

section
variable {who : Nat} {s t : State} (h : HomeFrame who s t)
include h

theorem HomeFrame.core : t.core = s.core := by rw [h.rest]
theorem HomeFrame.cores : t.cores = s.cores := by rw [h.rest]
theorem HomeFrame.lc : t.lc = s.lc := by rw [h.rest]
theorem HomeFrame.dieqs : t.dieqs = s.dieqs := by rw [h.rest]
theorem HomeFrame.launches : t.launches = s.launches := by rw [h.rest]
theorem HomeFrame.launch : t.launch = { s.launch with
      lmem := t.launch.lmem, lempty := t.launch.lempty, lpoison := t.launch.lpoison, views := t.launch.views } := by
  conv_lhs => rw [h.rest]
/-- The writer's own chunk stands. -/
theorem HomeFrame.cur (hw : s.cur.tid = who) : t.cur = s.cur := by
  obtain ⟨f, hf, hcur, -⟩ := h.agents
  rw [hcur, hf.own _ hw]
theorem HomeFrame.tids : t.agents.map (·.tid) = s.agents.map (·.tid) := by
  obtain ⟨f, hf, -, hagents⟩ := h.agents
  rw [hagents, List.map_map]
  exact List.map_congr_left fun a _ => hf.tid a

end

end Sys2Proof.Machine
end

section
/-! What a record to the supervisor leaves (R350). -/

namespace Sys2Proof.Machine

/-- What a record to the supervisor leaves of the agents, the die queues and the name of the core in front. -/
structure RecordFrame (s t : State) : Prop where
  agents : ∃ f, MarksChunks 0 f ∧ t.cur = f s.cur ∧ t.agents = s.agents.map f
  dieqs : t.dieqs = s.dieqs
  coreId : t.core.id = s.core.id

theorem RecordFrame.of_eq {s t : State} (hc : t.cur = s.cur) (ha : t.agents = s.agents) (hd : t.dieqs = s.dieqs)
    (hi : t.core.id = s.core.id) : RecordFrame s t :=
  ⟨⟨id, marksChunks_id 0, hc, by rw [ha, List.map_id]⟩, hd, hi⟩

theorem RecordFrame.trans {s t u : State} (h : RecordFrame s t) (g : RecordFrame t u) : RecordFrame s u := by
  obtain ⟨f, hf, hcur, hagents⟩ := h.agents
  obtain ⟨f', hf', gcur, gagents⟩ := g.agents
  exact ⟨⟨f' ∘ f, hf'.comp hf, by rw [gcur, hcur]; rfl, by rw [gagents, hagents, List.map_map]⟩, g.dieqs.trans h.dieqs,
    g.coreId.trans h.coreId⟩

theorem HomeFrame.record {s t : State} (h : HomeFrame 0 s t) : RecordFrame s t := ⟨h.agents, h.dieqs, by rw [h.core]⟩

theorem ite_recordFrame {c : Prop} [Decidable c] {s t u : State} (ht : RecordFrame s t) (hu : RecordFrame s u) :
    RecordFrame s (if c then t else u) := by
  split
  · exact ht
  · exact hu

theorem modCore_recordFrame (s : State) (i : Nat) (f : Core → Core) (hf : ∀ c, (f c).id = c.id) :
    RecordFrame s (s.modCore i f) :=
  .of_eq (State.modCore_cur s i f) (State.modCore_agents s i f) (State.modCore_dieqs s i f) (State.modCore_coreId s i f hf)

theorem trigger_coreId (g : BitVec 16) (i : Nat) (s : State) : (trigger g i s).core.id = s.core.id := by
  rw [trigger, State.mapCores_core]; split <;> rfl

theorem haltCore_recordFrame (i : Nat) (s : State) : RecordFrame s (haltCore i s) :=
  (modCore_recordFrame s i (fun c => { c with halted := true }) fun _ => rfl).trans
    (.of_eq rfl rfl rfl (trigger_coreId _ _ _))

theorem queueRecord_recordFrame (r : TrapRec) (s : State) : RecordFrame s (queueRecord r s) := by
  have waits : RecordFrame s { s with trapWait := s.trapWait ++ [r] } := .of_eq rfl rfl rfl rfl
  unfold queueRecord
  dsimp only
  split
  · exact waits
  · refine ite_recordFrame ?_ (ite_recordFrame ?_ waits)
    · exact ((rawWrite_homeFrame s _ _ _).record.trans (rawWrite_homeFrame _ _ _ _).record).trans
        ((modCore_recordFrame _ _ (fun c => { c with irqs := c.irqs ++ [1] }) fun _ => rfl).trans (.of_eq rfl rfl rfl rfl))
    · exact (waits.trans (rawWrite_homeFrame _ _ _ _).record).trans (haltCore_recordFrame _ _)

end Sys2Proof.Machine
end

section
/-! A release with nothing out (R136). -/

namespace Sys2Proof.Machine

theorem chunkEmpty_noRelease {s : State} (h : ChunkEmpty s) : s.cur.rel = none := by
  obtain ⟨-, -, -, -, -, rel⟩ := h
  exact rel

theorem ready_open {l : Legal} {s : State} (h : Ready l s) : s.cur.chunk.closed = false := by
  obtain ⟨-, -, isOpen⟩ := h
  exact isOpen

theorem releaseClear_of_released {s : State} (h : Sys2Proof.Claims.Released0 s) : releaseClear s = true := by
  obtain ⟨loads, entries, posted, markers⟩ := h
  simp only [releaseClear, loads, entries, posted, markers, List.isEmpty_nil, Bool.and_self]

theorem releaseSteps_ok {s : State} (hr : s.cur.rel = none) (hc : releaseClear s = true) : releaseSteps s = .ok ((), s) := by
  simp [releaseSteps, releaseAs, releaseOver, hr, hc]

end Sys2Proof.Machine
end

section
/-! Threads by number and die queues by die: what finding one gives after another has changed. -/

namespace Sys2Proof.Machine

/-! The first element that meets a test. -/

theorem find?_modFirst_of_keeps {α : Type} {p : α → Bool} {f : α → α} (hf : ∀ a, p (f a) = p a) (l : List α) :
    (modFirst p f l).find? p = (l.find? p).map f := by
  induction l with
  | nil => rfl
  | cons a l ih =>
    rw [modFirst]
    cases ha : p a with
    | true => simp [ha, hf]
    | false => simp [ha, ih]

theorem find?_modFirst_of_misses {α : Type} {p q : α → Bool} {f : α → α} (hf : ∀ a, q (f a) = q a)
    (hpq : ∀ a, p a = true → q a = false) (l : List α) : (modFirst p f l).find? q = l.find? q := by
  induction l with
  | nil => rfl
  | cons a l ih =>
    rw [modFirst]
    cases ha : p a with
    | true => simp [hf, hpq a ha]
    | false => simp [List.find?_cons, ih]

/-! Die queues. -/

section
variable (s : State) (d : Nat) (f : DieQ → DieQ)

theorem getDie_modDie_same (hf : ∀ q, (f q).die = q.die) : (s.modDie d f).getDie d = f (s.getDie d) := by
  have keeps : ∀ q : DieQ, ((f q).die == d) = (q.die == d) := fun q => by rw [hf]
  unfold State.modDie State.getDie
  cases hs : s.dieqs.any (·.die == d) with
  | true =>
    obtain ⟨q, hq, meets⟩ := List.any_eq_true.1 hs
    obtain ⟨r, found⟩ := Option.isSome_iff_exists.1 (List.find?_isSome (p := fun q : DieQ => q.die == d) |>.2 ⟨q, hq, meets⟩)
    simp [find?_modFirst_of_keeps (p := fun q : DieQ => q.die == d) keeps, found]
  | false =>
    have absent : s.dieqs.find? (·.die == d) = none := by simpa using hs
    have fresh : (f (DieQ.new d)).die = d := hf _
    simp [List.find?_append, absent, fresh]

theorem getDie_modDie_ne {e : Nat} (hf : ∀ q, (f q).die = q.die) (hne : e ≠ d) : (s.modDie d f).getDie e = s.getDie e := by
  have keeps : ∀ q : DieQ, ((f q).die == e) = (q.die == e) := fun q => by rw [hf]
  have misses : ∀ q : DieQ, (q.die == d) = true → (q.die == e) = false := fun q hq => by
    rw [beq_iff_eq] at hq
    rw [hq]; exact beq_false_of_ne hne.symm
  have other : (f (DieQ.new d)).die = d := hf _
  unfold State.modDie State.getDie
  split
  · rw [find?_modFirst_of_misses keeps misses]
  · simp [List.find?_append, other, hne.symm]

end

theorem modDie_cur (s : State) (d : Nat) (f : DieQ → DieQ) : (s.modDie d f).cur = s.cur := by
  unfold State.modDie; split <;> rfl
theorem modDie_agents (s : State) (d : Nat) (f : DieQ → DieQ) : (s.modDie d f).agents = s.agents := by
  unfold State.modDie; split <;> rfl
theorem modDie_core (s : State) (d : Nat) (f : DieQ → DieQ) : (s.modDie d f).core = s.core := by
  unfold State.modDie; split <;> rfl
theorem modDie_mem (s : State) (d : Nat) (f : DieQ → DieQ) : (s.modDie d f).mem = s.mem := by
  unfold State.modDie; split <;> rfl
theorem modDie_launch (s : State) (d : Nat) (f : DieQ → DieQ) : (s.modDie d f).launch = s.launch := by
  unfold State.modDie; split <;> rfl

theorem getDie_of_dieqs {s t : State} (h : t.dieqs = s.dieqs) (d : Nat) : t.getDie d = s.getDie d := by
  rw [State.getDie, State.getDie, h]

/-! Threads. -/

theorem getAgent_of_map {s t : State} {f : Agent → Agent} (hf : ∀ a, (f a).tid = a.tid) (hc : t.cur = f s.cur)
    (ha : t.agents = s.agents.map f) (i : Nat) : t.getAgent i = (s.getAgent i).map f := by
  have all : t.allAgents = s.allAgents.map f := by rw [State.allAgents, hc, ha]; rfl
  have keeps : ((fun a : Agent => a.tid == i) ∘ f) = fun a => a.tid == i := funext fun a => by rw [Function.comp, hf]
  rw [State.getAgent, State.getAgent, all, List.find?_map, keeps]

theorem getAgent_tid {s : State} {i : Nat} {a : Agent} (h : s.getAgent i = some a) : a.tid = i := by
  have meets := List.find?_some h
  simpa using meets

theorem getAgent_modAgent_same (s : State) (i : Nat) {f : Agent → Agent} (hf : ∀ a, (f a).tid = a.tid) :
    (s.modAgent i f).getAgent i = (s.getAgent i).map f := by
  rw [getAgent_of_map (f := fun a => if a.tid = i then f a else a) (fun a => by split <;> simp [hf]) rfl rfl]
  cases h : s.getAgent i with
  | none => rfl
  | some a => simp [getAgent_tid h]

theorem getAgent_of_eq {s t : State} (hc : t.cur = s.cur) (ha : t.agents = s.agents) (i : Nat) : t.getAgent i = s.getAgent i := by
  rw [State.getAgent, State.getAgent, State.allAgents, State.allAgents, hc, ha]

theorem getAgent_cur (s : State) : s.getAgent s.cur.tid = some s.cur := by
  simp [State.getAgent, State.allAgents]

theorem modDie_getAgent (s : State) (d : Nat) (f : DieQ → DieQ) (i : Nat) : (s.modDie d f).getAgent i = s.getAgent i :=
  getAgent_of_eq (modDie_cur s d f) (modDie_agents s d f) i

end Sys2Proof.Machine
end

section
/-! Faults at issue (R189, R199, R203), and a fault in supervisor state (R350). -/

namespace Sys2Proof.Machine

/-! Steps 1 and 2 of R199 that end an access. -/

theorem reach_reserved {va : Addr} (h : va.toNat / 2 ^ 78 = 3) (need : Rights) (s : State) :
    reach va need s = .error (.fault cRights va) := by
  simp only [reach, run_bind, run_get, h, if_true]
  rfl

theorem reachAligned_misaligned {va : Addr} {n : Nat} (h : va.toNat % n ≠ 0) (need : Rights) (s : State) :
    reachAligned va n need s = .error (.fault cAlign va) := by
  simp [reachAligned, run_require, h]

theorem reachAligned_reserved {va : Addr} {n : Nat} (ha : va.toNat % n = 0) (h : va.toNat / 2 ^ 78 = 3) (need : Rights)
    (s : State) : reachAligned va n need s = .error (.fault cRights va) := by
  simp [reachAligned, run_require, ha, reach_reserved h]

theorem extractLsb_reserved {va : Addr} (h : va.extractLsb' 78 2 = 3) : va.toNat / 2 ^ 78 = 3 := by
  have bits := congrArg BitVec.toNat h
  have small := va.isLt
  rw [BitVec.extractLsb'_toNat, Nat.shiftRight_eq_div_pow, show (3 : BitVec 2).toNat = 3 from rfl] at bits
  omega

/-! The operand of an access, and what a fault of its reach makes of the body. -/

theorem effAddr_ptr {s : State} {p : BitVec 4} (h : PReadable s p) (disp : Word) (dest : Bool) :
    effAddr (.ptr p) disp dest s = .ok (pval s p + disp.signExtend 80, s) := by
  simp only [effAddr, baseAddr, run_bind, readP_ok h, run_pure]

theorem runLoad_fault {s : State} {b : PBase} {disp : Word} {ea a : Addr} {n : Nat} {c : Byte}
    (he : effAddr b disp false s = .ok (ea, s)) (hf : reachAligned ea n rR s = .error (.fault c a))
    (signed : Bool) (k : LKind) (d : LDst) : runLoad b disp n signed k d s = .error (.fault c a) := by
  simp only [runLoad, run_bind, he, hf]

theorem runStore_fault {s : State} {b : PBase} {disp : Word} {ea a : Addr} {n : Nat} {c : Byte}
    (he : effAddr b disp true s = .ok (ea, s)) (hf : reachAligned ea n rW s = .error (.fault c a))
    (g : GOp) (rel : Bool) : runStore g b disp n rel s = .error (.fault c a) := by
  simp only [runStore, run_bind, he, hf]

theorem runAtomic_misaligned {s : State} {p : BitVec 4} (h : PReadable s p) (ha : (pval s p).toNat % 8 ≠ 0)
    (dst : LDst) (c cmp : Word) (op : AOp) (acq rel : Bool) :
    runAtomic dst (.ptr p) c cmp op acq rel s = .error (.fault cAlign (pval s p)) := by
  simp only [runAtomic, baseAddr, run_bind, readP_ok h, reachAligned_misaligned ha]

theorem jumpTo_odd {t : Addr} (h : t.toNat % 2 = 1) (s : State) : jumpTo t s = .error (.fault cAlign t) := by
  have odd : decide (t.toNat % 2 = 0) = false := by simp [h]
  simp only [jumpTo, run_bind, run_require, odd, Bool.false_eq_true, if_false]

/-! Instructions that the agent may not issue. -/

theorem inSupervisor_fault {s : State} (h : s.cur.seq ≠ .s) : inSupervisor s = .error (.fault cPrivilege 0) := by
  have user : s.super = false := by simp [State.super, h]
  simp only [inSupervisor, run_bind, run_get, run_require, user, Bool.false_eq_true, if_false]

/-- A body that begins with the check of supervisor state. -/
theorem inSupervisor_bind_fault {α : Type} {s : State} (h : s.cur.seq ≠ .s) (f : Unit → Run α) :
    (inSupervisor >>= f) s = .error (.fault cPrivilege 0) := by
  rw [run_bind, inSupervisor_fault h]

/-- An instruction that the sequencer does not issue raises ILLEGAL_INSN (R21, R190). -/
theorem issue_otherSequencer {l : Legal} {s : State} (h : l.on s.cur.seq = false) (body : Run Unit) :
    issue l body s = issue onAll illegal s := by
  have all : onAll.on s.cur.seq = true := by cases s.cur.seq <;> rfl
  simp only [issue, h, all, Bool.false_eq_true, if_false, if_true]

theorem exec_illegalInsn {l : Legal} {s : State} (h : l.on s.cur.seq = true) (c : Byte) (a : Addr) :
    exec (.illegalInsn c a) s = issue l (fault c a) s := by
  simp only [issue, h, if_true]; rfl

/-! A fault in supervisor state (R350). -/

theorem haltCore_halted {s : State} {i : Nat} (h : s.core.id = i) : (haltCore i s).core.halted = true := by
  have halted : (s.modCore i fun c => { c with halted := true }).core.halted = true := by
    rw [State.modCore, if_pos h]
  show (trigger _ i _).core.halted = true
  rw [trigger, State.mapCores_core]
  split <;> exact halted

theorem haltCore_queueRecord_regs (i : Nat) (r : TrapRec) (s : State) :
    (haltCore i (queueRecord r s)).cur.regs = s.cur.regs := by
  obtain ⟨cur, -⟩ := (queueRecord_homeWrite r s).trans (haltCore_homeWrite i (queueRecord r s))
  rw [cur]

/-- A fault in supervisor state is recorded, and halts the core (R350). -/
theorem takeFault_supervisor {s : State} (h : s.cur.seq = .s) (hc : s.core.id = s.cur.core) (c : Byte) (a : Addr) :
    (takeFault c a s).core.halted = true ∧ (takeFault c a s).cur.regs = s.cur.regs := by
  simp only [takeFault, h, if_true]
  constructor
  · exact haltCore_halted ((queueRecord_recordFrame _ s).coreId.trans hc)
  · exact haltCore_queueRecord_regs _ _ s

end Sys2Proof.Machine

namespace Sys2Proof.Claims
open Sys2Proof.Machine

/-! The faults of a thread, instruction by instruction. -/

section
variable {s : State} (hs : FaultReady s) (hr : Ready onX s)
include hs hr

theorem illegalInsn_faults (c : Byte) (a : Addr) : Faults c a (.illegalInsn c a) s :=
  faults_of_error (exec_illegalInsn hr.1 c a) hr hs rfl

/-- An access of X that its operand's address ends by a fault. -/
theorem readyXA : Ready onXA s := by
  obtain ⟨onThread, -⟩ := hs
  obtain ⟨-, room, isOpen⟩ := hr
  exact ⟨by rw [onThread]; rfl, room, isOpen⟩

theorem access_faults {p : BitVec 4} {disp : Word} {sz : Size} {c : Byte} (hp : PReadable s p)
    (hf : ∀ need, reachAligned (pval s p + disp.signExtend 80) (2 ^ sz.toNat) need s =
      .error (.fault c (pval s p + disp.signExtend 80))) (g : GOp) :
    Faults c (pval s p + disp.signExtend 80) (.ld sz g (.ptr p) disp) s ∧
      Faults c (pval s p + disp.signExtend 80) (.ldWr sz g (.ptr p) disp) s ∧
      Faults c (pval s p + disp.signExtend 80) (.st sz g (.ptr p) disp) s := by
  have ready := readyXA hs hr
  refine ⟨?_, ?_, ?_⟩
  · exact faults_of_error rfl ready hs (runLoad_fault (effAddr_ptr hp disp false) (hf rR) false .plain (gDst g))
  · exact faults_of_error rfl ready hs (runLoad_fault (effAddr_ptr hp disp false) (hf rR) false .home (gDst g))
  · exact faults_of_error rfl ready hs (runStore_fault (effAddr_ptr hp disp true) (hf rW) g false)

theorem aAdd_misaligned_faults {p : BitVec 4} {g c : GReg} (hp : PReadable s p) (hc : Readable s c)
    (ha : (pval s p).toNat % 8 ≠ 0) : Faults 0x03 (pval s p) (.aAdd (.reg g) (.ptr p) c) s := by
  refine faults_of_error rfl (readyXA hs hr) hs ?_
  rw [run_bind, readG_ok hc]
  exact runAtomic_misaligned hp ha _ _ _ _ _ _

theorem j_odd_faults {p : BitVec 4} (hp : PReadable s p) (ho : (pval s p).toNat % 2 = 1) :
    Faults 0x03 (pval s p) (.j p) s := by
  have ready : Ready onAll s := ⟨by rw [hs.1]; rfl, hr.2⟩
  refine faults_of_error rfl ready hs ?_
  rw [run_bind, readP_ok hp]
  exact jumpTo_odd ho s

/-- An instruction of A or M on X (R21). -/
theorem otherSequencer_faults {i : Instr} {l : Legal} {body : Run Unit} (hi : exec i s = issue l body s)
    (hl : l.x = false) : Faults 0x01 0 i s := by
  have notHere : l.on s.cur.seq = false := by rw [hs.1]; exact hl
  have ready : Ready onAll s := ⟨by rw [hs.1]; rfl, hr.2⟩
  exact faults_of_error (hi.trans (issue_otherSequencer notHere body)) ready hs rfl

/-- A system instruction outside supervisor state (R350). -/
theorem privileged_faults {i : Instr} {f : Unit → Run Unit} (hi : exec i s = issue onX (inSupervisor >>= f) s) :
    Faults 0x02 0 i s := by
  have user : s.cur.seq ≠ .s := by rw [hs.1]; decide
  exact faults_of_error hi hr hs (inSupervisor_bind_fault user f)

end

end Sys2Proof.Claims
end

section
open Sys2Proof Sys2Proof.Machine Sys2Proof.Claims

/-- Settles O47: each of the instructions ends its body with the fault's cause and address, and a fault at issue ends the launch
of its thread; in supervisor state it halts the core. -/
theorem faultEndsTheLaunch : Obligations.FaultEndsTheLaunch := by
  unfold Obligations.FaultEndsTheLaunch
  refine ⟨fun s hs hr => ⟨illegalInsn_faults hs hr, fun p disp hp => ⟨fun sz g ha => ?_, fun sz g ha hv => ?_, ?_, ?_⟩,
    ?_, ?_, ?_, ?_, fun g p => ⟨?_, ?_, ?_, ?_⟩⟩, fun s c a hsup hempty hcore hr => ?_⟩
  · exact access_faults hs hr hp (fun need => reachAligned_misaligned ha need s) g
  · have reserved := fun need => reachAligned_reserved ha (extractLsb_reserved hv) need s
    obtain ⟨load, -, store⟩ := access_faults hs hr hp reserved g
    exact ⟨load, store⟩
  · exact fun g c ha hc => aAdd_misaligned_faults hs hr hp hc ha
  · exact j_odd_faults hs hr hp
  · exact otherSequencer_faults hs hr rfl rfl
  · exact otherSequencer_faults hs hr rfl rfl
  · exact privileged_faults hs hr rfl
  · exact privileged_faults hs hr rfl
  · exact privileged_faults hs hr rfl
  · exact privileged_faults hs hr rfl
  · exact privileged_faults hs hr rfl
  · exact privileged_faults hs hr rfl
  · have faults : exec (.illegalInsn c a) s = .next (takeFault c a (freshChunk s)) :=
      (exec_illegalInsn hr.1 c a).trans (issue_fault hr hempty rfl)
    obtain ⟨halted, regs⟩ := takeFault_supervisor (s := freshChunk s) hsup hcore c a
    exact ⟨_, faults, halted, regs⟩

end

section
/-! Hitching (R275 to R277): what HITCH, UNHITCH, REST and RET come to. -/

namespace Sys2Proof.Machine

/-! HITCH. -/

/-- Twice a signed offset, as the encoding shifts it (R204). -/
theorem signExtend_shift_one {w v : Nat} (x : BitVec w) : x.signExtend v <<< 1 = BitVec.ofInt v (2 * x.toInt) := by
  rw [BitVec.signExtend, BitVec.shiftLeft_eq_mul_twoPow, mul_comm, BitVec.ofInt_mul]
  congr 1
  apply BitVec.eq_of_toNat_eq
  simp [BitVec.toNat_twoPow]

/-- The thread in front with A and M, which start at `ea` and `em` (R275). -/
def startHitch (ea em : Addr) (mask : Byte) (s : State) : State :=
  { s with
    nextTid := s.nextTid + 2
    agents := s.agents ++ [sequencerOf s.cur .a s.nextTid ea s.lc, sequencerOf s.cur .m (s.nextTid + 1) em s.lc]
    core := { s.core with
      hitch := some s.cur.tid, hitchQ := [], shared := mask, bqX := [], bqA := [], bqM := [], bqSent := [], bqPops := [], fmtq := [] } }

theorem runHitch_ok {s : State} {ea em : Addr} (mask : Byte) (hc : ChunkEmpty s) (hl : s.cur.loads = [])
    (hh : s.core.hitch = none) (hq : s.core.hitchQ = [])
    (hv : (s.core.vqueue.any fun o => o.tid == s.cur.tid && o.seq == .x && (vopDest o.instr).isSome) = false)
    (ha : ea.toNat % 2 = 0) (hm : em.toNat % 2 = 0) :
    runHitch ea em mask s = .ok ((), startHitch ea em mask (closing s)) := by
  have unhitched : hitched s = false := by rw [hitched, hh]; rfl
  have queue : (closing s).core.hitchQ = [] := hq
  have free : (closing s).core.hitch = none := hh
  simp only [runHitch, run_bind, run_get, run_require, run_ite, unhitched, ha, hm, hl, hv, betweenChunks_ok hc, run_modify,
    hq, queue, free, Bool.not_false, decide_true, if_true, List.isEmpty_nil, Bool.not_true, Bool.false_eq_true, if_false,
    List.contains_nil, List.nil_append, Option.isSome_none, List.head?_cons, ne_eq, not_true_eq_false, or_self]
  rfl

/-- A and M start with copies of the thread's registers and nothing in their FIFOs (R275). -/
theorem sequencerOf_regs (o : Agent) (q : Seq) (tid : Nat) (entry : Addr) (lc : LCore) :
    let r := (sequencerOf o q tid entry lc).regs
    r.pc = entry ∧ r.g = o.regs.g ∧ r.p = o.regs.p ∧ r.q = o.regs.q ∧ r.round = o.regs.round ∧ r.d = Vector.replicate 8 .due := by
  unfold sequencerOf
  dsimp only
  split <;> exact ⟨rfl, rfl, rfl, rfl, rfl, rfl⟩

/-! UNHITCH. -/

theorem seqOf_mem {s : State} {i : Nat} {q : Seq} {b : Agent} (h : s.seqOf i q = some b) :
    b ∈ s.allAgents ∧ b.core = i ∧ b.seq = q := by
  have meets := List.find?_some h
  simp only [Bool.and_eq_true, beq_iff_eq] at meets
  obtain ⟨⟨⟨core, seq⟩, -⟩, -⟩ := meets
  exact ⟨List.mem_of_find?_eq_some h, core, seq⟩

/-- A and M of the core in front rest, and no batch and no handed command is open. -/
theorem hitchOver_rested {s : State} (hx : s.cur.seq = .x) (ho : s.core.mx.opened = []) (hb : s.core.mx.batches = [])
    (hd : handedOpen s.core = false)
    (hr : ∀ b ∈ s.agents, b.core = s.core.id → (b.seq = .a ∨ b.seq = .m) → b.rested = true) : hitchOver s = true := by
  have rests : ∀ q, q = .a ∨ q = .m → (match s.seqOf s.core.id q with | some b => b.rested | none => true) = true := by
    intro q hq
    split
    case h_2 => rfl
    case h_1 b found =>
      obtain ⟨mem, core, seq⟩ := seqOf_mem found
      obtain rfl | mem := List.mem_cons.1 mem
      · rw [hx] at seq; subst seq; simp at hq
      · exact hr b mem core (seq ▸ hq)
  simp only [hitchOver, List.all_cons, List.all_nil, ho, hb, hd, List.isEmpty_nil, Bool.not_false, Bool.and_true, Bool.and_eq_true]
  exact ⟨rests .a (.inl rfl), rests .m (.inr rfl)⟩

/-- What handing over A's lines leaves (R233): memory, the core in front's number, and all of the thread in front but its loads. -/
structure HitchFrame (s t : State) : Prop where
  mem : t.mem = s.mem
  lmem : t.launch.lmem = s.launch.lmem
  coreId : t.core.id = s.core.id
  regs : t.cur.regs = s.cur.regs
  npc : t.cur.npc = s.cur.npc
  tid : t.cur.tid = s.cur.tid
  host : t.cur.host = s.cur.host
  chunk : t.cur.chunk = s.cur.chunk
  ended : t.cur.ended = s.cur.ended
  rel : t.cur.rel = s.cur.rel

theorem HitchFrame.trans {s t u : State} (h : HitchFrame s t) (h' : HitchFrame t u) : HitchFrame s u :=
  ⟨h'.1.trans h.1, h'.2.trans h.2, h'.3.trans h.3, h'.4.trans h.4, h'.5.trans h.5, h'.6.trans h.6, h'.7.trans h.7, h'.8.trans h.8,
    h'.9.trans h.9, h'.10.trans h.10⟩

theorem HitchFrame.refl (s : State) : HitchFrame s s := ⟨rfl, rfl, rfl, rfl, rfl, rfl, rfl, rfl, rfl, rfl⟩

theorem modLc_hitchFrame (s : State) (n : Nat) (f : LCore → LCore) : HitchFrame s (s.modLc n f) := by
  constructor <;> simp [modLc_lmem]

theorem modCore_hitchFrame (s : State) (i : Nat) (f : Core → Core) (hf : ∀ c, (f c).id = c.id) : HitchFrame s (s.modCore i f) := by
  constructor
  case coreId => exact State.modCore_coreId s i f hf
  all_goals simp

theorem handLines_hitchFrame (a : Agent) (host : Nat) (s : State) : HitchFrame s (handLines a host s) := by
  refine (modCore_hitchFrame s a.core (fun c => { c with vqueue := c.vqueue.map fun o =>
    if o.tid == a.tid then { o with tid := host } else o }) fun _ => rfl).trans ?_
  constructor
  case mem | lmem | coreId => rfl
  all_goals
    simp only [handLines, State.modAgent_cur]
    split <;> rfl

/-- The thread in front, which is hitched to none, stays when A and M go. -/
theorem dropAgents_stays {p : Agent → Bool} {s : State} (h : p s.cur = false) :
    dropAgents p s = { s with agents := s.agents.filter fun a => !p a } := by
  simp [dropAgents, h]

/-- A has handed its lines over, and the logical core keeps the SRN of both (R233, R275). -/
def saveHitch (core : Nat) (s : State) : State :=
  let s := match s.seqOf core .a with
    | some a => handLines a (ownerTid a) (s.modLc a.lcore fun lc => { lc with srnA := a.regs.srn })
    | none => s
  match s.seqOf core .m with
  | some a => s.modLc a.lcore fun lc => { lc with srnM := a.regs.srn }
  | none => s

theorem saveHitch_hitchFrame (core : Nat) (s : State) : HitchFrame s (saveHitch core s) := by
  have handed : HitchFrame s (match s.seqOf core .a with
      | some a => handLines a (ownerTid a) (s.modLc a.lcore fun lc => { lc with srnA := a.regs.srn })
      | none => s) := by
    split
    · exact (modLc_hitchFrame _ _ _).trans (handLines_hitchFrame _ _ _)
    · exact .refl s
  unfold saveHitch
  dsimp only
  split
  · exact handed.trans (modLc_hitchFrame _ _ _)
  · exact handed

/-- The core that a hitch leaves (R275, R277). -/
def unhitchedCore (c : Core) : Core :=
  { c with hitch := none, shared := 0, bqX := [], bqA := [], bqM := [], bqSent := [], bqPops := [], fmtq := [], mx := c.mx.dropOpen }

theorem releaseHitch_eq (core : Nat) (s : State) : releaseHitch core s =
    match (s.getCore core).hitch with
    | some t => dropAgents (fun a => a.host == some t) ((saveHitch core s).modCore core unhitchedCore)
    | none => (saveHitch core s).modCore core unhitchedCore := rfl

/-- The hitch of the thread in front ends: its core is free, and A and M are gone (R277). -/
theorem releaseHitch_frees {s : State} (hh : s.core.hitch = some s.cur.tid) (hn : s.cur.host = none) :
    HitchFrame s (releaseHitch s.core.id s) ∧ (releaseHitch s.core.id s).core.hitch = none ∧
      (releaseHitch s.core.id s).core.shared = 0 ∧ ∀ b ∈ (releaseHitch s.core.id s).agents, b.host ≠ some s.cur.tid := by
  have mine : (s.getCore s.core.id).hitch = some s.cur.tid := by rw [State.getCore, if_pos rfl, hh]
  have frame := (saveHitch_hitchFrame s.core.id s).trans
    (modCore_hitchFrame (saveHitch s.core.id s) s.core.id unhitchedCore fun _ => rfl)
  have freed : ((saveHitch s.core.id s).modCore s.core.id unhitchedCore).core = unhitchedCore (saveHitch s.core.id s).core := by
    rw [State.modCore, if_pos (saveHitch_hitchFrame s.core.id s).coreId]
  simp only [releaseHitch_eq, mine]
  rw [dropAgents_stays (by rw [frame.host, hn]; rfl)]
  refine ⟨{ frame with }, (congrArg Core.hitch freed).trans rfl, (congrArg Core.shared freed).trans rfl, fun b hb => ?_⟩
  obtain ⟨-, stays⟩ := List.mem_filter.1 hb
  simpa using stays

theorem HitchFrame.chunkEmpty {s t : State} (h : HitchFrame s t) (hc : ChunkEmpty s) : ChunkEmpty t := by
  rw [ChunkEmpty, h.chunk, h.ended, h.rel]; exact hc

theorem awaitHitch_ok {s : State} (h : hitchOver s = true) (hp : s.core.mx.retPois = false) : awaitHitch s = .ok ((), s) := by
  simp [awaitHitch, run_require, h, hp]

/-! REST. -/

/-- A or M rests (R276). -/
def resting (s : State) : State := s.modCur fun a => { a with rested := true }

theorem retireBatches_id {s : State} (h : Sys2Proof.Claims.NothingRetires s) (n : Nat) : retireBatches n s.core = s.core := by
  cases n with
  | zero => rfl
  | succ n =>
    rw [retireBatches]
    split
    case h_1 => rfl
    case h_2 b rest batches =>
      have unfinished := h b (by rw [batches]; rfl)
      simp [unfinished]

/-- With no operation in the open batch and none that can retire, a commit of the batch changes nothing (R253). -/
theorem commitBatch_ok {s : State} (ho : s.core.mx.opened = []) (h : Sys2Proof.Claims.NothingRetires s) :
    commitBatch s = .ok ((), s) := by
  have uncommitted : s.core.mx.commit = s.core.mx := by rw [Matrix.commit, ho]; rfl
  have retired : retireOn s.core.id s = s := by rw [retireOn, State.modCore, if_pos rfl, retireBatches_id h]
  simp only [commitBatch, run_bind, run_get, run_ite, ho, List.isEmpty_nil, Bool.not_true, Bool.false_and, Bool.false_eq_true, if_false,
    run_modify, uncommitted]
  exact congrArg (fun t => Except.ok ((), t)) retired

/-! RET. -/

/-- RET with p13 = 0 (R203): the end of the thread, or the rest of A or M. -/
def retZero : Seq → Run Unit
  | .x => runDone
  | .s => illegal
  | .a => betweenChunks >>= fun _ => releaseSteps >>= fun _ => modify resting
  | .m => commitBatch >>= fun _ => modify resting

def retBody : Run Unit := do
  let t ← readP 13
  if t ≠ 0 then jumpTo t else retZero (← get).cur.seq

theorem exec_ret (s : State) : exec .ret s = issue onAll retBody s := rfl

@[simp] theorem followOwn_chunk (t : Addr) (a : Agent) : (followOwn t a).chunk = a.chunk := by
  unfold followOwn; repeat' split
  all_goals rfl

@[simp] theorem followBranch_chunk (s : State) : (followBranch s).cur.chunk = s.cur.chunk := followOwn_chunk _ _

theorem jumpTo_even {t : Addr} (h : t.toNat % 2 = 0) (s : State) :
    jumpTo t s = .ok ((), followBranch (Sys2Proof.Claims.goTo t s)) := by
  simp [jumpTo, run_require, h, branchTo, setNpc_ok]
  rfl

end Sys2Proof.Machine

end

section
open Sys2Proof Sys2Proof.Machine Sys2Proof.Claims

namespace Sys2Proof.Claims

theorem finish_agents (s : State) : (finish s).agents = s.agents := by
  unfold finish; split <;> rfl

theorem startHitch_result {i : Instr} {s : State} {ea em : Addr} {mask : Byte}
    (hi : exec i s = .next (finish (startHitch ea em mask (closing s)))) :
    ∃ t a m, exec i s = .next t ∧ t.core.hitch = some s.cur.tid ∧ t.core.shared = mask ∧ t.agents = s.agents ++ [a, m] ∧
      t.core.bqX = [] ∧ t.core.bqA = [] ∧ t.core.bqM = [] ∧ t.cur.regs.pc = s.cur.npc ∧ t.mem = s.mem ∧ t.launch.lmem = s.launch.lmem ∧
      a.seq = .a ∧ a.regs.pc = ea ∧ m.seq = .m ∧ m.regs.pc = em ∧
      ∀ b, b = a ∨ b = m → b.regs.g = s.cur.regs.g ∧ b.regs.p = s.cur.regs.p ∧ b.regs.q = s.cur.regs.q ∧
        b.regs.round = s.cur.regs.round ∧ b.core = s.cur.core ∧ b.lcore = s.cur.lcore ∧ b.launch = s.cur.launch ∧
        b.regs.d = Vector.replicate 8 .due := by
  have copies := sequencerOf_regs (closing s).cur
  refine ⟨_, _, _, hi, rfl, rfl, rfl, rfl, rfl, rfl, rfl, rfl, rfl, rfl, (copies .a _ ea s.lc).1, rfl, (copies .m _ em s.lc).1, ?_⟩
  rintro b (rfl | rfl)
  all_goals
    obtain ⟨-, g, p, q, round, d⟩ := copies _ _ _ s.lc
    exact ⟨g, p, q, round, rfl, rfl, rfl, d⟩

theorem unhitch_result {s : State} (hr : Ready onThread s) (hc : ChunkEmpty s) (hh : s.core.hitch = some s.cur.tid)
    (ho : hitchOver (closing s) = true) (hp : s.core.mx.retPois = false) (hn : s.cur.host = none) :
    ∃ t, exec .unhitch s = .next t ∧ t.core.hitch = none ∧ t.core.shared = 0 ∧ t.mem = s.mem ∧ t.launch.lmem = s.launch.lmem ∧
      t.cur.regs.g = s.cur.regs.g ∧ t.cur.regs.pc = s.cur.npc ∧ ∀ b ∈ t.agents, b.host ≠ some s.cur.tid := by
  have mine : hitched s = true := by rw [hitched, hh]; exact beq_self_eq_true _
  obtain ⟨frame, free, unshared, gone⟩ := releaseHitch_frees (s := closing s) hh hn
  have awaited : awaitHitch (closing s) = .ok ((), closing s) := awaitHitch_ok ho hp
  refine ⟨_, issue_ok hr ?_ (.inr (frame.chunkEmpty hc)), ?_, ?_, ?_, ?_, ?_, ?_, ?_⟩
  · simp only [run_bind, run_get, run_require, mine, if_true, betweenChunks_ok hc, awaited, run_modify]
  · rw [finish_core]; exact free
  · rw [finish_core]; exact unshared
  · rw [finish_mem]; exact frame.mem
  · rw [finish_launch]; exact frame.lmem
  · rw [finish_regs]; exact (congrArg Regs.g frame.regs :)
  · rw [finish_regs]; exact frame.npc
  · rw [finish_agents]; exact gone

/-- REST on A, or RET with p13 = 0 there (R203, R276). -/
theorem restA_ok {s : State} (hc : ChunkEmpty s) (h : Released0 s) :
    (betweenChunks >>= fun _ => releaseSteps >>= fun _ => modify resting) s = .ok ((), resting (closing s)) := by
  have clear : releaseClear (closing s) = true := releaseClear_of_released h
  have noRel : (closing s).cur.rel = none := chunkEmpty_noRelease hc
  simp only [run_bind, betweenChunks_ok hc, releaseSteps_ok noRel clear, run_modify]

/-- REST on M, or RET with p13 = 0 there. -/
theorem restM_ok {s : State} (ho : s.core.mx.opened = []) (h : NothingRetires s) :
    (commitBatch >>= fun _ => modify resting) s = .ok ((), resting s) := by
  simp only [run_bind, commitBatch_ok ho h, run_modify]

theorem issue_restA {body : Run Unit} {l : Legal} {s : State} (hr : Ready l s) (hc : ChunkEmpty s)
    (hb : body s = .ok ((), resting (closing s))) : issue l body s = .next (advanceAlone (resting (closing s))) :=
  issue_ok hr hb (.inr hc)

theorem issue_restM {body : Run Unit} {l : Legal} {s : State} (hr : Ready l s) (hb : body s = .ok ((), resting s)) :
    issue l body s = .next (advance (resting s)) := by
  have isOpen : (resting s).cur.chunk.closed = false := ready_open hr
  rw [issue_ok hr hb (.inl isOpen), finish_open isOpen]

theorem retBody_zero {s : State} {q : Seq} (hp : PReadable s 13) (hz : pval s 13 = 0) (hq : s.cur.seq = q) :
    retBody s = retZero q s := by
  simp only [retBody, run_bind, readP_ok hp, hz, ne_eq, not_true_eq_false, if_false, run_get, hq]

theorem ret_jumps {s : State} (hr : Ready onAll s) (hp : PReadable s 13) (hn : pval s 13 ≠ 0) (he : (pval s 13).toNat % 2 = 0) :
    exec .ret s = .next (advance (followBranch (goTo (pval s 13) s))) := by
  have body : retBody s = .ok ((), followBranch (goTo (pval s 13) s)) := by
    simp only [retBody, run_bind, readP_ok hp, hn, ne_eq, not_false_eq_true, if_true, jumpTo_even he]
  have isOpen : (followBranch (goTo (pval s 13) s)).cur.chunk.closed = false := by rw [followBranch_chunk]; exact ready_open hr
  rw [exec_ret, issue_ok hr body (.inl isOpen), finish_open isOpen]

/-- RET of a thread with p13 = 0 is DONE (R203). -/
theorem ret_done {s : State} (hr : Ready onAll s) (hp : PReadable s 13) (hz : pval s 13 = 0) (hx : s.cur.seq = .x)
    (hc : ChunkEmpty s) : exec .ret s = exec .done s := by
  have now : retBody s = runDone s := retBody_zero hp hz hx
  have later : retBody (freshChunk s) = runDone (freshChunk s) := retBody_zero (s := freshChunk s) hp hz hx
  have onX : onThread.on s.cur.seq = true := by rw [hx]; rfl
  rw [exec_ret]
  show issue onAll retBody s = issue onThread runDone s
  simp only [issue, hr.1, onX, if_true, runBody, commitChunk_empty hc, now, later]

end Sys2Proof.Claims

/-- Settles O37: each instruction's body comes to a state that is written out, and the issue then completes. -/
theorem hitchResult : Obligations.HitchResult := by
  unfold Obligations.HitchResult
  refine ⟨fun s mask hr hc hl hh hq hv i ea em hi ha hm => ?_, fun s hr hc hh ho hb hd hp hn hrest hx => ?_,
    fun s hr hc => ⟨fun hseq hrel => ⟨?_, fun hp hz => ?_⟩, fun hseq ho hret => ⟨?_, fun hp hz => ?_⟩⟩,
    fun s hr hp => ⟨ret_jumps hr hp, ret_done hr hp⟩⟩
  · have body := runHitch_ok mask hc hl hh hq hv ha hm
    have tidy : Tidy (startHitch ea em mask (closing s)) := .inr hc
    refine startHitch_result ?_
    obtain ⟨ao, mo, rfl, rfl, rfl⟩ | ⟨pa, pm, hpa, hpm, rfl, rfl, rfl⟩ := hi
    · rw [← signExtend_shift_one, ← signExtend_shift_one] at body tidy ⊢
      exact issue_ok hr body tidy
    · refine issue_ok hr ?_ tidy
      rw [run_bind, readP_ok hpa]
      dsimp only
      rw [run_bind, readP_ok hpm]
      exact body
  · exact unhitch_result hr hc hh (hitchOver_rested (s := closing s) hx ho hb hd hrest) hp hn
  · refine issue_restA hr hc ?_
    rw [run_bind, run_get]
    simp only [hseq, if_true]
    exact restA_ok hc hrel
  · exact issue_restA (l := onAll) (body := retBody) ⟨by rw [hseq]; rfl, hr.2⟩ hc
      ((retBody_zero hp hz hseq).trans (restA_ok hc hrel))
  · refine issue_restM hr ?_
    rw [run_bind, run_get]
    simp only [hseq, reduceCtorEq, if_false]
    exact restM_ok ho hret
  · exact issue_restM (l := onAll) (body := retBody) ⟨by rw [hseq]; rfl, hr.2⟩
      ((retBody_zero hp hz hseq).trans (restM_ok ho hret))

end

section
/-! Launch order, profiling and the queue units (R32, R160, R161, R169, R296, R297). -/

namespace Sys2Proof.Machine

/-! PROFQ. -/

theorem addProf_room {r : ProfRec} {s : State} (h : (s.profq.filter (·.part == r.part)).length < Config.profqSize) :
    addProf r s = { s with profq := s.profq ++ [r] } := by
  have room : decide (Config.profqSize ≤ (s.profq.filter (·.part == r.part)).length) = false := decide_eq_false (Nat.not_le.2 h)
  simp only [addProf, room, Bool.false_eq_true, if_false]

theorem countErr_eq (p : Nat) (k : Fin 8) (s : State) : countErr p k s = { s with packages := (countErr p k s).packages } := by
  unfold countErr State.modPkg
  split
  · rfl
  · split <;> rfl

theorem addProf_full {r : ProfRec} {s : State} (h : Config.profqSize ≤ (s.profq.filter (·.part == r.part)).length) :
    addProf r s = countErr s.pkg 7 s := by
  simp only [addProf, h, decide_true, if_true]
  exact (countErr_eq s.pkg 7 s).symm

/-! Spills. -/

/-- What the agents keep through a record or a write at its home. -/
theorem RecordFrame.getAgent {s t : State} (h : RecordFrame s t) (i : Nat) :
    ∃ f, MarksChunks 0 f ∧ t.getAgent i = (s.getAgent i).map f := by
  obtain ⟨f, hf, cur, agents⟩ := h.agents
  exact ⟨f, hf, getAgent_of_map hf.tid cur agents i⟩

theorem launchOf_phase {who : Nat} {s t : State} (h : HomeFrame who s t) (i : Nat) :
    (launchOf t i).phase = (launchOf s i).phase := by
  rw [launchOf, launchOf, h.launches, h.launch]
  dsimp only
  split <;> rfl

/-- A thread that may run still may when the ring's header has been written. -/
theorem runs_of_homeFrame {s t : State} {i : Nat} {a : Agent} (h : HomeFrame 0 s t) (ha : s.getAgent i = some a)
    (hr : a.state = .ready) (hp : (launchOf s a.launch).phase = .running) :
    ((t.getAgent i).any fun a => a.state == .ready && (launchOf t a.launch).phase == .running) = true := by
  obtain ⟨f, hf, found⟩ := h.record.getAgent i
  have state : (f a).state = a.state := by rw [hf.chunks a]
  have launch : (f a).launch = a.launch := by rw [hf.chunks a]
  rw [found, ha]
  simp [state, launch, hr, launchOf_phase h, hp]

/-- The ring's head, read from memory, stands at the end of the queue under the record's key (R160). -/
theorem spillRefill_moves {s : State} {die logn head tail x : Nat} {e : QEntry} {rest : List QEntry} {base : Addr} {a : Agent}
    (hring : (s.getDie die).ring = e :: rest) (hh : ringHeader s die = some (logn, head, tail, base))
    (hq : (s.getDie die).entries.length < 12288) (hx : rawRead s (die * 144) (ringSlot logn base head) 64 = some x)
    (ha : s.getAgent e.tid = some a) (hr : a.state = .ready) (hp : (launchOf s a.launch).phase = .running) :
    (spillRefill die s).getDie die = { s.getDie die with
      ring := rest, stalled := false
      entries := (s.getDie die).entries ++ [{ e with key := BitVec.ofNat 64 (x / 2 ^ 224) }] } := by
  have below : ¬ Config.dieRefillMark ≤ (s.getDie die).entries.length := Nat.not_le.2 hq
  have frame := rawWrite_homeFrame s (die * 144) (ringHeaderAt s die + 32) (toBytes 4 ((head + 1) % 2 ^ 32))
  have runs := runs_of_homeFrame frame ha hr hp
  have key : BitVec.ofNat 64 (field x 287 224) = BitVec.ofNat 64 (x / 2 ^ 224) := by
    apply BitVec.eq_of_toNat_eq
    simp [field]
  unfold spillRefill
  simp only [hring, hh, below, hx, runs, if_false, if_true, key]
  rw [getDie_modDie_same]
  · simp only [getDie_of_dieqs ((State.modAgent_dieqs _ _ _).trans frame.dieqs)]
  · exact fun _ => rfl

/-- A record at the ring's tail (R160). -/
theorem pushRing_pushes {s : State} {die tail : Nat} {va : Addr} {e : QEntry} {a : Agent} (ha : s.getAgent e.tid = some a) :
    ∃ t, RecordFrame s t ∧ pushRing die va tail e s = t.modDie die fun q => { q with ring := q.ring ++ [e] } := by
  have first := rawWrite_homeFrame s (die * 144) va (seedRecord a .ready)
  have second := rawWrite_homeFrame (rawWrite s (die * 144) va (seedRecord a .ready)) (die * 144)
    (ringHeaderAt (rawWrite s (die * 144) va (seedRecord a .ready)) die + 28) (toBytes 4 ((tail + 1) % 2 ^ 32))
  refine ⟨_, (first.trans second).record, ?_⟩
  simp only [pushRing, ha]

/-- What a raised SPILL_UNMAPPED leaves (R160): every thread but for its chunk's marks, and of the queue all but which page is
raised. -/
structure SpillFrame (die : Nat) (s t : State) : Prop where
  agent : ∀ i, ∃ f, MarksChunks 0 f ∧ t.getAgent i = (s.getAgent i).map f
  holding : (t.getDie die).holding = (s.getDie die).holding
  ring : (t.getDie die).ring = (s.getDie die).ring

theorem SpillFrame.refl (die : Nat) (s : State) : SpillFrame die s s :=
  ⟨fun _ => ⟨id, marksChunks_id 0, by simp⟩, rfl, rfl⟩

theorem raiseSpill_spillFrame (die : Nat) (va : Addr) (s : State) : SpillFrame die s (raiseSpill die va s) := by
  unfold raiseSpill
  dsimp only
  split
  · exact .refl die s
  · have record := queueRecord_recordFrame (spillRecord s die va)
      (s.modDie die fun q => { q with raised := some (va.toNat / 65536) })
    refine ⟨fun i => ?_, ?_, ?_⟩
    · obtain ⟨f, hf, found⟩ := record.getAgent i
      exact ⟨f, hf, by rw [found, modDie_getAgent]⟩
    · rw [getDie_of_dieqs record.dieqs, getDie_modDie_same]
      all_goals exact fun _ => rfl
    · rw [getDie_of_dieqs record.dieqs, getDie_modDie_same]
      all_goals exact fun _ => rfl

/-- The oldest held seed has gone to the ring, and its spawner is answered (R160). -/
def resumeFirst (die tid tail : Nat) (va : Addr) (e : QEntry) (rest : List (QEntry × Nat)) (s : State) : State :=
  (pushRing die va tail e (s.modDie die fun q => { q with holding := rest, raised := none })).modAgent tid
    fun a => { a with answer := some true }

theorem resumeFirst_result {s : State} {die tid tail : Nat} {va : Addr} {e : QEntry} (rest : List (QEntry × Nat)) {a b : Agent}
    (ha : s.getAgent e.tid = some a) (hb : s.getAgent tid = some b) :
    let t := resumeFirst die tid tail va e rest s
    (t.getDie die).holding = rest ∧ (t.getDie die).ring = (s.getDie die).ring ++ [e] ∧
      (t.getAgent tid).bind (·.answer) = some true := by
  have there : (s.modDie die fun q => { q with holding := rest, raised := none }).getAgent e.tid = some a := by
    rw [modDie_getAgent, ha]
  obtain ⟨u, frame, pushed⟩ := pushRing_pushes (die := die) (tail := tail) (va := va) there
  obtain ⟨f, -, found⟩ := frame.getAgent tid
  have queue : (resumeFirst die tid tail va e rest s).getDie die =
      { s.getDie die with holding := rest, raised := none, ring := (s.getDie die).ring ++ [e] } := by
    rw [resumeFirst, pushed, getDie_of_dieqs (State.modAgent_dieqs _ _ _), getDie_modDie_same,
      getDie_of_dieqs frame.dieqs, getDie_modDie_same]
    all_goals exact fun _ => rfl
  refine ⟨by rw [queue], by rw [queue], ?_⟩
  rw [resumeFirst, getAgent_modAgent_same, pushed, modDie_getAgent, found, modDie_getAgent, hb]
  · rfl
  · exact fun _ => rfl

theorem spillResume_answers {s : State} {die tid logn head tail : Nat} {e : QEntry} {rest : List (QEntry × Nat)} {base : Addr}
    (hh : (s.getDie die).holding = (e, tid) :: rest) (hr : ringHeader s die = some (logn, head, tail, base))
    (hroom : ringRoom s die ≠ 0) (hk : (rawKey s (die * 144) (ringSlot logn base tail)).isSome = true) {a b : Agent}
    (ha : s.getAgent e.tid = some a) (hb : s.getAgent tid = some b) :
    ((spillResume die s).getDie die).holding = rest ∧ ((spillResume die s).getDie die).ring = (s.getDie die).ring ++ [e] ∧
      ((spillResume die s).getAgent tid).bind (·.answer) = some true := by
  obtain ⟨holding, ring, answer⟩ := resumeFirst_result (die := die) (tail := tail) (va := ringSlot logn base tail) rest ha hb
  have mapped : (rawKey s (die * 144) (ringSlot logn base tail)).isNone = false := by simpa using hk
  have steps : spillResume die s = resumeFirst die tid tail (ringSlot logn base tail) e rest s ∨
      spillResume die s = raiseSpill die (ringSlot logn base (tail + 1))
        (resumeFirst die tid tail (ringSlot logn base tail) e rest s) := by
    unfold spillResume
    simp only [hh, hr, hroom, mapped, Bool.false_eq_true, if_false]
    split
    · exact .inr rfl
    · exact .inl rfl
  obtain step | step := steps
  · rw [step]; exact ⟨holding, ring, answer⟩
  · rw [step]
    have raised := raiseSpill_spillFrame die (ringSlot logn base (tail + 1))
      (resumeFirst die tid tail (ringSlot logn base tail) e rest s)
    obtain ⟨f, hf, found⟩ := raised.agent tid
    have keeps : ∀ c : Agent, (f c).answer = c.answer := fun c => by rw [hf.chunks c]
    refine ⟨raised.holding.trans holding, raised.ring.trans ring, ?_⟩
    rw [found, Option.bind_map]
    simpa [Function.comp_def, keeps] using answer

/-! Averaging (R161). -/

theorem insertByKey_perm (e : QEntry) (l : List QEntry) : (insertByKey e l).Perm (e :: l) := by
  induction l with
  | nil => exact .refl _
  | cons x l ih =>
    rw [insertByKey]
    split
    · exact .refl _
    · exact (ih.cons x).trans (.swap e x l)

theorem sortByKey_perm (l : List QEntry) : (sortByKey l).Perm l := by
  have inserts : ∀ (l m : List QEntry), (l.foldl (fun m e => insertByKey e m) m).Perm (l ++ m) := by
    intro l
    induction l with
    | nil => exact fun m => .refl m
    | cons e l ih =>
      intro m
      exact (ih _).trans (((insertByKey_perm e m).append_left l).trans List.perm_middle)
  have sorted := inserts l []
  rwa [List.append_nil] at sorted

/-- The `n` seeds with the greatest keys. -/
def lastByKey (n : Nat) (l : List QEntry) : List QEntry := ((sortByKey l).reverse.take n).reverse

theorem lastByKey_length {n : Nat} {l : List QEntry} (h : n ≤ l.length) : (lastByKey n l).length = n := by
  simp [lastByKey, (sortByKey_perm l).length_eq, h]

theorem lastByKey_subset {n : Nat} {l : List QEntry} {e : QEntry} (h : e ∈ lastByKey n l) : e ∈ l := by
  have taken := List.mem_of_mem_take (List.mem_reverse.1 h)
  exact (sortByKey_perm l).mem_iff.1 (List.mem_reverse.1 taken)

/-- Of seeds with different numbers, those that stay and those that leave make up the queue. -/
theorem lastByKey_rest_length {n : Nat} {l : List QEntry} (hd : (l.map (·.tid)).Nodup) (h : n ≤ l.length) :
    (l.filter fun e => !((lastByKey n l).map (·.tid)).contains e.tid).length = l.length - n := by
  have split : (sortByKey l).Perm (lastByKey n l ++ ((sortByKey l).reverse.drop n).reverse) := by
    refine .trans (.of_eq ?_) List.perm_append_comm
    rw [lastByKey, ← List.reverse_append, List.take_append_drop, List.reverse_reverse]
  set kept := ((sortByKey l).reverse.drop n).reverse
  have perm : l.Perm (lastByKey n l ++ kept) := (sortByKey_perm l).symm.trans split
  have numbers : ((lastByKey n l).map (·.tid) ++ kept.map (·.tid)).Nodup := by
    rw [← List.map_append]
    exact (perm.map _).nodup_iff.1 hd
  obtain ⟨-, -, apart⟩ := List.nodup_append.1 numbers
  have stay : (lastByKey n l ++ kept).filter (fun e => !((lastByKey n l).map (·.tid)).contains e.tid) = kept := by
    rw [List.filter_append]
    have gone : (lastByKey n l).filter (fun e => !((lastByKey n l).map (·.tid)).contains e.tid) = [] := by
      rw [List.filter_eq_nil_iff]
      intro e he
      simpa using ⟨e, he, rfl⟩
    have stand : kept.filter (fun e => !((lastByKey n l).map (·.tid)).contains e.tid) = kept := by
      rw [List.filter_eq_self]
      intro e he
      have notIn : e.tid ∉ (lastByKey n l).map (·.tid) := fun hm => apart _ hm _ (List.mem_map_of_mem he) rfl
      simpa using notIn
    rw [gone, stand, List.nil_append]
  rw [(perm.filter _).length_eq, stay]
  have total := perm.length_eq
  rw [List.length_append, lastByKey_length h] at total
  omega

/-- The greatest seeds of one queue go to another. -/
def moveSeeds (src dst n : Nat) (s : State) : State :=
  let moved := lastByKey n (s.getDie src).entries
  (s.modDie src fun q => { q with entries := q.entries.filter fun e => !(moved.map (·.tid)).contains e.tid }).modDie dst
    fun q => { q with entries := q.entries ++ moved }

theorem queueBalance_moves {s : State} {a b : Nat} (hadj : diesAdjacent s a b = true) (hlt : occupancy s b < occupancy s a)
    (hm : ∀ e ∈ (s.getDie a).entries, movable s a b e = true) :
    queueBalance a b s = moveSeeds a b (min ((occupancy s a - occupancy s b) / 4) 2) s := by
  have all : (s.getDie a).entries.filter (movable s a b) = (s.getDie a).entries := List.filter_eq_self.2 hm
  simp only [queueBalance, hlt, if_true, hadj, Bool.not_true, Bool.false_eq_true, if_false, all]
  rfl

theorem moveSeeds_source {src dst n : Nat} {s : State} (hne : src ≠ dst) : ((moveSeeds src dst n s).getDie src).entries =
    (s.getDie src).entries.filter fun e => !((lastByKey n (s.getDie src).entries).map (·.tid)).contains e.tid := by
  rw [moveSeeds, getDie_modDie_ne (hne := hne), getDie_modDie_same]
  all_goals exact fun _ => rfl

theorem moveSeeds_target {src dst n : Nat} {s : State} (hne : src ≠ dst) : ((moveSeeds src dst n s).getDie dst).entries =
    (s.getDie dst).entries ++ lastByKey n (s.getDie src).entries := by
  rw [moveSeeds, getDie_modDie_same, getDie_modDie_ne (hne := hne.symm)]
  all_goals exact fun _ => rfl

end Sys2Proof.Machine

end
section
open Sys2Proof Sys2Proof.Machine Sys2Proof.Claims

namespace Sys2Proof.Claims

theorem predw_writes {s t : State} {w : Word} {g : GOp} (hr : Ready onThread s) (hc : ChunkEmpty s) (hp : s.launch.pred = some w)
    (hw : Writes g w (closing s) t) : exec (.predw g) s = .next (advanceAlone t) := by
  have closed : t.cur.chunk.closed = true := by
    cases g with
    | reg n => obtain ⟨-, rfl⟩ := hw; rfl
    | port d => obtain ⟨-, -, rfl⟩ := hw; rfl
  have done : exec (.predw g) s = .next (finish t) :=
    issue_ok hr (by simp only [run_bind, run_get, hp, closeAfter_ok, writeOp_ok hw]) (writes_tidy hw (.inr hc))
  rwa [finish, closed, if_pos rfl] at done

theorem predw_waits {s : State} (g : GOp) (hr : Ready onThread s) (hp : s.launch.pred = none) :
    exec (.predw g) s = .next (park (.blocked .predecessor) s) := by
  refine issue_wait hr ?_
  simp only [run_bind, run_get, hp]
  rfl

theorem hints_marks {s : State} (hr : Ready onThread s) (hc : ChunkEmpty s) (hrel : Released0 s) (hb : buffered s = false) :
    exec .hints s = .next (advanceAlone
      (if successorQueued s then (closing s).modLaunch fun l => { l with hinted := true } else closing s)) := by
  have clear : releaseClear (closing s) = true := releaseClear_of_released hrel
  have noRel : (closing s).cur.rel = none := chunkEmpty_noRelease hc
  have plain : buffered (closing s) = false := hb
  have same : successorQueued (closing s) = successorQueued s := rfl
  have tidy : Tidy (if successorQueued s then (closing s).modLaunch fun l => { l with hinted := true } else closing s) := by
    split <;> exact .inr hc
  have done : exec .hints s = .next (finish
      (if successorQueued s then (closing s).modLaunch fun l => { l with hinted := true } else closing s)) := by
    refine issue_ok hr ?_ tidy
    simp only [run_bind, betweenChunks_ok hc, releaseSteps_ok noRel clear, run_get, run_ite, plain, same, Bool.not_false, Bool.true_and,
      run_modify, run_pure]
    split <;> rfl
  rw [done]
  split <;> rfl

/-- PROFQ's record (R296). -/
def profRecord (s : State) (v : Word) : ProfRec :=
  { part := spanPart s s.core.id, time := Config.cycleAt s.cycle, lcore := s.cur.lcore, tag := v.setWidth 32 }

theorem profq_adds {s s1 : State} {g : GOp} {v : Word} (hr : Ready onThread s) (hv : Reads g s v s1) :
    exec (.profq g) s = .next (finish (addProf (profRecord s1 v) s1)) := by
  have tidy : Tidy s1 := reads_tidy hv (ready_tidy hr)
  refine issue_ok (t := addProf (profRecord s1 v) s1) hr ?_ tidy
  rw [run_bind, readOp_ok hv]
  rfl

theorem reads_lcore {o : GOp} {s t : State} {v : Word} (h : Reads o s v t) : t.cur.lcore = s.cur.lcore := by
  cases o with
  | reg n => obtain ⟨-, -, rfl⟩ := h; rfl
  | port d => obtain ⟨-, rest, -, rfl⟩ := h; rw [State.modLc_cur]; rfl

end Sys2Proof.Claims

/-- Settles O46: PREDW, HINTS and PROFQ by their bodies; the queue units by what finding a die's queue and a thread gives after each
change. -/
theorem orderAndQueueUnitsResult : Obligations.OrderAndQueueUnitsResult := by
  unfold Obligations.OrderAndQueueUnitsResult
  refine ⟨fun s hr => ⟨fun hc => ⟨fun w g t hp hw => predw_writes hr hc hp hw, fun hp g => predw_waits g hr hp, hints_marks hr hc⟩,
    fun g v s1 hv => ⟨fun room => ?_, fun full => ?_⟩⟩,
    fun s die e rest logn head tail base x hring hh hq hx ⟨a, ha, hs, hp⟩ => ?_,
    fun s die e tid rest logn head tail base hhold hh hroom hk hb ha => ?_,
    fun s a b hadj hlt hm hd hn => ?_⟩
  · exact ⟨profRecord s1 v, reads_lcore hv, rfl, rfl, by rw [profq_adds hr hv, addProf_room (r := profRecord s1 v) room]⟩
  · rw [profq_adds hr hv, addProf_full (r := profRecord s1 v) full]
  · have moved := spillRefill_moves hring hh hq hx ha hs hp
    exact ⟨_, rfl, by rw [moved], by rw [moved]⟩
  · obtain ⟨a, ha⟩ := Option.isSome_iff_exists.1 ha
    obtain ⟨b, hb⟩ := Option.isSome_iff_exists.1 hb
    exact ⟨_, rfl, spillResume_answers hhold hh hroom hk ha hb⟩
  · have hne : a ≠ b := by rintro rfl; exact lt_irrefl _ hlt
    have moves := queueBalance_moves hadj hlt hm
    refine ⟨_, rfl, ?_, ?_, ?_, fun e he => ?_⟩
    · rw [moves, moveSeeds_source hne, lastByKey_rest_length hd hn]
    · rw [moves, moveSeeds_target hne, List.length_append, lastByKey_length hn]
    · rw [moves, moveSeeds, modDie_mem, modDie_mem]
    · rw [moves, moveSeeds_target hne] at he
      obtain old | moved := List.mem_append.1 he
      · exact .inr old
      · exact .inl (lastByKey_subset moved)

end

section
/-! What reaching an address of the frame area leaves (R199): the buffer of the core and the unit's cache may change. -/

namespace Sys2Proof.Machine

section
variable (s : State)

theorem leaves_require (b : Bool) (c : Byte) (a : Addr) : Leaves s (require b c a) := by
  cases b
  · exact leaves_throw s _
  · exact leaves_pure s _

theorem leaves_throw_bind {α β : Type} (e : Stop) (f : α → Run β) : Leaves s ((throw e : Run α) >>= f) :=
  fun u b t hu h => by cases h

theorem leaves_reach (va : Addr) (need : Rights) : Leaves s (reach va need) := by
  unfold reach
  refine leaves_get_bind fun u hu => ?_
  dsimp only
  refine leaves_ite (fun _ => leaves_throw s _) fun _ => ?_
  refine leaves_ite (fun _ => leaves_ite (fun _ => ?_) fun _ => leaves_throw s _) fun _ => ?_
  · exact leaves_ite (fun _ => leaves_throw s _) fun _ => leaves_pure s _
  have again : ∀ grants : PlbEntry → Bool, Leaves s (match askUnit u u.did va.toNat true with
      | none => throw (.absent va)
      | some (e, s') =>
        if grants e then do set s'; pure e
        else throw (.refused (fun s => ((askUnit s u.did va.toNat true).map (·.2)).getD s) cRights va) : Run PlbEntry) := by
    intro grants
    split
    · exact leaves_throw s _
    · next asked =>
      refine leaves_ite (fun _ => ?_) fun _ => leaves_throw s _
      exact leaves_bind (leaves_set (translated_trans hu (translated_ask asked))) fun _ => leaves_pure s _
  have finishes : ∀ e : PlbEntry, Leaves s (do
      let key ← physKey (← get) va.toNat
      let home := homeOf u u.core e va.toNat
      if homeShut u u.core.id home then stalled .answer
      else return { key := key, home := home, pkg := pkgOf (u.getLc home).core } : Run Acc) := by
    intro e
    refine leaves_get_bind fun v hv => leaves_bind (leaves_physKey s v _) fun key => ?_
    exact leaves_ite (fun _ => leaves_throw s _) fun _ => leaves_pure s _
  refine leaves_ite (fun _ => leaves_bind (leaves_pure s _) ?granted) fun _ => ?user
  case' user => split
  case' h_1 => refine leaves_bind (leaves_pure s _) ?leased
  case h_2 => exact leaves_throw_bind s _ _
  all_goals
    intro lease
    split
    · refine leaves_ite (fun _ => ?_) fun _ => leaves_bind (again _) finishes
      exact leaves_bind (leaves_plb _) fun _ => leaves_bind (leaves_pure s _) finishes
    · split
      · exact leaves_throw_bind s _ _
      · next asked =>
        refine leaves_ite (fun _ => ?_) fun _ => leaves_bind (again _) finishes
        refine leaves_bind (leaves_set (translated_trans hu (translated_ask asked))) fun _ => ?_
        exact leaves_bind (leaves_pure s _) finishes

theorem leaves_reachRange (n : Nat) (va : Addr) (len : Nat) (need : Rights) : Leaves s (reachRange n va len need) := by
  induction n generalizing va len with
  | zero => exact leaves_pure s _
  | succ n ih =>
    rw [reachRange]
    exact leaves_ite (fun _ => leaves_pure s _) fun _ => leaves_bind (leaves_reach s va need) fun _ => ih _ _

theorem leaves_readP (n : BitVec 4) : Leaves s (readP n) := by
  refine leaves_get_bind fun u _ => ?_
  exact leaves_ite (fun _ => leaves_throw s _) fun _ => leaves_pure s _

theorem leaves_frameArea : Leaves s frameArea := by
  refine leaves_bind (leaves_readP s 15) fun fp => leaves_bind (leaves_require s _ _ _) fun _ => ?_
  exact leaves_bind (leaves_reachRange s _ _ _ _) fun _ => leaves_pure s _

theorem leaves_frameGet (fp : Addr) (off n : Nat) : Leaves s (frameGet fp off n) := by
  refine leaves_bind (leaves_reach s _ _) fun a => leaves_get_bind fun u _ => ?_
  exact leaves_bind (leaves_require s _ _ _) fun _ => leaves_pure s _

theorem leaves_frameMasks (fp : Addr) (off : Nat) : Leaves s (frameMasks fp off) := by
  refine leaves_bind (leaves_frameGet s _ _ _) fun _ => leaves_bind (leaves_frameGet s _ _ _) fun _ => ?_
  refine leaves_bind (leaves_frameGet s _ _ _) fun _ => leaves_bind (leaves_frameGet s _ _ _) fun _ => ?_
  exact leaves_bind (leaves_frameGet s _ _ _) fun _ => leaves_pure s _

end

theorem Leaves.translated {α : Type} {s t : State} {x : Run α} {a : α} (h : Leaves s x) (hx : x s = .ok (a, t)) : Translated s t :=
  h s a t (translated_refl s) hx

end Sys2Proof.Machine
end

section
/-! What the accesses of the frame area leave of a suspending thread's surroundings (R18, R49). -/

namespace Sys2Proof.Machine

/-- The agent in front, its logical core, the die queues, the launch's mode, and the number and the hitch of the core stand. -/
structure AreaFrame (s t : State) : Prop where
  cur : t.cur = s.cur
  lc : t.lc = s.lc
  dieqs : t.dieqs = s.dieqs
  mode : t.launch.mode = s.launch.mode
  coreId : t.core.id = s.core.id
  hitch : t.core.hitch = s.core.hitch

theorem AreaFrame.refl (s : State) : AreaFrame s s := ⟨rfl, rfl, rfl, rfl, rfl, rfl⟩

theorem AreaFrame.trans {s t u : State} (h : AreaFrame s t) (g : AreaFrame t u) : AreaFrame s u :=
  ⟨g.cur.trans h.cur, g.lc.trans h.lc, g.dieqs.trans h.dieqs, g.mode.trans h.mode, g.coreId.trans h.coreId, g.hitch.trans h.hitch⟩

theorem Translated.area {s t : State} (h : Translated s t) : AreaFrame s t := by
  constructor <;> rw [h]

theorem HomeFrame.area {s t : State} (h : HomeFrame s.cur.tid s t) : AreaFrame s t :=
  ⟨h.cur rfl, h.lc, h.dieqs, by rw [h.launch], by rw [h.core], by rw [h.core]⟩

theorem bind_ok {α β : Type} {x : Run α} {f : α → Run β} {s t : State} {b : β} (h : (x >>= f) s = .ok (b, t)) :
    ∃ a u, x s = .ok (a, u) ∧ f a u = .ok (b, t) := by
  rw [run_bind] at h
  cases hx : x s with
  | error e => rw [hx] at h; cases h
  | ok r => rw [hx] at h; exact ⟨r.1, r.2, rfl, h⟩

theorem frameArea_val {s t : State} {fp : Addr} (hp : PReadable s 15) (h : frameArea s = .ok (fp, t)) : fp = pval s 15 := by
  obtain ⟨v, s1, read, h⟩ := bind_ok h
  rw [readP_ok hp] at read
  cases read
  obtain ⟨_, s2, -, h⟩ := bind_ok h
  obtain ⟨_, s3, -, h⟩ := bind_ok h
  cases h
  rfl

theorem rangeFree_state {s t : State} {k n : Nat} (h : rangeFree k n s = .ok ((), t)) : t = s := by
  simp only [rangeFree, run_bind, run_get, run_ite] at h
  split at h
  · cases h
  · cases h; rfl

theorem roomForLine_state {s t : State} {k : Nat} (h : roomForLine k s = .ok ((), t)) : t = s := by
  simp only [roomForLine, run_bind, run_get, run_ite] at h
  split at h
  · cases h
  · cases h; rfl

theorem unreserved_state {s t : State} {k : Nat} (h : unreserved k s = .ok ((), t)) : t = s := by
  simp only [unreserved, run_bind, run_get, run_ite] at h
  split at h
  · cases h
  · cases h; rfl

/-- Outside QUANTUM a store in the frame area lands at its home (R49). -/
theorem framePut_area {s t : State} {fp : Addr} {off : Nat} {bs : List Byte} (hm : s.launch.mode ≠ .quantum)
    (h : framePut fp off bs s = .ok ((), t)) : AreaFrame s t := by
  obtain ⟨a, u, reached, h⟩ := bind_ok h
  have area := (leaves_reach s _ _).translated reached |>.area
  obtain ⟨v, w, got, h⟩ := bind_ok h
  cases got
  rw [if_neg (by rw [area.mode]; exact hm)] at h
  obtain ⟨_, v, free, h⟩ := bind_ok h
  obtain ⟨_, w, room, h⟩ := bind_ok h
  obtain ⟨_, x, bare, h⟩ := bind_ok h
  rw [rangeFree_state free] at room
  rw [roomForLine_state room] at bare
  rw [unreserved_state bare] at h
  cases h
  exact area.trans (writeHome_homeFrame _ _ _ _ _ _).area

theorem AreaFrame.chunkEmpty {s t : State} (h : AreaFrame s t) (hc : ChunkEmpty s) : ChunkEmpty t := by
  rw [ChunkEmpty, h.cur]; exact hc

/-! Suspension. -/

theorem suspended_cur (st : SeedState) (up : Bool) (s : State) : (suspended st up s).cur = { s.cur with
    follow := .off, led := [], ran := [], state := st, up := up, regs := { s.cur.regs with handlerActive := false } } := by
  simp [suspended, endFollow]

theorem suspended_same (st : SeedState) (up : Bool) (s : State) : SameCells s (suspended st up s) := ⟨rfl, rfl⟩

/-- Clearing masks at the board changes ME of the agent, and tells the board (R47). -/
theorem clearMe_front (k : Nat) (mask : Word) (s : State) : SameCells s (clearMe s.cur.tid k mask s) ∧
    (∃ me, (clearMe s.cur.tid k mask s).cur = { s.cur with me := me }) ∧ (clearMe s.cur.tid k mask s).core = s.core ∧
    (clearMe s.cur.tid k mask s).lc = s.lc := by
  have kept : SameCells s s ∧ (∃ me, s.cur = { s.cur with me := me }) ∧ s.core = s.core ∧ s.lc = s.lc :=
    ⟨⟨rfl, rfl⟩, ⟨s.cur.me, rfl⟩, rfl, rfl⟩
  unfold clearMe
  rw [getAgent_cur]
  dsimp only
  split
  case isFalse => exact kept
  case isTrue level =>
    split
    case isTrue => exact kept
    case isFalse =>
      have masked : (s.modAgent s.cur.tid fun a => { a with me := a.me.set k (a.me[k] &&& ~~~mask) }).cur =
        { s.cur with me := s.cur.me.set k (s.cur.me[k] &&& ~~~mask) } := if_pos rfl
      split <;> exact ⟨⟨rfl, rfl⟩, ⟨_, masked⟩, rfl, rfl⟩

/-- A change of cores that leaves every core's number and hitch. -/
structure CoresFrame (s t : State) : Prop where
  cur : t.cur = s.cur
  same : SameCells s t
  dieqs : t.dieqs = s.dieqs
  coreId : t.core.id = s.core.id
  hitch : t.core.hitch = s.core.hitch

theorem CoresFrame.refl (s : State) : CoresFrame s s := ⟨rfl, ⟨rfl, rfl⟩, rfl, rfl, rfl⟩

theorem CoresFrame.trans {s t u : State} (h : CoresFrame s t) (g : CoresFrame t u) : CoresFrame s u :=
  ⟨g.cur.trans h.cur, h.same.trans g.same, g.dieqs.trans h.dieqs, g.coreId.trans h.coreId, g.hitch.trans h.hitch⟩

theorem modCore_coresFrame (s : State) (i : Nat) {f : Core → Core} (hi : ∀ c, (f c).id = c.id) (hh : ∀ c, (f c).hitch = c.hitch) :
    CoresFrame s (s.modCore i f) := by
  refine ⟨s.modCore_cur i f, ⟨s.modCore_mem i f, by rw [s.modCore_launch i f]⟩, s.modCore_dieqs i f, s.modCore_coreId i f hi, ?_⟩
  unfold State.modCore
  split
  · exact hh _
  · split <;> rfl

theorem releaseVector_coresFrame (core slot : Nat) (s : State) : CoresFrame s (releaseVector core slot s) := by
  refine modCore_coresFrame s core (fun c => ?_) fun c => ?_
  · split <;> rfl
  · split <;> rfl

/-- A thread that is not hitched leaves its slot and no more (R16). -/
theorem leaveSlot_unhitched {s : State} (hc : s.core.id = s.cur.core) (hh : s.core.hitch ≠ some s.cur.tid) :
    ∃ u, CoresFrame s u ∧ leaveSlot s.cur.tid s =
      u.modAgent s.cur.tid fun a => { a with slot := none, wait := none, rel := none, relStore := [] } := by
  have unqueued : ∀ u, CoresFrame s u →
      CoresFrame s (u.modCore s.cur.core fun c => { c with hitchQ := c.hitchQ.filter (· != s.cur.tid) }) :=
    fun u hu => hu.trans (modCore_coresFrame u _ (fun _ => rfl) fun _ => rfl)
  have unhitched : ∀ u, CoresFrame s u → (u.getCore s.cur.core).hitch ≠ some s.cur.tid := fun u hu => by
    rw [State.getCore, if_pos (hu.coreId.trans hc), hu.hitch]; exact hh
  unfold leaveSlot
  rw [getAgent_cur]
  dsimp only
  split
  · next slot _ =>
    have left := unqueued _ (releaseVector_coresFrame s.cur.core slot s)
    exact ⟨_, left, by rw [if_neg (unhitched _ left)]⟩
  · have left := unqueued s (.refl s)
    exact ⟨_, left, by rw [if_neg (unhitched _ left)]⟩

theorem leaveSlot_front {s : State} (hc : s.core.id = s.cur.core) (hh : s.core.hitch ≠ some s.cur.tid) :
    SameCells s (leaveSlot s.cur.tid s) ∧ (leaveSlot s.cur.tid s).dieqs = s.dieqs ∧
      (leaveSlot s.cur.tid s).cur = { s.cur with slot := none, wait := none, rel := none, relStore := [] } := by
  obtain ⟨u, frame, left⟩ := leaveSlot_unhitched hc hh
  rw [left]
  refine ⟨frame.same, frame.dieqs, ?_⟩
  rw [State.modAgent_cur, frame.cur, if_pos rfl]

/-- The seed of the agent in front stands last in the queue (R158). -/
theorem enqueueSeed_front (die : Nat) (s : State) : SameCells s (enqueueSeed die s.cur.tid s) ∧
    (enqueueSeed die s.cur.tid s).cur = { s.cur with state := .ready, queued := true } ∧
    ∃ e, ((enqueueSeed die s.cur.tid s).getDie die).entries = (s.getDie die).entries ++ [e] ∧ e.tid = s.cur.tid ∧
      e.key = s.cur.key := by
  let e : QEntry :=
    { tid := s.cur.tid, key := s.cur.key, pass := 0, cluster := clusterOf s.cur.core, pkg := pkgOf s.cur.core
      tagged := s.cur.tag ≠ 0, origin := s.cur.origin }
  have queued : enqueueSeed die s.cur.tid s = (s.modDie die fun q => { q with entries := q.entries ++ [e] }).modAgent s.cur.tid
      fun a => { a with state := .ready, queued := true } := by
    rw [enqueueSeed, getAgent_cur]
  rw [queued]
  refine ⟨⟨?_, ?_⟩, ?_, e, ?_, rfl, rfl⟩
  · rw [State.modAgent_mem, modDie_mem]
  · rw [State.modAgent_launch, modDie_launch]
  · rw [State.modAgent_cur, modDie_cur, if_pos rfl]
  · rw [getDie_of_dieqs (State.modAgent_dieqs _ _ _), getDie_modDie_same]
    exact fun _ => rfl

/-! The three suspension points. -/

/-- The agent in front once its slot is left. -/
def slotLeft (a : Agent) : Agent := { a with slot := none, wait := none, rel := none, relStore := [] }

/-- The agent in front once it is suspended (R200). -/
def atRest (st : SeedState) (up : Bool) (a : Agent) : Agent :=
  { a with follow := .off, led := [], ran := [], state := st, up := up, regs := { a.regs with handlerActive := false } }

/-- What PAUSE does behind its accesses of the frame area (R16). -/
def pausing (up : Bool) (mei : Vector Word 5) (s : State) : State :=
  let tid := s.cur.tid
  let s := s.modCur fun a => { a with mei := mei }
  let s := clearMe tid (field s.cur.teamVal.toNat 31 29) (BitVec.allOnes 64) s
  let pinned := pinnedNow s
  let s := suspended .paused up s
  if pinned then s else leaveSlot tid s

theorem hitch_of_unpinned {s : State} (h : pinnedNow s = false) : s.core.hitch ≠ some s.cur.tid := by
  intro hitch
  rw [pinnedNow, hitched, hitch, beq_self_eq_true, Bool.true_or] at h
  cases h

theorem pausing_front {s : State} (hc : s.core.id = s.cur.core) (up : Bool) (mei : Vector Word 5) :
    SameCells s (pausing up mei s) ∧ ∃ me, (pausing up mei s).cur =
      let a := atRest .paused up { s.cur with mei := mei, me := me }
      if pinnedNow s then a else slotLeft a := by
  obtain ⟨same, ⟨me, cleared⟩, core, lc⟩ := clearMe_front (field s.cur.teamVal.toNat 31 29) (BitVec.allOnes 64)
    (s.modCur fun a => { a with mei := mei })
  set u := clearMe (s.modCur fun a => { a with mei := mei }).cur.tid (field s.cur.teamVal.toNat 31 29) (BitVec.allOnes 64)
    (s.modCur fun a => { a with mei := mei }) with hu
  have pinned : pinnedNow u = pinnedNow s := by rw [pinnedNow, pinnedNow, hitched, hitched, core, lc, cleared]; rfl
  have rests : (suspended .paused up u).cur = atRest .paused up { s.cur with mei := mei, me := me } := by
    rw [suspended_cur, cleared]; rfl
  have paused : pausing up mei s = if pinnedNow s then suspended .paused up u else leaveSlot s.cur.tid (suspended .paused up u) := by
    rw [← pinned]; rfl
  rw [paused]
  cases hp : pinnedNow s with
  | true => exact ⟨same.trans (suspended_same _ _ u), me, rests⟩
  | false =>
    have core' : (suspended .paused up u).core = s.core := core
    have tid : (suspended .paused up u).cur.tid = s.cur.tid := by rw [rests]; rfl
    have leaves := leaveSlot_front (s := suspended .paused up u) (by rw [core', rests]; exact hc)
      (by rw [core', tid]; exact hitch_of_unpinned hp)
    rw [tid] at leaves
    obtain ⟨slotSame, -, left⟩ := leaves
    refine ⟨(same.trans (suspended_same _ _ u)).trans slotSame, me, ?_⟩
    rw [if_neg Bool.false_ne_true, if_neg Bool.false_ne_true, left, rests]
    rfl

/-- What YIELD of a thread that is not pinned does behind its accesses of the frame area (R15). -/
def yielding (s : State) : State :=
  enqueueSeed (dieOf s.cur.core) s.cur.tid (leaveSlot s.cur.tid (suspended .ready false s))

theorem yielding_front {s : State} (hc : s.core.id = s.cur.core) (hh : s.core.hitch ≠ some s.cur.tid) :
    SameCells s (yielding s) ∧ (yielding s).cur = { slotLeft (atRest .ready false s.cur) with queued := true } ∧
      ∃ e, ((yielding s).getDie (s.cur.core / 144)).entries = (s.getDie (s.cur.core / 144)).entries ++ [e] ∧
        e.tid = s.cur.tid ∧ e.key = s.cur.key := by
  have rests : (suspended .ready false s).cur = atRest .ready false s.cur := suspended_cur _ _ s
  have tid : (suspended .ready false s).cur.tid = s.cur.tid := by rw [rests]; rfl
  have leaves := leaveSlot_front (s := suspended .ready false s) (by rw [rests]; exact hc) (by rw [tid]; exact hh)
  rw [tid] at leaves
  obtain ⟨slotSame, dies, left⟩ := leaves
  set u := leaveSlot s.cur.tid (suspended .ready false s) with hu
  have front : u.cur = slotLeft (atRest .ready false s.cur) := by rw [left, rests]; rfl
  have tid' : u.cur.tid = s.cur.tid := by rw [front]; rfl
  have enters := enqueueSeed_front (dieOf s.cur.core) u
  rw [tid'] at enters
  obtain ⟨same, cur, e, entries, etid, ekey⟩ := enters
  refine ⟨((suspended_same _ _ s).trans slotSame).trans same, ?_, e, ?_, etid, ?_⟩
  · rw [yielding, ← hu, cur, front]; rfl
  · rw [yielding, ← hu]
    refine entries.trans ?_
    rw [getDie_of_dieqs dies]; rfl
  · rw [ekey, front]; rfl

/-- What YIELD of a pinned thread does (R205). -/
def staying (up : Bool) (s : State) : State := (suspended .held up s).modCur fun a => { a with skip := some [] }

theorem AreaFrame.closing {s t : State} (h : AreaFrame s t) : AreaFrame (closing s) (Machine.closing t) :=
  ⟨congrArg (fun a : Agent => { a with chunk := { a.chunk with closed := true } }) h.cur, h.lc, h.dieqs, h.mode, h.coreId, h.hitch⟩

end Sys2Proof.Machine
end

section
/-! What PAUSE and YIELD complete with. -/

namespace Sys2Proof.Claims
open Sys2Proof.Machine

/-- The frame area has been reached and nothing is out: the chunk is closed. -/
theorem areaReached {s : State} (hc : ChunkEmpty s) {fp : Addr} {s1 : State} (harea : frameArea s = .ok (fp, s1)) (hrel : Released0 s1) :
    AreaFrame (closing s) (closing s1) ∧ betweenChunks s1 = .ok ((), closing s1) ∧
      releaseSteps (closing s1) = .ok ((), closing s1) := by
  have area : AreaFrame s s1 := ((leaves_frameArea s).translated harea).area
  have empty : ChunkEmpty s1 := area.chunkEmpty hc
  exact ⟨area.closing, betweenChunks_ok empty, releaseSteps_ok (chunkEmpty_noRelease empty) (releaseClear_of_released hrel)⟩

/-- The instruction puts the thread's seed, READY, last into the queue of its die, with the bytes as `u` has them (R15). -/
def QueuesSeed (i : Instr) (s u : State) : Prop :=
  ∃ t e, exec i s = .next t ∧ t.cur.state = .ready ∧ t.cur.slot = none ∧ t.cur.queued = true ∧ t.cur.regs.pc = s.cur.npc ∧
    (∀ k, baseByte t k = baseByte u k) ∧
    (t.getDie (s.cur.core / 144)).entries = (s.getDie (s.cur.core / 144)).entries ++ [e] ∧ e.tid = s.cur.tid ∧ e.key = s.cur.key

section
variable {s : State} (hr : Ready onThread s) (hc : ChunkEmpty s)
include hr hc

theorem pause_result (hm : s.launch.mode ≠ .quantum) (hcore : s.core.id = s.cur.core) {fp : Addr} {mei : Vector Word 5}
    {s1 s2 s3 : State} (hteam : s.cur.team.isSome = true) (hp : PReadable s 15) (hn : pval s 15 ≠ 0)
    (harea : frameArea s = .ok (fp, s1)) (hrel : Released0 s1) (hmasks : frameMasks fp 0 (closing s1) = .ok (mei, s2))
    (hput : framePut fp 40 (toBytes 8 s.cur.regs.srn.toNat) s2 = .ok ((), s3)) (up : Bool) :
    ∃ t, exec (if up then .pauseUp else .pause) s = .next t ∧ t.cur.state = .paused ∧ t.cur.up = up ∧ t.cur.mei = mei ∧
      t.cur.regs.handlerActive = false ∧ t.cur.regs.pc = s.cur.npc ∧ (∀ k, baseByte t k = baseByte s3 k) ∧
      t.cur.regs.g = s.cur.regs.g ∧ t.cur.slot = if pinnedNow s then s.cur.slot else none := by
  obtain ⟨area1, between, clear⟩ := areaReached hc harea hrel
  have area2 : AreaFrame (closing s) s2 := area1.trans ((leaves_frameMasks _ fp 0).translated hmasks).area
  have area : AreaFrame (closing s) s3 := area2.trans (framePut_area (by rw [area2.mode]; exact hm) hput)
  have body : runPause up s = .ok ((), pausing up mei s3) := by
    simp only [runPause, run_bind, run_get, run_require, hteam, if_true, readP_ok hp, hn, ne_eq, not_false_eq_true, decide_true, harea,
      between, clear, hmasks, offSrn, hput, run_modify]
    rfl
  obtain ⟨same, me, cur⟩ := pausing_front (s := s3) (by rw [area.coreId, area.cur]; exact hcore) up mei
  have pinned : pinnedNow s3 = pinnedNow s := by rw [pinnedNow, pinnedNow, hitched, hitched, area.hitch, area.lc, area.cur]; rfl
  rw [pinned, area.cur] at cur
  have kept : ∀ {α : Type} (f : Agent → α), (∀ a, f (slotLeft a) = f a) →
      f (pausing up mei s3).cur = f (atRest .paused up { (closing s).cur with mei := mei, me := me }) := fun f hf => by
    rw [cur]
    dsimp only
    split
    · rfl
    · exact hf _
  have chunk : (pausing up mei s3).cur.chunk = (closing s).cur.chunk := kept Agent.chunk fun _ => rfl
  have ended : (pausing up mei s3).cur.ended = s.cur.ended := kept Agent.ended fun _ => rfl
  have rel : (pausing up mei s3).cur.rel = none := by
    rw [cur]
    dsimp only
    split
    · exact chunkEmpty_noRelease hc
    · rfl
  have tidy : ChunkEmpty (pausing up mei s3) := by
    obtain ⟨count, wbuf, clre, vrel, noEnded, -⟩ := hc
    rw [ChunkEmpty, chunk, ended]
    exact ⟨count, wbuf, clre, vrel, noEnded, rel⟩
  have done : exec (if up then .pauseUp else .pause) s = .next (advanceAlone (pausing up mei s3)) := by
    have finished : finish (pausing up mei s3) = advanceAlone (pausing up mei s3) := if_pos (by rw [chunk]; rfl)
    rw [← finished]
    cases up
    · exact issue_ok hr body (.inr tidy)
    · exact issue_ok hr body (.inr tidy)
  refine ⟨_, done, kept Agent.state fun _ => rfl, kept Agent.up fun _ => rfl, kept Agent.mei fun _ => rfl,
    kept (fun a => a.regs.handlerActive) fun _ => rfl, kept Agent.npc fun _ => rfl, same.byte, kept (fun a => a.regs.g) fun _ => rfl, ?_⟩
  show (pausing up mei s3).cur.slot = _
  rw [cur]
  dsimp only
  split <;> rfl

/-- A pinned thread stays in its slot (R205): behind its accesses of the frame area, in `u`, it lets one round pass. -/
theorem yield_stays {u : State} (area : AreaFrame (closing s) u) {body : Run Unit} (hb : body s = .ok ((), staying u.cur.up u)) :
    issue onThread body s = .next (advanceAlone (staying s.cur.up u)) := by
  have up : u.cur.up = s.cur.up := by rw [area.cur]; rfl
  have chunk : (staying u.cur.up u).cur.chunk = (closing s).cur.chunk := by
    show (suspended .held u.cur.up u).cur.chunk = _
    rw [suspended_cur, area.cur]
  have ended : (staying u.cur.up u).cur.ended = s.cur.ended := by
    show (suspended .held u.cur.up u).cur.ended = _
    rw [suspended_cur, area.cur]; rfl
  have rel : (staying u.cur.up u).cur.rel = s.cur.rel := by
    show (suspended .held u.cur.up u).cur.rel = _
    rw [suspended_cur, area.cur]; rfl
  have tidy : ChunkEmpty (staying u.cur.up u) := by
    rw [ChunkEmpty, chunk, ended, rel]; exact hc
  rw [issue_ok hr hb (.inr tidy), finish, if_pos (by rw [chunk]; rfl), up]

/-- The seed of a thread that is not pinned goes to the die queue (R15). -/
theorem yield_leaves (hcore : s.core.id = s.cur.core) {u : State} (hh : hitched s = false) (area : AreaFrame (closing s) u)
    {i : Instr} {body : Run Unit} (hi : exec i s = issue onThread body s) (hb : body s = .ok ((), yielding u)) : QueuesSeed i s u := by
  have unhitched : u.core.hitch ≠ some u.cur.tid := by
    rw [area.hitch, area.cur]
    exact ne_of_beq_false hh
  obtain ⟨same, cur, e, entries, tid, key⟩ := yielding_front (s := u) (by rw [area.coreId, area.cur]; exact hcore) unhitched
  rw [area.cur] at cur entries tid key
  rw [getDie_of_dieqs area.dieqs] at entries
  generalize yielding u = v at hb same cur entries
  have tidy : ChunkEmpty v := by
    obtain ⟨count, wbuf, clre, vrel, noEnded, -⟩ := hc
    rw [ChunkEmpty, cur]
    exact ⟨count, wbuf, clre, vrel, noEnded, rfl⟩
  have closed : v.cur.chunk.closed = true := by rw [cur]; rfl
  refine ⟨advanceAlone v, e, ?_, ?_, ?_, ?_, ?_, same.byte, entries, tid, key⟩
  · rw [hi, issue_ok hr hb (.inr tidy), finish, if_pos closed]
  · show v.cur.state = _
    rw [cur]; rfl
  · show v.cur.slot = _
    rw [cur]; rfl
  · show v.cur.queued = _
    rw [cur]
  · show v.cur.npc = _
    rw [cur]; rfl

theorem yield_stays_plain (hh : hitched s = false) (hpin : pinnedNow s = true) (hp : PReadable s 15) (hz : pval s 15 = 0)
    (hteam : s.cur.team = none) (hrel : Released0 s) : exec .yield s = .next (advanceAlone (staying s.cur.up (closing s))) := by
  have clear : releaseSteps (closing s) = .ok ((), closing s) := releaseSteps_ok (chunkEmpty_noRelease hc) (releaseClear_of_released hrel)
  refine yield_stays hr hc (.refl _) ?_
  simp only [run_bind, run_get, run_require, hh, Bool.not_false, if_true, readP_ok hp, hz, hteam, Option.isNone_none, Bool.or_true, hpin,
    ne_eq, not_true_eq_false, if_false, betweenChunks_ok hc, clear, run_modify]
  rfl

theorem yield_stays_saved (hm : s.launch.mode ≠ .quantum) (hh : hitched s = false) (hpin : pinnedNow s = true)
    (hp : PReadable s 15) {fp : Addr} {s1 s2 : State} (hn : pval s 15 ≠ 0) (harea : frameArea s = .ok (fp, s1)) (hrel : Released0 s1)
    (hput : framePut fp 40 (toBytes 8 s.cur.regs.srn.toNat) (closing s1) = .ok ((), s2)) :
    exec .yield s = .next (advanceAlone (staying s.cur.up s2)) := by
  obtain ⟨area, between, clear⟩ := areaReached hc harea hrel
  have same : fp = pval s 15 := frameArea_val hp harea
  subst same
  refine yield_stays hr hc (area.trans (framePut_area (by rw [area.mode]; exact hm) hput)) ?_
  simp only [run_bind, run_get, run_require, hh, Bool.not_false, if_true, readP_ok hp, decide_true, Bool.true_or, hpin,
    hn, ne_eq, not_false_eq_true, harea, between, clear, offSrn, hput, run_modify]
  rfl

theorem yield_leaves_plain (hcore : s.core.id = s.cur.core) (hh : hitched s = false) (hpin : pinnedNow s = false)
    (hp : PReadable s 15) (hz : pval s 15 = 0) (hteam : s.cur.team = none) (hrel : Released0 s) :
    QueuesSeed .yield s (closing s) := by
  have clear : releaseSteps (closing s) = .ok ((), closing s) := releaseSteps_ok (chunkEmpty_noRelease hc) (releaseClear_of_released hrel)
  refine yield_leaves hr hc hcore hh (.refl (closing s)) rfl ?_
  simp only [run_bind, run_get, run_require, hh, Bool.not_false, if_true, readP_ok hp, hz, hteam, Option.isNone_none, Bool.or_true, hpin,
    Bool.false_eq_true, ne_eq, not_true_eq_false, if_false, betweenChunks_ok hc, clear, run_modify]
  rfl

theorem yield_leaves_saved (hm : s.launch.mode ≠ .quantum) (hcore : s.core.id = s.cur.core) (hh : hitched s = false)
    (hpin : pinnedNow s = false) (hp : PReadable s 15) {fp : Addr} {s1 s2 s3 s4 : State} (hn : pval s 15 ≠ 0)
    (harea : frameArea s = .ok (fp, s1)) (hrel : Released0 s1)
    (hsrn : framePut fp 40 (toBytes 8 s.cur.regs.srn.toNat) (closing s1) = .ok ((), s2))
    (hme : framePut fp 192 (s.cur.me.toList.flatMap fun m => toBytes 8 m.toNat) s2 = .ok ((), s3))
    (hyld : framePut fp 232 [1] s3 = .ok ((), s4)) :
    QueuesSeed .yield s s4 := by
  obtain ⟨area1, between, clear⟩ := areaReached hc harea hrel
  have area2 := area1.trans (framePut_area (by rw [area1.mode]; exact hm) hsrn)
  have area3 := area2.trans (framePut_area (by rw [area2.mode]; exact hm) hme)
  have area4 := area3.trans (framePut_area (by rw [area3.mode]; exact hm) hyld)
  have me : (closing s1).cur.me = s.cur.me := by rw [area1.cur]; rfl
  have same : fp = pval s 15 := frameArea_val hp harea
  subst same
  refine yield_leaves hr hc hcore hh area4 rfl ?_
  simp only [run_bind, run_get, run_require, hh, Bool.not_false, if_true, readP_ok hp, decide_true, Bool.true_or, hpin,
    Bool.false_eq_true, if_false, hn, ne_eq, not_false_eq_true, harea, between, clear, me, offSrn, offMec, offYld, hsrn, hme, hyld,
    run_modify]
  rfl

end

end Sys2Proof.Claims

open Sys2Proof Sys2Proof.Machine Sys2Proof.Claims in
/-- Settles O36: the accesses of the frame area leave the thread in front as it is, the effect behind them gives its new state, and no
part of the effect but those accesses writes memory. -/
theorem suspensionResult : Obligations.SuspensionResult := by
  unfold Obligations.SuspensionResult
  intro s hr hc hm _ hcore
  refine ⟨fun fp mei s1 s2 s3 hteam hp hn harea hrel hmasks hput up => ?_, fun hh hpin hp => ⟨fun hz hteam hrel => ?_, ?_⟩,
    fun hh hpin hp => ⟨fun hz hteam hrel => ?_, ?_⟩⟩
  · exact pause_result hr hc hm hcore hteam hp hn harea hrel hmasks hput up
  · exact yield_stays_plain hr hc hh hpin hp hz hteam hrel
  · intro fp s1 s2 hn harea hrel hput
    exact yield_stays_saved hr hc hm hh hpin hp hn harea hrel hput
  · exact yield_leaves_plain hr hc hcore hh hpin hp hz hteam hrel
  · intro fp s1 s2 s3 s4 hn harea hrel hsrn hme hyld
    exact yield_leaves_saved hr hc hm hcore hh hpin hp hn harea hrel hsrn hme hyld

end

section
/-! Branch-outcome queues under QUANTUM (R24, R167). -/

namespace Sys2Proof.Machine

/-- A thread on X of a launch under QUANTUM, with one bit in its own branch-outcome queue and nothing in its chunk. -/
def quantumBit : State :=
  { State.reset with
    launch := { Launch.none with mode := .quantum }
    core := { Core.new 0 with bqX := [true] } }

/-- Under QUANTUM a core also notes which queue BQ popped: that bit's room comes back in the next quantum (R167). -/
theorem bq_quantumBit_notes : ∃ t, exec (.bq 0) quantumBit = .next t ∧ t.core.bqPops = [.x] := ⟨_, rfl, rfl⟩

end Sys2Proof.Machine
end

section
open Sys2Proof Sys2Proof.Machine Sys2Proof.Claims

/-- Refutes O10: under QUANTUM a pop of the branch-outcome queue is also noted in the core (`bqPops`, R167), which the state that
the statement gives for BQ leaves out. -/
theorem not_branchAndCallResult : ¬ Obligations.BranchAndCallResult := by
  unfold Obligations.BranchAndCallResult
  rintro ⟨-, -, queued, -⟩
  obtain ⟨taken, -⟩ := (queued quantumBit (by decide) (by decide)).1 true [] rfl
  obtain ⟨t, steps, noted⟩ := bq_quantumBit_notes
  have stated := steps.symm.trans (taken 0)
  injection stated with same
  have unnoted : t.core.bqPops = [] := by rw [same]; rfl
  rw [noted] at unnoted
  cases unnoted

end

section
/-! Two launches of one number: what LAUNCH_CAPACITY_RESERVE changes (R316). -/

namespace Sys2Proof.Machine

/-- A launch of one logical core that has been admitted and has no teams. -/
def admittedLaunch : Launch := { Launch.none with phase := .admitted, l := 1, w := 1, lsize := 4096 }

/-- A launch that has ended, of the same number, with a team of width 1. -/
def endedLaunch : Launch := { Launch.none with phase := .ended, l := 1, w := 1, lsize := 4096, widths := [1, 0, 0, 0, 0] }

/-- A package out of reset, with the ended launch in front and the admitted one behind it. -/
def sharedNumber : State :=
  { State.reset with
    packages := [{ Package.new 0 with inReset := false }]
    launch := endedLaunch
    launches := [admittedLaunch] }

theorem firstIn_sharedNumber :
    firstIn sharedNumber (fun l => l.phase == .admitted && capacityFree sharedNumber l) = some admittedLaunch := by
  decide +kernel

/-- A launch is changed by its number: the launch in front takes the reservation, with the board of its own team. -/
theorem capacityReserve_sharedNumber : ∃ t, exec .launchCapacityReserve sharedNumber = .next t ∧
    ∀ k ∈ allLaunches t, k.phase = .reserved → k.reserved = [0] := ⟨_, rfl, by decide +kernel⟩

theorem boardDies_admittedLaunch (pl : List Nat) : boardDies admittedLaunch pl = [] := rfl

end Sys2Proof.Machine
end

section
open Sys2Proof Sys2Proof.Machine Sys2Proof.Claims

/-- Refutes O54: the statement lets two launches have one number, and LAUNCH_CAPACITY_RESERVE changes the first launch of the
number, whose teams are not those of the launch that it places. -/
theorem not_launchEventsResult : ¬ Obligations.LaunchEventsResult := by
  unfold Obligations.LaunchEventsResult
  rintro ⟨-, -, -, -, -, reserve, -⟩
  obtain ⟨t, steps, -, k, stands, -, reserved, -, -, boards, -⟩ := reserve sharedNumber admittedLaunch firstIn_sharedNumber
  obtain ⟨u, steps', own⟩ := capacityReserve_sharedNumber
  cases steps.symm.trans steps'
  have none := boards.symm.trans (own k stands reserved)
  rw [boardDies_admittedLaunch] at none
  cases none

end

section
/-! The start of an instant and a pinned thread that a husk holds (R62, R353, R354). -/

namespace Sys2Proof.Machine

/-- A team of one thread in its communication phase. -/
def closedBoard : Board :=
  { uid := 0, val := 0, level := 0, unit := 0, parent := none, world := none, inst := 0, comm := true
    sigs := Vector.replicate 64 SigCell.quiet, handler := none, seqn := 0, serving := false, cycle := [], trapInst := 0
    paused := false, ended := false, xch := none }

/-- A pinned member that has paused and whose core was then saved: HUSK took its slot (R353). -/
def huskedMember : Agent := { Agent.new 1 with state := .paused, team := some 0, husked := some 0 }

/-- The team of `closedBoard` with `huskedMember` as its only member; another thread has the turn. -/
def huskedTeam : State :=
  { State.reset with
    launch := { Launch.none with boards := [closedBoard] }
    agents := [huskedMember] }

/-- The instant that starts puts the thread back into the slot that its husk holds (R354): it is HELD there, not READY. -/
theorem instantStart_huskedTeam_holds : ∃ t a, exec (.instantStart 0) huskedTeam = .next t ∧
    t.getAgent 1 = some a ∧ a.state = .held := ⟨_, _, rfl, rfl, rfl⟩

end Sys2Proof.Machine
end

section
open Sys2Proof Sys2Proof.Machine Sys2Proof.Claims

/-- Refutes O56: the clause about INSTANT_START has every paused member without a slot READY, but a pinned one whose slot a husk
holds is HELD (R354). -/
theorem not_signalAndThreadEvents : ¬ Obligations.SignalAndThreadEvents := by
  unfold Obligations.SignalAndThreadEvents
  rintro ⟨-, -, boards, -⟩
  obtain ⟨-, -, -, -, -, -, starts⟩ := boards huskedTeam 0 closedBoard rfl
  obtain ⟨t, -, steps, -, -, -, -, -, -, -, goesOn⟩ := starts (by decide) (by decide)
  obtain ⟨a, stands, -, ready⟩ := goesOn (by decide) (by decide) huskedMember (by decide) rfl rfl rfl
  obtain ⟨u, b, steps', stands', held⟩ := instantStart_huskedTeam_holds
  cases steps.symm.trans steps'
  cases stands.symm.trans stands'
  rw [held] at ready
  cases ready

end

section
/-! What reading and writing an operand leaves of the thread in front and of its launch (R107, R177). -/

namespace Sys2Proof.Machine

theorem modLc_launch (s : State) (n : Nat) (f : LCore → LCore) :
    (s.modLc n f).launch = { s.launch with lcores := (s.modLc n f).launch.lcores } := by
  unfold State.modLc
  split
  · rfl
  · split <;> rfl

/-- A g operand read may have closed the chunk. -/
theorem reads_cur {o : GOp} {s t : State} {v : Word} (h : Reads o s v t) : t.cur = { s.cur with chunk := t.cur.chunk } := by
  cases o with
  | reg n => obtain ⟨-, -, rfl⟩ := h; rfl
  | port d => obtain ⟨-, rest, -, rfl⟩ := h; rw [State.modLc_cur]; rfl

theorem reads_launch {o : GOp} {s t : State} {v : Word} (h : Reads o s v t) :
    t.launch = { s.launch with lcores := t.launch.lcores } := by
  cases o with
  | reg n => obtain ⟨-, -, rfl⟩ := h; rfl
  | port d => obtain ⟨-, rest, -, rfl⟩ := h; exact modLc_launch _ _ _

theorem reads_chunkEmpty {o : GOp} {s t : State} {v : Word} (h : Reads o s v t) (hc : ChunkEmpty s) : ChunkEmpty t := by
  cases o with
  | reg n => obtain ⟨-, -, rfl⟩ := h; exact hc
  | port d => obtain ⟨-, rest, -, rfl⟩ := h; rw [ChunkEmpty, State.modLc_cur]; exact hc

/-- No write of an operand opens a chunk that is closed. -/
theorem writes_closed {o : GOp} {s t : State} {v : Word} (h : Writes o v s t) (hs : s.cur.chunk.closed = true) :
    t.cur.chunk.closed = true := by
  cases o with
  | reg n => obtain ⟨-, rfl⟩ := h; exact hs
  | port d => obtain ⟨-, -, rfl⟩ := h; rfl

theorem writesQ_closed {o : QDst} {s t : State} {b : Bool} (h : WritesQ o b s t) (hs : s.cur.chunk.closed = true) :
    t.cur.chunk.closed = true := by
  cases o with
  | q n => subst h; exact hs
  | bq q =>
    obtain ⟨-, h⟩ := h
    split at h <;> obtain ⟨-, rfl⟩ := h <;> rfl

/-- What a body that leaves the chunk open makes of the step. -/
theorem issue_open {l : Legal} {body : Run Unit} {s t : State} (hr : Ready l s) (hb : body s = .ok ((), t))
    (isOpen : t.cur.chunk.closed = false) : issue l body s = .next (advance t) := by
  rw [issue_ok hr hb (.inl isOpen), finish_open isOpen]

/-- What a body that has closed the chunk, and left nothing in it, makes of the step (R127). -/
theorem issue_alone {l : Legal} {body : Run Unit} {s t : State} (hr : Ready l s) (hb : body s = .ok ((), t)) (ht : Tidy t)
    (closed : t.cur.chunk.closed = true) : issue l body s = .next (advanceAlone t) := by
  rw [issue_ok hr hb ht, finish, if_pos closed]

end Sys2Proof.Machine
end

section
/-! The boards that a thread names, and what of the state decides them (R41, R72, R78). -/

namespace Sys2Proof.Machine
open Sys2Proof.Claims

theorem boardAt_ok {s : State} {l : Lvl} {b : Board} (h : NamedBoard s l b) : boardAt l s = .ok (b, s) := by
  cases l with
  | inner =>
    have own : s.cur.team.bind s.getBoard = some b := h
    simp only [boardAt, run_bind, run_get, own, run_pure]
  | l k =>
    have level : teamAt s s.cur k.toNat = some b := h
    simp only [boardAt, run_bind, run_get, level, run_pure]

theorem getBoard_of_boards {s t : State} (h : t.launch.boards = s.launch.boards) : t.getBoard = s.getBoard := by
  funext u; rw [State.getBoard, State.getBoard, h]

theorem chainFrom_of_boards {s t : State} (h : t.launch.boards = s.launch.boards) (n u : Nat) :
    chainFrom n t u = chainFrom n s u := by
  induction n generalizing u with
  | zero => rfl
  | succ n ih => simp only [chainFrom, getBoard_of_boards h, ih]

theorem teamAt_of_boards {s t : State} (h : t.launch.boards = s.launch.boards) (a : Agent) (k : Nat) :
    teamAt t a k = teamAt s a k := by
  simp only [teamAt, teamChain, chainFrom_of_boards h]

theorem namedBoard_of_eq {s t : State} {l : Lvl} {b : Board} (ht : t.cur.team = s.cur.team)
    (hb : t.launch.boards = s.launch.boards) (h : NamedBoard s l b) : NamedBoard t l b := by
  cases l with
  | inner =>
    have own : s.cur.team.bind s.getBoard = some b := h
    rw [NamedBoard, ht, getBoard_of_boards hb, own]
  | l k =>
    have level : teamAt s s.cur k.toNat = some b := h
    rw [NamedBoard, ← level, teamAt, teamAt, teamChain, teamChain, ht]
    simp only [chainFrom_of_boards hb]

theorem rivalUp_of_worlds {s t : State} (h : t.launch.worlds = s.launch.worlds) (n p g : Nat) :
    rivalUp n t p g = rivalUp n s p g := by
  induction n generalizing g with
  | zero => rfl
  | succ n ih => simp only [rivalUp, h, ih]

theorem outsideLevel_of_worlds {s t : State} (h : t.launch.worlds = s.launch.worlds) {a b : Agent} (hcore : b.core = a.core)
    (htag : b.tag = a.tag) (hval : b.teamVal = a.teamVal) (k : Nat) : outsideLevel t b k = outsideLevel s a k := by
  simp only [outsideLevel, rivalOf, rivalAt, rivalUp_of_worlds h, hcore, htag, hval]

end Sys2Proof.Machine
end

section
/-! Emitting, testing, renouncing and resolving (R43, R44, R57, R284 to R288). -/

namespace Sys2Proof.Machine
open Sys2Proof.Claims

/-- An emit that goes to its board at once: its level is none that lies outside a rival's world (R43, R78). -/
theorem sendEmit_ok {s : State} {so : SigOp} {b : Board} (hc : ChunkEmpty s) (hb : NamedBoard s so.lvl b)
    (hin : outsideLevel s s.cur b.level = false) (v : BitVec 32) : sendEmit so v s =
      .ok ((), sendBoard (.emit b.uid so.idx.toNat v s.cur.tid s.cur.regs.pc none) (closing s)) := by
  have inside : outsideLevel (closing s) (closing s).cur b.level = false := hin
  simp only [sendEmit, run_bind, boardAt_ok hb, betweenChunks_ok hc, run_get, run_ite, inside, Bool.false_eq_true, if_false]
  rfl

/-! What a test answers, by the status of its signal (R44). -/

section
variable {s : State} {so : SigOp} {b : Board} (hc : ChunkEmpty s) (hb : NamedBoard s so.lvl b)
include hc hb

theorem testSignal_unresolved (tv : Bool) (h : b.sigs[so.idx.toNat].status = .unresolved) :
    testSignal so tv s = .error (.wait (.test b.uid b.level so.idx.toNat tv)) := by
  simp only [testSignal, run_bind, boardAt_ok hb, betweenChunks_ok hc, h, run_throw]

theorem testSignal_counting (h : b.sigs[so.idx.toNat].status = .present) (hn : b.sigs[so.idx.toNat].count ≠ 0) :
    testSignal so true s = .error (.wait (.test b.uid b.level so.idx.toNat true)) := by
  simp only [testSignal, run_bind, boardAt_ok hb, betweenChunks_ok hc, h, true_and, hn, not_false_eq_true, ne_eq,
    if_true, run_throw]

theorem testSignal_present {tv : Bool} (h : b.sigs[so.idx.toNat].status = .present)
    (hn : ¬ (tv = true ∧ b.sigs[so.idx.toNat].count ≠ 0)) :
    testSignal so tv s = .ok ((true, b.sigs[so.idx.toNat].value), closing s) := by
  simp only [testSignal, run_bind, boardAt_ok hb, betweenChunks_ok hc, h, if_neg hn, run_pure]

theorem testSignal_absent (tv : Bool) (h : b.sigs[so.idx.toNat].status = .absent ∨ b.sigs[so.idx.toNat].status = .forced) :
    testSignal so tv s = .ok ((false, 0), closing s) := by
  obtain h | h := h <;> simp only [testSignal, run_bind, boardAt_ok hb, betweenChunks_ok hc, h, run_pure]

end

/-! Clearing bits of ME (R47). -/

theorem and_not_of_and_eq_zero {w : Nat} {x m : BitVec w} (h : x &&& m = 0#w) : x &&& ~~~m = x := by
  ext i hi
  have bit := congrArg (fun y => y[i]) h
  simp only [BitVec.getElem_and, BitVec.getElem_zero] at bit
  simp only [BitVec.getElem_and, BitVec.getElem_not]
  cases hx : x[i] with
  | false => rfl
  | true => rw [hx, Bool.true_and] at bit; rw [bit]; rfl

/-- The agent without the bits of `m` in its mask at level `k`. -/
def maskCleared (k : Fin 5) (m : Word) (a : Agent) : Agent := { a with me := a.me.set k (a.me[k] &&& ~~~m) }

theorem maskCleared_unset {k : Fin 5} {m : Word} {a : Agent} (h : a.me[k] &&& m = 0) : maskCleared k m a = a := by
  have kept : a.me.set k (a.me[k] &&& ~~~m) = a.me := by
    rw [and_not_of_and_eq_zero h]; exact Vector.set_getElem_self k.isLt
  rw [maskCleared, kept]

theorem clearMe_unset {s : State} {k : Fin 5} {m : Word} (h : s.cur.me[k] &&& m = 0) : clearMe s.cur.tid k.val m s = s := by
  rw [clearMe, getAgent_cur]
  exact (dif_pos k.isLt).trans (if_pos h)

theorem clearMe_set {s : State} {k : Fin 5} {m : Word} {b : Board} (h : s.cur.me[k] &&& m ≠ 0)
    (hb : teamAt s s.cur k.val = some b) : clearMe s.cur.tid k.val m s =
      sendBoard (.clear b.uid (s.cur.me[k] &&& m) s.cur.tid) (s.modAgent s.cur.tid (maskCleared k m)) := by
  have team : teamAt (s.modAgent s.cur.tid (maskCleared k m)) s.cur k.val = some b := (teamAt_of_boards rfl _ _).trans hb
  rw [clearMe, getAgent_cur]
  refine (dif_pos k.isLt).trans ((if_neg h).trans ?_)
  dsimp only
  split
  · next c hc => cases team.symm.trans hc; rfl
  · next hn => cases team.symm.trans hn

/-- The board is told of the bits that were set. -/
theorem clearMe_named {s : State} {k : Fin 5} {m : Word} {b : Board} (hb : teamAt s s.cur k.val = some b) :
    (clearMe s.cur.tid k.val m s).cur = maskCleared k m s.cur ∧
    (clearMe s.cur.tid k.val m s).launch.boardq = s.launch.boardq ++
      (if s.cur.me[k] &&& m = 0 then [] else [.clear b.uid (s.cur.me[k] &&& m) s.cur.tid]) := by
  by_cases h : s.cur.me[k] &&& m = 0
  · rw [clearMe_unset h, if_pos h, maskCleared_unset h, List.append_nil]
    exact ⟨rfl, rfl⟩
  · rw [clearMe_set h hb, if_neg h]
    exact ⟨if_pos rfl, rfl⟩

end Sys2Proof.Machine
end

section
open Sys2Proof Sys2Proof.Machine Sys2Proof.Claims

namespace Sys2Proof.Claims

/-! EMIT and EMITV. -/

section
variable {s : State} {so : SigOp} {b : Board} (hr : Ready onThread s) (hc : ChunkEmpty s) (hb : NamedBoard s so.lvl b)
  (hin : outsideLevel s s.cur b.level = false)
include hr hc hb hin

theorem emit_sends : exec (.emit so) s =
    .next (advanceAlone (sendBoard (.emit b.uid so.idx.toNat 0 s.cur.tid s.cur.regs.pc none) (closing s))) :=
  issue_alone hr (sendEmit_ok hc hb hin 0) (.inr hc) rfl

theorem emitv_sends {g : GOp} {v : Word} {s1 : State} (hv : Reads g s v s1) : exec (.emitv so g) s = .next (advanceAlone
    (sendBoard (.emit b.uid so.idx.toNat (v.setWidth 32) s.cur.tid s.cur.regs.pc none) (closing s1))) := by
  have cur := reads_cur hv
  have launch := reads_launch hv
  have empty := reads_chunkEmpty hv hc
  have named : NamedBoard s1 so.lvl b := namedBoard_of_eq (by rw [cur]) (by rw [launch]) hb
  have inside : outsideLevel s1 s1.cur b.level = false :=
    (outsideLevel_of_worlds (by rw [launch]) (by rw [cur]) (by rw [cur]) (by rw [cur]) _).trans hin
  have tid : s1.cur.tid = s.cur.tid := by rw [cur]
  have pc : s1.cur.regs.pc = s.cur.regs.pc := by rw [cur]
  refine issue_alone hr ?_ (.inr empty) rfl
  simp only [run_bind, boardAt_ok hb, readOp_ok hv, sendEmit_ok empty named inside, tid, pc]

end

/-! TEST and TESTV: the test decides, and its answer goes to the destinations. -/

section
variable {s : State} {so : SigOp} (hr : Ready onThread s)
include hr

theorem test_waits {w : Wait} (h : testSignal so false s = .error (.wait w)) (q : QDst) :
    exec (.test q so) s = .next (park w s) :=
  issue_wait hr (by rw [run_bind, h])

theorem testv_waits {w : Wait} (h : testSignal so true s = .error (.wait w)) (q : QDst) (g : GOp) :
    exec (.testv q g so) s = .next (park w s) :=
  issue_wait hr (by rw [run_bind, h])

variable (hc : ChunkEmpty s) {r : Bool} {v : BitVec 32} {q : QDst}
include hc

theorem test_answers (h : testSignal so false s = .ok ((r, v), closing s)) {t : State} (hq : WritesQ q r (closing s) t) :
    exec (.test q so) s = .next (advanceAlone t) := by
  refine issue_alone hr ?_ (writesQ_tidy hq (.inr hc)) (writesQ_closed hq rfl)
  rw [run_bind, h]
  exact writeQDst_ok hq

theorem testv_answers (h : testSignal so true s = .ok ((r, v), closing s)) {g : GOp} {s1 t : State}
    (hq : WritesQ q r (closing s) s1) (hg : Writes g (v.setWidth 64) s1 t) :
    exec (.testv q g so) s = .next (advanceAlone t) := by
  refine issue_alone hr ?_ (writes_tidy hg (writesQ_tidy hq (.inr hc))) (writes_closed hg (writesQ_closed hq rfl))
  simp only [run_bind, h, writeQDst_ok hq, writeOp_ok hg]

end

/-! RENOUNCE. -/

theorem levelCode_toNat (k : Fin 5) : (BitVec.ofNat 3 k.val).toNat = k.val := by
  rw [BitVec.toNat_ofNat]; omega

theorem renounce_clears {s s1 : State} {b : Board} {g : GOp} {v : Word} (k : Fin 5) (hr : Ready onThread s)
    (hc : ChunkEmpty s) (hb : NamedBoard s (.l (BitVec.ofNat 3 k.val)) b) (hv : Reads g s v s1) :
    exec (.renounce (BitVec.ofNat 3 k.val) g) s =
      .next (advanceAlone (clearMe (closing s1).cur.tid k.val v (closing s1))) := by
  have empty := reads_chunkEmpty hv hc
  obtain ⟨-, ⟨me, cleared⟩, -, -⟩ := clearMe_front (s := closing s1) k.val v
  refine issue_alone hr ?_ (.inr ?_) (by rw [cleared]; rfl)
  · simp only [run_bind, boardAt_ok hb, readOp_ok hv, betweenChunks_ok empty, run_modify, levelCode_toNat]
  · rw [ChunkEmpty, cleared]; exact empty

/-- RENOUNCE's effect: the bits leave the mask, the board is told of those that were set, and no more (R47, R287). -/
theorem renounce_result {s s1 : State} {b : Board} {g : GOp} {v : Word} (k : Fin 5) (hr : Ready onThread s)
    (hc : ChunkEmpty s) (hb : NamedBoard s (.l (BitVec.ofNat 3 k.val)) b) (hv : Reads g s v s1) :
    ∃ t, exec (.renounce (BitVec.ofNat 3 k.val) g) s = .next t ∧ t.cur.me = s.cur.me.set k (s.cur.me[k] &&& ~~~v) ∧
      t.launch.boardq = s.launch.boardq ++
        (if s.cur.me[k] &&& v = 0 then [] else [.clear b.uid (s.cur.me[k] &&& v) s.cur.tid]) ∧
      t.mem = s.mem ∧ t.launch.lmem = s.launch.lmem ∧ t.cur.regs.g = s.cur.regs.g ∧ t.cur.regs.pc = s.cur.npc := by
  have cur : (closing s1).cur = { s.cur with chunk := { s1.cur.chunk with closed := true } } := by
    rw [closing, State.modCur_cur, reads_cur hv]
  have launch : (closing s1).launch = { s.launch with lcores := s1.launch.lcores } :=
    (State.modCur_launch s1 _).trans (reads_launch hv)
  have named : NamedBoard (closing s1) (.l (BitVec.ofNat 3 k.val)) b :=
    namedBoard_of_eq (by rw [cur]) (by rw [launch]) hb
  have team : teamAt (closing s1) (closing s1).cur k.val = some b := by
    rw [NamedBoard, levelCode_toNat] at named; exact named
  obtain ⟨front, told⟩ := clearMe_named (m := v) team
  obtain ⟨⟨mem, lmem⟩, -, -, -⟩ := clearMe_front (s := closing s1) k.val v
  refine ⟨_, renounce_clears k hr hc hb hv, ?_, ?_, ?_, ?_, ?_, ?_⟩
  · exact (congrArg Agent.me front).trans (by rw [cur]; rfl)
  · exact told.trans (by rw [cur, launch])
  · exact mem.trans (reads_operandRead hv).mem
  · exact lmem.trans (reads_operandRead hv).lmem
  · exact (congrArg (fun a => a.regs.g) front).trans (by rw [cur])
  · exact (congrArg Agent.npc front).trans (by rw [cur]; rfl)

/-! RESOLVE. -/

/-- The board that RESOLVE names among those of the team that a handler serves and of its outer ones (R288). -/
def resolveBoard (s : State) (l : Lvl) : Option Board :=
  let chain := (s.cur.serves.map (chainFrom 12 s)).getD []
  match l with
  | .inner => chain.head?
  | .l k => chain.find? (·.level == k.toNat)

/-- What RESOLVE does before an answer has come and with no question out: it answers 0, or asks the board (R288). -/
def resolveAsk (q : QDst) (so : SigOp) (s : State) : Run Unit :=
  match resolveBoard s so.lvl with
  | none => writeQDst q false
  | some b => do
    modify (sendBoard (.resolve b.uid b.level so.idx.toNat s.cur.tid))
    modify fun s => s.modCur fun a => { a with asking := true }
    keepWaiting .answer

section
variable {s : State} (so : SigOp) (q : QDst) (hr : Ready onThread s) (hc : ChunkEmpty s) (hh : s.cur.hndl = true)
include hr hc hh

theorem resolve_completes {r : Bool} {t : State} (ha : s.cur.answer = some r)
    (hq : WritesQ q r ((closing s).modCur fun a => { a with
      answer := none, asking := false, resolved := if r then a.resolved + 1 else a.resolved }) t) :
    exec (.resolve q so) s = .next (advanceAlone t) := by
  refine issue_alone hr ?_ (writesQ_tidy hq (.inr hc)) (writesQ_closed hq rfl)
  simp only [run_bind, run_get, run_require, hh, if_true, betweenChunks_ok hc, ha, run_modify]
  exact writeQDst_ok hq

variable (ha : s.cur.answer = none)
include ha

theorem resolve_waits (hw : s.cur.asking = true) : exec (.resolve q so) s = .next (park (.blocked .answer) s) := by
  refine issue_wait hr ?_
  simp only [run_bind, run_get, run_require, hh, if_true, betweenChunks_ok hc, ha, hw, blocked, run_throw]

variable (hw : s.cur.asking = false)
include hw

theorem resolve_unnamed {t : State} (hn : resolveBoard s so.lvl = none) (hq : WritesQ q false (closing s) t) :
    exec (.resolve q so) s = .next (advanceAlone t) := by
  refine issue_alone hr ?_ (writesQ_tidy hq (.inr hc)) (writesQ_closed hq rfl)
  simp only [run_bind, run_get, run_require, hh, if_true, betweenChunks_ok hc, ha, hw, Bool.false_eq_true, if_false]
  change resolveAsk q so s (closing s) = _
  rw [resolveAsk, hn]
  exact writeQDst_ok hq

theorem resolve_asks {b : Board} (hn : resolveBoard s so.lvl = some b) : exec (.resolve q so) s =
    .next (park (.blocked .answer) ((sendBoard (.resolve b.uid b.level so.idx.toNat s.cur.tid) (closing s)).modCur fun a =>
      { a with asking := true })) := by
  refine issue_keep hr ?_
  simp only [run_bind, run_get, run_require, hh, if_true, betweenChunks_ok hc, ha, hw, Bool.false_eq_true, if_false]
  change resolveAsk q so s (closing s) = _
  rw [resolveAsk, hn]
  rfl

end
end Sys2Proof.Claims

/-- Settles O33: each instruction reads its board, its operand and the status first and then acts once; which board and whether
its level lies outside a rival's world depend on parts of the state that reading an operand leaves. -/
theorem signalInstructionsResult : Obligations.SignalInstructionsResult := by
  unfold Obligations.SignalInstructionsResult
  refine ⟨fun s so hr hc hh => ⟨?_, ?_, ?_, ?_⟩, fun s so b hr hc hb => ⟨fun hin => ⟨?_, ?_⟩, ⟨?_, ?_, ?_⟩, ?_⟩⟩
  · exact fun r q t ha hq => resolve_completes so q hr hc hh ha hq
  · exact fun ha hw q => resolve_waits so q hr hc hh ha hw
  · exact fun ha hw hn q t hq => resolve_unnamed so q hr hc hh ha hw hn hq
  · exact fun ha hw c q hn => ⟨_, resolve_asks so q hr hc hh ha hw hn, rfl, rfl, rfl⟩
  · exact emit_sends hr hc hb hin
  · exact fun g v s1 hv => emitv_sends hr hc hb hin hv
  · exact fun h => ⟨test_waits hr (testSignal_unresolved hc hb false h), testv_waits hr (testSignal_unresolved hc hb true h)⟩
  · refine fun h => ⟨fun q t hq => ?_, fun hn => testv_waits hr (testSignal_counting hc hb h hn), fun hn q g s1 t hq hg => ?_⟩
    · exact test_answers hr hc (testSignal_present hc hb h (by simp)) hq
    · exact testv_answers hr hc (testSignal_present hc hb h (by simp [hn])) hq hg
  · refine fun h => ⟨fun q t hq => ?_, fun q g s1 t hq hg => ?_⟩
    · exact test_answers hr hc (testSignal_absent hc hb false h) hq
    · exact testv_answers hr hc (testSignal_absent hc hb true h) hq hg
  · intro k g v s1 hk hv _
    rw [hk] at hb
    exact renounce_result k hr hc hb hv

end

section
/-! Bytes in a chunk's write buffer, as the agent sees them (R127, R132). -/

namespace Sys2Proof.Machine
open Sys2Proof.Claims

theorem toBytes_length (n v : Nat) : (toBytes n v).length = n := by
  induction n generalizing v with
  | zero => rfl
  | succ n ih => rw [toBytes, List.length_cons, ih]

theorem cellsAt_cons (key : Nat) (b : Byte) (bs : List Byte) : cellsAt key (b :: bs) = (key, b) :: cellsAt (key + 1) bs := by
  simp only [cellsAt, List.length_cons, List.range_succ_eq_map, List.zip_cons_cons, List.map_cons, List.zip_map_left,
    List.map_map, Nat.add_zero]
  congr 2
  funext x
  simp only [Function.comp, Prod.map, id]
  congr 1
  omega

/-- The newest bytes stand first in a buffer: within their range they are found, and beside it what stood there before. -/
theorem aget_cellsAt (key : Nat) (bs : List Byte) (old : List (Nat × Byte)) (k : Nat) :
    aget k ((cellsAt key bs).reverse ++ old) = if key ≤ k ∧ k < key + bs.length then bs[k - key]? else aget k old := by
  induction bs generalizing key old with
  | nil => rw [if_neg (by simp)]; rfl
  | cons b bs ih =>
    rw [cellsAt_cons, List.reverse_cons, List.append_assoc, List.singleton_append, ih]
    by_cases hk : k = key
    · subst hk
      rw [if_neg (by omega), if_pos (by simp), Nat.sub_self, aget, if_pos rfl]
      rfl
    · rw [aget, if_neg (Ne.symm hk), List.length_cons]
      by_cases hin : key + 1 ≤ k ∧ k < key + 1 + bs.length
      · have next : k - key = k - (key + 1) + 1 := by omega
        rw [if_pos hin, if_pos (by omega), next, List.getElem?_cons_succ]
      · rw [if_neg hin, if_neg (by omega)]

theorem readView_tag0 (s : State) (p k : Nat) : readView s p 0 k = baseByte s k := by
  simp only [readView, viewLine, true_or, if_true]

/-- Outside views and with no release under way, the agent sees the newest of its buffered bytes, else memory's. -/
theorem seen_committed {s : State} (htag : s.cur.tag = 0) (hrel : s.cur.relStore = []) (k : Nat) : seen s k =
    ((aget k s.cur.chunk.wbuf).orElse fun _ => s.cur.ended.reverse.findSome? fun c => aget k c.wbuf).getD (baseByte s k) := by
  rw [seen, ownByte, hrel, htag, readView_tag0]
  rfl

/-- The chunk of the agent in front with `bs` written at `key`. -/
structure Buffers (key : Nat) (bs : List Byte) (s : State) (c : Chunk) : Prop where
  wbuf : c.wbuf = (cellsAt key bs).reverse ++ s.cur.chunk.wbuf
  closed : c.closed = s.cur.chunk.closed

section
variable {s t : State} {key : Nat} {bs : List Byte} (hb : Buffers key bs s t.cur.chunk) (hs : s.cur.tag = 0)
  (ht : t.cur.tag = 0) (hsr : s.cur.relStore = []) (htr : t.cur.relStore = [])
include hb ht htr

theorem Buffers.seen_written {i : Nat} (h : i < bs.length) : seen t (key + i) = bs[i] := by
  rw [seen_committed ht htr, hb.wbuf, aget_cellsAt, if_pos (by omega), Nat.add_sub_cancel_left, List.getElem?_eq_getElem h]
  rfl

include hs hsr in
theorem Buffers.seen_other (hended : t.cur.ended = s.cur.ended) (hcells : SameCells s t) {k : Nat}
    (h : k < key ∨ key + bs.length ≤ k) : seen t k = seen s k := by
  rw [seen_committed ht htr, seen_committed hs hsr, hb.wbuf, aget_cellsAt, if_neg (by omega), hended, hcells.byte]

end

/-! A store into the open chunk. -/

/-- Outside views there is room in every view. -/
theorem lacksRoom_committed {s : State} (h : s.cur.tag = 0) (ls : List Nat) : lacksRoom s (newLines s ls) = false := by
  simp only [newLines, h, if_true]; rfl

theorem bufferBytes_ok {s : State} (htag : s.cur.tag = 0) (hlines : s.cur.chunk.wlines.length < 48) (home : Nat) (va : Addr)
    (key : Nat) (bs : List Byte) : ∃ c, bufferBytes home va key bs s = .ok ((), s.modCur fun a => { a with chunk := c }) ∧
      Buffers key bs s c := by
  have room : (!s.cur.chunk.wlines.contains (lineOf key) && decide (Config.chunkLines ≤ s.cur.chunk.wlines.length) &&
      s.cur.chunk.count != 0) = false := by
    have few : decide (Config.chunkLines ≤ s.cur.chunk.wlines.length) = false := decide_eq_false (Nat.not_le.2 hlines)
    rw [few, Bool.and_false, Bool.false_and]
  apply Exists.intro
  constructor
  · simp only [bufferBytes, run_bind, run_get, room, lacksRoom_committed htag, Bool.false_eq_true, if_false, run_modify,
      State.modCur]
    rfl
  · exact ⟨rfl, rfl⟩

/-- A plain store in the own package that meets no held range (R132, R262). -/
theorem storeAt_own {s : State} {a : Acc} {bs : List Byte} (hpkg : a.pkg = s.pkg) (hheld : heldRange s a.key bs.length = false)
    (hrel : s.cur.rel = none) (htag : s.cur.tag = 0) (hlines : s.cur.chunk.wlines.length < 48) (va : Addr) :
    ∃ c, storeAt va a bs false s = .ok ((), s.modCur fun x => { x with chunk := c }) ∧ Buffers a.key bs s c := by
  obtain ⟨c, stored, takes⟩ := bufferBytes_ok htag hlines a.home va a.key bs
  refine ⟨c, ?_, takes⟩
  simp only [storeAt, hazard, bufferStore, releaseOver, run_bind, run_get, run_ite, hheld, hpkg, hrel, Bool.false_and,
    Bool.false_eq_true, if_false, if_true, run_pure, Option.isSome_none, stored]

end Sys2Proof.Machine
end

section
/-! Frames (R59, R60, R289). -/

namespace Sys2Proof.Machine
open Sys2Proof.Claims

/-- A frame record stands in the chunk `c`, and DEPTH counts it. -/
def framePushed (c : Chunk) (s : State) : State :=
  s.modCur fun a => { a with chunk := c, regs := { a.regs with depth := a.regs.depth + 1 } }

/-- The frame record of the thread in front is within reach at `a`, and a store takes it there. -/
structure FrameReached (s s1 : State) (a : Acc) : Prop where
  depth : s.cur.regs.depth < 8
  readable : PReadable s 15
  set : pval s 15 ≠ 0
  reached : reachAligned (pval s 15 + BitVec.ofNat 80 (64 + 16 * s.cur.regs.depth)) 16 rW s = .ok (a, s1)
  pkg : a.pkg = s1.pkg
  rel : s1.cur.rel = none
  relStore : s1.cur.relStore = []
  held : heldRange s1 a.key 16 = false
  tag : s1.cur.tag = 0
  lines : s1.cur.chunk.wlines.length < 48

theorem leaves_reachAligned (s : State) (va : Addr) (n : Nat) (need : Rights) : Leaves s (reachAligned va n need) :=
  leaves_bind (leaves_require s _ _ _) fun _ => leaves_reach s va need

section
variable {s s1 : State} {a : Acc} (h : FrameReached s s1 a)
include h

theorem FrameReached.translated : Translated s s1 := (leaves_reachAligned s _ _ _).translated h.reached

theorem pushFrame_ok {so : SigOp} {b : Board} (hb : NamedBoard s so.lvl b) (record : Nat → Nat) :
    ∃ c, pushFrame so record s = .ok ((), framePushed c s1) ∧
      Buffers a.key (toBytes 16 (record (b.level * 2 ^ 40 + so.idx.toNat * 2 ^ 32))) s1 c := by
  obtain ⟨depth, readable, set, reached, pkg, rel, -, held, tag, lines⟩ := h
  rw [← toBytes_length 16 (record (b.level * 2 ^ 40 + so.idx.toNat * 2 ^ 32))] at held
  obtain ⟨c, stored, takes⟩ := storeAt_own pkg held rel tag lines (pval s 15 + BitVec.ofNat 80 (64 + 16 * s.cur.regs.depth))
  refine ⟨c, ?_, takes⟩
  simp only [pushFrame, run_bind, run_get, run_require, depth, decide_true, if_true, boardAt_ok hb, readP_ok readable, ne_eq,
    set, not_false_eq_true, reached, stored, run_modify]
  rfl

theorem framePushed_stored {bs : List Byte} {c : Chunk} (ho : s.cur.chunk.closed = false) (hc : Buffers a.key bs s1 c) :
    Stored a.key bs s s1 (advance (framePushed c s1)) := by
  have cur : s1.cur = s.cur := h.translated.area.cur
  have cells : SameCells s (advance (framePushed c s1)) := by
    have same : SameCells s s1 := by constructor <;> rw [h.translated]
    exact same
  have takes : Buffers a.key bs s (advance (framePushed c s1)).cur.chunk := ⟨cur ▸ hc.wbuf, cur ▸ hc.closed⟩
  have tag : s.cur.tag = 0 := cur ▸ h.tag
  have ended : s1.cur.ended = s.cur.ended := by rw [cur]
  have npc : s1.cur.npc = s.cur.npc := by rw [cur]
  have noStore : s.cur.relStore = [] := cur ▸ h.relStore
  refine ⟨fun _ => ⟨fun i hi => ?_, fun k hk => ?_, cells.byte⟩, fun closed => ?_, fun _ => ?_⟩
  · exact takes.seen_written h.tag h.relStore hi
  · exact takes.seen_other tag h.tag noStore h.relStore ended cells hk
  · rw [cur, ho] at closed; cases closed
  · exact ⟨congrArg (fun a => a.regs.g) cur, congrArg (fun a => a.regs.p) cur, congrArg (fun a => a.regs.q) cur, npc⟩

/-- An instruction that pushes a frame record and does no more (R59, R60). -/
theorem issue_pushes {l : Legal} {so : SigOp} {b : Board} {record : Nat → Nat} {body : Run Unit} (hr : Ready l s)
    (hb : NamedBoard s so.lvl b) (hbody : body s = pushFrame so record s) :
    ∃ t, issue l body s = .next t ∧ t.cur.regs.depth = s.cur.regs.depth + 1 ∧
      Stored a.key (toBytes 16 (record (b.level * 2 ^ 40 + so.idx.toNat * 2 ^ 32))) s s1 t := by
  obtain ⟨c, pushed, takes⟩ := pushFrame_ok h hb record
  have cur : s1.cur = s.cur := h.translated.area.cur
  have isOpen : (framePushed c s1).cur.chunk.closed = false := by
    rw [← ready_open hr, ← cur]; exact takes.closed
  refine ⟨advance (framePushed c s1), ?_, congrArg (fun a => a.regs.depth + 1) cur, framePushed_stored h (ready_open hr) takes⟩
  exact issue_open hr (hbody.trans pushed) isOpen

end

end Sys2Proof.Machine
end

section
open Sys2Proof Sys2Proof.Machine Sys2Proof.Claims

namespace Sys2Proof.Claims

theorem endw_lowers {s : State} (hr : Ready onThread s) (hd : 0 < s.cur.regs.depth) (ht : s.cur.team.isSome = true) :
    exec .endw s = .next (advance (s.modCur fun a => { a with regs := { a.regs with depth := a.regs.depth - 1 } })) := by
  refine issue_open hr ?_ (ready_open hr)
  simp only [run_bind, run_get, run_require, hd, ht, decide_true, Bool.and_self, if_true, run_modify]

theorem cause_writes {s t : State} {g : GOp} (hr : Ready onThread s)
    (hw : Writes g (if s.cur.team.isNone = true ∨ s.cur.hndl = true then 0 else s.cur.cause) s t) :
    exec (.cause g) s = .next (finish t) := by
  refine issue_ok hr ?_ (writes_tidy hw (ready_tidy hr))
  rw [run_bind, run_get]
  exact writeOp_ok hw

theorem instn_writes {s t : State} {g : GOp} {l : Lvl} {b : Board} (hr : Ready onThread s) (hb : NamedBoard s l b)
    (hw : Writes g b.inst s t) : exec (.instn g l) s = .next (finish t) := by
  refine issue_ok hr ?_ (writes_tidy hw (ready_tidy hr))
  rw [run_bind, boardAt_ok hb]
  exact writeOp_ok hw

section
variable {s s1 : State} {a : Acc} {so : SigOp} {b : Board} (hr : Ready onThread s) (hb : NamedBoard s so.lvl b)
  (h : FrameReached s s1 a)
include hr hb h

theorem abortw_pushes (off : Word) : ∃ t, exec (.abortw so off) s = .next t ∧ t.cur.regs.depth = s.cur.regs.depth + 1 ∧
    Stored a.key (toBytes 16 ((branchTarget s off).toNat * 2 ^ 48 + b.level * 2 ^ 40 + so.idx.toNat * 2 ^ 32)) s s1 t := by
  have body : ((do
      let base := (← get).cur.base
      pushFrame so fun n => (base + (off.signExtend 80 <<< 1)).toNat * 2 ^ 48 + n) : Run Unit) s =
      pushFrame so (fun n => (branchTarget s off).toNat * 2 ^ 48 + n) s := by
    rw [run_bind, run_get, branchTarget, signExtend_shift_one]
  rw [Nat.add_assoc]
  exact issue_pushes h hr hb body

theorem suspw_pushes : ∃ t, exec (.suspw so) s = .next t ∧ t.cur.regs.depth = s.cur.regs.depth + 1 ∧
    Stored a.key (toBytes 16 (b.level * 2 ^ 40 + so.idx.toNat * 2 ^ 32 + 1)) s s1 t :=
  issue_pushes (record := fun n => n + 1) h hr hb rfl

end

end Sys2Proof.Claims

/-- Settles O34: ABORTW and SUSPW are one push of a frame record, a store that waits in the open chunk, where the thread sees it
while memory stands; the others read and write registers alone. -/
theorem framesAndCausesResult : Obligations.FramesAndCausesResult := by
  unfold Obligations.FramesAndCausesResult
  refine ⟨fun s hr => ⟨endw_lowers hr, fun g t hw => cause_writes hr hw⟩, fun s so b hr hb => ⟨?_, ?_⟩⟩
  · intro s1 a depth readable set reached pkg rel relStore held tag lines
    have frame : FrameReached s s1 a := ⟨depth, readable, set, reached, pkg, rel, relStore, held, tag, lines⟩
    exact ⟨abortw_pushes hr hb frame, suspw_pushes hr hb frame⟩
  · exact fun g t hw => instn_writes hr hb hw

end

section
/-! What ending rivals and discarding views leaves (R68, R73, R76, R81): memory, the names and winners of worlds, and of a thread
in front that is no A or M program its launch, its place beside any hitch, and its chunks. -/

namespace Sys2Proof.Machine

/-- The parts of an agent that the end of a rival changes in none. -/
structure AgentStays (a b : Agent) : Prop where
  host : b.host = a.host
  launch : b.launch = a.launch
  chunk : b.chunk = a.chunk
  ended : b.ended = a.ended
  rel : a.rel = none → b.rel = none

theorem AgentStays.refl (a : Agent) : AgentStays a a := ⟨rfl, rfl, rfl, rfl, id⟩
theorem AgentStays.trans {a b c : Agent} (h : AgentStays a b) (g : AgentStays b c) : AgentStays a c :=
  ⟨g.host.trans h.host, g.launch.trans h.launch, g.chunk.trans h.chunk, g.ended.trans h.ended, fun r => g.rel (h.rel r)⟩
theorem AgentStays.ite {c : Prop} [Decidable c] {a b d : Agent} (hb : AgentStays a b) (hd : AgentStays a d) :
    AgentStays a (if c then b else d) := by
  split
  · exact hb
  · exact hd

/-- Memory stands, and so does the thread in front, unless it is a program that goes with its hitch. -/
structure FrontKept (s t : State) : Prop where
  same : SameCells s t
  launchId : t.launch.id = s.launch.id
  front : s.cur.host = none → AgentStays s.cur t.cur

theorem FrontKept.trans {s t u : State} (h : FrontKept s t) (g : FrontKept t u) : FrontKept s u :=
  ⟨h.same.trans g.same, g.launchId.trans h.launchId,
    fun hs => (h.front hs).trans (g.front ((h.front hs).host.trans hs))⟩

theorem FrontKept.chunkEmpty {s t : State} (h : FrontKept s t) (hn : s.cur.host = none) (hc : ChunkEmpty s) : ChunkEmpty t := by
  obtain ⟨-, -, chunk, ended, rel⟩ := h.front hn
  obtain ⟨count, wbuf, clre, vrel, noneEnded, noRel⟩ := hc
  rw [ChunkEmpty, chunk, ended]
  exact ⟨count, wbuf, clre, vrel, noneEnded, rel noRel⟩

/-- No world changes either. -/
structure WorldsKept (s t : State) : Prop extends FrontKept s t where
  worlds : t.launch.worlds = s.launch.worlds

theorem WorldsKept.trans {s t u : State} (h : WorldsKept s t) (g : WorldsKept t u) : WorldsKept s u :=
  ⟨h.toFrontKept.trans g.toFrontKept, g.worlds.trans h.worlds⟩

theorem WorldsKept.refl (s : State) : WorldsKept s s := ⟨⟨⟨rfl, rfl⟩, rfl, fun _ => .refl _⟩, rfl⟩

theorem WorldsKept.of_eq {s t : State} (hc : t.cur = s.cur) (hm : t.mem = s.mem) (hl : t.launch = s.launch) : WorldsKept s t :=
  ⟨⟨⟨hm, by rw [hl]⟩, by rw [hl], fun _ => by rw [hc]; exact .refl _⟩, by rw [hl]⟩

theorem ite_worldsKept {c : Prop} [Decidable c] {s t u : State} (ht : WorldsKept s t) (hu : WorldsKept s u) :
    WorldsKept s (if c then t else u) := by
  split
  · exact ht
  · exact hu

theorem foldl_worldsKept {α : Type} (f : State → α → State) (hf : ∀ s x, WorldsKept s (f s x)) (l : List α) (s : State) :
    WorldsKept s (l.foldl f s) := by
  induction l generalizing s with
  | nil => exact .refl s
  | cons x l ih => exact (hf s x).trans (ih _)

section
variable (s : State) (i : Nat)

theorem mapAgents_worldsKept {f : Agent → Agent} (hf : ∀ a, AgentStays a (f a)) : WorldsKept s (s.mapAgents f) :=
  ⟨⟨⟨rfl, rfl⟩, rfl, fun _ => hf _⟩, rfl⟩
theorem modAgent_worldsKept {f : Agent → Agent} (hf : ∀ a, AgentStays a (f a)) : WorldsKept s (s.modAgent i f) :=
  mapAgents_worldsKept s fun a => .ite (hf a) (.refl a)
theorem modCore_worldsKept (f : Core → Core) : WorldsKept s (s.modCore i f) :=
  .of_eq (State.modCore_cur s i f) (State.modCore_mem s i f) (State.modCore_launch s i f)
theorem modPkg_worldsKept (f : Package → Package) : WorldsKept s (s.modPkg i f) :=
  .of_eq (State.modPkg_cur s i f) (State.modPkg_mem s i f) (State.modPkg_launch s i f)
theorem modLc_worldsKept (f : LCore → LCore) : WorldsKept s (s.modLc i f) := by
  refine ⟨⟨⟨State.modLc_mem s i f, modLc_lmem s i f⟩, ?_, fun _ => by rw [State.modLc_cur]; exact .refl _⟩, ?_⟩
  · rw [modLc_launch]
  · rw [modLc_launch]
theorem modBoard_worldsKept (f : Board → Board) : WorldsKept s (s.modBoard i f) := ⟨⟨⟨rfl, rfl⟩, rfl, fun _ => .refl _⟩, rfl⟩

end

/-! The agent leaves its slot (R228, R275). -/

theorem handLines_worldsKept (a : Agent) (host : Nat) (s : State) : WorldsKept s (handLines a host s) := by
  let own (o : VOp) : Bool := o.tid == a.tid
  let n := ((s.getAgent host).map (·.nextLoad)).getD 0
  let ls := a.loads.filter fun l => !l.dst.scalar && l.dst != .sync false && l.dst != .sync true
  have taken := (modCore_worldsKept s a.core fun c => { c with vqueue := c.vqueue.map fun o => if own o then { o with tid := host } else o }).trans
    (modAgent_worldsKept _ host (f := fun h => { h with
      loads := h.loads ++ ls.map fun l => { l with id := n + l.id }
      nextLoad := n + a.nextLoad }) fun _ => ⟨rfl, rfl, rfl, rfl, id⟩)
  exact taken.trans (.of_eq rfl rfl rfl)

theorem saveHitch_worldsKept (core : Nat) (s : State) : WorldsKept s (saveHitch core s) := by
  have handed : WorldsKept s (match s.seqOf core .a with
      | some a => handLines a (ownerTid a) (s.modLc a.lcore fun lc => { lc with srnA := a.regs.srn })
      | none => s) := by
    split
    · exact (modLc_worldsKept _ _ _).trans (handLines_worldsKept _ _ _)
    · exact .refl s
  unfold saveHitch
  dsimp only
  split
  · exact handed.trans (modLc_worldsKept _ _ _)
  · exact handed

/-- The programs of a hitch go; a thread that is no such program keeps the turn. -/
theorem dropAgents_worldsKept (n : Nat) (s : State) : WorldsKept s (dropAgents (fun a => a.host == some n) s) := by
  refine ⟨⟨⟨?_, ?_⟩, ?_, fun hs => ?_⟩, ?_⟩
  case refine_4 =>
    rw [dropAgents_stays (by rw [hs]; rfl)]
    exact .refl _
  all_goals
    unfold dropAgents
    dsimp only
    repeat' split
    all_goals rfl

theorem releaseHitch_worldsKept (core : Nat) (s : State) : WorldsKept s (releaseHitch core s) := by
  have freed := (saveHitch_worldsKept core s).trans (modCore_worldsKept _ core unhitchedCore)
  rw [releaseHitch_eq]
  split
  · exact freed.trans (dropAgents_worldsKept _ _)
  · exact freed

theorem leaveSlot_worldsKept (tid : Nat) (s : State) : WorldsKept s (leaveSlot tid s) := by
  unfold leaveSlot
  split
  · exact .refl s
  · next a _ =>
    have vector : WorldsKept s (match a.slot with | some k => releaseVector a.core k s | none => s) := by
      split
      · exact modCore_worldsKept s _ _
      · exact .refl s
    have unqueued := vector.trans (modCore_worldsKept _ a.core fun c => { c with hitchQ := c.hitchQ.filter (· != tid) })
    refine (unqueued.trans (ite_worldsKept (releaseHitch_worldsKept _ _) (.refl _))).trans (modAgent_worldsKept _ tid fun a => ?_)
    exact ⟨rfl, rfl, rfl, rfl, fun _ => rfl⟩

/-! Boards and queues (R35, R47, R158). -/

theorem checkEnded_worldsKept (n uid : Nat) (s : State) : WorldsKept s (checkEnded n uid s) := by
  induction n generalizing uid s with
  | zero => exact .refl s
  | succ n ih =>
    unfold checkEnded
    split
    · exact .refl s
    · refine ite_worldsKept (.refl s) ?_
      split
      · exact (modBoard_worldsKept s uid _).trans (ih _ _)
      · exact modBoard_worldsKept s uid _

theorem leaveTeam_worldsKept (tid : Nat) (s : State) : WorldsKept s (leaveTeam tid s) := by
  unfold leaveTeam
  split
  · exact .refl s
  · exact (modAgent_worldsKept s tid (f := fun a => { a with team := none, teamVal := noTeam }) fun _ => ⟨rfl, rfl, rfl, rfl, id⟩).trans
      (checkEnded_worldsKept _ _ _)

theorem sendBoard_worldsKept (m : BoardMsg) (s : State) : WorldsKept s (sendBoard m s) := ⟨⟨⟨rfl, rfl⟩, rfl, fun _ => .refl _⟩, rfl⟩

theorem clearMe_worldsKept (tid k : Nat) (mask : Word) (s : State) : WorldsKept s (clearMe tid k mask s) := by
  unfold clearMe
  split
  · exact .refl s
  · split
    · refine ite_worldsKept (.refl s) ?_
      have cleared := fun f : Agent → Vector Word 5 =>
        modAgent_worldsKept s tid (f := fun a => { a with me := f a }) fun _ => ⟨rfl, rfl, rfl, rfl, id⟩
      dsimp only
      split
      · exact (cleared _).trans (sendBoard_worldsKept _ _)
      · exact cleared _
    · exact .refl s

theorem clearAllMe_worldsKept (tid : Nat) (s : State) : WorldsKept s (clearAllMe tid s) :=
  foldl_worldsKept _ (fun s k => clearMe_worldsKept tid k _ s) _ s

theorem dropSeed_worldsKept (tid : Nat) (s : State) : WorldsKept s (dropSeed tid s) :=
  (modAgent_worldsKept s tid (f := fun a => { a with queued := false }) fun _ => ⟨rfl, rfl, rfl, rfl, id⟩).trans (.of_eq rfl rfl rfl)

/-- The thread of a rival that has ended is gone from slot, queue, boards and team. -/
theorem threadGone_worldsKept (tid : Nat) (s : State) {f : Agent → Agent} (hf : ∀ a, AgentStays a (f a)) :
    WorldsKept s ((leaveTeam tid (dropSeed tid (leaveSlot tid (clearAllMe tid s)))).modAgent tid f) :=
  ((((clearAllMe_worldsKept tid s).trans (leaveSlot_worldsKept tid _)).trans (dropSeed_worldsKept tid _)).trans
    (leaveTeam_worldsKept tid _)).trans (modAgent_worldsKept _ tid hf)

/-! Views (R68, R158). -/

theorem failTasks_worldsKept (pkg tag : Nat) (s : State) : WorldsKept s (failTasks pkg tag s) := by
  refine foldl_worldsKept _ (fun s a => ?_) _ s
  have failed := ((leaveSlot_worldsKept a.tid s).trans (dropSeed_worldsKept a.tid _)).trans
    (modAgent_worldsKept _ a.tid (f := fun a => { a with state := .failed }) fun _ => ⟨rfl, rfl, rfl, rfl, id⟩)
  exact failed.trans ⟨⟨⟨rfl, rfl⟩, rfl, fun _ => .refl _⟩, rfl⟩

theorem modView_worldsKept (s : State) (pkg tag : Nat) (f : View → View) : WorldsKept s (modView s pkg tag f) :=
  ⟨⟨⟨rfl, rfl⟩, rfl, fun _ => .refl _⟩, rfl⟩

theorem dropView_worldsKept (pkg tag : Nat) (s : State) : WorldsKept s (dropView pkg tag s) := by
  refine WorldsKept.trans (t := s.modLaunch fun l => { l with views := l.views.filter fun v => !(v.pkg == pkg && v.tag == tag) })
    ⟨⟨⟨rfl, rfl⟩, rfl, fun _ => .refl _⟩, rfl⟩ (modPkg_worldsKept _ pkg _)

theorem discardView_worldsKept (pkg tag : Nat) (s : State) : WorldsKept s (discardView pkg tag s) := by
  unfold discardView
  split
  · exact .refl s
  · have unpinned := (failTasks_worldsKept pkg tag s).trans (t := failTasks pkg tag s)
      (WorldsKept.of_eq (t := { failTasks pkg tag s with pins := (failTasks pkg tag s).pins.filter fun p =>
        !(p.launch == (failTasks pkg tag s).launch.id && p.pkg == pkg && p.tag == tag) }) rfl rfl rfl)
    have dirty := unpinned.trans (modPkg_worldsKept _ pkg fun p => { p with
      dirtyTags := if p.dirtyTags.contains tag then p.dirtyTags else p.dirtyTags ++ [tag] })
    exact dirty.trans (ite_worldsKept (modView_worldsKept _ _ _ _) (dropView_worldsKept _ _ _))

/-! Worlds and rivals (R73, R76, R79, R81, R83). -/

/-- What the end of rivals keeps of a world: its name, its winner, and the numbers of its rivals. -/
def worldNames (w : World) : Nat × Option Nat × List Nat := (w.wid, w.winner, w.rivals.map (·.idx))

structure NamesKept (s t : State) : Prop extends FrontKept s t where
  names : t.launch.worlds.map worldNames = s.launch.worlds.map worldNames

theorem WorldsKept.named {s t : State} (h : WorldsKept s t) : NamesKept s t := ⟨h.toFrontKept, by rw [h.worlds]⟩
theorem NamesKept.refl (s : State) : NamesKept s s := (WorldsKept.refl s).named
theorem NamesKept.trans {s t u : State} (h : NamesKept s t) (g : NamesKept t u) : NamesKept s u :=
  ⟨h.toFrontKept.trans g.toFrontKept, g.names.trans h.names⟩
theorem NamesKept.ite {c : Prop} [Decidable c] {s t u : State} (ht : NamesKept s t) (hu : NamesKept s u) :
    NamesKept s (if c then t else u) := by
  split
  · exact ht
  · exact hu
theorem foldl_namesKept {α : Type} (f : State → α → State) (hf : ∀ s x, NamesKept s (f s x)) (l : List α) (s : State) :
    NamesKept s (l.foldl f s) := by
  induction l generalizing s with
  | nil => exact .refl s
  | cons x l ih => exact (hf s x).trans (ih _)

theorem map_modFirst {α β : Type} {p : α → Bool} {f : α → α} {g : α → β} (hg : ∀ a, g (f a) = g a) (l : List α) :
    (modFirst p f l).map g = l.map g := by
  induction l with
  | nil => rfl
  | cons a l ih =>
    rw [modFirst]
    split
    · simp [hg]
    · simp [ih]

theorem modWorld_namesKept (s : State) (wid : Nat) {f : World → World} (hf : ∀ w, worldNames (f w) = worldNames w) :
    NamesKept s (s.modWorld wid f) :=
  ⟨⟨⟨rfl, rfl⟩, rfl, fun _ => .refl _⟩, map_modFirst hf _⟩

theorem modRival_namesKept (s : State) (wid idx : Nat) {f : Rival → Rival} (hf : ∀ r, (f r).idx = r.idx) :
    NamesKept s (s.modRival wid idx f) :=
  modWorld_namesKept s wid fun w => by rw [worldNames, worldNames, map_modFirst hf]

/-- What the death of an outer rival makes of the entry of one that is nested in it (R81). -/
def nestedKilled (r : Rival) : Rival := { r with
  code := if r.code = .live then .killed else r.code
  sbEnt := if r.code = .live then r.sb.length else r.sbEnt
  sbLen := if r.code = .live then (r.sb.map (·.bytes)).foldl (· + ·) 0 else r.sbLen
  sb := [], tag := 0 }

/-- A rival of a world that was forked in a dead view: what it forked is killed first, then it, and its view goes (R81). -/
def killRival (n : Nat) (w : World) (s : State) (r : Rival) : State :=
  let t := (killNested n r.tid s).modRival w.wid r.idx nestedKilled
  discardView w.pkg r.tag (if r.code = .live then
    (leaveTeam r.tid (dropSeed r.tid (leaveSlot r.tid (clearAllMe r.tid t)))).modAgent r.tid
      fun a => { a with state := .failed, killed := false } else t)

theorem killNested_succ (n tid : Nat) (s : State) : killNested (n + 1) tid s =
    (s.launch.worlds.filter fun w => w.forker == tid && w.state != .resolved).foldl (fun s w =>
      (w.rivals.foldl (killRival n w) s).modWorld w.wid fun w =>
        { w with state := .resolved, committing := none, claims := [] }) s := by
  rw [killNested]
  rfl

theorem killNested_namesKept (n tid : Nat) (s : State) : NamesKept s (killNested n tid s) := by
  induction n generalizing tid s with
  | zero => exact .refl s
  | succ n ih =>
    rw [killNested_succ]
    refine foldl_namesKept _ (fun s w => ?_) _ s
    refine NamesKept.trans (foldl_namesKept _ (fun s r => ?_) w.rivals s) (modWorld_namesKept _ w.wid fun _ => rfl)
    have marked := (ih r.tid s).trans (modRival_namesKept _ w.wid r.idx (f := nestedKilled) fun _ => rfl)
    refine (marked.trans (.ite (WorldsKept.named ?_) (.refl _))).trans (discardView_worldsKept w.pkg r.tag _).named
    exact threadGone_worldsKept r.tid _ fun _ => ⟨rfl, rfl, rfl, rfl, id⟩

/-- What follows the end of rivals changes state and commit of their world alone (R79, R83). -/
theorem checkWorld_eq (wid : Nat) (s : State) : checkWorld wid s = s ∨
    ∃ (st : World → WState) (c : World → Option Nat), checkWorld wid s = s.modWorld wid fun w => { w with state := st w, committing := c w } := by
  unfold checkWorld
  split
  · exact .inl rfl
  · dsimp only
    split
    · split
      · exact .inr ⟨fun _ => .ended, (·.committing), rfl⟩
      · split
        · exact .inl rfl
        · next r _ _ => exact .inr ⟨(·.state), fun _ => some r.idx, rfl⟩
      · exact .inl rfl
    · split
      · exact .inr ⟨fun _ => .ended, (·.committing), rfl⟩
      · exact .inl rfl
    · split
      · exact .inr ⟨fun _ => .resolved, (·.committing), rfl⟩
      · exact .inl rfl
    · exact .inl rfl

theorem checkWorld_namesKept (wid : Nat) (s : State) : NamesKept s (checkWorld wid s) := by
  obtain same | ⟨st, c, changed⟩ := checkWorld_eq wid s
  · rw [same]; exact .refl s
  · rw [changed]; exact modWorld_namesKept s wid fun _ => rfl

/-- A world after its saddlebags and views are gone (R76). -/
theorem discardRivals_namesKept (w : World) (s : State) : NamesKept s (w.rivals.foldl (fun s r =>
    (discardView w.pkg r.tag s).modRival w.wid r.idx fun r => { r with sb := [], tag := 0 }) s) :=
  foldl_namesKept _ (fun _ (r : Rival) => (discardView_worldsKept w.pkg r.tag _).named.trans (modRival_namesKept _ w.wid r.idx
    (f := fun r => { r with sb := [], tag := 0 }) fun _ => rfl)) _ s

end Sys2Proof.Machine
end

section
/-! Finding a world and its rivals after a change, and what the end of a rival and of a world comes to (R73, R76). -/

namespace Sys2Proof.Machine

theorem getWorld_wid {s : State} {wid : Nat} {w : World} (h : s.getWorld wid = some w) : w.wid = wid := by
  have meets := List.find?_some h
  simpa using meets

theorem getWorld_of_worlds {s t : State} (h : t.launch.worlds = s.launch.worlds) (wid : Nat) : t.getWorld wid = s.getWorld wid := by
  rw [State.getWorld, State.getWorld, h]

theorem getWorld_modWorld {s : State} {wid : Nat} {w : World} (h : s.getWorld wid = some w) {f : World → World}
    (hf : ∀ w, (f w).wid = w.wid) : (s.modWorld wid f).getWorld wid = some (f w) := by
  have keeps : ∀ w : World, ((f w).wid == wid) = (w.wid == wid) := fun w => by rw [hf]
  rw [State.getWorld] at h
  rw [State.getWorld, State.modWorld_launch, find?_modFirst_of_keeps keeps, h]
  rfl

/-- The rival's entry in a world that a change of rivals leaves. -/
theorem getWorld_modRival {s : State} {wid idx : Nat} {w : World} {r : Rival} (h : s.getWorld wid = some w)
    (hr : w.rivals.find? (·.idx == idx) = some r) {f : Rival → Rival} (hf : ∀ r, (f r).idx = r.idx) :
    ∃ w', (s.modRival wid idx f).getWorld wid = some w' ∧ w'.rivals.find? (·.idx == idx) = some (f r) := by
  have keeps : ∀ r : Rival, ((f r).idx == idx) = (r.idx == idx) := fun r => by rw [hf]
  exact ⟨_, getWorld_modWorld h fun _ => rfl, by rw [find?_modFirst_of_keeps keeps, hr]; rfl⟩

/-- The world stands where names were kept, with its winner and an entry for each rival. -/
theorem NamesKept.getWorld {s t : State} (h : NamesKept s t) {wid : Nat} {w : World} (hw : s.getWorld wid = some w) :
    ∃ w', t.getWorld wid = some w' ∧ w'.winner = w.winner ∧ w'.rivals.map (·.idx) = w.rivals.map (·.idx) := by
  have named : ∀ u : State, (u.getWorld wid).map worldNames = (u.launch.worlds.map worldNames).find? (·.1 == wid) := fun u => by
    rw [State.getWorld, List.find?_map]; rfl
  have found : (t.getWorld wid).map worldNames = some (worldNames w) := by
    rw [named, h.names, ← named, hw]; rfl
  obtain ⟨w', hw', same⟩ := Option.map_eq_some_iff.1 found
  obtain ⟨-, winner, rivals⟩ : w'.wid = w.wid ∧ w'.winner = w.winner ∧ w'.rivals.map (·.idx) = w.rivals.map (·.idx) := by
    simpa [worldNames] using same
  exact ⟨w', hw', winner, rivals⟩

theorem find?_of_map_idx {l m : List Rival} (h : m.map (·.idx) = l.map (·.idx)) {idx : Nat} {r : Rival}
    (hr : l.find? (·.idx == idx) = some r) : ∃ r', m.find? (·.idx == idx) = some r' := by
  have named : ∀ n : List Rival, (n.find? (·.idx == idx)).map (·.idx) = (n.map (·.idx)).find? (· == idx) := fun n => by
    rw [List.find?_map]; rfl
  have found : (m.find? (·.idx == idx)).map (·.idx) = some r.idx := by rw [named, h, ← named, hr]; rfl
  obtain ⟨r', hr', -⟩ := Option.map_eq_some_iff.1 found
  exact ⟨r', hr'⟩

/-! The end of a rival (R73). -/

/-- The entry of a rival that has ended and lost its view and its saddlebag. -/
def lostRival (code : EndCode) (cause : Byte) (lines : Nat) (r : Rival) : Rival := { r with
  code := code, cause := cause, lines := lines
  sbEnt := r.sb.length
  sbLen := (r.sb.map (·.bytes)).foldl (· + ·) 0
  sb := [], tag := 0 }

/-- A code with which a LIVE rival loses its view. -/
def losesView (code : EndCode) : Prop := ¬ (code = .done ∨ code = .claimed ∨ code = .promoted)

section
variable {s : State} {wid idx : Nat} {w : World} {r : Rival} (hw : s.getWorld wid = some w)
  (hr : w.rivals.find? (·.idx == idx) = some r) (hl : r.code = .live) {code : EndCode} (hc : losesView code) (cause : Byte)
include hw hr hl hc

/-- A LIVE rival that loses its view: its own worlds end, its entry is changed, its view and its thread go, and its world is
looked at again, in this order. -/
theorem endRival_lost : ∃ lines u,
    WorldsKept ((killNested 8 r.tid s).modRival wid idx (lostRival code cause lines)) u ∧
      endRival wid idx code cause s = checkWorld wid u := by
  obtain ⟨notDone, notClaimed, notPromoted⟩ : code ≠ .done ∧ code ≠ .claimed ∧ code ≠ .promoted := by
    simpa [losesView] using hc
  refine ⟨((s.getView w.pkg r.tag).map fun v => v.lines.length).getD r.lines, _,
    (discardView_worldsKept w.pkg r.tag _).trans (threadGone_worldsKept r.tid _
      (f := fun a => { a with
        state := if code = .failed ∨ code = .killed then .failed else .done, failCause := cause, killed := false })
      fun _ => ⟨rfl, rfl, rfl, rfl, id⟩), ?_⟩
  rw [endRival, hw]
  dsimp only
  rw [hr]
  simp only [hl, ne_eq, not_true_eq_false, notDone, notClaimed, notPromoted, or_self, if_false]
  rfl

theorem endRival_namesKept : NamesKept s (endRival wid idx code cause s) := by
  obtain ⟨lines, u, kept, ends⟩ := endRival_lost hw hr hl hc cause
  have marked := (killNested_namesKept 8 r.tid s).trans
    (modRival_namesKept _ wid idx (f := lostRival code cause lines) fun _ => rfl)
  rw [ends]
  exact (marked.trans kept.named).trans (checkWorld_namesKept wid u)

/-- The rival's entry holds its code, and no saddlebag. -/
theorem endRival_code : ∃ w' r', (endRival wid idx code cause s).getWorld wid = some w' ∧
    w'.rivals.find? (·.idx == idx) = some r' ∧ r'.code = code ∧ r'.sb = [] := by
  obtain ⟨lines, u, kept, ends⟩ := endRival_lost hw hr hl hc cause
  obtain ⟨w1, hw1, -, numbers⟩ := (killNested_namesKept 8 r.tid s).getWorld hw
  obtain ⟨r1, hr1⟩ := find?_of_map_idx numbers hr
  obtain ⟨w2, hw2, hr2⟩ := getWorld_modRival hw1 hr1 (f := lostRival code cause lines) fun _ => rfl
  rw [← getWorld_of_worlds kept.worlds] at hw2
  rw [ends]
  obtain same | ⟨st, c, changed⟩ := checkWorld_eq wid u
  · rw [same]
    exact ⟨w2, _, hw2, hr2, rfl, rfl⟩
  · rw [changed]
    exact ⟨_, _, getWorld_modWorld hw2 fun _ => rfl, hr2, rfl, rfl⟩

end

/-! The end of a world (R76). -/

theorem discardWorld_namesKept (wid : Nat) (s : State) : NamesKept s (discardWorld wid s) := by
  unfold discardWorld
  split
  · exact .refl s
  · next w hw =>
    rw [← getWorld_wid hw]
    exact (discardRivals_namesKept w s).trans (modWorld_namesKept _ w.wid fun _ => rfl)

/-- The world is RESOLVED with the winner that it had. -/
theorem discardWorld_resolved {s : State} {wid : Nat} {w : World} (hw : s.getWorld wid = some w) :
    ∃ w', (discardWorld wid s).getWorld wid = some w' ∧ w'.state = .resolved ∧ w'.winner = w.winner := by
  have named := discardRivals_namesKept w s
  rw [getWorld_wid hw] at named
  obtain ⟨w', hw', winner, -⟩ := named.getWorld hw
  unfold discardWorld
  rw [hw]
  exact ⟨_, getWorld_modWorld hw' fun _ => rfl, rfl, winner⟩

end Sys2Proof.Machine
end

section
/-! The instructions of worlds, one by one (R75, R76). -/

open Sys2Proof Sys2Proof.Machine Sys2Proof.Claims

namespace Sys2Proof.Claims

/-! What they share. -/

/-- An issue depends on its body at the state itself, and behind the chunk's commit. -/
theorem issue_congr {l : Legal} {body body' : Run Unit} {s : State} (hr : Ready l s) (hc : ChunkEmpty s)
    (now : body s = body' s) (later : body (freshChunk s) = body' (freshChunk s)) : issue l body s = issue l body' s := by
  simp only [issue, hr.1, if_true, runBody, commitChunk_empty hc, now, later]

/-- An instruction that starts what it then waits for. -/
theorem issue_start {l : Legal} {body : Run Unit} {s : State} {f : State → State} {w : Wait} (hr : Ready l s)
    (hb : body s = .error (.start f w)) : issue l body s = .next (park w (f s)) := issue_error hr hb (by simp)

theorem ownWorld_of_eq {s t : State} (ho : t.cur.own = s.cur.own) (hw : t.launch.worlds = s.launch.worlds) :
    ownWorld t = ownWorld s := by
  have found : t.getWorld = s.getWorld := funext (getWorld_of_worlds hw)
  rw [ownWorld, ownWorld, ho, found]

theorem getWorld_of_ownWorld {s : State} {w : World} (h : ownWorld s = some w) : s.getWorld w.wid = some w := by
  obtain ⟨wid, -, hw⟩ := Option.bind_eq_some_iff.1 h
  rwa [getWorld_wid hw]

/-- What reading an operand leaves of worlds, views and the thread's own world. -/
theorem reads_ownWorld {o : GOp} {s t : State} {v : Word} (h : Reads o s v t) : ownWorld t = ownWorld s :=
  ownWorld_of_eq (by rw [reads_cur h]) (by rw [reads_launch h])
theorem reads_getView {o : GOp} {s t : State} {v : Word} (h : Reads o s v t) (p g : Nat) : t.getView p g = s.getView p g := by
  rw [State.getView, State.getView, reads_launch h]
theorem reads_closed {o : GOp} {s t : State} {v : Word} (h : Reads o s v t) (hs : s.cur.chunk.closed = true) :
    t.cur.chunk.closed = true := by
  cases o with
  | reg n => obtain ⟨-, -, rfl⟩ := h; exact hs
  | port d => obtain ⟨-, rest, -, rfl⟩ := h; rw [State.modLc_cur]; rfl

/-! WIDX and WSTAT. -/

theorem widx_writes {s t : State} {g : GOp} (hr : Ready onThread s)
    (hw : Writes g (if s.cur.world.isSome = true then BitVec.ofNat 64 s.cur.ridx else -1) s t) :
    exec (.widx g) s = .next (finish t) := by
  refine issue_ok hr ?_ (writes_tidy hw (ready_tidy hr))
  rw [run_bind, run_get]
  exact writeOp_ok hw

theorem codeNat_lt (c : EndCode) : codeNat c < 16 := by cases c <;> decide

theorem wstatFields_ofNat {code cause len ent lines : Nat} (hcode : code < 16) (hcause : cause < 256) (hlen : len < 2 ^ 16)
    (hent : ent < 256) (hlines : lines < 2 ^ 16) : WstatFields code cause len ent lines
      (BitVec.ofNat 64 (lines * 2 ^ 48 + ent * 2 ^ 40 + len * 2 ^ 24 + cause * 2 ^ 16 + code)) := by
  unfold WstatFields
  rw [BitVec.toNat_ofNat]
  omega

theorem wstatWord_live {s : State} {w : World} {r : Rival} {v : View} (hl : r.code = .live)
    (hv : s.getView w.pkg r.tag = some v) : WstatFields 0 0 (sbTotal r % 2 ^ 16) (r.sb.length % 256)
      (min v.lines.length 0xFFFF) (wstatWord s w r) := by
  have word : wstatWord s w r = BitVec.ofNat 64 (min v.lines.length 0xFFFF * 2 ^ 48 + r.sb.length % 256 * 2 ^ 40
      + sbTotal r % 2 ^ 16 * 2 ^ 24 + 0 * 2 ^ 16 + 0) := by simp [wstatWord, hl, hv, codeNat]
  rw [word]
  exact wstatFields_ofNat (by omega) (by omega) (by omega) (by omega) (by omega)

theorem wstatWord_ended {s : State} {w : World} {r : Rival} (hl : r.code ≠ .live) :
    WstatFields (codeNat r.code) (if r.code = .failed then r.cause.toNat else 0) (r.sbLen % 2 ^ 16) (r.sbEnt % 256)
      (min r.lines 0xFFFF) (wstatWord s w r) := by
  have ended : (r.code == .live) = false := by simpa using hl
  have word : wstatWord s w r = BitVec.ofNat 64 (min r.lines 0xFFFF * 2 ^ 48 + r.sbEnt % 256 * 2 ^ 40
      + r.sbLen % 2 ^ 16 * 2 ^ 24 + (if r.code = .failed then r.cause.toNat else 0) * 2 ^ 16 + codeNat r.code) := by
    simp only [wstatWord, ended, Bool.false_eq_true, if_false, ite_mul, Nat.zero_mul]
    rfl
  rw [word]
  refine wstatFields_ofNat (codeNat_lt _) ?_ (by omega) (by omega) (by omega)
  split
  · exact r.cause.isLt
  · decide

/-- What WSTAT writes: the word of the rival of that number in the thread's own world, 15 where there is none (R76). -/
def wstatValue (s : State) (k : Nat) : Word :=
  match (ownWorld s).bind fun w => (w.rivals.find? (·.idx == k)).map fun r => (w, r) with
  | some (w, r) => wstatWord s w r
  | none => 0xF

theorem wstatValue_none {s : State} {k : Nat}
    (h : ownWorld s = none ∨ ∃ w, ownWorld s = some w ∧ w.rivals.find? (·.idx == k) = none) : wstatValue s k = 15 := by
  unfold wstatValue
  obtain none | ⟨w, own, none⟩ := h
  · simp only [none, Option.bind_none]
  · simp only [own, Option.bind_some, none, Option.map_none]

theorem wstatValue_rival {s : State} {k : Nat} {w : World} {r : Rival} (ho : ownWorld s = some w)
    (hf : w.rivals.find? (·.idx == k) = some r) : wstatValue s k = wstatWord s w r := by
  simp only [wstatValue, ho, Option.bind_some, hf, Option.map_some]

theorem wstat_writes {s s1 t : State} {g o : GOp} {v : Word} (hr : Ready onThread s) (hv : Reads o s v s1)
    (hw : Writes g (wstatValue s1 (v.toNat % 16)) s1 t) : exec (.wstat g o) s = .next (finish t) := by
  refine issue_ok hr ?_ (writes_tidy hw (reads_tidy hv (ready_tidy hr)))
  simp only [run_bind, readOp_ok hv, run_get]
  exact writeOp_ok hw

/-! CLAIMW and ABANDW. -/

section
variable {s : State} (hr : Ready onThread s) (hc : ChunkEmpty s) {wid : Nat} (hw : s.cur.world = some wid)
include hr hc hw

/-- In a promoted rival CLAIMW and ABANDW are DONE (R79). -/
theorem promoted_done (hp : s.cur.promoted = true) : exec .claimw s = exec .done s ∧ exec .abandw s = exec .done s := by
  have world : (freshChunk s).cur.world = some wid := hw
  have promoted : (freshChunk s).cur.promoted = true := hp
  constructor
  all_goals
    refine issue_congr hr hc ?_ ?_
    · simp only [run_bind, run_get, hw, hp, if_true]
    · simp only [run_bind, run_get, world, promoted, if_true]

theorem claimw_claims (hp : s.cur.promoted = false) (ha : s.cur.asking = false) {w : World} (hg : s.getWorld wid = some w) :
    ∃ t, exec .claimw s = .next t ∧ t.getWorld wid = some { w with claims := w.claims ++ [s.cur.ridx] } ∧
      t.cur.asking = true ∧ t.cur.wait = some (.resource .answer) ∧ t.cur.regs = s.cur.regs ∧ t.mem = s.mem ∧
      t.launch.lmem = s.launch.lmem := by
  have body : ∀ u, u = ((closing s).modWorld wid fun w => { w with claims := w.claims ++ [s.cur.ridx] }).modCur
      (fun a => { a with asking := true }) → exec .claimw s = .next (park (.resource .answer) u) := by
    rintro u rfl
    refine issue_keep hr ?_
    simp only [run_bind, run_get, hw, hp, Bool.false_eq_true, if_false, betweenChunks_ok hc, ha, Bool.not_false, if_true,
      run_modify, keepStalled, run_throw]
  exact ⟨_, body _ rfl, getWorld_modWorld (s := closing s) hg fun _ => rfl, rfl, rfl, rfl, rfl, rfl⟩

theorem abandw_ends (hn : s.cur.host = none) (hp : s.cur.promoted = false) (hh : hitched s = false) {w : World} {r : Rival}
    (hg : s.getWorld wid = some w) (hf : w.rivals.find? (fun r => r.idx == s.cur.ridx) = some r) (hl : r.code = .live) :
    ∃ t w' r', exec .abandw s = .next t ∧ t.getWorld wid = some w' ∧
      w'.rivals.find? (fun r => r.idx == s.cur.ridx) = some r' ∧ r'.code = .abandoned ∧ r'.sb = [] ∧ t.mem = s.mem ∧
      t.launch.lmem = s.launch.lmem := by
  have loses : losesView .abandoned := by simp [losesView]
  have kept := endRival_namesKept (s := closing s) hg hf hl loses 0
  obtain ⟨w', r', hw', hr', code, bag⟩ := endRival_code (s := closing s) hg hf hl loses 0
  refine ⟨_, w', r', issue_ok hr (t := endRival wid s.cur.ridx .abandoned 0 (closing s)) ?_
    (.inr (kept.chunkEmpty hn hc)), (getWorld_of_worlds ?_ wid).trans hw',
    hr', code, bag, ?_, ?_⟩
  · have unhitched : hitched (closing s) = false := hh
    simp only [run_bind, run_get, hw, hp, Bool.false_eq_true, if_false, betweenChunks_ok hc, unhitched, run_modify]
  · rw [finish_launch]
  · rw [finish_mem]; exact kept.same.1
  · rw [finish_launch]; exact kept.same.2

end

/-! JOINW. -/

/-- No rival is LIVE and no commit is under way, or the world is RESOLVED (R76, R77). -/
def HasEnded (w : World) : Prop := w.state = .resolved ∨ (w.committing = none ∧ ∀ r ∈ w.rivals, r.code ≠ .live)

theorem hasEnded_iff (w : World) : HasEnded w ↔ ¬ (w.state ≠ .resolved ∧ ¬ worldOver w) := by
  have ended : worldOver w = true ↔ w.committing = none ∧ ∀ r ∈ w.rivals, r.code ≠ .live := by
    simp [worldOver, and_comm]
  rw [HasEnded, ← ended]
  tauto

theorem awaitWorld_ok {w : World} (h : HasEnded w) (s : State) : awaitWorld w s = .ok ((), s) := by
  rw [hasEnded_iff] at h
  simp only [awaitWorld, if_neg h, run_pure]
theorem awaitWorld_waits {w : World} (h : ¬ HasEnded w) (s : State) : awaitWorld w s = .error (.wait (.blocked .world)) := by
  rw [hasEnded_iff, not_not] at h
  simp only [awaitWorld, if_pos h, blocked, run_throw]

/-- The end code of rival k, 15 beyond the last (R76). -/
def endDigit (w : World) (k : Nat) : Nat :=
  match w.rivals.find? (fun r => r.idx == k) with
  | some r => codeNat r.code
  | none => 15

theorem endDigit_lt (w : World) (k : Nat) : endDigit w k < 16 := by
  unfold endDigit
  split
  · exact codeNat_lt _
  · decide

theorem foldl_digits {d : Nat → Nat} (hd : ∀ k, d k < 16) (n : Nat) :
    (List.range n).foldl (fun v k => v + d k * 16 ^ k) 0 < 16 ^ n ∧
      ∀ k < n, (List.range n).foldl (fun v k => v + d k * 16 ^ k) 0 / 16 ^ k % 16 = d k := by
  induction n with
  | zero => simp
  | succ n ih =>
    obtain ⟨small, digits⟩ := ih
    rw [List.range_succ, List.foldl_append, List.foldl_cons, List.foldl_nil]
    generalize (List.range n).foldl (fun v k => v + d k * 16 ^ k) 0 = v at small digits
    have top := hd n
    constructor
    · have below : d n * 16 ^ n ≤ 15 * 16 ^ n := Nat.mul_le_mul_right _ (by omega)
      rw [pow_succ]
      omega
    · intro k hk
      obtain rfl | hk := Nat.eq_or_lt_of_le (Nat.lt_succ_iff.1 hk)
      · rw [Nat.add_mul_div_right _ _ (by positivity), Nat.div_eq_of_lt small, Nat.zero_add, Nat.mod_eq_of_lt top]
      · obtain ⟨m, rfl⟩ : ∃ m, n = k + 1 + m := ⟨n - (k + 1), by omega⟩
        have shifted : v + d (k + 1 + m) * 16 ^ (k + 1 + m) = v + 16 * (d (k + 1 + m) * 16 ^ m) * 16 ^ k := by ring
        rw [shifted, Nat.add_mul_div_right _ _ (by positivity), Nat.add_mul_mod_self_left]
        exact digits k hk

theorem joinValue_digits (w : World) {k : Nat} (hk : k < 16) : (joinValue w).toNat / 16 ^ k % 16 = endDigit w k := by
  obtain ⟨small, digits⟩ := foldl_digits (endDigit_lt w) 16
  have value : (joinValue w).toNat = (List.range 16).foldl (fun v k => v + endDigit w k * 16 ^ k) 0 := by
    rw [joinValue, BitVec.toNat_ofNat]
    exact Nat.mod_eq_of_lt small
  rw [value]
  exact digits k hk

section
variable {s : State} (hr : Ready onThread s) (hc : ChunkEmpty s)
include hr hc

theorem joinw_none {g : GOp} {t : State} (hn : ownWorld s = none) (hw : Writes g (-1) (closing s) t) :
    exec (.joinw g) s = .next (advanceAlone t) := by
  have none : ownWorld (closing s) = none := hn
  refine issue_alone hr ?_ (writes_tidy hw (.inr hc)) (writes_closed hw rfl)
  simp only [run_bind, betweenChunks_ok hc, run_get, none]
  exact writeOp_ok hw

theorem joinw_waits {w : World} (ho : ownWorld s = some w) (he : ¬ HasEnded w) (g : GOp) :
    exec (.joinw g) s = .next (park (.blocked .world) s) := by
  have own : ownWorld (closing s) = some w := ho
  refine issue_wait hr ?_
  simp only [run_bind, betweenChunks_ok hc, run_get, own, awaitWorld_waits he]

theorem joinw_codes {w : World} (ho : ownWorld s = some w) (he : HasEnded w) {g : GOp} {t : State}
    (hw : Writes g (joinValue w) (closing s) t) : exec (.joinw g) s = .next (advanceAlone t) := by
  have own : ownWorld (closing s) = some w := ho
  refine issue_alone hr ?_ (writes_tidy hw (.inr hc)) (writes_closed hw rfl)
  simp only [run_bind, betweenChunks_ok hc, run_get, own, awaitWorld_ok he]
  exact writeOp_ok hw

/-! CHOOSEW. -/

theorem choosew_none {q : QDst} {o : GOp} {v : Word} {s1 t : State} (hn : ownWorld s = none) (hv : Reads o (closing s) v s1)
    (hw : WritesQ q false s1 t) : exec (.choosew q o) s = .next (advanceAlone t) := by
  have none : ownWorld (closing s) = none := hn
  refine issue_alone hr ?_ (writesQ_tidy hw (reads_tidy hv (.inr hc))) (writesQ_closed hw (reads_closed hv rfl))
  simp only [run_bind, betweenChunks_ok hc, run_get, none, readOp_ok hv]
  exact writeQDst_ok hw

theorem choosew_waits {w : World} (ho : ownWorld s = some w) (he : ¬ HasEnded w) (q : QDst) (o : GOp) :
    exec (.choosew q o) s = .next (park (.blocked .world) s) := by
  have own : ownWorld (closing s) = some w := ho
  refine issue_wait hr ?_
  simp only [run_bind, betweenChunks_ok hc, run_get, own, awaitWorld_waits he]

section
variable {w : World} (ho : ownWorld s = some w) (he : HasEnded w) {q : QDst} {o : GOp} {v : Word} {s1 t : State}
  (hv : Reads o (closing s) v s1)
include ho he hv

theorem choosew_beyond (hk : 16 ≤ v.toNat) (hw : WritesQ q false s1 t) : exec (.choosew q o) s = .next (advanceAlone t) := by
  have own : ownWorld (closing s) = some w := ho
  refine issue_alone hr ?_ (writesQ_tidy hw (reads_tidy hv (.inr hc))) (writesQ_closed hw (reads_closed hv rfl))
  simp only [run_bind, betweenChunks_ok hc, run_get, own, awaitWorld_ok he, readOp_ok hv, if_pos hk]
  exact writeQDst_ok hw

section
variable (hk : v.toNat < 16)
include hk

theorem choosew_resolved (hs : w.state = .resolved) (hw : WritesQ q (decide (w.winner = some v.toNat)) s1 t) :
    exec (.choosew q o) s = .next (advanceAlone t) := by
  have own : ownWorld (closing s) = some w := ho
  have won : (w.winner == some v.toNat) = decide (w.winner = some v.toNat) := beq_eq_decide ..
  refine issue_alone hr ?_ (writesQ_tidy hw (reads_tidy hv (.inr hc))) (writesQ_closed hw (reads_closed hv rfl))
  simp only [run_bind, betweenChunks_ok hc, run_get, own, awaitWorld_ok he, readOp_ok hv, if_neg (Nat.not_le.2 hk), if_pos hs, won]
  exact writeQDst_ok hw

theorem choosew_commits (hs : w.state ≠ .resolved)
    (hd : (w.rivals.find? (fun r => r.idx == v.toNat)).map (·.code) = some .done) : exec (.choosew q o) s = .next
      (park (.blocked .world) (s.modWorld w.wid fun w => { w with committing := some v.toNat, linesDone := false })) := by
  have own : ownWorld (closing s) = some w := ho
  refine issue_start hr (f := fun s => s.modWorld w.wid fun w => { w with committing := some v.toNat, linesDone := false }) ?_
  simp only [run_bind, betweenChunks_ok hc, run_get, own, awaitWorld_ok he, readOp_ok hv, if_neg (Nat.not_le.2 hk), if_neg hs, hd,
    startWaiting, run_throw]

theorem choosew_discards (hn : s.cur.host = none) (hs : w.state ≠ .resolved) {c : Option EndCode}
    (hf : (w.rivals.find? (fun r => r.idx == v.toNat)).map (·.code) = c) (hd : c ≠ some .done)
    (hw : WritesQ q (decide (c = some .promoted)) (discardWorld w.wid s1) t) : exec (.choosew q o) s = .next (advanceAlone t) := by
  have own : ownWorld (closing s) = some w := ho
  have kept := discardWorld_namesKept w.wid s1
  have host : s1.cur.host = none := by rw [reads_cur hv]; exact hn
  have empty := kept.chunkEmpty host (reads_chunkEmpty hv hc)
  have closed : (discardWorld w.wid s1).cur.chunk.closed = true := by
    rw [(kept.front host).chunk]; exact reads_closed hv rfl
  have promoted : (c == some .promoted) = decide (c = some .promoted) := beq_eq_decide ..
  refine issue_alone hr ?_ (writesQ_tidy hw (.inr empty)) (writesQ_closed hw closed)
  simp only [run_bind, betweenChunks_ok hc, run_get, own, awaitWorld_ok he, readOp_ok hv, if_neg (Nat.not_le.2 hk), if_neg hs, hf,
    run_modify, promoted]
  exact writeQDst_ok hw

end
end
end

end Sys2Proof.Claims

/-- Settles O40: WIDX and WSTAT write a value; CLAIMW and ABANDW change the rival's own world; JOINW and CHOOSEW wait for the thread's
last world, and complete once it has ended. -/
theorem worldInstructionsResult : Obligations.WorldInstructionsResult := by
  unfold Obligations.WorldInstructionsResult
  intro s hr hn
  refine ⟨fun g t hw => widx_writes hr hw, fun g o v s1 hv => ⟨fun t hnone hw => ?_, fun w r ho hf => ?_⟩,
    fun hc => ⟨fun wid hw => ⟨promoted_done hr hc hw, fun hp ha w hg => claimw_claims hr hc hw hp ha hg,
      fun hp hh w r hg hf hl => abandw_ends hr hc hw hn hp hh hg hf hl⟩,
    fun hnone => ⟨fun g t hw => joinw_none hr hc hnone hw, fun q o v s1 t hv hw => choosew_none hr hc hnone hv hw⟩,
    fun w ho => ⟨fun hwait => ⟨joinw_waits hr hc ho hwait, choosew_waits hr hc ho hwait⟩, fun he => ⟨?_, fun q o v s1 hv =>
      ⟨fun hk t hw => choosew_beyond hr hc ho he hv hk hw, fun hk hs t hw => choosew_resolved hr hc ho he hv hk hs hw,
        fun hk hs => ⟨fun hd => ?_, fun hd t hw => choosew_discards hr hc ho he hv hk hn hs rfl hd hw⟩⟩⟩⟩⟩⟩
  · refine wstat_writes hr hv ?_
    rw [wstatValue_none (by rw [reads_ownWorld hv]; exact hnone)]
    exact hw
  · refine ⟨wstatWord s1 w r, fun t hw => wstat_writes hr hv ?_, fun view hl hview => ?_, wstatWord_ended⟩
    · rw [wstatValue_rival ((reads_ownWorld hv).trans ho) hf]
      exact hw
    · have ended : r.code ≠ .failed := by rw [hl]; decide
      rw [if_neg ended]
      exact wstatWord_live hl (by rw [reads_getView hv, hview])
  · exact ⟨joinValue w, fun k hk => joinValue_digits w hk, fun g t hw => joinw_codes hr hc ho he hw⟩
  · exact ⟨_, choosew_commits hr hc ho he hv hk hs hd, getWorld_modWorld (getWorld_of_ownWorld ho) fun _ => rfl, rfl, rfl, rfl⟩

end

section
/-! The arrival of a claim, and the death of a killed rival (R75). -/

namespace Sys2Proof.Machine

/-! What putting a part of the machine in front leaves. -/

theorem focusCore_worldsKept (i : Nat) (s : State) : WorldsKept s (focusCore i s) := by
  unfold focusCore
  exact ite_worldsKept (.refl s) (.of_eq rfl rfl rfl)
theorem focusLc_worldsKept (n : Nat) (s : State) : WorldsKept s (focusLc n s) := by
  unfold focusLc
  exact ite_worldsKept (.refl s) ⟨⟨⟨rfl, rfl⟩, rfl, fun _ => .refl _⟩, rfl⟩

theorem focusCore_launch (i : Nat) (s : State) : (focusCore i s).launch = s.launch := by unfold focusCore; split <;> rfl
theorem focusCore_getAgent (i : Nat) (s : State) (tid : Nat) : (focusCore i s).getAgent tid = s.getAgent tid := by
  unfold focusCore
  split
  · rfl
  · exact getAgent_of_eq rfl rfl tid

theorem onWorld_front {s : State} {wid : Nat} {w : World} (h : s.getWorld wid = some w) (f : State → State) :
    onWorld wid f s = f s := by
  rw [onWorld, h]; rfl

/-- A change on the launch in front, whose thread stays in front, changes worlds no further. -/
theorem inLaunch_front {s : State} {f : State → State} (n : Nat) (hn : s.cur.host = none) (hc : s.cur.launch = s.launch.id)
    (hf : NamesKept (focusLc n s) (f (focusLc n s))) :
    WorldsKept (f (focusLc n s)) (inLaunch s.launch.id n f s) := by
  have focused := focusLc_worldsKept n s
  have kept := focused.toFrontKept.trans hf.toFrontKept
  have mine : (f (focusLc n s)).launch.id = (f (focusLc n s)).cur.launch := by
    rw [kept.launchId, (kept.front hn).launch, hc]
  have front : focusLaunch s.launch.id n s = focusLc n s := by rw [focusLaunch, if_pos rfl]
  rw [inLaunch, front, focusLaunch, if_pos mine]
  exact (focusLc_worldsKept _ _).trans (focusCore_worldsKept _ _)

/-! CLAIM_ARRIVAL. -/

/-- In FREE mode an event is counted, and nothing is logged (R165). -/
theorem logEvent_free {s : State} (h : s.launch.mode = .free) (lc sq kind site : Nat) (pred : Option Nat) :
    logEvent s lc sq kind site pred = s.modLaunch fun l => { l with
      ords := aset (ordKey lc sq kind) (ordCount s lc sq kind + 1) l.ords
      sites := (site, lc, sq, ordCount s lc sq kind) :: l.sites.filter (·.1 != site) } := by
  simp only [logEvent, h, reduceCtorEq, false_and, if_false]

/-- What a claim that wins makes of another rival of its world (R75). -/
def loseClaim (wid idx : Nat) (w : World) (s : State) (r : Rival) : State :=
  if r.idx = idx then s
  else match r.code with
  | .live => match s.getAgent r.tid with
    | some a => if runsNow a then s.modAgent r.tid fun a => { a with killed := true } else endRival wid r.idx .killed 0 s
    | none => s
  | .done => (discardView w.pkg r.tag s).modRival wid r.idx fun r => { r with sb := [], tag := 0 }
  | _ => s

/-- A world under the claim that has won it. -/
def claimed (idx : Nat) (w : World) : World :=
  { w with state := .claimed, winner := some idx, committing := some idx, linesDone := false, claims := [] }

/-- The claim is an event of the order log. -/
def claimNoted (wid : Nat) (w : World) (s : State) : State :=
  focusCore s.cur.core (logEvent (focusCore (((s.getAgent w.forker).map (·.core)).getD s.core.id) s)
    w.lcore 0 3 (siteWorld wid) (some w.origin))

theorem winClaim_eq {s : State} {wid : Nat} {w : World} (h : s.getWorld wid = some w) (idx : Nat) : winClaim wid idx s =
    w.rivals.foldl (loseClaim wid idx w) ((claimNoted wid w s).modWorld wid (claimed idx)) := by
  rw [winClaim, h]
  rfl

theorem claimNoted_free {s : State} (h : s.launch.mode = .free) (wid : Nat) (w : World) :
    (claimNoted wid w s).mem = s.mem ∧ (claimNoted wid w s).launch.worlds = s.launch.worlds ∧
      ∀ tid, (claimNoted wid w s).getAgent tid = s.getAgent tid := by
  have front := focusCore_worldsKept (((s.getAgent w.forker).map (·.core)).getD s.core.id) s
  have logged := logEvent_free (s := focusCore (((s.getAgent w.forker).map (·.core)).getD s.core.id) s)
    (by rw [focusCore_launch, h]) w.lcore 0 3 (siteWorld wid) (some w.origin)
  unfold claimNoted
  rw [logged]
  refine ⟨?_, ?_, fun tid => ?_⟩
  · rw [(focusCore_worldsKept _ _).same.1]; exact front.same.1
  · rw [(focusCore_worldsKept _ _).worlds]; exact front.worlds
  · rw [focusCore_getAgent]; exact focusCore_getAgent _ s tid

theorem claimArrival_wins {s : State} {wid idx : Nat} {w : World} (hw : s.getWorld wid = some w)
    (hp : pickOne s.cycle w.claims = some idx) (hs : w.state = .opened) (hc : w.committing = none)
    (hl : (w.rivals.any fun r => r.idx == idx && r.code == .live) = true) (hm : s.launch.mode = .free) :
    claimArrival wid s = winClaim wid idx s := by
  rw [claimArrival, hw]
  dsimp only
  rw [if_pos hm, hp]
  simp [hl, hs, hc, hm]

/-- Rivals are marked to be killed, and nothing else changes. -/
structure KillsMarked (s t : State) : Prop where
  launch : t.launch = s.launch
  mem : t.mem = s.mem
  agents : ∀ i a, s.getAgent i = some a → ∃ b, t.getAgent i = some b ∧ runsNow b = runsNow a ∧ (a.killed = true → b.killed = true)

theorem KillsMarked.refl (s : State) : KillsMarked s s := ⟨rfl, rfl, fun _ a h => ⟨a, h, rfl, id⟩⟩
theorem KillsMarked.trans {s t u : State} (h : KillsMarked s t) (g : KillsMarked t u) : KillsMarked s u := by
  refine ⟨g.launch.trans h.launch, g.mem.trans h.mem, fun i a ha => ?_⟩
  obtain ⟨b, hb, runs, killed⟩ := h.agents i a ha
  obtain ⟨c, hc, runs', killed'⟩ := g.agents i b hb
  exact ⟨c, hc, runs'.trans runs, fun k => killed' (killed k)⟩

theorem modAgent_killsMarked (s : State) (tid : Nat) : KillsMarked s (s.modAgent tid fun a => { a with killed := true }) := by
  refine ⟨rfl, rfl, fun i a ha => ⟨if a.tid = tid then { a with killed := true } else a, ?_, ?_, fun k => ?_⟩⟩
  · rw [getAgent_of_map (f := fun a => if a.tid = tid then { a with killed := true } else a) (fun a => by split <;> rfl) rfl rfl, ha]
    rfl
  · split <;> rfl
  · split
    · rfl
    · exact k

theorem foldl_loseClaim {wid idx : Nat} {w : World} (l : List Rival) {s : State}
    (hl : ∀ r ∈ l, r.idx ≠ idx → r.code = .live ∧ ∃ a, s.getAgent r.tid = some a ∧ runsNow a = true) :
    KillsMarked s (l.foldl (loseClaim wid idx w) s) ∧
      ∀ r ∈ l, r.idx ≠ idx → ∃ a, (l.foldl (loseClaim wid idx w) s).getAgent r.tid = some a ∧ a.killed = true := by
  induction l generalizing s with
  | nil => exact ⟨.refl s, by simp⟩
  | cons r l ih =>
    have first : KillsMarked s (loseClaim wid idx w s r) ∧
        (r.idx ≠ idx → ∃ a, (loseClaim wid idx w s r).getAgent r.tid = some a ∧ a.killed = true) := by
      unfold loseClaim
      split
      · next won => exact ⟨.refl s, fun other => absurd won other⟩
      · next other =>
        obtain ⟨live, a, ha, runs⟩ := hl r List.mem_cons_self other
        simp only [live, ha, runs, if_true]
        refine ⟨modAgent_killsMarked s r.tid, fun _ => ⟨{ a with killed := true }, ?_, rfl⟩⟩
        rw [getAgent_modAgent_same s r.tid (f := fun a => { a with killed := true }) fun _ => rfl, ha]
        rfl
    obtain ⟨marked, dead⟩ := first
    have rest : ∀ x ∈ l, x.idx ≠ idx → x.code = .live ∧ ∃ a, (loseClaim wid idx w s r).getAgent x.tid = some a ∧ runsNow a = true := by
      intro x hx other
      obtain ⟨live, a, ha, runs⟩ := hl x (List.mem_cons_of_mem r hx) other
      obtain ⟨b, hb, same, -⟩ := marked.agents _ a ha
      exact ⟨live, b, hb, same.trans runs⟩
    obtain ⟨later, others⟩ := ih rest
    refine ⟨marked.trans later, fun x hx other => ?_⟩
    obtain rfl | hx := List.mem_cons.1 hx
    · obtain ⟨a, ha, killed⟩ := dead other
      obtain ⟨b, hb, -, stays⟩ := later.agents _ a ha
      exact ⟨b, hb, stays killed⟩
    · exact others x hx other

theorem claimArrival_result {s : State} {wid idx : Nat} {w : World} (hw : s.getWorld wid = some w)
    (hp : pickOne s.cycle w.claims = some idx) (hs : w.state = .opened) (hc : w.committing = none)
    (hl : (w.rivals.any fun r => r.idx == idx && r.code == .live) = true) (hm : s.launch.mode = .free)
    (hr : ∀ r ∈ w.rivals, r.idx ≠ idx → r.code = .live ∧ ∃ a, s.getAgent r.tid = some a ∧ runsNow a = true) :
    ∃ t, exec (.claimArrival wid) s = .next t ∧ t.getWorld wid = some (claimed idx w) ∧ t.mem = s.mem ∧
      ∀ r ∈ w.rivals, r.idx ≠ idx → ∃ a, t.getAgent r.tid = some a ∧ a.killed = true := by
  obtain ⟨mem, worlds, agents⟩ := claimNoted_free hm wid w
  obtain ⟨marked, dead⟩ := foldl_loseClaim (wid := wid) (idx := idx) (w := w) w.rivals
    (s := (claimNoted wid w s).modWorld wid (claimed idx)) fun r hmem other => by
      obtain ⟨live, a, ha, runs⟩ := hr r hmem other
      exact ⟨live, a, (getAgent_of_eq rfl rfl r.tid).trans ((agents r.tid).trans ha), runs⟩
  have noted : (claimNoted wid w s).getWorld wid = some w := (getWorld_of_worlds worlds wid).trans hw
  refine ⟨winClaim wid idx s, ?_, ?_, ?_, ?_⟩
  · rw [← claimArrival_wins hw hp hs hc hl hm, ← onWorld_front hw (claimArrival wid)]
    rfl
  · rw [winClaim_eq hw]
    exact (getWorld_of_worlds (congrArg Launch.worlds marked.launch) wid).trans
      (getWorld_modWorld noted (f := claimed idx) fun _ => rfl)
  · rw [winClaim_eq hw]
    exact marked.mem.trans mem
  · rw [winClaim_eq hw]
    exact dead

/-! RIVAL_KILL. -/

/-- The killed rival ends, and is marked no more. -/
def killNow (wid idx tid : Nat) (s : State) : State :=
  (endRival wid idx .killed 0 s).modAgent tid fun a => { a with killed := false }

theorem rivalKill_result {s : State} {tid wid : Nat} {a : Agent} {w : World} {r : Rival} (ha : s.getAgent tid = some a)
    (hk : a.killed = true) (hworld : a.world = some wid) (hlaunch : a.launch = s.launch.id) (hcur : s.cur.launch = s.launch.id)
    (hn : s.cur.host = none) (hw : s.getWorld wid = some w) (hr : w.rivals.find? (fun r => r.idx == a.ridx) = some r)
    (hl : r.code = .live) :
    ∃ t w' r', exec (.rivalKill tid) s = .next t ∧ t.getWorld wid = some w' ∧
      w'.rivals.find? (fun r => r.idx == a.ridx) = some r' ∧ r'.code = .killed ∧ t.mem = s.mem := by
  have loses : losesView .killed := by simp [losesView]
  have focused := focusLc_worldsKept a.lcore s
  have found : (focusLc a.lcore s).getWorld wid = some w := (getWorld_of_worlds focused.worlds wid).trans hw
  have unmarked := modAgent_worldsKept (endRival wid a.ridx .killed 0 (focusLc a.lcore s)) tid
    (f := fun a => { a with killed := false }) fun _ => ⟨rfl, rfl, rfl, rfl, id⟩
  have kept : NamesKept (focusLc a.lcore s) (killNow wid a.ridx tid (focusLc a.lcore s)) :=
    (endRival_namesKept found hr hl loses 0).trans unmarked.named
  obtain ⟨w', r', hw', hr', code, -⟩ := endRival_code found hr hl loses 0
  have after := inLaunch_front (f := killNow wid a.ridx tid) a.lcore hn hcur kept
  refine ⟨inLaunch s.launch.id a.lcore (killNow wid a.ridx tid) s, w', r', ?_, ?_, hr', code, ?_⟩
  · show execRivalKill tid s = _
    simp only [execRivalKill, event, ha, hk, hworld, onAgent, hlaunch]
    rfl
  · exact (getWorld_of_worlds (unmarked.trans after).worlds wid).trans hw'
  · exact (focused.same.trans (kept.same.trans after.same)).1

end Sys2Proof.Machine
end

section
/-! The commit of a view into memory, and a tag that is free again (R68, R77). -/

namespace Sys2Proof.Machine
open Sys2Proof.Claims

/-! Bytes of memory, written one after another. -/

theorem readCell_foldl_writeCell (cells : List (Nat × Byte)) {m : List Host.Cell} (h : Memory.wf m = true) (k : Nat) :
    readCell (cells.foldl (fun m c => writeCell m c.1 c.2) m) k = lastByte cells k (readCell m k) := by
  induction cells generalizing m with
  | nil => rfl
  | cons c l ih =>
    rw [List.foldl_cons, ih (writeCell_wf h _ _), readCell_writeCell h]
    simp [lastByte, eq_comm]

/-- Writes below the local spaces change memory alone. -/
theorem foldl_setBaseByte_memory {cells : List (Nat × Byte)} (h : ∀ c ∈ cells, isLocal c.1 = false) (s : State) :
    cells.foldl (fun s c => setBaseByte s c.1 c.2) s = { s with mem := cells.foldl (fun m c => writeCell m c.1 c.2) s.mem } := by
  induction cells generalizing s with
  | nil => rfl
  | cons c l ih =>
    have first : setBaseByte s c.1 c.2 = { s with mem := writeCell s.mem c.1 c.2 } := by
      rw [setBaseByte, h c List.mem_cons_self]
      rfl
    rw [List.foldl_cons, first, ih fun x hx => h x (List.mem_cons_of_mem c hx)]
    rfl

/-- Bytes at successive addresses: the one at the address asked for, where there is one. -/
theorem lastByte_range (base n : Nat) (f : Nat → Byte) (k : Nat) (old : Byte) :
    lastByte ((List.range n).map fun i => (base + i, f i)) k old = if base ≤ k ∧ k < base + n then f (k - base) else old := by
  induction n with
  | zero => simp [lastByte]
  | succ n ih =>
    rw [List.range_succ, List.map_append, lastByte, List.foldl_append]
    rw [lastByte] at ih
    rw [ih, List.map_cons, List.map_nil, List.foldl_cons, List.foldl_nil]
    by_cases last : base + n = k
    · subst last; simp
    · rw [if_neg last]
      exact if_congr (by omega) rfl rfl

/-! One line of a view enters memory (R77). -/

/-- What the commit of lines leaves: all that decides where its bytes go, local memory, and the worlds. -/
structure LinesFrame (s t : State) : Prop where
  core : t.core = s.core
  cores : t.cores = s.cores
  lmem : t.launch.lmem = s.launch.lmem
  worlds : t.launch.worlds = s.launch.worlds

theorem LinesFrame.refl (s : State) : LinesFrame s s := ⟨rfl, rfl, rfl, rfl⟩
theorem LinesFrame.trans {s t u : State} (h : LinesFrame s t) (g : LinesFrame t u) : LinesFrame s u :=
  ⟨g.core.trans h.core, g.cores.trans h.cores, g.lmem.trans h.lmem, g.worlds.trans h.worlds⟩

theorem LinesFrame.noRecords {s t : State} (h : LinesFrame s t) (hs : NoRecords s) : NoRecords t := by
  rw [NoRecords, State.allCores, h.core, h.cores]
  exact hs

/-- Without a named table no byte has an access code (R7). -/
theorem recordAccess_none {s : State} (h : NoRecords s) (k : Nat) : recordAccess s k = none := by
  unfold recordAccess
  split
  · rfl
  · refine List.findSome?_eq_none_iff.2 fun c hc => ?_
    obtain ⟨qtab, trapq, spillr⟩ := h c hc
    simp [recordOffset, qtab, trapq, spillr]

/-- The bytes of a line, with their keys. -/
def lineCells (l : VLine) : List (Nat × Byte) := (List.range 64).map fun i => (64 * l.line + i, lineByte l.data i)

/-- The full-empty bits and the poison of a line's words enter memory. -/
def lineBits (l : VLine) (s : State) : State := (List.range 8).foldl (fun s i =>
  setBasePois (setBaseEmpty s (64 * l.line + 8 * i) (l.empty.getLsbD i)) (64 * l.line + 8 * i) (l.pois.getLsbD i)) s

theorem setBaseEmpty_frame (s : State) (k : Nat) (e : Bool) : LinesFrame s (setBaseEmpty s k e) := by
  unfold setBaseEmpty; dsimp only; split <;> exact ⟨rfl, rfl, rfl, rfl⟩
theorem setBasePois_frame (s : State) (k : Nat) (e : Bool) : LinesFrame s (setBasePois s k e) := by
  unfold setBasePois; dsimp only; split <;> exact ⟨rfl, rfl, rfl, rfl⟩
theorem foldl_linesFrame {α : Type} (f : State → α → State) (hf : ∀ s x, LinesFrame s (f s x)) (l : List α) (s : State) :
    LinesFrame s (l.foldl f s) := by
  induction l generalizing s with
  | nil => exact .refl s
  | cons x l ih => exact (hf s x).trans (ih _)

theorem lineBits_frame (l : VLine) (s : State) : LinesFrame s (lineBits l s) :=
  foldl_linesFrame _ (fun s _ => (setBaseEmpty_frame s _ _).trans (setBasePois_frame _ _ _)) _ s
theorem lineBits_same (l : VLine) (s : State) : SameCells s (lineBits l s) :=
  foldl_same _ (fun s _ => (setBaseEmpty_same s _ _).trans (setBasePois_same _ _ _)) _ s

/-- The bytes of a line stand in memory, and open chunks that had met the line are marked. -/
def lineBytes (pkg : Nat) (l : VLine) (s : State) : State := { noteCommit s pkg 0 l.line with
  mem := (lineCells l).foldl (fun m c => writeCell m c.1 c.2) s.mem }

theorem lineBytes_frame (pkg : Nat) (l : VLine) (s : State) : LinesFrame s (lineBytes pkg l s) := ⟨rfl, rfl, rfl, rfl⟩
theorem lineBytes_mem (pkg : Nat) (l : VLine) (s : State) :
    (lineBytes pkg l s).mem = (lineCells l).foldl (fun m c => writeCell m c.1 c.2) s.mem := by
  simp only [lineBytes]

theorem isLocal_below {k : Nat} (h : k < 2 ^ 79) : isLocal k = false := decide_eq_false (Nat.not_le.2 h)

/-- A line below the local spaces, with no byte in a record. -/
theorem commitLine_memory {s : State} (h : NoRecords s) {l : VLine} (hl : 64 * l.line + 64 ≤ 2 ^ 79) (pkg : Nat) :
    commitLine pkg 0 l s = lineBits l (lineBytes pkg l s) := by
  have plain := recordAccess_none (s := noteCommit s pkg 0 l.line) h
  have below : ∀ c ∈ lineCells l, isLocal c.1 = false := by
    intro c hc
    obtain ⟨i, hi, rfl⟩ := List.mem_map.1 hc
    rw [List.mem_range] at hi
    exact isLocal_below (by omega)
  have bytes := foldl_setBaseByte_memory below (noteCommit s pkg 0 l.line)
  rw [lineCells, List.foldl_map] at bytes
  simp only [commitLine, true_or, if_true, plain, bytes]
  rfl

theorem commitLine_frame {s : State} (h : NoRecords s) {l : VLine} (hl : 64 * l.line + 64 ≤ 2 ^ 79) (pkg : Nat) :
    LinesFrame s (commitLine pkg 0 l s) := by
  rw [commitLine_memory h hl]
  exact (lineBytes_frame pkg l s).trans (lineBits_frame l _)

theorem commitLine_wf {s : State} (h : NoRecords s) (hm : Memory.wf s.mem = true) {l : VLine} (hl : 64 * l.line + 64 ≤ 2 ^ 79)
    (pkg : Nat) : Memory.wf (commitLine pkg 0 l s).mem = true := by
  rw [commitLine_memory h hl, (lineBits_same l _).1, lineBytes_mem]
  exact foldl_writeCell_wf (lineCells l) (·.1) (·.2) hm

theorem commitLine_byte {s : State} (h : NoRecords s) (hm : Memory.wf s.mem = true) {l : VLine} (hl : 64 * l.line + 64 ≤ 2 ^ 79)
    (pkg : Nat) {k : Nat} (hk : isLocal k = false) :
    baseByte (commitLine pkg 0 l s) k = if l.line = lineOf k then lineByte l.data (k % 64) else baseByte s k := by
  rw [commitLine_memory h hl, (lineBits_same l _).byte]
  simp only [baseByte, hk, Bool.false_eq_true, if_false]
  rw [lineBytes_mem, readCell_foldl_writeCell _ hm, lineCells, lastByte_range]
  by_cases inside : l.line = lineOf k
  · have place : 64 * l.line ≤ k ∧ k < 64 * l.line + 64 := by rw [lineOf] at inside; omega
    have offset : k - 64 * l.line = k % 64 := by omega
    rw [if_pos inside, if_pos place, offset]
  · have outside : ¬ (64 * l.line ≤ k ∧ k < 64 * l.line + 64) := by rw [lineOf] at inside; omega
    rw [if_neg inside, if_neg outside]

/-! All lines of a view (R77). -/

/-- The lines enter memory, the newest copy last. -/
theorem foldr_commitLine {s : State} (h : NoRecords s) (hm : Memory.wf s.mem = true) (pkg : Nat) (ls : List VLine)
    (hl : ∀ l ∈ ls, 64 * l.line + 64 ≤ 2 ^ 79) :
    LinesFrame s (ls.foldr (fun l s => commitLine pkg 0 l s) s) ∧
    Memory.wf (ls.foldr (fun l s => commitLine pkg 0 l s) s).mem = true ∧
    ∀ k, isLocal k = false → baseByte (ls.foldr (fun l s => commitLine pkg 0 l s) s) k =
      match ls.find? (·.line == lineOf k) with
      | some l => lineByte l.data (k % 64)
      | none => baseByte s k := by
  induction ls with
  | nil => exact ⟨.refl s, hm, fun _ _ => rfl⟩
  | cons l ls ih =>
    obtain ⟨frame, wf, bytes⟩ := ih fun x hx => hl x (List.mem_cons_of_mem l hx)
    have below := hl l List.mem_cons_self
    have plain := frame.noRecords h
    refine ⟨frame.trans (commitLine_frame plain below pkg), commitLine_wf plain wf below pkg, fun k hk => ?_⟩
    rw [List.foldr_cons, commitLine_byte plain wf below pkg hk, bytes k hk, List.find?_cons]
    by_cases here : l.line = lineOf k
    · simp [here]
    · have other : (l.line == lineOf k) = false := beq_false_of_ne here
      rw [if_neg here, other]

theorem madeResident_frame (s t : State) (keys : List Nat) : LinesFrame t (madeResident s t keys) := by
  unfold madeResident
  split
  · exact .refl t
  · exact foldl_linesFrame (fun t x => fillFrame x t) (fun _ _ => ⟨rfl, rfl, rfl, rfl⟩) _ _

/-- The lines of a view enter memory as one event (R77). -/
theorem commitLines_memory {s : State} {pkg tag : Nat} {v : View} (h : NoRecords s) (hm : Memory.wf s.mem = true)
    (hv : s.getView pkg tag = some v) (hl : ∀ l ∈ v.lines, 64 * l.line + 64 ≤ 2 ^ 79) :
    (commitLines pkg tag 0 s).launch.worlds = s.launch.worlds ∧
    ∀ k, baseByte (commitLines pkg tag 0 s) k = if isLocal k then baseByte s k else
      match v.line? k with
      | some l => lineByte l.data (k % 64)
      | none => baseByte s k := by
  obtain ⟨frame, -, bytes⟩ := foldr_commitLine h hm pkg v.lines hl
  obtain ⟨same, worlds⟩ : SameCells (v.lines.foldr (fun l s => commitLine pkg 0 l s) s) (commitLines pkg tag 0 s) ∧
      (commitLines pkg tag 0 s).launch.worlds = (v.lines.foldr (fun l s => commitLine pkg 0 l s) s).launch.worlds := by
    unfold commitLines
    rw [hv]
    simp only [Option.map_some, Option.getD_some, List.foldl_reverse]
    split
    · exact ⟨madeResident_same _ _ _, (madeResident_frame _ _ _).worlds⟩
    · constructor
      · exact (modView_same _ _ _ _).trans (modPkg_worldsKept _ _ _).same
      · exact (modPkg_worldsKept _ _ _).worlds
  refine ⟨worlds.trans frame.worlds, fun k => ?_⟩
  rw [same.byte]
  cases hk : isLocal k with
  | true => simp only [if_true, baseByte, hk, frame.lmem]
  | false => exact bytes k hk

end Sys2Proof.Machine
end

section
/-! The complete commit of a view that CHOOSEW chose, and a tag that is free again (R68, R76, R77). -/

namespace Sys2Proof.Machine
open Sys2Proof.Claims

/-! VIEW_COMMIT_COMPLETE. -/

theorem modWorld_same (s : State) (wid : Nat) (f : World → World) : SameCells s (s.modWorld wid f) := ⟨rfl, rfl⟩

theorem retag_worldsKept (pkg old new : Nat) (s : State) : WorldsKept s (retag pkg old new s) := by
  refine (mapAgents_worldsKept s (f := fun a =>
    if a.launch == s.launch.id && a.tag == old && pkgOf a.core == pkg then { a with tag := new } else a) fun a => ?_).trans
    (.of_eq rfl rfl rfl)
  exact .ite ⟨rfl, rfl, rfl, rfl, id⟩ (.refl a)

theorem carryNested_namesKept (w : World) (r : Rival) (s : State) : NamesKept s (carryNested w r s) := by
  refine ⟨⟨⟨rfl, rfl⟩, rfl, fun _ => .refl _⟩, ?_⟩
  show (s.launch.worlds.map _).map worldNames = _
  rw [List.map_map]
  refine List.map_congr_left fun x _ => ?_
  rw [Function.comp]
  split <;> rfl

/-- Once its lines have entered the parent view, the end of a commit's first part changes no byte. -/
theorem enterParent_namesKept {w : World} {r : Rival} (hl : r.code ≠ .live) (s : State) :
    NamesKept (commitLines w.pkg r.tag w.ptag s) (enterParent w r s) := by
  unfold enterParent
  simp only [if_neg hl]
  exact ((carryNested_namesKept w r _).trans (retag_worldsKept _ _ _ _).named).trans (modWorld_namesKept _ w.wid fun _ => rfl)

/-- A commit that CHOOSEW started resolves its world (R76). -/
theorem finishCommit_chosen {w : World} {r : Rival} (hs : w.state ≠ .claimed) (hd : r.code = .done) (s : State) :
    finishCommit w r s = discardWorld w.wid (s.modWorld w.wid fun w => { w with committing := none, winner := some r.idx }) := by
  unfold finishCommit
  split
  · next claimed => exact absurd claimed hs
  · next live _ => rw [hd] at live; cases live
  · rfl

/-- The lines enter memory, there is no saddlebag to release, and the commit is finished (R77, R78). -/
theorem viewCommit_memory {s : State} {wid idx : Nat} {w : World} {r : Rival} {v : View} (hw : s.getWorld wid = some w)
    (hr : w.rivals.find? (fun r => r.idx == idx) = some r) (hc : w.committing = some idx) (hl : w.linesDone = false)
    (hp : w.ptag = 0) (hsb : r.sb = []) (hv : s.getView w.pkg r.tag = some v)
    (hfree : ∀ l ∈ v.lines, reservedLine s w.pkg 0 0 l.line = false) :
    viewCommit wid idx s = finishCommit w r ((enterParent w r s).modRival wid idx fun r => { r with sb := [] }) := by
  have unowned : ∀ t, viewOwner t w.pkg w.ptag = none := fun t => by rw [viewOwner, if_pos hp]
  have first : parentWaits s w = false := by rw [parentWaits, unowned]; rfl
  have unreserved : (v.lines.any fun l => reservedLine s w.pkg w.ptag 0 l.line) = false := by
    rw [hp, List.any_eq_false]
    exact fun l hmem => by rw [hfree l hmem]; decide
  rw [viewCommit, hw]
  dsimp only
  rw [hr]
  simp only [hc, hv, hl, hsb, first, unreserved, unowned, Option.map_some, Option.getD_some, ne_eq, not_true_eq_false, if_false,
    Bool.not_false, Bool.false_eq_true, and_false, or_self, issueEntries]

theorem viewCommit_result {s : State} {wid idx : Nat} {w : World} {r : Rival} {v : View} (hw : s.getWorld wid = some w)
    (hr : w.rivals.find? (fun r => r.idx == idx) = some r) (hc : w.committing = some idx) (hl : w.linesDone = false)
    (hp : w.ptag = 0) (hd : r.code = .done) (hsb : r.sb = []) (hs : w.state ≠ .claimed) (hv : s.getView w.pkg r.tag = some v)
    (hlines : ∀ l ∈ v.lines, 64 * l.line + 64 ≤ 2 ^ 79 ∧ reservedLine s w.pkg 0 0 l.line = false)
    (hm : Memory.wf s.mem = true) (hrec : NoRecords s) :
    ∃ t w', exec (.viewCommitComplete wid idx) s = .next t ∧ t.getWorld wid = some w' ∧ w'.state = .resolved ∧
      w'.winner = some idx ∧ ∀ k, baseByte t k = baseByte (commitLines w.pkg r.tag 0 s) k := by
  have live : r.code ≠ .live := by rw [hd]; decide
  have number : r.idx = idx := by simpa using List.find?_some hr
  obtain ⟨worlds, -⟩ := commitLines_memory hrec hm hv fun l hmem => (hlines l hmem).1
  have entered := enterParent_namesKept live s (w := w)
  rw [hp] at entered
  have kept := entered.trans (modRival_namesKept _ wid idx (f := fun r => { r with sb := [] }) fun _ => rfl)
  obtain ⟨w1, hw1, -, -⟩ := kept.getWorld ((getWorld_of_worlds worlds wid).trans hw)
  have won := getWorld_modWorld hw1 (f := fun w => { w with committing := none, winner := some r.idx }) fun _ => rfl
  obtain ⟨w', hw', resolved, winner⟩ := discardWorld_resolved won
  have after := (kept.same.trans (modWorld_same _ wid fun w => { w with committing := none, winner := some r.idx })).trans
    (discardWorld_namesKept wid _).same
  refine ⟨viewCommit wid idx s, w', ?_, ?_, resolved, winner.trans (congrArg some number), fun k => ?_⟩
  · rw [← onWorld_front hw (viewCommit wid idx)]
    rfl
  · rw [viewCommit_memory hw hr hc hl hp hsb hv fun l hmem => (hlines l hmem).2, finishCommit_chosen hs hd, getWorld_wid hw]
    exact hw'
  · rw [viewCommit_memory hw hr hc hl hp hsb hv fun l hmem => (hlines l hmem).2, finishCommit_chosen hs hd, getWorld_wid hw]
    exact after.byte k

/-! VIEW_TAG_FREE. -/

theorem getPkg_modPkg {i : Nat} (hi : i < 128) (s : State) {f : Package → Package} (hf : ∀ p, (f p).id = p.id) :
    (s.modPkg i f).getPkg i = f (s.getPkg i) := by
  have keeps : ∀ p : Package, ((f p).id == i) = (p.id == i) := fun p => by rw [hf]
  unfold State.modPkg State.getPkg
  cases hs : s.packages.any (·.id == i) with
  | true =>
    obtain ⟨p, hp, meets⟩ := List.any_eq_true.1 hs
    obtain ⟨q, found⟩ := Option.isSome_iff_exists.1 (List.find?_isSome (p := fun p : Package => p.id == i) |>.2 ⟨p, hp, meets⟩)
    simp [find?_modFirst_of_keeps (p := fun p : Package => p.id == i) keeps, found]
  | false =>
    have absent : s.packages.find? (·.id == i) = none := by simpa using hs
    have fresh : (f (Package.new i)).id = i := hf _
    simp [hi, List.find?_append, absent, fresh]

/-- The tags of a package stand, and so does memory. -/
structure TagsKept (pkg : Nat) (s t : State) : Prop where
  free : (t.getPkg pkg).freeTags = (s.getPkg pkg).freeTags
  dirty : (t.getPkg pkg).dirtyTags = (s.getPkg pkg).dirtyTags
  mem : t.mem = s.mem

theorem TagsKept.refl (pkg : Nat) (s : State) : TagsKept pkg s s := ⟨rfl, rfl, rfl⟩
theorem TagsKept.trans {pkg : Nat} {s t u : State} (h : TagsKept pkg s t) (g : TagsKept pkg t u) : TagsKept pkg s u :=
  ⟨g.free.trans h.free, g.dirty.trans h.dirty, g.mem.trans h.mem⟩
theorem focusCore_tagsKept (pkg i : Nat) (s : State) : TagsKept pkg s (focusCore i s) := by
  unfold focusCore; split <;> exact ⟨rfl, rfl, rfl⟩
theorem focusLaunch_tagsKept (pkg id n : Nat) (s : State) : TagsKept pkg s (focusLaunch id n s) := by
  unfold focusLaunch focusLc
  repeat' split
  all_goals exact ⟨rfl, rfl, rfl⟩

theorem modPkg_tagsKept {pkg : Nat} (h : pkg < 128) (s : State) {f : Package → Package} (hid : ∀ p, (f p).id = p.id)
    (hfree : ∀ p, (f p).freeTags = p.freeTags) (hdirty : ∀ p, (f p).dirtyTags = p.dirtyTags) :
    TagsKept pkg s (s.modPkg pkg f) :=
  ⟨by rw [getPkg_modPkg h s hid, hfree], by rw [getPkg_modPkg h s hid, hdirty], State.modPkg_mem _ _ _⟩

theorem dropView_tagsKept {pkg : Nat} (h : pkg < 128) (tag : Nat) (s : State) : TagsKept pkg s (dropView pkg tag s) := by
  refine TagsKept.trans (t := s.modLaunch fun l => { l with views := l.views.filter fun v => !(v.pkg == pkg && v.tag == tag) })
    ⟨rfl, rfl, rfl⟩ (modPkg_tagsKept h _ ?_ ?_ ?_)
  all_goals exact fun _ => rfl

theorem dropGone_tagsKept {pkg : Nat} (h : pkg < 128) (tag : Nat) (s : State) : TagsKept pkg s (dropGone pkg tag s) := by
  unfold dropGone
  generalize ((s.launch :: s.launches).filter fun l => l.views.any fun v => v.pkg == pkg && v.tag == tag && v.gone).map (·.id) = ids
  induction ids generalizing s with
  | nil => exact .refl pkg s
  | cons id ids ih =>
    have dropped : TagsKept pkg s (inLaunch id 0 (dropView pkg tag) s) :=
      (((focusLaunch_tagsKept pkg id 0 s).trans (dropView_tagsKept h tag _)).trans (focusLaunch_tagsKept pkg _ _ _)).trans
        (focusCore_tagsKept pkg _ _)
    exact dropped.trans (ih _)

theorem viewTagFree_result {s : State} {pkg tag : Nat} (h : pkg < 128) (hd : (s.getPkg pkg).dirtyTags.contains tag = true)
    (hc : tagClean s pkg tag = true) : ∃ t, exec (.viewTagFree pkg tag) s = .next t ∧
      (t.getPkg pkg).freeTags = (s.getPkg pkg).freeTags ++ [tag] ∧ (t.getPkg pkg).dirtyTags.contains tag = false ∧
      t.mem = s.mem := by
  obtain ⟨free, dirty, mem⟩ := dropGone_tagsKept h tag s
  have tags := getPkg_modPkg h (dropGone pkg tag s) (f := fun p => { p with
    dirtyTags := p.dirtyTags.filter (· != tag), freeTags := p.freeTags ++ [tag] }) fun _ => rfl
  refine ⟨_, ?_, (congrArg Package.freeTags tags).trans (congrArg (· ++ [tag]) free), ?_, (State.modPkg_mem _ _ _).trans mem⟩
  · show execViewTagFree pkg tag s = _
    rw [execViewTagFree, event, hd, hc]
    rfl
  · rw [tags]
    simp

end Sys2Proof.Machine
end

section
open Sys2Proof Sys2Proof.Machine Sys2Proof.Claims

/-- Settles O41: the claim marks the rivals that run, and RIVAL_KILL ends one; the lines of a committed view are written into memory one
after another, the newest copy last; a tag passes from the dirty ones to the free ones. -/
theorem worldEventsResult : Obligations.WorldEventsResult := by
  unfold Obligations.WorldEventsResult
  refine ⟨fun s wid w idx hw hp hs hc hl hm hr => ?_,
    fun s tid a wid w r ha hk hworld hlaunch hcur hn hw hr hl => rivalKill_result ha hk hworld hlaunch hcur hn hw hr hl,
    fun s wid idx w r v hw hr hc hl hp hd hsb hs hv hlines hm hrec => ?_,
    fun s pkg tag h hd hc => viewTagFree_result h hd hc⟩
  · obtain ⟨t, step, world, mem, killed⟩ := claimArrival_result hw hp hs hc hl hm hr
    exact ⟨t, claimed idx w, step, world, rfl, rfl, rfl, rfl, rfl, mem, killed⟩
  · obtain ⟨t, w', step, world, resolved, winner, bytes⟩ := viewCommit_result hw hr hc hl hp hd hsb hs hv hlines hm hrec
    obtain ⟨-, committed⟩ := commitLines_memory hrec hm hv fun l hmem => (hlines l hmem).1
    exact ⟨t, w', step, world, resolved, winner, fun k => (bytes k).trans (committed k)⟩

end

section
/-! FORKW (R66 to R68, R81): its branches, and the world that it makes. -/

namespace Sys2Proof.Machine

/-- The thread's last world is not resolved. -/
def worldOpen (s : State) : Bool :=
  match ownWorld s with
  | some w => w.state != WState.resolved
  | none => false

theorem worldOpen_of_open {s : State} {w : World} (h : ownWorld s = some w) (hs : w.state ≠ .resolved) : worldOpen s = true := by
  rw [worldOpen, h]
  simpa using hs
theorem worldOpen_of_resolved {s : State} (h : ∀ w, ownWorld s = some w → w.state = .resolved) : worldOpen s = false := by
  unfold worldOpen
  split
  · next w own => simp [h w own]
  · rfl

/-- The package has too few tags, or the thread is a member and its die has no board (R66). -/
def tagsShort (n : Nat) (s : State) : Bool := decide ((s.getPkg s.pkg).freeTags.length < n)
def boardShort (s : State) : Bool := s.cur.team.isSome && !boardFree s (dieOf s.cur.core)

/-- The thread's last world is forgotten. -/
def forgetWorld (s : State) : State := s.modCur fun a => { a with own := none }

/-- The fork itself, once g1 to g3 and p15 can be read. -/
def forkNow (g : BitVec 2) (n : Nat) (s : State) : Run Unit := do
  if loadMarks s 1 || loadMarks s 2 || loadMarks s 3 then stalled .loads
  if vectorMarks s 1 || vectorMarks s 2 || vectorMarks s 3 then stalled .vector
  let _ ← readP 15
  modify (makeWorld g.toNat n)
  writeG (g.setWidth 6) forkForked

/-- What FORKW does in a state between chunks (R66, R291). -/
def forkIn (g : BitVec 2) (n : Nat) (s : State) : Run Unit :=
  if worldOpen s then writeG (g.setWidth 6) forkOpen
  else if worldDepth s = 4 then do
    modify forgetWorld
    writeG (g.setWidth 6) forkDepth
  else if (tagsShort n s || boardShort s) && s.launch.mode != Mode.free then stalled .world
  else if tagsShort n s then do
    modify forgetWorld
    writeG (g.setWidth 6) forkNoTag
  else if boardShort s then do
    modify forgetWorld
    writeG (g.setWidth 6) forkNoBoard
  else forkNow g n s

theorem exec_forkw (g : BitVec 2) (n1 : BitVec 4) (s : State) : exec (.forkw g n1) s =
    issue { onX with s := false } (require (g ≠ 0 && n1 ≠ 0) cIllegal >>= fun _ => betweenChunks >>= fun _ =>
      get >>= fun s => forkIn g (n1.toNat + 1) s) s := rfl

/-! The branches that make no world. -/

/-- FORKW comes to its branch, in the state between chunks (R127). -/
theorem forkw_body {g : BitVec 2} {n1 : BitVec 4} {s : State} (hc : ChunkEmpty s) (hg : g ≠ 0) (hn : n1 ≠ 0) :
    (require (g ≠ 0 && n1 ≠ 0) cIllegal >>= fun _ => betweenChunks >>= fun _ =>
      get >>= fun s => forkIn g (n1.toNat + 1) s) s = forkIn g (n1.toNat + 1) (closing s) (closing s) := by
  have legal : (decide (g ≠ 0) && decide (n1 ≠ 0)) = true := by
    rw [decide_eq_true hg, decide_eq_true hn]; rfl
  simp only [run_bind, run_require, legal, if_true, betweenChunks_ok hc, run_get]

theorem forgetWorld_writes {g : BitVec 2} {s : State} (hw : Writable s (g.setWidth 6)) (v : Word) :
    (modify forgetWorld >>= fun _ => writeG (g.setWidth 6) v) s = .ok ((), putG (g.setWidth 6) v (forgetWorld s)) := by
  have writable : Writable (forgetWorld s) (g.setWidth 6) := hw
  rw [run_bind, run_modify]
  exact writeG_ok v writable

section
variable {g : BitVec 2} {n : Nat} {s : State} (hw : Writable s (g.setWidth 6))
include hw

theorem forkIn_open (ho : worldOpen s = true) : forkIn g n s s = .ok ((), putG (g.setWidth 6) forkOpen s) := by
  rw [forkIn, if_pos ho]
  exact writeG_ok _ hw

section
variable (ho : worldOpen s = false)
include ho

theorem forkIn_deep (hd : worldDepth s = 4) : forkIn g n s s = .ok ((), putG (g.setWidth 6) forkDepth (forgetWorld s)) := by
  rw [forkIn, if_neg (by simp [ho]), if_pos hd]
  exact forgetWorld_writes hw _

section
variable (hd : worldDepth s ≠ 4) (hm : s.launch.mode = .free)
include hd hm

theorem forkIn_noTag (ht : tagsShort n s = true) :
    forkIn g n s s = .ok ((), putG (g.setWidth 6) forkNoTag (forgetWorld s)) := by
  rw [forkIn, if_neg (by simp [ho]), if_neg hd, if_neg (by simp [hm]), if_pos ht]
  exact forgetWorld_writes hw _

theorem forkIn_noBoard (ht : tagsShort n s = false) (hb : boardShort s = true) :
    forkIn g n s s = .ok ((), putG (g.setWidth 6) forkNoBoard (forgetWorld s)) := by
  rw [forkIn, if_neg (by simp [ho]), if_neg hd, if_neg (by simp [hm]), if_neg (by simp [ht]), if_pos hb]
  exact forgetWorld_writes hw _

end
end
end

/-- Tags and board are there: the fork, whatever the mode (R66). -/
theorem forkIn_now {g : BitVec 2} {n : Nat} {s : State} (ho : worldOpen s = false) (hd : worldDepth s ≠ 4)
    (ht : tagsShort n s = false) (hb : boardShort s = false) : forkIn g n s = forkNow g n s := by
  rw [forkIn, if_neg (by simp [ho]), if_neg hd, if_neg (by simp [ht, hb]), if_neg (by simp [ht]), if_neg (by simp [hb])]

/-! The world that a fork makes, part by part (R67, R68, R72). -/

section
variable (g n : Nat) (s : State)

def forkWid : Nat := s.launch.id * 2 ^ 32 + s.launch.nextWid

/-- The numbers of the rivals with their tags. -/
def forkRanks : List (Nat × Nat) := (List.range n).zip ((s.getPkg s.pkg).freeTags.take n)

def forkBoard : Option Board := (s.cur.team.bind s.getBoard).map fun t =>
  rivalBoard t (s.launch.id * 2 ^ 32 + s.launch.nextUid) (forkWid s) n s.cur.lcore (dieOf s.cur.core) s.launch.nextUid

def forkSeed (kt : Nat × Nat) : Agent :=
  rivalSeed s.cur (s.nextTid + kt.1) (forkWid s) kt.2 kt.1 g ((forkBoard n s).map fun b => (b.uid, b.val))

def forkRival (kt : Nat × Nat) : Rival :=
  { idx := kt.1, tid := s.nextTid + kt.1, tag := kt.2, code := .live, cause := 0, lines := 0, sb := [], sbEnt := 0, sbLen := 0 }

def forkView (kt : Nat × Nat) : View :=
  { pkg := s.pkg, tag := kt.2, ptag := s.cur.tag, idx := kt.1, n1 := n - 1, depth := worldDepth s + 1, gone := false, lines := [] }

def forkWorld : World :=
  { wid := forkWid s, forker := s.cur.tid, lcore := s.cur.lcore, pkg := s.pkg, n := n, depth := worldDepth s + 1, ptag := s.cur.tag
    state := .opened, winner := none, committing := none, linesDone := false, claims := [], team := (forkBoard n s).map (·.uid)
    origin := forkOrigin s s.cur.lcore (seqCode s.cur.seq)
    rivals := (forkRanks n s).map (forkRival s) }

def forkLaunch (l : Launch) : Launch := { l with
  worlds := l.worlds ++ [forkWorld n s], views := l.views ++ (forkRanks n s).map (forkView n s)
  boards := l.boards ++ (forkBoard n s).toList, nextWid := l.nextWid + 1, nextUid := l.nextUid + 1 }

/-- The tags are taken, and world, views and seeds stand, the seeds not yet in a queue. -/
def forkMade : State :=
  let t := (s.modPkg s.pkg fun p => { p with freeTags := p.freeTags.drop n }).modLaunch (forkLaunch n s)
  { t with agents := t.agents ++ (forkRanks n s).map (forkSeed g n s), nextTid := t.nextTid + n }

/-- The seeds enter the queue of the forker's die. -/
def forkQueued : State :=
  ((forkRanks n s).map (forkSeed g n s)).foldl (fun t a => enqueueSeed (dieOf s.cur.core) a.tid t) (forkMade g n s)

theorem makeWorld_eq : makeWorld g n s = bumpOrd s.cur.lcore (seqCode s.cur.seq) 0
    ((forkQueued g n s).modCur fun a => { a with own := some (forkWid s) }) := rfl

end

/-- What queueing seeds leaves: of agents their state and mark of the queue alone may change, and a READY one stays READY. -/
structure SeedsQueued (s t : State) : Prop where
  launch : t.launch = s.launch
  mem : t.mem = s.mem
  packages : t.packages = s.packages
  core : t.core = s.core
  cur : ∃ st q, t.cur = { s.cur with state := st, queued := q }
  seeds : ∀ a ∈ s.agents, a.state = .ready → ∃ q, { a with queued := q } ∈ t.agents

theorem SeedsQueued.refl (s : State) : SeedsQueued s s := ⟨rfl, rfl, rfl, rfl, ⟨_, _, rfl⟩, fun a ha _ => ⟨a.queued, ha⟩⟩

theorem SeedsQueued.trans {s t u : State} (h : SeedsQueued s t) (k : SeedsQueued t u) : SeedsQueued s u := by
  obtain ⟨st, q, hcur⟩ := h.cur
  obtain ⟨st', q', kcur⟩ := k.cur
  refine ⟨k.launch.trans h.launch, k.mem.trans h.mem, k.packages.trans h.packages, k.core.trans h.core,
    ⟨st', q', by rw [kcur, hcur]⟩, fun a ha ready => ?_⟩
  obtain ⟨x, hx⟩ := h.seeds a ha ready
  obtain ⟨y, hy⟩ := k.seeds { a with queued := x } hx ready
  exact ⟨y, hy⟩

theorem modDie_packages (s : State) (d : Nat) (f : DieQ → DieQ) : (s.modDie d f).packages = s.packages := by
  unfold State.modDie; split <;> rfl

theorem enqueueSeed_queued (die tid : Nat) (s : State) : SeedsQueued s (enqueueSeed die tid s) := by
  unfold enqueueSeed
  split
  · exact .refl s
  · constructor
    case launch => rw [State.modAgent_launch, modDie_launch]
    case mem => rw [State.modAgent_mem, modDie_mem]
    case packages => rw [State.modAgent_packages, modDie_packages]
    case core => rw [State.modAgent_core, modDie_core]
    case cur =>
      rw [State.modAgent_cur, modDie_cur]
      split
      · exact ⟨_, _, rfl⟩
      · exact ⟨_, _, rfl⟩
    case seeds =>
      intro a ha ready
      rw [State.modAgent_agents, modDie_agents]
      by_cases named : a.tid = tid
      · exact ⟨true, List.mem_map.2 ⟨a, ha, by rw [if_pos named, ← ready]⟩⟩
      · exact ⟨a.queued, List.mem_map.2 ⟨a, ha, by rw [if_neg named]⟩⟩

theorem foldl_enqueueSeed_queued (die : Nat) (l : List Agent) (s : State) :
    SeedsQueued s (l.foldl (fun t a => enqueueSeed die a.tid t) s) := by
  induction l generalizing s with
  | nil => exact .refl s
  | cons a l ih => exact (enqueueSeed_queued die a.tid s).trans (ih _)

theorem forkMade_launch (g n : Nat) (s : State) : (forkMade g n s).launch = forkLaunch n s s.launch := by
  show forkLaunch n s (s.modPkg s.pkg _).launch = _
  rw [State.modPkg_launch]
theorem forkMade_cur (g n : Nat) (s : State) : (forkMade g n s).cur = s.cur := State.modPkg_cur s _ _
theorem forkMade_mem (g n : Nat) (s : State) : (forkMade g n s).mem = s.mem := State.modPkg_mem s _ _
theorem forkMade_core (g n : Nat) (s : State) : (forkMade g n s).core = s.core := State.modPkg_core s _ _
theorem forkMade_tags {s : State} (hp : s.pkg < 128) (g n : Nat) :
    ((forkMade g n s).getPkg s.pkg).freeTags = (s.getPkg s.pkg).freeTags.drop n := by
  have taken := getPkg_modPkg hp s (f := fun p => { p with freeTags := p.freeTags.drop n }) fun _ => rfl
  have tags := congrArg Package.freeTags taken
  exact tags

theorem getPkg_of_packages {s t : State} (h : t.packages = s.packages) (i : Nat) : t.getPkg i = s.getPkg i := by
  rw [State.getPkg, State.getPkg, h]

/-- What stands once the world is made. -/
structure WorldMade (g n : Nat) (s t : State) : Prop where
  worlds : t.launch.worlds = s.launch.worlds ++ [forkWorld n s]
  views : t.launch.views = s.launch.views ++ (forkRanks n s).map (forkView n s)
  lmem : t.launch.lmem = s.launch.lmem
  mem : t.mem = s.mem
  core : t.core = s.core
  tags : (t.getPkg s.pkg).freeTags = (s.getPkg s.pkg).freeTags.drop n
  cur : ∃ st q, t.cur = { s.cur with state := st, queued := q, own := some (forkWid s) }
  seeds : ∀ kt ∈ forkRanks n s, ∃ q, { forkSeed g n s kt with queued := q } ∈ t.agents

theorem makeWorld_made {s : State} (hp : s.pkg < 128) (g n : Nat) : WorldMade g n s (makeWorld g n s) := by
  have queued : SeedsQueued (forkMade g n s) (forkQueued g n s) := foldl_enqueueSeed_queued _ _ _
  have launch := queued.launch.trans (forkMade_launch g n s)
  rw [makeWorld_eq]
  constructor
  case worlds => exact congrArg Launch.worlds launch
  case views => exact congrArg Launch.views launch
  case lmem => exact (congrArg Launch.lmem launch :)
  case mem => exact queued.mem.trans (forkMade_mem g n s)
  case core => exact queued.core.trans (forkMade_core g n s)
  case tags => exact (congrArg Package.freeTags (getPkg_of_packages queued.packages s.pkg)).trans (forkMade_tags hp g n)
  case cur =>
    obtain ⟨st, q, cur⟩ := queued.cur
    rw [forkMade_cur] at cur
    exact ⟨st, q, congrArg (fun a : Agent => { a with own := some (forkWid s) }) cur⟩
  case seeds =>
    intro kt hkt
    exact queued.seeds (forkSeed g n s kt) (List.mem_append_right _ (List.mem_map_of_mem hkt)) rfl

theorem WorldMade.chunkEmpty {g n : Nat} {s t : State} (h : WorldMade g n s t) (hc : ChunkEmpty s) : ChunkEmpty t := by
  obtain ⟨st, q, cur⟩ := h.cur
  rw [ChunkEmpty, cur]
  exact hc

/-- With the marks clear the fork makes the world and writes FORKED (R66). -/
theorem forkNow_ok {g : BitVec 2} {s : State} (hw : Writable s (g.setWidth 6)) (hp : s.pkg < 128)
    (hmarks : ∀ m : GReg, m = 1 ∨ m = 2 ∨ m = 3 → loadMarks s m = false ∧ vectorMarks s m = false) (hread : PReadable s 15)
    (n : Nat) : forkNow g n s s = .ok ((), putG (g.setWidth 6) forkForked (makeWorld g.toNat n s)) := by
  obtain ⟨loads1, vector1⟩ := hmarks 1 (.inl rfl)
  obtain ⟨loads2, vector2⟩ := hmarks 2 (.inr (.inl rfl))
  obtain ⟨loads3, vector3⟩ := hmarks 3 (.inr (.inr rfl))
  have made := makeWorld_made hp g.toNat n
  obtain ⟨st, q, cur⟩ := made.cur
  have writable : Writable (makeWorld g.toNat n s) (g.setWidth 6) := by
    refine hw.imp id fun unmarked => ?_
    rw [vectorMarks, made.core, cur]
    exact unmarked
  simp only [forkNow, loads1, loads2, loads3, vector1, vector2, vector3, Bool.or_self, Bool.false_eq_true, if_false, run_bind,
    readP_ok hread, run_modify]
  exact writeG_ok _ writable

/-! The rivals, number by number. -/

theorem forkRanks_mem {s : State} {n k : Nat} (hk : k < n) (hn : n ≤ (s.getPkg s.pkg).freeTags.length) :
    ∃ tag, (s.getPkg s.pkg).freeTags[k]? = some tag ∧ (k, tag) ∈ forkRanks n s := by
  have short : k < (s.getPkg s.pkg).freeTags.length := Nat.lt_of_lt_of_le hk hn
  refine ⟨_, List.getElem?_eq_getElem short, List.mem_iff_getElem?.2 ⟨k, ?_⟩⟩
  rw [forkRanks, List.getElem?_zip_eq_some]
  simp [hk]

theorem forkRanks_length {s : State} {n : Nat} (hn : n ≤ (s.getPkg s.pkg).freeTags.length) : (forkRanks n s).length = n := by
  simp [forkRanks, hn]

/-- The seed's fork register holds its number, the others of g1 to g3 the forker's values (R67). -/
theorem rivalSeed_g (f : Agent) (tid wid tag k : Nat) {g : Nat} (hg : g < 4) (team : Option (Nat × BitVec 32)) :
    (rivalSeed f tid wid tag k g team).regs.g[g] = BitVec.ofNat 64 k ∧
      ∀ m : Fin 4, m.val ≠ 0 → m.val ≠ g → (rivalSeed f tid wid tag k g team).regs.g[m.val] = f.regs.g[m.val] := by
  have small : g % 64 = g := Nat.mod_eq_of_lt (by omega)
  constructor
  · simp [rivalSeed, small]
  · intro m hm hne
    have other : g % 64 ≠ m.val := by rw [small]; exact hne.symm
    simp only [rivalSeed, Vector.getElem_set_ne _ _ other]
    fin_cases m
    · exact absurd rfl hm
    all_goals simp

end Sys2Proof.Machine
end

section
open Sys2Proof Sys2Proof.Machine Sys2Proof.Claims

namespace Sys2Proof.Claims

section
variable {s : State} {g : BitVec 2} {n1 : BitVec 4} (hr : Ready onThread s) (hc : ChunkEmpty s) (hg : g ≠ 0) (hn1 : n1 ≠ 0)
include hr hc hg hn1

/-- A branch of FORKW that writes a register and completes. -/
theorem forkw_completes {t : State} (hb : forkIn g (n1.toNat + 1) (closing s) (closing s) = .ok ((), t)) (ht : ChunkEmpty t)
    (closed : t.cur.chunk.closed = true) : exec (.forkw g n1) s = .next (advanceAlone t) := by
  rw [exec_forkw]
  exact issue_alone hr ((forkw_body hc hg hn1).trans hb) (.inr ht) closed

theorem forkw_forks (hw : Writable s (g.setWidth 6)) (hp : s.pkg < 128)
    (hres : ∀ w, ownWorld s = some w → w.state = .resolved) (hd : worldDepth s ≠ 4)
    (htags : n1.toNat + 1 ≤ (s.getPkg s.pkg).freeTags.length)
    (hboard : s.cur.team.isSome = true → boardFree s (s.cur.core / 144) = true)
    (hmarks : ∀ m : GReg, m = 1 ∨ m = 2 ∨ m = 3 → loadMarks s m = false ∧ vectorMarks s m = false) (hread : PReadable s 15) :
    ∃ u, WorldMade g.toNat (n1.toNat + 1) (closing s) u ∧
      exec (.forkw g n1) s = .next (advanceAlone (putG (g.setWidth 6) 0x100 u)) := by
  have enough : tagsShort (n1.toNat + 1) (closing s) = false := decide_eq_false (Nat.not_lt.2 htags)
  have board : boardShort (closing s) = false := by
    rw [boardShort]
    cases team : s.cur.team.isSome with
    | false => exact Bool.and_eq_false_iff.2 (.inl team)
    | true => exact Bool.and_eq_false_iff.2 (.inr ((congrArg (!·) (hboard team)).trans rfl))
  have made := makeWorld_made (s := closing s) hp g.toNat (n1.toNat + 1)
  obtain ⟨st, q, cur⟩ := made.cur
  have closed : (makeWorld g.toNat (n1.toNat + 1) (closing s)).cur.chunk.closed = true := by rw [cur]; rfl
  refine ⟨_, made, forkw_completes hr hc hg hn1 ?_ (made.chunkEmpty hc) closed⟩
  rw [forkIn_now (s := closing s) (worldOpen_of_resolved hres) hd enough board]
  exact forkNow_ok (s := closing s) hw hp hmarks hread _

end

/-- Rival k of a world that is made. -/
theorem made_rival {g n : Nat} {s t : State} (h : WorldMade g n s t) (hg : g < 4)
    (hn : n ≤ (s.getPkg s.pkg).freeTags.length) {k : Nat} (hk : k < n) :
    ∃ r v a, r ∈ (forkWorld n s).rivals ∧ v ∈ t.launch.views ∧ a ∈ t.agents ∧
      r.idx = k ∧ r.code = .live ∧ (s.getPkg s.pkg).freeTags[k]? = some r.tag ∧ r.sb = [] ∧ v.tag = r.tag ∧ v.pkg = s.pkg ∧
      v.ptag = s.cur.tag ∧ v.lines = [] ∧ a.tid = r.tid ∧ a.rival = true ∧ a.ridx = k ∧ a.tag = r.tag ∧ a.state = .ready ∧
      a.regs.pc = s.cur.npc ∧ a.regs.g[g] = BitVec.ofNat 64 k ∧
      ∀ m : Fin 4, m.val ≠ 0 → m.val ≠ g → a.regs.g[m.val] = s.cur.regs.g[m.val] := by
  obtain ⟨tag, free, ranked⟩ := forkRanks_mem hk hn
  obtain ⟨q, seed⟩ := h.seeds _ ranked
  obtain ⟨number, copied⟩ := rivalSeed_g s.cur (s.nextTid + k) (forkWid s) tag k hg ((forkBoard n s).map fun b => (b.uid, b.val))
  refine ⟨forkRival s (k, tag), forkView n s (k, tag), _, List.mem_map_of_mem ranked, ?_, seed, rfl, rfl, free, rfl, rfl, rfl, rfl, rfl,
    rfl, rfl, rfl, rfl, rfl, rfl, number, copied⟩
  rw [h.views]
  exact List.mem_append_right _ (List.mem_map_of_mem ranked)

theorem gval_putG {n : GReg} (hn : n ≠ 0) (v : Word) (s : State) : gval (putG n v s) n = v := by
  rw [gval, if_neg hn, putG, State.modCur_cur, Agent.setG, Regs.setG]
  simp only [if_neg hn, Vector.getElem_set_self]

theorem setWidth_ne_zero {g : BitVec 2} (h : g ≠ 0) : (g.setWidth 6 : GReg) ≠ 0 := by
  intro zero
  apply h
  have bits := congrArg BitVec.toNat zero
  apply BitVec.eq_of_toNat_eq
  rw [BitVec.toNat_setWidth] at bits
  have small := g.isLt
  simp only [BitVec.ofNat_eq_ofNat, BitVec.toNat_ofNat] at bits ⊢
  omega

end Sys2Proof.Claims

/-- Settles O39: FORKW comes to one of six branches; all but the fork write a code, and the fork makes the world of its rivals, whose
seeds then enter the queue of their die. -/
theorem forkResult : Obligations.ForkResult := by
  unfold Obligations.ForkResult
  intro s g n1 hr hc hg hn1 hw hp
  have completes := fun t => forkw_completes (t := t) hr hc hg hn1
  refine ⟨fun w own open_ => ?_, fun hres => ?_⟩
  · exact completes _ (forkIn_open (s := closing s) hw (worldOpen_of_open (s := closing s) own open_)) hc rfl
  have resolved : worldOpen (closing s) = false := worldOpen_of_resolved (s := closing s) hres
  refine ⟨fun hd => ?_, fun hd hm => ⟨fun hshort => ?_, fun htags hteam hboard => ?_⟩, fun hd htags hboard hmarks hread => ?_⟩
  · exact completes _ (forkIn_deep (s := closing s) hw resolved hd) hc rfl
  · exact completes _ (forkIn_noTag (s := closing s) hw resolved hd hm (decide_eq_true hshort)) hc rfl
  · have noBoard : boardShort (closing s) = true := Bool.and_eq_true_iff.2 ⟨hteam, (congrArg (!·) hboard).trans rfl⟩
    exact completes _ (forkIn_noBoard (s := closing s) hw resolved hd hm (decide_eq_false (Nat.not_lt.2 htags)) noBoard) hc rfl
  · obtain ⟨u, made, step⟩ := forkw_forks hr hc hg hn1 hw hp hres hd htags hboard hmarks hread
    obtain ⟨st, q, cur⟩ := made.cur
    refine ⟨_, forkWorld (n1.toNat + 1) (closing s), step, gval_putG (setWidth_ne_zero hg) _ u, ?_, made.worlds, rfl, rfl, rfl, rfl,
      (List.length_map ..).trans (forkRanks_length htags), made.tags, made.mem, made.lmem, ?_, fun k hk => made_rival made g.isLt htags hk⟩
    · exact congrArg Agent.own cur
    · exact (congrArg Agent.npc cur :)

end

section
/-! A chunk that holds the release of the vector file and has counted no instruction (R127, R228). -/

namespace Sys2Proof.Machine

/-- An answer that can be compared, for states in which stops cannot. -/
theorem answers_of_toOption {α : Type} {x : Except Stop α} {a : α} (h : x.toOption = some a) : x = .ok a := by
  cases x with
  | ok b => exact congrArg Except.ok (Option.some.inj h)
  | error e => cases h

/-- A thread on X whose handle h0 names a ring with one filled slot of 16 bytes in its local space; its chunk has counted no
instruction and is to give the vector file back. No package has an entry, so that the state can be compared. -/
def releasingChunk : State :=
  { State.reset with
    cur := { Agent.new 0 with chunk := { Chunk.empty Regs.zero with vrel := true } }
    lc := { LCore.new 0 with handles := (LCore.new 0).handles.set 0 { Handle.off with mode := 1, logs := 4, p := 1 } }
    launch := { Launch.none with l := 1, w := 1, lsize := 4096 }
    packages := [] }

/-- Its handle operand names the slot, and the slot is reached. -/
theorem reaches_releasingChunk : Claims.Reaches (.handle 0 0) 0 false 16 rR releasingChunk (closing releasingChunk)
    (BitVec.ofNat 80 placeBase) { key := placeBase, home := 0, pkg := 0 } :=
  ⟨closing releasingChunk, answers_of_toOption (by decide +kernel), answers_of_toOption (by decide +kernel)⟩

/-- The release makes the chunk one that commits, and its commit is an event at the package's commit site (R165, R228). -/
theorem homeLoad_releasingChunk_commits : ∃ t, exec (.ldqWr 1 (.handle 0 0) 0) releasingChunk = .next t ∧
    t.launch.ords ≠ [] := ⟨_, rfl, by decide +kernel⟩

theorem plainLoad_releasingChunk_commits : ∃ t, exec (.ldq 1 (.handle 0 0) 0) releasingChunk = .next t ∧
    t.launch.ords ≠ [] := ⟨_, rfl, by decide +kernel⟩

end Sys2Proof.Machine
end

section
open Sys2Proof Sys2Proof.Machine Sys2Proof.Claims

/-- Refutes O15: the statement lets the chunk hold a VSETT release with no instruction counted. A handle operand closes that
chunk, and its commit is then an event of the launch's order log (R165), which the stated frame leaves out. -/
theorem not_homeLoadResult : ¬ Obligations.HomeLoadResult := by
  unfold Obligations.HomeLoadResult
  intro loads
  obtain ⟨-, wide⟩ := loads releasingChunk (closing releasingChunk) (.handle 0 0) 0 _ _ (by decide)
  obtain ⟨stated, -⟩ := (wide reaches_releasingChunk rfl (by decide +kernel)).1 1 (by decide) (by decide)
  obtain ⟨t, steps, counted⟩ := homeLoad_releasingChunk_commits
  injection stated.symm.trans steps with same
  exact counted (same ▸ rfl)

/-- Refutes O16, as O15 is refuted: the handle operand closes a chunk that holds a VSETT release alone, and its commit is an
event of the launch's order log (R165). -/
theorem not_plainLoadResult : ¬ Obligations.PlainLoadResult := by
  unfold Obligations.PlainLoadResult
  intro loads
  obtain ⟨-, wide⟩ := loads releasingChunk (closing releasingChunk) (.handle 0 0) 0 _ _ (by decide)
  obtain ⟨v, u, ⟨-, c, l, fetched⟩, pairs, -⟩ := wide reaches_releasingChunk rfl (by decide +kernel)
  have stated := pairs 1 (by decide) (by decide)
  obtain ⟨t, steps, counted⟩ := plainLoad_releasingChunk_commits
  injection stated.symm.trans steps with same
  refine counted ?_
  subst same fetched
  rfl

end

section
/-! A release whose own store finds no room in a view: the A program of the rival that fails leaves the core (R71, R136, R275). -/

namespace Sys2Proof.Machine

/-- The store of a release that stands in A's journal until the release is over. -/
def heldEntry : JEntry :=
  { id := { core := 0, place := 4, lcore := 0, entry := 0, seqn := 0 }, tid := 1, launch := 0, seq := .a, pkg := 1, home := 0
    va := 0, key := 0, req := .store [] [] [], sent := false, hold := true, released := none }

/-- Rival 0 of a world, the hitched thread 2 in view 1. -/
def hitchedWorld : World :=
  { wid := 0, forker := 3, lcore := 0, pkg := 0, n := 1, depth := 1, ptag := 0, state := .opened
    rivals := [{ idx := 0, tid := 2, tag := 1, code := .live, cause := 0, lines := 0, sb := [], sbEnt := 0, sbLen := 0 }]
    winner := none, committing := none, linesDone := false, claims := [], team := none, origin := 0 }

/-- The A program of that thread, with a store of a release to a line that its view, which has no room, holds no copy of. -/
def crampedRelease : State :=
  { State.reset with
    cur := { Agent.new 1 with seq := .a, host := some 2, tag := 1, relStore := [(0, 1)] }
    agents := [{ Agent.new 2 with tag := 1, world := some 0 }]
    core := { Core.new 0 with hitch := some 2, places := (Core.new 0).places.set 4 { Place.empty with entries := [heldEntry] } }
    launch := { Launch.none with
      worlds := [hitchedWorld]
      views := [{ pkg := 0, tag := 1, ptag := 0, idx := 0, n1 := 1, depth := 1, gone := false, lines := [] }] }
    packages := [{ Package.new 0 with tagLines := 0 }] }

/-- The rival fails and its A program goes: the instruction that FENCE.rel counts is one of the thread left in front. -/
theorem fenceRel_crampedRelease : ∃ t, exec .fenceRel crampedRelease = .next t ∧ t.cur.chunk.count = 1 :=
  ⟨_, rfl, by decide +kernel⟩

end Sys2Proof.Machine
end

section
open Sys2Proof Sys2Proof.Machine Sys2Proof.Claims

/-- Refutes O19: the statement lets an agent without a release under way hold a release's store, and lets that store find no room in
the agent's view. FENCE.rel then fails the rival, whose A program goes, and the chunk of the thread left in front counts the
instruction; the state that the statement gives has a fresh chunk. -/
theorem not_waitsAndFencesResult : ¬ Obligations.WaitsAndFencesResult := by
  unfold Obligations.WaitsAndFencesResult
  rintro ⟨-, -, fences⟩
  obtain ⟨-, -, begins, -⟩ := fences crampedRelease (by decide) (by decide)
  have stated := begins fun released => absurd released.2.1 (by decide)
  obtain ⟨t, steps, counted⟩ := fenceRel_crampedRelease
  injection stated.symm.trans steps with same
  rw [← same] at counted
  cases counted

end

section
/-! A remote load whose value is wider than its access (R134, R220). -/

namespace Sys2Proof.Machine

/-- A signed load of one byte into g1 that has come back with a value of nine bits. -/
def wideLoad : RLoad :=
  { id := 0, dst := .g 1, addr := 0, key := 0, size := 1, signed := true, atomic := none, value := some 384, pkg := 0, pois := 0
    pc := 0, rel := false, ring := none, fault := 0, plain := true, inc := 0 }

/-- The thread in front has that load out, and no flit is under way. -/
def wideLoadOut : State := { State.reset with cur := { Agent.new 0 with loads := [wideLoad] } }

/-- The return subtracts 2^8 from the value once (R220), which leaves 128. -/
theorem loadReturn_wideLoadOut : ∃ t, exec (.remoteLoadReturn 0 0) wideLoadOut = .next t ∧
    (t.getAgent 0).map (fun a => a.regs.g[1]) = some 128 := ⟨_, rfl, by decide +kernel⟩

end Sys2Proof.Machine
end

section
open Sys2Proof Sys2Proof.Machine Sys2Proof.Claims

/-- Refutes O53: the statement lets a signed load of one byte return 384, which it takes modulo 2^8 before the sign extends; the
return instead takes 2^8 off once and writes 128. -/
theorem not_fabricResult : ¬ Obligations.FabricResult := by
  unfold Obligations.FabricResult
  rintro ⟨access, -⟩
  obtain ⟨-, returns⟩ := access wideLoadOut 0 0 wideLoadOut.cur wideLoad rfl ⟨⟨rfl, rfl, rfl⟩, rfl, rfl⟩ rfl
  obtain ⟨t, b, steps, stands, extends_, -⟩ := returns 384 1 rfl (by decide +kernel) rfl rfl (by decide) rfl rfl
  obtain ⟨u, steps', low⟩ := loadReturn_wideLoadOut
  cases steps.symm.trans steps'
  rw [stands] at low
  exact absurd (extends_.symm.trans (Option.some.inj low)) (by decide)

end

section
/-! Rings and their handles (R103 to R106, R226, R227): what an event at a ring of the own logical core leaves. -/

namespace Sys2Proof.Machine

theorem ready_onAll {s : State} (h : Ready onX s) : Ready onAll s := by
  obtain ⟨seq, room, isOpen⟩ := h
  refine ⟨?_, room, isOpen⟩
  generalize s.cur.seq = q at seq
  cases q
  · rfl
  · cases seq
  · cases seq
  · rfl

theorem closing_empty {s : State} (h : ChunkEmpty s) : ChunkEmpty (closing s) := h

/-- A logical core after a change that keeps its number. -/
theorem getLc_modLc (s : State) (n : Nat) {f : LCore → LCore} (hf : ∀ lc, (f lc).id = lc.id) :
    (s.modLc n f).getLc n = f (s.getLc n) := by
  by_cases hn : s.lc.id = n
  · simp [State.modLc, State.getLc, hn, hf]
  · have named (lc : LCore) : ((f lc).id == n) = (lc.id == n) := by rw [hf]
    by_cases hl : s.launch.lcores.any (·.id == n) = true
    · have found : (modFirst (·.id == n) f s.launch.lcores).find? (·.id == n) =
          (s.launch.lcores.find? (·.id == n)).map f := by
        induction s.launch.lcores with
        | nil => rfl
        | cons lc rest ih =>
          unfold modFirst
          by_cases h : (lc.id == n) = true
          · simp [h, named]
          · simp [h, ih]
      obtain ⟨lc, mem, eq⟩ := List.any_eq_true.mp hl
      obtain ⟨k, hk⟩ := Option.isSome_iff_exists.mp (List.find?_isSome (p := (·.id == n)) |>.mpr ⟨lc, mem, eq⟩)
      simp [State.modLc, State.getLc, hn, hl, found, hk]
    · have none : s.launch.lcores.find? (·.id == n) = none := by simpa using hl
      have fresh : (f (freshLc s n)).id = n := hf _
      simp [State.modLc, State.getLc, hn, hl, none, fresh]

@[simp] theorem getHandle_modHandle (s : State) (n : Nat) (h : BitVec 3) (f : Handle → Handle) :
    getHandle (modHandle n h f s) n h = f (getHandle s n h) := by
  unfold getHandle modHandle
  rw [getLc_modLc]
  · exact Vector.getElem_set_self _
  · exact fun _ => rfl

@[simp] theorem modHandle_cur (n : Nat) (h : BitVec 3) (f : Handle → Handle) (s : State) : (modHandle n h f s).cur = s.cur :=
  State.modLc_cur _ _ _
@[simp] theorem modHandle_core (n : Nat) (h : BitVec 3) (f : Handle → Handle) (s : State) : (modHandle n h f s).core = s.core :=
  State.modLc_core _ _ _

section
variable {s : State}

theorem handleShared_ok (hx : s.cur.seq = .x) (h : BitVec 3) : handleShared h s = .ok ((), s) := by
  simp [handleShared, hx, run_require]

/-- Outside QUANTUM and REPLAY an order-sensitive event of a thread happens at once. -/
theorem orderEvent_ok (hx : s.cur.seq = .x) (hm : s.launch.mode = .free) (kind site : Nat) :
    orderEvent kind site s = .ok ((), logEvent s s.cur.lcore 0 kind site) := by
  simp [orderEvent, atQuantum, replayMay, hx, hm, seqCode]

/-- An event at a ring of the own logical core, between chunks: it is counted, and the handle has moved on. -/
def ringMoved (h : BitVec 3) (f : Handle → Handle) (s : State) : State :=
  modHandle s.cur.lcore h f (logEvent (closing s) s.cur.lcore 0 2 (siteRing s.cur.lcore h.toNat))

theorem ringEvent_ok (hx : s.cur.seq = .x) (hm : s.launch.mode = .free) (h : BitVec 3) :
    orderEvent 2 (siteRing s.cur.lcore h.toNat) (closing s) =
      .ok ((), logEvent (closing s) s.cur.lcore 0 2 (siteRing s.cur.lcore h.toNat)) := orderEvent_ok (s := closing s) hx hm _ _

@[simp] theorem ringMoved_cur (hm : s.launch.mode = .free) (h : BitVec 3) (f : Handle → Handle) :
    (ringMoved h f s).cur = (closing s).cur := by
  rw [ringMoved, modHandle_cur, logEvent_free (s := closing s) hm]; rfl
@[simp] theorem ringMoved_core (hm : s.launch.mode = .free) (h : BitVec 3) (f : Handle → Handle) :
    (ringMoved h f s).core = s.core := by
  rw [ringMoved, modHandle_core, logEvent_free (s := closing s) hm]; rfl
theorem ringMoved_empty (hm : s.launch.mode = .free) (he : ChunkEmpty s) (h : BitVec 3) (f : Handle → Handle) :
    ChunkEmpty (ringMoved h f s) := by
  unfold ChunkEmpty; rw [ringMoved_cur hm]; exact he
theorem getHandle_ringMoved (hm : s.launch.mode = .free) (h : BitVec 3) (f : Handle → Handle) :
    getHandle (ringMoved h f s) s.cur.lcore h = f (getHandle s s.cur.lcore h) := by
  rw [ringMoved, getHandle_modHandle, logEvent_free (s := closing s) hm]; rfl

theorem released_closing (he : ChunkEmpty s) (hrel : Claims.Released0 s) : releaseSteps (closing s) = .ok ((), closing s) :=
  releaseSteps_ok (chunkEmpty_noRelease he) (releaseClear_of_released hrel)

/-! The bodies of the ring instructions. -/

section
variable {h : BitVec 3} {n : Nat}

theorem runAdvp_ok (hx : s.cur.seq = .x) (hm : s.launch.mode = .free) (he : ChunkEmpty s) (hrel : Claims.Released0 s)
    (hp : (getHandle s s.cur.lcore h).mode = 1) (hn : n ≤ (getHandle s s.cur.lcore h).free) :
    runAdvp h n s = .ok ((), ringMoved h (fun hd => { hd with p := (hd.p + n) % 2 ^ 32 }) s) := by
  simp only [runAdvp, run_bind, handleShared_ok hx, run_get, run_require, hp, hn, decide_true, Bool.and_true, if_true,
    betweenChunks_ok he, released_closing he hrel, ringEvent_ok hx hm]
  rfl

/-- What ADVC by `n` slots makes of a handle: on a reorder ring the slots that it gives back lose their marks (R106). -/
def advanced (n : Nat) (hd : Handle) : Handle :=
  if hd.mode = 1 then { hd with c := (hd.c + n) % 2 ^ 32 }
  else { hd with c := hd.c + n, marks := hd.marks.filter fun t => decide (hd.c + n ≤ t) }

theorem runAdvc_ok (hx : s.cur.seq = .x) (hm : s.launch.mode = .free) (he : ChunkEmpty s) (hrel : Claims.Released0 s)
    (hn : ((getHandle s s.cur.lcore h).mode = 1 && decide (n ≤ (getHandle s s.cur.lcore h).filled) ||
      (getHandle s s.cur.lcore h).mode = 2 && decide (n ≤ (getHandle s s.cur.lcore h).k - (getHandle s s.cur.lcore h).c)) = true) :
    runAdvc h n s = .ok ((), ringMoved h (advanced n) s) := by
  simp only [runAdvc, run_bind, handleShared_ok hx, run_get, run_require, hn, if_true, betweenChunks_ok he,
    released_closing he hrel, ringEvent_ok hx hm]
  rfl

theorem markRun_eq {marks : List Nat} {k m : Nat} (hm : ∀ j, j < m → marks.contains (k + j) = true) :
    ∀ n, m ≤ n → (m < n → marks.contains (k + m) = false) → markRun n marks k = m := by
  induction m generalizing k with
  | zero =>
    intro n _ stop
    cases n with
    | zero => rfl
    | succ n =>
      have unmarked := stop (Nat.succ_pos n)
      rw [Nat.add_zero] at unmarked
      rw [markRun, unmarked]
      rfl
  | succ m ih =>
    intro n hn stop
    cases n with
    | zero => omega
    | succ n =>
      have first := hm 0 (Nat.succ_pos m)
      rw [Nat.add_zero] at first
      have shift (j : Nat) : k + 1 + j = k + (j + 1) := by omega
      have rest := ih (k := k + 1) (fun j hj => shift j ▸ hm (j + 1) (by omega)) n (by omega)
        (fun h => shift m ▸ stop (by omega))
      rw [markRun, first, if_pos rfl, rest]

end

end

end Sys2Proof.Machine
end

section
open Sys2Proof Sys2Proof.Machine

namespace Sys2Proof.Claims

/-! The clauses of the statement about handles and rings. -/

theorem getHandle_finish (t : State) (n : Nat) (h : BitVec 3) : getHandle (finish t) n h = getHandle t n h := by
  unfold finish; split <;> rfl
theorem gval_finish (t : State) (g : GReg) : gval (finish t) g = gval t g := by
  simp only [gval, finish_regs]
theorem hcfged_finish (t : State) : (finish t).cur.hcfged = t.cur.hcfged := by
  unfold finish; split <;> rfl

section
variable {s : State} {h : BitVec 3}

/-- What an instruction leaves that ends in an event at a ring of its logical core: the handle moved on, the registers kept. -/
theorem ringMoved_completes (he : ChunkEmpty s) (hm : s.launch.mode = .free) {l : Legal} (hl : Ready l s) {body : Run Unit}
    {f : Handle → Handle} (hb : body s = .ok ((), ringMoved h f s)) : ∃ t, issue l body s = .next t ∧
      getHandle t s.cur.lcore h = f (getHandle s s.cur.lcore h) ∧ t.cur.regs.g = s.cur.regs.g := by
  refine ⟨_, issue_ok hl hb (.inr (ringMoved_empty hm he h f)), ?_, ?_⟩
  · rw [getHandle_finish, getHandle_ringMoved hm]
  · rw [finish_regs, ringMoved_cur hm]
    rfl

/-- The same of one that then writes a register. -/
theorem ringWritten_completes (he : ChunkEmpty s) (hm : s.launch.mode = .free) {l : Legal} (hl : Ready l s) {body : Run Unit}
    {f : Handle → Handle} {g : GReg} {v : Word} (hb : body s = .ok ((), putG g v (ringMoved h f s))) :
    ∃ t, issue l body s = .next t ∧ gval t g = (if g = 0 then 0 else v) ∧
      getHandle t s.cur.lcore h = f (getHandle s s.cur.lcore h) := by
  refine ⟨_, issue_ok hl hb (.inr (ringMoved_empty hm he h f)), ?_, ?_⟩
  · rw [gval_finish]
    by_cases hg : g = 0
    · simp only [gval, hg, if_true]
    · rw [if_neg hg, gval_putG hg]
  · exact (getHandle_finish _ _ _).trans (getHandle_ringMoved hm h f)

section
variable {d : Word} {lsize : Nat} (h1 : d.toNat / 2 ^ 36 % 2 ^ 26 = 0) (h2 : d.toNat / 2 ^ 18 % 2 ^ 10 = 0)

include h1 h2

/-- A descriptor with its reserved fields 0 and mode 0 turns the handle off (R103). -/
theorem hcfgHandle_off (h0 : d.toNat / 2 ^ 62 = 0) : hcfgHandle d lsize = some Handle.off := by
  have mode : field d.toNat 63 62 = 0 := by rw [field, h0, Nat.zero_mod]
  have clear1 : field d.toNat 61 36 = 0 := h1
  have clear2 : field d.toNat 27 18 = 0 := h2
  simp only [hcfgHandle, clear1, clear2, mode, ne_eq, not_true_eq_false, or_self, if_false]

/-- One of mode 1 or 2 asks for a ring of 2^LOGN slots of 2^LOGS bytes that stands in the local space (R103). -/
theorem hcfgHandle_ring (hm : d.toNat / 2 ^ 62 = 1 ∨ d.toNat / 2 ^ 62 = 2)
    (hr : 1 ≤ d.toNat / 2 ^ 32 % 16 ∧ d.toNat / 2 ^ 32 % 16 ≤ 8 ∧ 3 ≤ d.toNat / 2 ^ 28 % 16 ∧ d.toNat / 2 ^ 28 % 16 ≤ 12 ∧
      d.toNat % 2 ^ 18 % 2 ^ (d.toNat / 2 ^ 28 % 16) = 0 ∧
      d.toNat % 2 ^ 18 + 2 ^ (d.toNat / 2 ^ 32 % 16) * 2 ^ (d.toNat / 2 ^ 28 % 16) ≤ lsize) :
    hcfgHandle d lsize = some { Handle.off with mode := BitVec.ofNat 2 (d.toNat / 2 ^ 62), logn := d.toNat / 2 ^ 32 % 16
                                                logs := d.toNat / 2 ^ 28 % 16, base := d.toNat % 2 ^ 18 } := by
  have clear1 : field d.toNat 61 36 = 0 := h1
  have clear2 : field d.toNat 27 18 = 0 := h2
  have mode : field d.toNat 63 62 = d.toNat / 2 ^ 62 := Nat.mod_eq_of_lt (by omega)
  have base : field d.toNat 17 0 = d.toNat % 2 ^ 18 := by rw [field, pow_zero, Nat.div_one]
  have logn : field d.toNat 35 32 = d.toNat / 2 ^ 32 % 16 := rfl
  have logs : field d.toNat 31 28 = d.toNat / 2 ^ 28 % 16 := rfl
  simp only [hcfgHandle, clear1, clear2, mode, logn, logs, base, ne_eq, not_true_eq_false, or_self, if_false]
  rcases hm with hm | hm
  all_goals simp only [hm, if_pos hr]

end

theorem hcfg_completes (hr : Ready onX s) (he : ChunkEmpty s) {g : GReg} (hg : Readable s g)
    (hb : (getHandle s s.cur.lcore h).busy = false) {hd : Handle} (hc : hcfgHandle (gval s g) s.launch.lsize = some hd) :
    ∃ t, exec (.hcfg h (.reg g)) s = .next t ∧ getHandle t s.cur.lcore h = hd ∧ t.cur.hcfged = true := by
  let t := (modHandle s.cur.lcore h (fun _ => hd) (closing s)).modCur fun a => { a with hcfged := true }
  have cur : t.cur = { (closing s).cur with hcfged := true } := by rw [State.modCur_cur, modHandle_cur]
  have empty : ChunkEmpty t := by unfold ChunkEmpty; rw [cur]; exact he
  refine ⟨finish t, issue_ok (t := t) hr ?_ (.inr empty), ?_, ?_⟩
  · simp only [readOp, run_bind, readG_ok hg, run_get, hc, run_require, hb, Bool.not_false, if_true, betweenChunks_ok he,
      run_modify]
    rfl
  · rw [getHandle_finish]
    exact getHandle_modHandle (closing s) s.cur.lcore h _
  · rw [hcfged_finish, cur]

/-- The operand of ADVP and ADVC in a register. -/
theorem advance_count {g : GReg} {k : BitVec 31} (hg : Readable s g) (hk : gval s g = k.setWidth 64) (f : Nat → Run Unit) :
    (do f (← readOp (.reg g)).toNat : Run Unit) s = f k.toNat s := by
  have count : (k.setWidth 64).toNat = k.toNat := by rw [BitVec.toNat_setWidth]; exact Nat.mod_eq_of_lt (by omega)
  rw [run_bind, readOp, readG_ok hg, hk]
  simp only [count]

section
variable (hx : s.cur.seq = .x) (hr : Ready onX s) (he : ChunkEmpty s) (hm : s.launch.mode = .free) (hrel : Released0 s)

include hx hr he hm hrel

theorem advp_completes (hp : (getHandle s s.cur.lcore h).mode = 1) {i : Instr} {k : BitVec 31}
    (hi : i = .advpN h k ∨ ∃ g, Readable s g ∧ gval s g = k.setWidth 64 ∧ i = .advpG h (.reg g))
    (hk : k.toNat ≤ (getHandle s s.cur.lcore h).free) : ∃ t, exec i s = .next t ∧
      getHandle t s.cur.lcore h = { getHandle s s.cur.lcore h with
        p := ((getHandle s s.cur.lcore h).p + k.toNat) % 2 ^ 32 } ∧ t.cur.regs.g = s.cur.regs.g := by
  have body := runAdvp_ok hx hm he hrel hp hk
  rcases hi with rfl | ⟨g, hg, hv, rfl⟩
  · exact ringMoved_completes he hm (ready_onAll hr) body
  · exact ringMoved_completes he hm (ready_onAll hr) ((advance_count hg hv (runAdvp h)).trans body)

theorem advc_completes {i : Instr} {k : BitVec 31}
    (hi : i = .advcN h k ∨ ∃ g, Readable s g ∧ gval s g = k.setWidth 64 ∧ i = .advcG h (.reg g))
    (hk : ((getHandle s s.cur.lcore h).mode = 1 && decide (k.toNat ≤ (getHandle s s.cur.lcore h).filled) ||
      (getHandle s s.cur.lcore h).mode = 2 &&
        decide (k.toNat ≤ (getHandle s s.cur.lcore h).k - (getHandle s s.cur.lcore h).c)) = true) :
    ∃ t, exec i s = .next t ∧ getHandle t s.cur.lcore h = advanced k.toNat (getHandle s s.cur.lcore h) ∧
      t.cur.regs.g = s.cur.regs.g := by
  have body := runAdvc_ok hx hm he hrel hk
  rcases hi with rfl | ⟨g, hg, hv, rfl⟩
  · exact ringMoved_completes he hm (ready_onAll hr) body
  · exact ringMoved_completes he hm (ready_onAll hr) ((advance_count hg hv (runAdvc h)).trans body)

theorem rfill_completes (ho : ringOut s s.cur.lcore = false) {g : GReg} (hg : Readable s g)
    (hp : (getHandle s s.cur.lcore h).mode = 2) (hk : (getHandle s s.cur.lcore h).k ≤ (gval s g).toNat)
    (ht : (gval s g).toNat < (getHandle s s.cur.lcore h).t)
    (hu : (getHandle s s.cur.lcore h).marks.contains (gval s g).toNat = false) :
    ∃ t, exec (.rfill (.reg g) h none) s = .next t ∧ getHandle t s.cur.lcore h =
      { getHandle s s.cur.lcore h with marks := (gval s g).toNat :: (getHandle s s.cur.lcore h).marks } ∧
      t.cur.regs.g = s.cur.regs.g := by
  refine ringMoved_completes (f := fun hd => { hd with marks := (gval s g).toNat :: hd.marks }) he hm (ready_onAll hr) ?_
  simp only [readOp, readG_ok hg, ringTarget, run_bind, run_get, run_pure, if_true, handleShared_ok hx, ho,
    Bool.false_eq_true, if_false, run_require, hp, hk, ht, hu, decide_true, Bool.and_self, Bool.not_false,
    betweenChunks_ok he, released_closing he hrel, ringEvent_ok hx hm]
  rfl

end

section
variable (hx : s.cur.seq = .x) (hr : Ready onX s) (he : ChunkEmpty s) (hm : s.launch.mode = .free)

include hm in
theorem ringMoved_writable {g : GReg} (hg : Writable s g) (f : Handle → Handle) : Writable (ringMoved h f s) g := by
  unfold Writable vectorMarks; rw [ringMoved_core hm, ringMoved_cur hm]; exact hg

include hx hr he hm

theorem tkt_completes (ho : ringOut s s.cur.lcore = false) (hp : (getHandle s s.cur.lcore h).mode = 2) {g : GReg}
    (hg : Writable s g)
    (hroom : (getHandle s s.cur.lcore h).t < (getHandle s s.cur.lcore h).c + (getHandle s s.cur.lcore h).nslot) :
    ∃ t, exec (.tkt (.reg g) h none) s = .next t ∧
      gval t g = (if g = 0 then 0 else BitVec.ofNat 64 (getHandle s s.cur.lcore h).t) ∧
      getHandle t s.cur.lcore h = { getHandle s s.cur.lcore h with t := (getHandle s s.cur.lcore h).t + 1 } := by
  refine ringWritten_completes (f := fun hd => { hd with t := hd.t + 1 }) he hm (ready_onAll hr) ?_
  simp only [ringTarget, run_bind, run_get, run_pure, if_true, handleShared_ok hx, ho, Bool.false_eq_true, if_false,
    run_require, hp, decide_true, betweenChunks_ok he, Nat.not_le.mpr hroom, ringEvent_ok hx hm, run_modify]
  exact writeG_ok _ (ringMoved_writable hm hg _)

theorem rtake_completes (hp : (getHandle s s.cur.lcore h).mode = 2) {g : GReg} (hg : Writable s g) {m : Nat} (hpos : 0 < m)
    (hrun : markRun (getHandle s s.cur.lcore h).nslot (getHandle s s.cur.lcore h).marks (getHandle s s.cur.lcore h).k = m) :
    ∃ t, exec (.rtake (.reg g) h) s = .next t ∧ gval t g = (if g = 0 then 0 else BitVec.ofNat 64 m) ∧
      getHandle t s.cur.lcore h = { getHandle s s.cur.lcore h with k := (getHandle s s.cur.lcore h).k + m } := by
  refine ringWritten_completes (f := fun hd => { hd with k := hd.k + m }) he hm (ready_onAll hr) ?_
  simp only [run_bind, run_get, handleShared_ok hx, run_require, hp, decide_true, if_true, betweenChunks_ok he, hrun,
    Nat.pos_iff_ne_zero.mp hpos, if_false, ringEvent_ok hx hm, run_modify]
  exact writeG_ok _ (ringMoved_writable hm hg _)

end

/-! A ring in another package (R227). -/

/-- The access that TKT or RFILL sends to a ring. -/
def ringAccess (d : LDst) (n : Nat) (h : BitVec 3) (t : Option Nat) (s : State) : RLoad :=
  { remoteLoad d (BitVec.ofNat 80 (placeAddr n 0)) { key := 0, home := n, pkg := pkgOf (s.getLc n).core } 0 false none false false
    with ring := some (n, h, t) }

/-- A remote access of the agent in front as it goes out (R134). -/
def numbered (x : RLoad) (s : State) : RLoad :=
  { x with id := s.cur.nextLoad, inc := (s.getPkg x.pkg).inc, pc := s.cur.regs.pc }

theorem inject_cur (c : Cargo) (src dst : Nat) (s : State) : (inject c src dst s).cur = s.cur := by
  unfold inject; split <;> rfl
theorem putLoad_cur (x : RLoad) (n : Nat) (acq : Bool) (s : State) : (putLoad x n acq s).cur = { s.cur with
    loads := s.cur.loads ++ [numbered x s], nextLoad := s.cur.nextLoad + 1, gate := s.cur.gate || acq } := inject_cur _ _ _ _
theorem loads_finish (t : State) : (finish t).cur.loads = t.cur.loads := by
  unfold finish; split <;> rfl

theorem sendRing_ok (hm : s.launch.mode = .free) (hroom : s.cur.loads.length < 64) (d : LDst) (n : Nat) (t : Option Nat) :
    sendRing d n h t (closing s) = .ok ((), putLoad (ringAccess d n h t s) n false (closing s)) := by
  have room : ¬ Config.maxRemoteLoads ≤ (closing s).cur.loads.length := Nat.not_le.mpr hroom
  have free : (closing s).launch.mode = .free := hm
  simp only [sendRing, loadRoom, atQuantum, run_bind, run_get, run_ite, if_neg room, run_pure, free, reduceCtorEq, false_and,
    if_false]
  rfl

/-- An access that has been sent is out, and no register has changed. -/
theorem putLoad_completes (he : ChunkEmpty s) {l : Legal} (hl : Ready l s) {body : Run Unit} {x : RLoad} {n : Nat}
    (hb : body s = .ok ((), putLoad x n false (closing s))) : ∃ t y, issue l body s = .next t ∧
      t.cur.loads = s.cur.loads ++ [y] ∧ y.dst = x.dst ∧ y.ring = x.ring ∧ y.value = x.value ∧ t.cur.regs.g = s.cur.regs.g := by
  have empty : ChunkEmpty (putLoad x n false (closing s)) := by unfold ChunkEmpty; rw [putLoad_cur]; exact he
  refine ⟨_, numbered x (closing s), issue_ok hl hb (.inr empty), ?_, rfl, rfl, rfl, ?_⟩
  · rw [loads_finish, putLoad_cur]; rfl
  · rw [finish_regs, putLoad_cur]; rfl

section
variable {c : GReg} (hx : s.cur.seq = .x) (hc : Readable s c) (hl : (gval s c).toNat < s.launch.l)
  (ha : (s.getLc (gval s c).toNat).away = false) (hb : buffered s = false)

include hc hl ha hb in
theorem ringTarget_ok : ringTarget (some c) s = .ok ((gval s c).toNat, s) := by
  simp [ringTarget, readG_ok hc, run_require, hl, hb, ha]

variable (hr : Ready onX s) (he : ChunkEmpty s) (hm : s.launch.mode = .free) (ho : ringOut s (gval s c).toNat = true)

include hx hc hl ha hb hr he hm ho

theorem tkt_sends (hroom : s.cur.loads.length < 64) (g : GReg) : ∃ t y, exec (.tkt (.reg g) h (some c)) s = .next t ∧
    t.cur.loads = s.cur.loads ++ [y] ∧ y.dst = .g g ∧ y.ring = some ((gval s c).toNat, h, none) ∧ y.value = none ∧
    t.cur.regs.g = s.cur.regs.g := by
  refine putLoad_completes (x := ringAccess (.g g) (gval s c).toNat h none s) (n := (gval s c).toNat) he (ready_onAll hr) ?_
  simp only [run_bind, ringTarget_ok hc hl ha hb, run_get, run_ite, handleShared_ok hx, run_pure, ite_self, ho, if_true,
    betweenChunks_ok he, gDst, sendRing_ok hm hroom]

theorem rfill_sends {g : GReg} (hg : Readable s g) (hrel : Released0 s) : ∃ t y, exec (.rfill (.reg g) h (some c)) s = .next t ∧
    t.cur.loads = s.cur.loads ++ [y] ∧ y.dst = .g 0 ∧ y.ring = some ((gval s c).toNat, h, some (gval s g).toNat) ∧
    y.value = none ∧ t.cur.regs.g = s.cur.regs.g := by
  have room : s.cur.loads.length < 64 := by rw [hrel.1]; decide
  refine putLoad_completes (x := ringAccess (.g 0) (gval s c).toNat h (some (gval s g).toNat) s) (n := (gval s c).toNat) he
    (ready_onAll hr) ?_
  simp only [readOp, readG_ok hg, run_bind, ringTarget_ok hc hl ha hb, run_get, run_ite, handleShared_ok hx, run_pure,
    ite_self, ho, if_true, betweenChunks_ok he, released_closing he hrel, sendRing_ok hm room]

end

end

end Sys2Proof.Claims

end

section
open Sys2Proof Sys2Proof.Machine Sys2Proof.Claims

/-- Settles O23: each instruction on the own ring is one event there, after which its handle and its register are read off; TKT and
RFILL of a ring in another package put one access on its way. -/
theorem handleAndRingResult : Obligations.HandleAndRingResult := by
  unfold Obligations.HandleAndRingResult
  intro s hx hr he hm n hown H
  have own : ringOut s n = false := by simp [ringOut, n, hown]
  refine ⟨?_, ?_, ?_, ?_⟩
  · intro h g hg hb d m logn logs base h1 h2
    refine ⟨fun h0 => hcfg_completes hr he hg hb (hcfgHandle_off h1 h2 h0), fun hm n1 n2 s1 s2 aligned fits => ?_⟩
    obtain ⟨t, steps, handle, configured⟩ := hcfg_completes hr he hg hb (hcfgHandle_ring h1 h2 hm ⟨n1, n2, s1, s2, aligned, fits⟩)
    exact ⟨t, steps, configured, handle⟩
  · intro hrel h hp
    refine ⟨fun i k hi hk => advp_completes hx hr he hm hrel hp hi hk, fun i k hi hk => ?_⟩
    have filled : k.toNat ≤ (getHandle s s.cur.lcore h).filled := hk
    have mode : (getHandle s s.cur.lcore h).mode = 1 := hp
    obtain ⟨t, steps, moved, kept⟩ := advc_completes (h := h) hx hr he hm hrel hi (by simp [mode, filled])
    rw [advanced, if_pos mode] at moved
    exact ⟨t, steps, moved, kept⟩
  · intro h hp
    have mode : (getHandle s s.cur.lcore h).mode = 2 := hp
    refine ⟨fun hrel k hk => ?_, fun g hg hroom => tkt_completes hx hr he hm own mode hg hroom, ?_, ?_⟩
    · have ready : k.toNat ≤ (getHandle s s.cur.lcore h).k - (getHandle s s.cur.lcore h).c := hk
      obtain ⟨t, steps, moved, -⟩ := advc_completes (h := h) hx hr he hm hrel (.inl rfl)
        (k := k) (by simp [mode, ready])
      rw [advanced, if_neg (by rw [mode]; decide)] at moved
      exact ⟨t, steps, congrArg Handle.c moved, (congrArg Handle.k moved :)⟩
    · intro g hg hrel hk ht hu
      obtain ⟨t, steps, moved, -⟩ := rfill_completes hx hr he hm hrel own hg mode hk ht hu
      exact ⟨t, steps, moved⟩
    · intro g k hg hpos hk run stop
      exact rtake_completes hx hr he hm mode hg hpos (markRun_eq run _ hk stop)
  · intro h g c hc hl ha ho hb
    have out : ringOut s (gval s c).toNat = true := by simpa [ringOut] using ho
    exact ⟨fun hroom => tkt_sends hx hc hl ha hb hr he hm out hroom g,
      fun hg hrel => by
        obtain ⟨t, y, steps, sent, -, rest⟩ := rfill_sends hx hc hl ha hb hr he hm out hg hrel
        exact ⟨t, y, steps, sent, rest⟩⟩

end

section
/-! What a body keeps of a state, and how it may stop (R127): a rule per form of a body. -/

namespace Sys2Proof.Machine

/-- From a state with `I` the body ends in one with `I`, or stops as `E` says. -/
structure Keeps (I : State → Prop) (E : Stop → Prop) {α : Type} (x : Run α) : Prop where
  ok : ∀ {s a t}, I s → x s = .ok (a, t) → I t
  stop : ∀ {s e}, I s → x s = .error e → E e

section
variable {I : State → Prop} {E : Stop → Prop} {α β : Type}

theorem keeps_pure (a : α) : Keeps I E (pure a : Run α) :=
  ⟨fun hs h => by cases h; exact hs, fun hs h => by cases h⟩
theorem keeps_throw {e : Stop} (he : E e) : Keeps I E (throw e : Run α) :=
  ⟨fun _ h => (by cases h), fun _ h => by cases h; exact he⟩
theorem keeps_bind {x : Run α} {f : α → Run β} (hx : Keeps I E x) (hf : ∀ a, Keeps I E (f a)) : Keeps I E (x >>= f) where
  ok hs h := by
    obtain ⟨a, u, first, rest⟩ := bind_ok h
    exact (hf a).ok (hx.ok hs first) rest
  stop {s e} hs h := by
    rw [run_bind] at h
    cases first : x s with
    | error e' => rw [first] at h; cases h; exact hx.stop hs first
    | ok r => rw [first] at h; exact (hf r.1).stop (hx.ok hs first) h
theorem keeps_throw_bind {e : Stop} {f : α → Run β} (he : E e) : Keeps I E ((throw e : Run α) >>= f) :=
  ⟨fun _ h => (by cases h), fun _ h => by cases h; exact he⟩
theorem keeps_get_bind {f : State → Run β} (hf : ∀ s, I s → Keeps I E (f s)) : Keeps I E (get >>= f) :=
  ⟨fun hs h => (hf _ hs).ok hs h, fun hs h => (hf _ hs).stop hs h⟩
theorem keeps_ite {c : Prop} [Decidable c] {x y : Run α} (hx : c → Keeps I E x) (hy : ¬ c → Keeps I E y) :
    Keeps I E (if c then x else y) := by
  split
  · next h => exact hx h
  · next h => exact hy h
theorem keeps_set {t : State} (ht : I t) : Keeps I E (set t : Run Unit) :=
  ⟨fun _ h => by cases h; exact ht, fun _ h => by cases h⟩
theorem keeps_modify {f : State → State} (hf : ∀ s, I s → I (f s)) : Keeps I E (modify f : Run Unit) :=
  ⟨fun hs h => by cases h; exact hf _ hs, fun _ h => by cases h⟩
theorem keeps_forM {f : α → Run PUnit} {l : List α} (hf : ∀ a ∈ l, Keeps I E (f a)) : Keeps I E (l.forM f) := by
  induction l with
  | nil => exact keeps_pure _
  | cons a l ih => exact keeps_bind (hf a (by simp)) fun _ => ih fun b hb => hf b (by simp [hb])

theorem keeps_require {c : Byte} {a : Addr} (he : E (.fault c a)) (b : Bool) : Keeps I E (require b c a) := by
  cases b
  · exact keeps_throw he
  · exact keeps_pure _

/-- Reaching a byte (R199) keeps what the buffer of the core and the unit's cache do not touch; it waits for an answer alone. -/
theorem keeps_reach (hI : ∀ {s t}, Translated s t → I s → I t) (hfault : ∀ c a, E (.fault c a)) (hanswer : E (.wait (.resource .answer)))
    (habsent : ∀ a, E (.absent a)) (hmemory : ∀ n, E (.noMemory n))
    (hrefused : ∀ f c a, (∀ s, Translated s (f s)) → E (.refused f c a)) (va : Addr) (need : Rights) : Keeps I E (reach va need) := by
  unfold reach
  refine keeps_get_bind fun u hu => ?_
  dsimp only
  refine keeps_ite (fun _ => keeps_throw (hfault _ _)) fun _ => ?_
  refine keeps_ite (fun _ => keeps_ite (fun _ => ?_) fun _ => keeps_throw (hfault _ _)) fun _ => ?_
  · exact keeps_ite (fun _ => keeps_throw hanswer) fun _ => keeps_pure _
  have asks : ∀ s, Translated s (((askUnit s u.did va.toNat true).map (·.2)).getD s) := by
    intro s
    cases asked : askUnit s u.did va.toNat true with
    | none => exact translated_refl s
    | some r => exact translated_ask asked
  have again : ∀ grants : PlbEntry → Bool, Keeps I E (match askUnit u u.did va.toNat true with
      | none => throw (.absent va)
      | some (e, s') =>
        if grants e then do set s'; pure e
        else throw (.refused (fun s => ((askUnit s u.did va.toNat true).map (·.2)).getD s) cRights va) : Run PlbEntry) := by
    intro grants
    split
    · exact keeps_throw (habsent _)
    · next asked =>
      refine keeps_ite (fun _ => ?_) fun _ => keeps_throw (hrefused _ _ _ asks)
      exact keeps_bind (keeps_set (hI (translated_ask asked) hu)) fun _ => keeps_pure _
  have finishes : ∀ e : PlbEntry, Keeps I E (do
      let key ← physKey (← get) va.toNat
      let home := homeOf u u.core e va.toNat
      if homeShut u u.core.id home then stalled .answer
      else return { key := key, home := home, pkg := pkgOf (u.getLc home).core } : Run Acc) := by
    intro e
    refine keeps_get_bind fun v _ => keeps_bind ?_ fun key => ?_
    · unfold physKey
      split
      · exact keeps_throw (habsent _)
      · exact keeps_ite (fun _ => keeps_throw (hmemory _)) fun _ => keeps_pure _
    · exact keeps_ite (fun _ => keeps_throw hanswer) fun _ => keeps_pure _
  refine keeps_ite (fun _ => keeps_bind (keeps_pure _) ?granted) fun _ => ?user
  case' user => split
  case' h_1 => refine keeps_bind (keeps_pure _) ?leased
  case h_2 => exact keeps_throw_bind (hfault _ _)
  all_goals
    intro lease
    split
    · refine keeps_ite (fun _ => ?_) fun _ => keeps_bind (again _) finishes
      refine keeps_bind (keeps_modify fun s hs => hI ?_ hs) fun _ => keeps_bind (keeps_pure _) finishes
      rfl
    · split
      · exact keeps_throw (habsent _)
      · next asked =>
        refine keeps_ite (fun _ => ?_) fun _ => keeps_bind (again _) finishes
        refine keeps_bind (keeps_set (hI (translated_ask asked) hu)) fun _ => ?_
        exact keeps_bind (keeps_pure _) finishes

end

end Sys2Proof.Machine
end

section
/-! A commit with nothing in its way (R127 to R129), and what an operand and its reach leave of the thread in front. -/

namespace Sys2Proof.Machine
open Sys2Proof.Claims

section
variable (who : Nat) (s : State)

theorem setBaseEmpty_homeFrame (k : Nat) (e : Bool) : HomeFrame who s (setBaseEmpty s k e) :=
  ite_homeFrame (.of_rest rfl) (.of_rest rfl)
theorem setEmptyView_homeFrame (p t k : Nat) (e : Bool) : HomeFrame who s (setEmptyView s p t k e) :=
  ite_homeFrame (setBaseEmpty_homeFrame who s k e) ((copyLine_homeFrame who s p t k).trans (modLine_homeFrame who _ _ _ _ _))
theorem emptyWords_homeFrame (p t : Nat) (ks : List Nat) : HomeFrame who s (emptyWords p t ks s) :=
  foldl_homeFrame _ (fun s k => setEmptyView_homeFrame who s p t k true) ks s
theorem poisonWords_homeFrame (p t : Nat) (ks : List Nat) : HomeFrame who s (poisonWords p t ks s) :=
  foldl_homeFrame _ (fun s k => setPoison_homeFrame who s p t k true) ks s

end

theorem applyChunk_homeFrame (c : Chunk) (s : State) : HomeFrame s.cur.tid s (applyChunk c s) :=
  ((writeHome_homeFrame s.cur.tid s _ _ _ _).trans (emptyWords_homeFrame _ _ _ _ _)).trans (poisonWords_homeFrame _ _ _ _ _)

/-- A commit in FREE mode leaves the agent in front. -/
theorem commitNow_cur {s : State} (hm : s.launch.mode = .free) (c : Chunk) : (commitNow c s).cur = s.cur := by
  have applied := applyChunk_homeFrame c s
  have cur : (applyChunk c s).cur = s.cur := applied.cur rfl
  have mode : (applyChunk c s).launch.mode = .free := by rw [applied.launch]; exact hm
  have logged : (logEvent (applyChunk c s) (applyChunk c s).cur.lcore (seqCode (applyChunk c s).cur.seq) 1
      (siteCommit (applyChunk c s).pkg)).cur = s.cur := by
    rw [logEvent_free mode, State.modLaunch_cur, cur]
  have kept : (if (applyChunk c s).cur.seq = .s then applyChunk c s else logEvent (applyChunk c s) (applyChunk c s).cur.lcore
      (seqCode (applyChunk c s).cur.seq) 1 (siteCommit (applyChunk c s).pkg)).cur = s.cur := by
    split
    · exact cur
    · exact logged
  unfold commitNow
  dsimp only
  split
  · exact kept
  · exact kept

/-- What the commit of a chunk of `s` waits for, once registers and count have moved on: nothing. -/
theorem commitWait_free {s : State} (hf : FreeCommit s) (f : Agent → Agent) {c : Chunk} (hw : c.wbuf = s.cur.chunk.wbuf) (hk : c.clre = s.cur.chunk.clre)
    (hh : c.homes = s.cur.chunk.homes) : commitWait c (s.modCur f) = none := by
  obtain ⟨hmode, -, -, -, -, -, hothers, hbytes, hwords, hhomes, -⟩ := hf
  have held : chunkHeld c (s.modCur f) = false := by
    rw [chunkHeld, hw, hk, Bool.or_eq_false_iff]
    exact ⟨List.any_eq_false.mpr fun x hx => Bool.eq_false_iff.mp (hbytes x hx),
      List.any_eq_false.mpr fun k hk => Bool.eq_false_iff.mp (hwords k hk)⟩
  have homes : c.homes.any (homeStands (s.modCur f) (s.modCur f).core.id) = false := by
    rw [hh]
    exact List.any_eq_false.mpr fun h hh => Bool.eq_false_iff.mp (hhomes h hh)
  have lines : c.wlines.any (reservedLine (s.modCur f) (s.modCur f).pkg (f s.cur).tag (f s.cur).tid) = false := by
    refine List.any_eq_false.mpr fun l _ => Bool.eq_false_iff.mp (List.any_eq_false.mpr fun b hb => ?_)
    obtain rfl | hb := List.mem_cons.mp hb
    · simp
    · have idle : reserving (s.modCur f) b = false := by simp [reserving, hothers b hb]
      simp [idle]
  have replay : replayMay (s.modCur f) (f s.cur).lcore (seqCode (f s.cur).seq) 1 = true := by
    have live : ¬ (s.modCur f).launch.mode = .replay := by rw [State.modCur_launch, hmode]; decide
    rw [replayMay, if_neg live]
  simp only [commitWait, State.modCur_cur, held, homes, lines, replay, Bool.and_false, Bool.not_true, Bool.false_eq_true, if_false]

/-- With nothing in the way of its chunk's commit an instruction completes: the registers stand, and the pc moves on. -/
theorem retire_free {u : State} (hf : FreeCommit u) : ∃ t, retire u = .done t ∧
    t.cur.regs = { u.cur.regs with pc := u.cur.npc } := by
  have free := hf
  obtain ⟨hmode, htag, hconf, -⟩ := hf
  unfold retire
  extract_lets c alone v
  have regs : v.cur.regs = { u.cur.regs with pc := u.cur.npc } := rfl
  split
  · have wait : commitWait v.cur.chunk v = none := commitWait_free free _ rfl rfl rfl
    have room : lacksRoom v (newLines v v.cur.chunk.wlines) = false := lacksRoom_committed (s := v) htag _
    have mode : v.launch.mode = .free := hmode
    have conf : v.cur.chunk.conflict = false := hconf
    unfold commitChunk
    dsimp only
    split
    · exact ⟨_, rfl, regs⟩
    · simp only [mode, conf, wait, room, reduceCtorEq, false_and, Bool.false_eq_true, if_false]
      refine ⟨_, rfl, ?_⟩
      rw [State.modCur_cur, commitNow_cur mode]
      exact regs
  · exact ⟨_, rfl, regs⟩

/-- An instruction whose chunk commits at once completes with what retiring it leaves. -/
theorem issue_done {l : Legal} {body : Run Unit} {s u t : State} (hr : Ready l s) (hb : body s = .ok ((), u))
    (ht : retire u = .done t) : issue l body s = .next t := by
  obtain ⟨legal, room, -⟩ := hr
  have few : ¬ Config.chunkInstrs ≤ s.cur.chunk.count := Nat.not_le.2 room
  simp only [issue, legal, if_true, runBody, few, if_false, hb, conclude, ht]

/-! Operands. -/

theorem endChunk_state {s t : State} (h : endChunk s = .ok ((), t)) : t = s := by
  simp only [endChunk, run_bind, run_get, run_ite, run_throw, run_pure, stalled] at h
  split at h
  · cases h
  · split at h
    · cases h
    · cases h; rfl

theorem releaseOver_state {s t : State} (h : releaseOver s = .ok ((), t)) : t = s := by
  simp only [releaseOver, run_bind, run_get, run_ite, run_pure, stalled, run_throw] at h
  split at h
  · cases h
  · cases h; rfl

theorem betweenChunks_state {s t : State} (h : betweenChunks s = .ok ((), t)) : t = closing s := by
  unfold betweenChunks at h
  obtain ⟨_, u, ended, rest⟩ := bind_ok h
  obtain ⟨_, v, waited, closes⟩ := bind_ok rest
  rw [releaseOver_state waited, endChunk_state ended, closeAfter_ok] at closes
  cases closes
  rfl

theorem require_state {b : Bool} {c : Byte} {a : Addr} {s t : State} (h : require b c a s = .ok ((), t)) : t = s := by
  cases b
  · cases h
  · cases h; rfl

theorem handleShared_state {h : BitVec 3} {s t : State} (ok : handleShared h s = .ok ((), t)) : t = s := by
  simp only [handleShared, run_bind, run_get] at ok
  exact require_state ok

/-- A memory operand closes the chunk at most (R177, R221). -/
theorem baseAddr_state {b : PBase} {dest : Bool} {s t : State} {ea : Addr} (h : baseAddr b dest s = .ok (ea, t)) :
    t = s ∨ t = closing s := by
  cases b with
  | ptr n =>
    simp only [baseAddr, readP, run_bind, run_get, run_ite, run_pure, stalled, run_throw] at h
    split at h
    · cases h
    · cases h; exact .inl rfl
  | handle hn arg =>
    rw [baseAddr, handleAddr] at h
    obtain ⟨_, v, shared, named⟩ := bind_ok h
    rw [handleShared_state shared] at named
    obtain ⟨_, _, got, checked⟩ := bind_ok named
    cases got
    obtain ⟨_, w, legal, closes⟩ := bind_ok checked
    rw [require_state legal] at closes
    obtain ⟨_, x, between, answers⟩ := bind_ok closes
    refine .inr ?_
    rw [← betweenChunks_state between]
    cases dest
    all_goals
      simp only [run_bind, run_ite, blocked, run_throw, run_pure, if_true, Bool.false_eq_true, if_false] at answers
      split at answers
      · cases answers
      · cases answers; rfl

theorem effAddr_state {b : PBase} {disp : Word} {dest : Bool} {s t : State} {ea : Addr}
    (h : effAddr b disp dest s = .ok (ea, t)) : t = s ∨ t = closing s := by
  obtain ⟨base, u, operand, answers⟩ := bind_ok h
  cases answers
  exact baseAddr_state operand

theorem reachAligned_translated {s t : State} {va : Addr} {n : Nat} {need : Rights} {a : Acc}
    (h : reachAligned va n need s = .ok (a, t)) : Translated s t :=
  leaves_bind (leaves_require s _ _ _) (fun _ => leaves_reach s va need) s a t (translated_refl s) h

theorem translated_cur {s t : State} (h : Translated s t) : t.cur = s.cur := by rw [h]
theorem translated_mem {s t : State} (h : Translated s t) : t.mem = s.mem := by rw [h]

theorem reaches_npc {b : PBase} {disp : Word} {dest : Bool} {n : Nat} {need : Rights} {s t : State} {ea : Addr} {a : Acc}
    (h : Reaches b disp dest n need s t ea a) : t.cur.npc = s.cur.npc := by
  obtain ⟨u, operand, reached⟩ := h
  rw [translated_cur (reachAligned_translated reached)]
  obtain rfl | rfl := effAddr_state operand
  · rfl
  · rfl

theorem writes_npc {o : GOp} {v : Word} {s t : State} (h : Writes o v s t) : t.cur.npc = s.cur.npc := by
  cases o with
  | reg n => obtain ⟨-, rfl⟩ := h; rfl
  | port d => obtain ⟨-, -, rfl⟩ := h; rfl

/-! Loads. -/

theorem homeRead_ok {s : State} {key n : Nat} (h : meetsPoison s key n = false) (va : Addr) :
    homeRead va key n s = .ok (seenN s key n, noteRead key s) := by
  simp only [homeRead, run_bind, run_get, h, Bool.false_eq_true, if_false, run_pure, run_modify]
  rfl

theorem deliver_gDst (g : GOp) (signed : Bool) (n v : Nat) (va : Addr) :
    deliver (gDst g) signed n v va = writeOp g (extend signed n v) := by
  cases g <;> rfl

end Sys2Proof.Machine
end

section
open Sys2Proof Sys2Proof.Machine

namespace Sys2Proof.Claims

/-! LDSYNC (R95, R223). -/

section
variable {s s1 : State} {b : PBase} {disp : Word} {ea : Addr} {a : Acc} {sz : Size} (hr : Ready onXA s)
  (hreach : Reaches b disp false (2 ^ sz.toNat) rR s s1 ea a) (hpkg : a.pkg = s1.pkg)
  (hclre : s1.cur.chunk.clre.contains (wordOf a.key) = false) (hended : s1.cur.ended = [])

include hr hreach hpkg hclre hended

theorem ldsync_blocks (hempty : emptyView s1 s1.pkg s1.cur.tag a.key = true) (g : GOp) :
    exec (.ldsync sz g b disp) s = .next (park (.blocked .emptyWord) s) := by
  obtain ⟨s0, operand, reached⟩ := hreach
  refine issue_wait hr ?_
  simp only [Machine.sizeOf, run_bind, operand, reached, run_get, run_ite, hpkg, ne_eq, not_true_eq_false, if_false, hclre, hended,
    List.any_nil, Bool.false_eq_true, hempty, if_true, blocked, run_throw]

variable (hfull : emptyView s1 s1.pkg s1.cur.tag a.key = false) (hpois : meetsPoison s1 a.key (2 ^ sz.toNat) = false)
  {g : GOp} {u : State}
  (hw : Writes g (extended false (2 ^ sz.toNat) (seenN s1 a.key (2 ^ sz.toNat))) (closing (noteRead a.key s1)) u)

include hfull hpois hw

theorem ldsync_completes {t : State} (ht : retire u = .done t) : exec (.ldsync sz g b disp) s = .next t := by
  obtain ⟨s0, operand, reached⟩ := hreach
  refine issue_done hr ?_ ht
  simp only [Machine.sizeOf, run_bind, operand, reached, run_get, run_ite, hpkg, ne_eq, not_true_eq_false, if_false, hclre, hended,
    List.any_nil, Bool.false_eq_true, hfull, homeRead_ok hpois, closeAfter_ok, deliver_gDst]
  exact writeOp_ok hw

theorem ldsync_commits (hf : FreeCommit u) : ∃ t, exec (.ldsync sz g b disp) s = .next t ∧ t.cur.regs.pc = s.cur.npc ∧
    t.cur.regs.g = u.cur.regs.g := by
  obtain ⟨t, done, regs⟩ := retire_free hf
  refine ⟨t, ldsync_completes hr hreach hpkg hclre hended hfull hpois hw done, ?_, by rw [regs]⟩
  calc t.cur.regs.pc = u.cur.npc := by rw [regs]
    _ = s1.cur.npc := (writes_npc hw :)
    _ = s.cur.npc := reaches_npc hreach

end

end Sys2Proof.Claims
end

section
/-! CLRE: the words of a range, one by one (R93, R223). -/

namespace Sys2Proof.Machine
open Sys2Proof.Claims

/-- A check of every element that passes each leaves the state. -/
theorem forM_ok {α : Type} {f : α → Run PUnit} {s : State} {l : List α} (h : ∀ a ∈ l, f a s = .ok (⟨⟩, s)) :
    l.forM f s = .ok (⟨⟩, s) := by
  induction l with
  | nil => rfl
  | cons a l ih =>
    show (f a >>= fun _ => l.forM f) s = _
    rw [run_bind, h a (by simp)]
    exact ih fun x hx => h x (by simp [hx])

theorem forM_nil {α : Type} (f : α → Run PUnit) (s : State) : ([] : List α).forM f s = .ok (⟨⟩, s) := rfl

theorem hazard_ok {s : State} {key n : Nat} (h : heldRange s key n = false) : hazard key n s = .ok ((), s) := by
  simp only [hazard, run_bind, run_get, run_ite, h, Bool.false_and, Bool.false_eq_true, if_false, run_pure]
theorem rangeFree_ok {s : State} {key n : Nat} (h : heldRange s key n = false) : rangeFree key n s = .ok ((), s) := by
  simp only [rangeFree, run_bind, run_get, run_ite, h, Bool.false_eq_true, if_false, run_pure]
theorem releaseOver_ok {s : State} (h : s.cur.rel = none) : releaseOver s = .ok ((), s) := by
  simp only [releaseOver, run_bind, run_get, run_ite, h, Option.isSome_none, Bool.false_eq_true, if_false, run_pure]

theorem leaves_reachSteps (s : State) (n step : Nat) (va : Addr) (need : Rights) : Leaves s (reachSteps n step va need) := by
  induction n generalizing va with
  | zero => exact leaves_pure s _
  | succ n ih => exact leaves_bind (leaves_reach s va need) fun _ => leaves_bind (ih _) fun _ => leaves_pure s _

theorem reachSteps_translated {n step : Nat} {va : Addr} {need : Rights} {s t : State} {ws : List Acc}
    (h : reachSteps n step va need s = .ok (ws, t)) : Translated s t :=
  leaves_reachSteps s n step va need s ws t (translated_refl s) h

theorem reachSteps_nonempty {n step : Nat} (hn : n ≠ 0) {va : Addr} {need : Rights} {s t : State} {ws : List Acc}
    (h : reachSteps n step va need s = .ok (ws, t)) : ws ≠ [] := by
  obtain ⟨m, rfl⟩ := Nat.exists_eq_succ_of_ne_zero hn
  obtain ⟨a, u, -, rest⟩ := bind_ok h
  obtain ⟨l, v, -, answers⟩ := bind_ok rest
  cases answers
  simp

theorem translated_empty {s t : State} (h : Translated s t) : t.empty = s.empty := by rw [h]

theorem mem_insertNat (n : Nat) (l : List Nat) (k : Nat) : k ∈ insertNat n l ↔ k = n ∨ k ∈ l := by
  induction l with
  | nil => simp [insertNat]
  | cons m l ih =>
    unfold insertNat
    split
    · simp
    · split
      · next h => subst h; simp
      · simp only [List.mem_cons, ih]
        tauto

theorem wordOf_wordOf (k : Nat) : wordOf (wordOf k) = wordOf k := by
  simp only [wordOf]; omega
theorem isLocal_wordOf (k : Nat) : isLocal (wordOf k) = isLocal k := by
  unfold isLocal wordOf placeBase
  exact decide_eq_decide.mpr (by omega)

/-- A word emptied under no view: its bit is set, every set bit stands, and no poison changes. -/
structure Empties (k : Nat) (s t : State) : Prop where
  set : (if isLocal k then t.launch.lempty else t.empty).contains (wordOf k) = true
  keeps : ∀ j, (if isLocal j then s.launch.lempty else s.empty).contains (wordOf j) = true →
    (if isLocal j then t.launch.lempty else t.empty).contains (wordOf j) = true
  pois : ∀ j, basePois t j = basePois s j

theorem setBaseEmpty_empties (s : State) (k : Nat) : Empties k s (setBaseEmpty s (wordOf k) true) := by
  unfold setBaseEmpty
  rw [isLocal_wordOf, wordOf_wordOf]
  by_cases hk : isLocal k = true
  · simp only [hk, if_true]
    refine ⟨?_, fun j hj => ?_, fun j => rfl⟩
    · simp [hk, mem_insertNat]
    · by_cases hl : isLocal j = true
      · simp_all [mem_insertNat]
      · simp_all
  · simp only [hk, Bool.false_eq_true, if_false, if_true]
    refine ⟨?_, fun j hj => ?_, fun j => rfl⟩
    · simp [hk, mem_insertNat]
    · by_cases hl : isLocal j = true
      · simp_all
      · simp_all [mem_insertNat]

/-- Words emptied under no view that carry no poison read EMPTY (R363). -/
theorem emptyWords_baseEmpty {p : Nat} {ks : List Nat} {s : State} :
    (∀ k ∈ ks, basePois s k = false → baseEmpty (emptyWords p 0 (ks.map wordOf) s) k = true) ∧
    ∀ k, baseEmpty s k = true → baseEmpty (emptyWords p 0 (ks.map wordOf) s) k = true := by
  induction ks generalizing s with
  | nil => exact ⟨fun k hk => by simp at hk, fun k hk => hk⟩
  | cons k ks ih =>
    have first : setEmptyView s p 0 (wordOf k) true = setBaseEmpty s (wordOf k) true := by simp [setEmptyView]
    have one := setBaseEmpty_empties s k
    have kept : ∀ j, baseEmpty s j = true → baseEmpty (setBaseEmpty s (wordOf k) true) j = true := by
      intro j hj
      rw [baseEmpty, Bool.and_eq_true] at hj ⊢
      rw [one.pois]
      refine ⟨?_, hj.2⟩
      have := one.keeps j
      split at hj <;> simp_all
    obtain ⟨rest, all⟩ := ih (s := setBaseEmpty s (wordOf k) true)
    simp only [emptyWords, List.map_cons, List.foldl_cons, first] at rest all ⊢
    refine ⟨fun j hj hp => ?_, fun j hj => all j (kept j hj)⟩
    obtain rfl | hj := List.mem_cons.mp hj
    · refine all j ?_
      rw [baseEmpty, Bool.and_eq_true, one.pois, hp]
      refine ⟨?_, rfl⟩
      have := one.set
      split <;> simp_all
    · exact rest j hj (by rw [one.pois]; exact hp)

/-- A chunk with the words at `ws` to empty at its commit: those of a range of `len` bytes from `va` (R93, R127). -/
def Chunk.emptying (ws : List Acc) (va : Addr) (len : Nat) (c : Chunk) : Chunk := { c with
  clre := (ws.map fun a => wordOf a.key) ++ c.clre
  homes := (ws.map (·.home)).foldl (fun l h => insertNat h l) c.homes
  grans := (List.range ((va.toNat % 65536 + len + 65535) / 65536)).foldl (fun l i =>
    insertNat (va.toNat / 65536 + i) l) c.grans
  wlines := ((ws.map fun a => lineOf (wordOf a.key)) ++ c.wlines).eraseDups }

theorem lacksRoom_enough {s : State} {n : Nat} (h : (n : Int) ≤ (s.getPkg s.pkg).tagLines) : lacksRoom s n = false := by
  simp [lacksRoom, h]
theorem newLines_nil (s : State) : newLines s [] = 0 := by
  simp [newLines]
theorem emptyWords_nil (p t : Nat) (s : State) : emptyWords p t [] s = s := rfl
theorem lacksRoom_zero (s : State) : lacksRoom s 0 = false := rfl

theorem finish_baseEmpty (s : State) (k : Nat) : baseEmpty (finish s) k = baseEmpty s k := by
  unfold finish; split <;> rfl

theorem emptyWords_cur (p t : Nat) (ks : List Nat) (s : State) : (emptyWords p t ks s).cur = s.cur :=
  (emptyWords_homeFrame s.cur.tid s p t ks).cur rfl

end Sys2Proof.Machine
end

section
open Sys2Proof Sys2Proof.Machine

namespace Sys2Proof.Claims

section
variable {s s1 : State} {p : BitVec 4} {n : GReg} {ws : List Machine.Acc} (hr : Ready onXA s) (hp : PReadable s p) (hn : Readable s n)
  (ha : (pval s p).toNat % 8 = 0)

include hr hp hn ha

theorem clre_empty (h0 : gval s n = 0) (hreach : reachEmpty (pval s p) 8 s = .ok ((), s)) :
    exec (.clre p (.reg n)) s = .next (advance s) := by
  rw [← finish_open (ready_open hr)]
  refine issue_ok hr ?_ (.inl (ready_open hr))
  have zero : (gval s n).toNat = 0 := by rw [h0]; rfl
  simp only [run_bind, readP_ok hp, readOp, readG_ok hn, run_require, ha, decide_true, Bool.and_self, if_true, zero, hreach]

variable (hl : (gval s n).toNat % 8 = 0) (h0 : gval s n ≠ 0) (hreach : reachSteps ((gval s n).toNat / 8) 8 (pval s p) rW s = .ok (ws, s1))
  (hheld : ∀ a ∈ ws, heldRange s1 a.key 8 = false) (hrel : s1.cur.rel = none)

include hl h0 hreach hheld hrel

theorem clre_own (hown : ∀ a ∈ ws, a.pkg = s1.pkg)
    (hroom : (((ws.map fun a => lineOf (wordOf a.key)) ++ s1.cur.chunk.wlines).eraseDups).length ≤ 48 ∨ s1.cur.chunk.count = 0)
    (htags : newLines s1 (((ws.map fun a => lineOf (wordOf a.key)) ++ s1.cur.chunk.wlines).eraseDups ++
      s1.cur.ended.flatMap (·.wlines)) ≤ (s1.getPkg s1.pkg).tagLines) :
    ∃ t, exec (.clre p (.reg n)) s = .next t ∧ t.mem = s.mem ∧ t.empty = s1.empty ∧
      t.cur.chunk.clre = (ws.map fun a => wordOf a.key) ++ s1.cur.chunk.clre ∧ t.cur.regs.g = s.cur.regs.g := by
  have translated := reachSteps_translated hreach
  have cur : s1.cur = s.cur := translated_cur translated
  have some_ : (gval s n).toNat ≠ 0 := fun h => h0 (BitVec.eq_of_toNat_eq h)
  have out : (ws.filter fun a => a.pkg != s1.pkg) = [] := List.filter_eq_nil_iff.mpr fun a h => by simp [hown a h]
  have own : (ws.filter fun a => a.pkg == s1.pkg) = ws := List.filter_eq_self.mpr fun a h => by simp [hown a h]
  have hazards : (ws.forM fun a => hazard a.key 8) s1 = .ok (⟨⟩, s1) := forM_ok fun a h => hazard_ok (hheld a h)
  have few : (decide (Config.chunkLines < (((ws.map fun a => lineOf (wordOf a.key)) ++ s1.cur.chunk.wlines).eraseDups).length) &&
      s1.cur.chunk.count != 0) = false := by
    rcases hroom with h | h
    · rw [decide_eq_false (p := Config.chunkLines < _) (Nat.not_lt.mpr h), Bool.false_and]
    · rw [h]; simp
  have closed : s1.cur.chunk.closed = false := by rw [cur]; exact ready_open hr
  let u := s1.modCur fun a => { a with chunk := a.chunk.emptying ws (pval s p) (gval s n).toNat }
  refine ⟨finish u, issue_ok (t := u) hr ?_ (.inl closed), ?_, ?_, ?_, ?_⟩
  · simp only [run_bind, readP_ok hp, readOp, readG_ok hn, run_require, ha, hl, decide_true, Bool.and_self, if_true, some_,
      if_false, hreach, hazards, run_get, run_ite, out, List.isEmpty_nil, Bool.not_true, Bool.false_eq_true, List.map_nil,
      List.eraseDups_nil, newLines_nil, lacksRoom_zero, run_modify, emptyWords_nil,
      forM_nil, own, releaseOver_ok hrel, List.map_map, Function.comp_def, few, lacksRoom_enough htags]
    rfl
  · rw [finish_mem]; exact translated_mem (t := s1) translated
  · unfold finish; split <;> rfl
  · rw [finish_open (s := u) closed]; rfl
  · rw [finish_regs]
    exact congrArg (fun a => a.regs.g) cur

theorem clre_far (hfar : ∀ a ∈ ws, a.pkg ≠ s1.pkg) (he : ChunkEmpty s1) (htag : s1.cur.tag = 0)
    (hpois : ∀ a ∈ ws, basePois s1 a.key = false) : ∃ t, exec (.clre p (.reg n)) s = .next t ∧ t.mem = s.mem ∧
      (∀ a ∈ ws, baseEmpty t a.key = true) ∧ t.cur.regs.g = s.cur.regs.g := by
  have translated := reachSteps_translated hreach
  have cur : s1.cur = s.cur := translated_cur translated
  have some_ : (gval s n).toNat ≠ 0 := fun h => h0 (BitVec.eq_of_toNat_eq h)
  have out : (ws.filter fun a => a.pkg != s1.pkg) = ws := List.filter_eq_self.mpr fun a h => by simp [hfar a h]
  have own : (ws.filter fun a => a.pkg == s1.pkg) = [] := List.filter_eq_nil_iff.mpr fun a h => by simp [hfar a h]
  have steps : (gval s n).toNat / 8 ≠ 0 := by omega
  have nonempty : ws.isEmpty = false := by simpa using reachSteps_nonempty steps hreach
  have hazards : (ws.forM fun a => hazard a.key 8) s1 = .ok (⟨⟩, s1) := forM_ok fun a h => hazard_ok (hheld a h)
  have free : (ws.forM fun a => rangeFree a.key 8) (closing s1) = .ok (⟨⟩, closing s1) :=
    forM_ok fun a h => rangeFree_ok (s := closing s1) (hheld a h)
  obtain ⟨v, hv⟩ : ∃ v, v = emptyWords s1.pkg 0 (ws.map fun a => wordOf a.key) (closing s1) := ⟨_, rfl⟩
  have vcur : v.cur = (closing s1).cur := by rw [hv, emptyWords_cur]
  have vpkg : v.pkg = s1.pkg := by rw [State.pkg, vcur]; rfl
  have vtag : v.cur.tag = 0 := by rw [vcur]; exact htag
  have vrel : v.cur.rel = none := by rw [vcur]; exact hrel
  have count : v.cur.chunk.count = 0 := by rw [vcur]; exact he.1
  obtain ⟨u, hu⟩ : ∃ u, u = v.modCur fun a => { a with chunk := a.chunk.emptying [] (pval s p) (gval s n).toNat } := ⟨_, rfl⟩
  have empty : ChunkEmpty u := by
    unfold ChunkEmpty
    rw [hu, State.modCur_cur, vcur]
    exact he
  refine ⟨finish u, issue_ok (t := u) hr ?_ (.inr empty), ?_, ?_, ?_⟩
  · simp only [run_bind, readP_ok hp, readOp, readG_ok hn, run_require, ha, hl, decide_true, Bool.and_self, if_true, some_,
      if_false, hreach, hazards, run_get, run_ite, out, nonempty, Bool.not_false, betweenChunks_ok he, free,
      lacksRoom_committed htag, Bool.false_eq_true, run_modify, htag, ← hv, releaseOver_ok vrel, vpkg, own, count,
      lacksRoom_committed vtag, List.map_nil, List.nil_append, bne_self_eq_false, Bool.and_false]
    rw [hu]
    rfl
  · rw [finish_mem, hu, State.modCur_mem, hv, (emptyWords_same _ _ _ _).1]
    exact translated_mem (t := s1) translated
  · intro a ha
    have emptied := (emptyWords_baseEmpty (p := s1.pkg) (s := closing s1) (ks := ws.map (·.key))).1 a.key
      (List.mem_map_of_mem ha) (hpois a ha)
    rw [List.map_map] at emptied
    rw [finish_baseEmpty, hu, hv]
    exact emptied
  · rw [finish_regs, hu]
    calc v.cur.regs.g = s1.cur.regs.g := by rw [vcur]; rfl
      _ = s.cur.regs.g := by rw [cur]

end

end Sys2Proof.Claims
end

section
/-! PREF (R223): a hint that leaves registers, memory and pins. -/

namespace Sys2Proof.Machine

/-- Reaching a byte does not wait for a load. -/
theorem reach_stop {s : State} {va : Addr} {need : Rights} {e : Stop} (h : reach va need s = .error e) :
    e ≠ .wait (.resource .loads) :=
  (keeps_reach (I := fun _ => True) (E := fun e => e ≠ .wait (.resource .loads)) (fun _ _ => trivial) (fun _ _ => by simp)
    (by simp) (fun _ => by simp) (fun _ => by simp) (fun _ _ _ _ => by simp) va need).stop trivial h

/-- PREF reaches its line or not, and puts it into the L1 of the chunk at most. -/
def prefetch (p : BitVec 4) (disp : Word) : Run Unit := do
  let va := (← readP p) + disp.signExtend 80
  let a ← reach va rR
  let s ← get
  let line := lineOf a.key
  if a.pkg = s.pkg && (aget line s.cur.chunk.l1).isNone then
    modify fun s => s.modCur fun c => { c with chunk := { c.chunk with
      l1 := aset line (lineView s s.pkg s.cur.tag line) c.chunk.l1 } }

theorem execPref_eq (p : BitVec 4) (disp : Word) (s : State) : execPref p disp s = issue onXA (fun s =>
    match prefetch p disp s with
    | .ok r => .ok r
    | .error (.wait (.resource .loads)) => .error (.wait (.resource .loads))
    | .error _ => .ok ((), s)) s := rfl

/-- The L1 of the open chunk and what a translation touches may change, and nothing else. -/
def Prefetched (s t : State) : Prop := ∃ l1 s1, Translated s s1 ∧
  t = s1.modCur fun a => { a with chunk := { a.chunk with l1 := l1 } }

theorem prefetched_of_translated {s t : State} (h : Translated s t) : Prefetched s t := ⟨t.cur.chunk.l1, t, h, rfl⟩

end Sys2Proof.Machine
end

section
open Sys2Proof Sys2Proof.Machine

namespace Sys2Proof.Claims

theorem prefetch_ok {s : State} {p : BitVec 4} (hp : PReadable s p) (disp : Word) :
    (∃ t, prefetch p disp s = .ok ((), t) ∧ Prefetched s t) ∨
    ∃ e, prefetch p disp s = .error e ∧ e ≠ .wait (.resource .loads) := by
  simp only [prefetch, run_bind, readP_ok hp]
  cases reached : reach (pval s p + disp.signExtend 80) rR s with
  | error e => exact .inr ⟨e, rfl, reach_stop reached⟩
  | ok r =>
    obtain ⟨a, s1⟩ := r
    have translated : Translated s s1 := leaves_reach s _ _ s a s1 (translated_refl s) reached
    refine .inl ?_
    simp only [run_get, run_ite, run_modify, run_pure]
    split
    · exact ⟨_, rfl, _, s1, translated, rfl⟩
    · exact ⟨_, rfl, prefetched_of_translated translated⟩

theorem pref_completes {s : State} {p : BitVec 4} (hr : Ready onXA s) (hp : PReadable s p) (disp : Word) :
    ∃ t, exec (.pref p disp) s = .next t ∧ t.mem = s.mem ∧ t.launch = s.launch ∧
      t.cur.regs = { s.cur.regs with pc := s.cur.npc } ∧ t.cur.chunk.wbuf = s.cur.chunk.wbuf ∧ t.pins = s.pins := by
  have body : ∃ t, (match prefetch p disp s with
      | .ok r => .ok r
      | .error (.wait (.resource .loads)) => .error (.wait (.resource .loads))
      | .error _ => .ok ((), s) : Except Stop (Unit × State)) = .ok ((), t) ∧ Prefetched s t := by
    obtain ⟨t, done, hint⟩ | ⟨e, stop, other⟩ := prefetch_ok hp disp
    · exact ⟨t, by rw [done], hint⟩
    · refine ⟨s, ?_, prefetched_of_translated (translated_refl s)⟩
      rw [stop]
      split
      · next h => cases h
      · next h => cases h; exact absurd rfl other
      · rfl
  obtain ⟨t, done, l1, s1, translated, ht⟩ := body
  have opened : t.cur.chunk.closed = false := by
    rw [ht, State.modCur_cur, translated_cur translated]
    exact ready_open hr
  refine ⟨advance t, ?_, ?_⟩
  · rw [← finish_open opened]
    exact (execPref_eq p disp s).trans (issue_ok hr done (.inl opened))
  · rw [ht, translated]
    exact ⟨rfl, rfl, rfl, rfl, rfl⟩

end Sys2Proof.Claims
end

section
/-! Pinned lines (R108). -/

namespace Sys2Proof.Machine
open Sys2Proof.Claims

theorem samePin_iff (p q : Pin) :
    samePin p q = true ↔ p.launch = q.launch ∧ p.pkg = q.pkg ∧ p.tag = q.tag ∧ p.line = q.line := by
  simp only [samePin, sameLine, Bool.and_eq_true, beq_iff_eq, and_assoc]

theorem samePin_congr {p q : Pin} (h : samePin p q = true) (r : Pin) : samePin r p = samePin r q := by
  obtain ⟨hl, hp, ht, hn⟩ := (samePin_iff p q).mp h
  simp only [samePin, sameLine, hl, hp, ht, hn]
theorem samePin_comm (p q : Pin) : samePin p q = samePin q p := by
  simp only [samePin, sameLine, BEq.comm]

@[simp] theorem pinCount_nil (q : Pin) : pinCount [] q = 0 := rfl
theorem pinCount_cons (p : Pin) (ps : List Pin) (q : Pin) :
    pinCount (p :: ps) q = if samePin q p then p.count else pinCount ps q := by
  unfold pinCount
  by_cases h : samePin q p <;> simp [h]

/-- No pin of the list is of this line and launch. -/
theorem pinCount_absent {ps : List Pin} {q : Pin} (h : ∀ p ∈ ps, samePin q p = false) : pinCount ps q = 0 := by
  rw [pinCount, List.find?_eq_none.mpr fun p hp => by simp [h p hp]]
  rfl

theorem pinLine_cons (p q : Pin) (up : Bool) (l : List Pin) : pinLine p up (q :: l) =
    if samePin q p then
      if up then { q with count := q.count + 1 } :: l
      else if q.count ≤ 1 then l else { q with count := q.count - 1 } :: l
    else q :: pinLine p up l := by
  simp only [pinLine, samePin_iff]

theorem pinCount_up (p : Pin) (ps : List Pin) (q : Pin) :
    pinCount (pinLine p true ps) q = pinCount ps q + if samePin q p then 1 else 0 := by
  induction ps with
  | nil =>
    simp only [pinLine, if_true, pinCount_cons, pinCount_nil]
    by_cases h : samePin q p <;> simp_all [samePin, sameLine]
  | cons r l ih =>
    rw [pinLine_cons, pinCount_cons r]
    by_cases hr : samePin r p = true
    · have one : samePin q { r with count := r.count + 1 } = samePin q p := samePin_congr hr q
      rw [if_pos hr, if_pos rfl, pinCount_cons, one, samePin_congr hr q]
      split <;> rfl
    · rw [if_neg hr, pinCount_cons, ih]
      by_cases hq : samePin q r = true
      · have other : samePin q p = false := by
          rw [samePin_comm, samePin_congr hq p, samePin_comm]
          exact Bool.eq_false_iff.mpr hr
        simp [hq, other]
      · simp [hq]

theorem pinCount_ups (l : List Pin) (ps : List Pin) (q : Pin) :
    pinCount (l.foldl (fun ps p => pinLine p true ps) ps) q = pinCount ps q + l.countP (samePin q) := by
  induction l generalizing ps with
  | nil => rfl
  | cons p l ih =>
    rw [List.foldl_cons, ih, pinCount_up, List.countP_cons]
    omega

/-- At most one pin a line and launch. -/
def PinsOnce (ps : List Pin) : Prop := ps.Pairwise fun x y => samePin x y = false

/-- A line lowered is one that stood. -/
theorem pinLine_down_mem {p r : Pin} {ps : List Pin} (h : r ∈ pinLine p false ps) : ∃ x ∈ ps, samePin x r = true := by
  induction ps with
  | nil => cases h
  | cons q l ih =>
    have self : ∀ x : Pin, samePin x x = true := fun x => (samePin_iff x x).mpr ⟨rfl, rfl, rfl, rfl⟩
    have kept : ∀ {l' : List Pin}, r ∈ l' → (∀ x ∈ l', x ∈ q :: l) → ∃ x ∈ q :: l, samePin x r = true :=
      fun hr hl => ⟨r, hl r hr, self r⟩
    rw [pinLine_cons] at h
    split at h
    · rw [if_neg Bool.false_ne_true] at h
      split at h
      · exact kept h fun x hx => List.mem_cons_of_mem q hx
      · obtain rfl | h := List.mem_cons.mp h
        · exact ⟨q, List.mem_cons_self, self q⟩
        · exact kept h fun x hx => List.mem_cons_of_mem q hx
    · obtain rfl | h := List.mem_cons.mp h
      · exact ⟨r, List.mem_cons_self, self r⟩
      · obtain ⟨x, hx, same⟩ := ih h
        exact ⟨x, List.mem_cons_of_mem q hx, same⟩

theorem pinLine_down_once {p : Pin} {ps : List Pin} (h : PinsOnce ps) : PinsOnce (pinLine p false ps) := by
  induction ps with
  | nil => exact h
  | cons q l ih =>
    obtain ⟨alone, once⟩ := List.pairwise_cons.mp h
    rw [pinLine_cons]
    split
    · rw [if_neg Bool.false_ne_true]
      split
      · exact once
      · exact List.pairwise_cons.mpr ⟨alone, once⟩
    · refine List.pairwise_cons.mpr ⟨fun r hr => ?_, ih once⟩
      obtain ⟨x, hx, same⟩ := pinLine_down_mem hr
      rw [← samePin_congr same q]
      exact alone x hx

theorem pinCount_down {p : Pin} {ps : List Pin} (h : PinsOnce ps) (q : Pin) :
    pinCount (pinLine p false ps) q = pinCount ps q - if samePin q p then 1 else 0 := by
  induction ps with
  | nil => simp [pinLine]
  | cons r l ih =>
    obtain ⟨alone, once⟩ := List.pairwise_cons.mp h
    rw [pinLine_cons, pinCount_cons r]
    by_cases hr : samePin r p = true
    · have one : samePin q { r with count := r.count - 1 } = samePin q p := samePin_congr hr q
      rw [if_pos hr, if_neg Bool.false_ne_true, samePin_congr hr q]
      split
      · split
        · next hq =>
          have none_left : pinCount l q = 0 := pinCount_absent fun x hx => by
            rw [samePin_comm, samePin_congr hq x, ← samePin_congr hr x, samePin_comm]
            exact alone x hx
          omega
        · rfl
      · rw [pinCount_cons, one]
        split <;> rfl
    · rw [if_neg hr, pinCount_cons, ih once]
      by_cases hq : samePin q r = true
      · have other : samePin q p = false := by
          rw [samePin_comm, samePin_congr hq p, samePin_comm]
          exact Bool.eq_false_iff.mpr hr
        simp [hq, other]
      · simp [hq]

theorem pinCount_downs (l : List Pin) {ps : List Pin} (h : PinsOnce ps) (q : Pin) :
    pinCount (l.foldl (fun ps p => pinLine p false ps) ps) q = pinCount ps q - l.countP (samePin q) := by
  induction l generalizing ps with
  | nil => rfl
  | cons p l ih =>
    rw [List.foldl_cons, ih (pinLine_down_once h), pinCount_down h, List.countP_cons]
    omega

/-- Lines that no pin holds need not be lowered. -/
theorem pinCount_downs_held (l : List Pin) {ps : List Pin} (h : PinsOnce ps) (q : Pin) :
    pinCount ((l.filter fun p => ps.any (samePin p)).foldl (fun ps p => pinLine p false ps) ps) q =
      pinCount ps q - l.countP (samePin q) := by
  rw [pinCount_downs _ h, List.countP_filter]
  by_cases held : ∃ p ∈ ps, samePin q p = true
  · obtain ⟨p, hp, same⟩ := held
    congr 1
    refine List.countP_congr fun x _ => ?_
    have found : samePin q x = true → ps.any (samePin x) = true := fun hx =>
      List.any_eq_true.mpr ⟨p, hp, by rw [samePin_comm, ← samePin_congr hx p, samePin_comm]; exact same⟩
    simpa using found
  · have absent : pinCount ps q = 0 := pinCount_absent fun p hp => Bool.eq_false_iff.mpr fun hq => held ⟨p, hp, hq⟩
    omega

/-! The status of PIN. -/

/-- A line added to those that stand, unless it is among them. -/
def addLine (ps : List Pin) (p : Pin) : List Pin := if ps.any (sameLine p) then ps else p :: ps

theorem foldl_addLine (l bs : List Pin) : l.foldl addLine bs = (List.eraseDupsBy.loop sameLine l bs).reverse := by
  induction l generalizing bs with
  | nil => simp [List.eraseDupsBy.loop]
  | cons p l ih =>
    rw [List.foldl_cons, ih, List.eraseDupsBy.loop, addLine]
    cases bs.any (sameLine p) <;> rfl

/-- A set of its home would hold more than its ways (R108). -/
def SetFull (s : State) (ls : List Acc) : Prop :=
  ∃ a ∈ ls, 15 < ((ls.map (pinOf s) ++ s.pins).eraseDupsBy sameLine).countP fun q => Machine.setOf q == Machine.setOf (pinOf s a)
/-- A line's count stands at its limit. -/
def AtLimit (s : State) (ls : List Acc) : Prop :=
  ∃ a ∈ ls, 255 ≤ ((s.pins.filter (sameLine (pinOf s a))).map (·.count)).sum

theorem setFull_iff (s : State) (ls : List Acc) : (ls.any fun a =>
    decide (15 < (((ls.map (pinOf s) ++ s.pins).foldl addLine []).filter fun q => setOf q = setOf (pinOf s a)).length)) = true ↔
    SetFull s ls := by
  simp only [List.any_eq_true, decide_eq_true_eq, SetFull, foldl_addLine, ← List.countP_eq_length_filter, List.countP_reverse, Bool.beq_eq_decide_eq]
  rfl

theorem atLimit_iff (s : State) (ls : List Acc) : (ls.any fun a =>
    decide (255 ≤ ((s.pins.filter (sameLine (pinOf s a))).map (·.count)).foldl (· + ·) 0)) = true ↔ AtLimit s ls := by
  simp only [List.any_eq_true, decide_eq_true_eq, AtLimit, List.sum_eq_foldl]

section
variable {s : State} {ls : List Acc}

theorem pinStatus_setFull (full : SetFull s ls) : pinStatus s ls = 1 := if_pos ((setFull_iff s ls).mpr full)

variable (full : ¬ SetFull s ls)
include full

theorem pinStatus_quota (quota : s.core.priv.rquota.toNat % 2 ^ 32 < ls.length) : pinStatus s ls = 2 :=
  (if_neg fun h => full ((setFull_iff s ls).mp h)).trans (if_pos quota)

variable (quota : ¬ s.core.priv.rquota.toNat % 2 ^ 32 < ls.length)
include quota

theorem pinStatus_limit (limit : AtLimit s ls) : pinStatus s ls = 3 :=
  (if_neg fun h => full ((setFull_iff s ls).mp h)).trans <| (if_neg quota).trans <| if_pos ((atLimit_iff s ls).mpr limit)
theorem pinStatus_zero (limit : ¬ AtLimit s ls) : pinStatus s ls = 0 :=
  (if_neg fun h => full ((setFull_iff s ls).mp h)).trans <| (if_neg quota).trans <|
    if_neg fun h => limit ((atLimit_iff s ls).mp h)

end

/-- The lines of a range raised or lowered, and noted for a squash. -/
def pinned (ls : List Acc) (up : Bool) (s : State) : State :=
  let ps := (ls.map (pinOf s)).filter fun p => up || s.pins.any (samePin p)
  { s with
    pins := ps.foldl (fun l p => pinLine p up l) s.pins
    cur := { s.cur with chunk := { s.cur.chunk with pinned := ps.map (fun p => (p, up)) ++ s.cur.chunk.pinned } } }

theorem movePins_ok (ls : List Acc) (up : Bool) (s : State) : movePins ls up s = .ok ((), pinned ls up s) := rfl

theorem pinned_count_up (s : State) (ls : List Acc) (q : Pin) :
    pinCount (pinned ls true s).pins q = pinCount s.pins q + ls.countP fun a => samePin q (pinOf s a) := by
  have all : (pinned ls true s).pins = (ls.map (pinOf s)).foldl (fun l p => pinLine p true l) s.pins := by
    simp [pinned]
  rw [all, pinCount_ups, List.countP_map]
  rfl

end Sys2Proof.Machine
end

section
open Sys2Proof Sys2Proof.Machine

namespace Sys2Proof.Claims

section
variable {s s1 : State} {p : BitVec 4} {n : GReg} {ls : List Machine.Acc} (hr : Ready onXA s) (hp : PReadable s p) (hn : Readable s n)
  (ha : (pval s p).toNat % 64 = 0)

include hr hp hn ha

theorem pin_empty {st : GOp} {t : State} (h0 : gval s n = 0) (hreach : reachEmpty (pval s p) 64 s = .ok ((), s)) (hw : Writes st 0 s t) :
    exec (.pin st p n) s = .next (finish t) := by
  refine issue_ok hr ?_ (writes_tidy hw (.inl (ready_open hr)))
  have zero : (gval s n).toNat = 0 := by rw [h0]; rfl
  simp only [run_bind, readP_ok hp, readG_ok hn, run_require, ha, decide_true, Bool.and_self, if_true, zero, hreach]
  exact writeOp_ok hw

variable (hl : (gval s n).toNat % 64 = 0) (h0 : gval s n ≠ 0)

include hl h0

/-- PIN raises the lines of its range, when nothing is in the way, and writes its status. -/
theorem pin_body (hreach : reachSteps ((gval s n).toNat / 64) 64 (pval s p) rR s = .ok (ls, s1)) {st : GOp} {t : State} {r : Nat}
    (hst : pinStatus s1 ls = r) (hw : Writes st (BitVec.ofNat 64 r) (if r = 0 then pinned ls true s1 else s1) t) :
    exec (.pin st p n) s = .next (finish t) := by
  have cur : s1.cur = s.cur := translated_cur (reachSteps_translated hreach)
  have some_ : (gval s n).toNat ≠ 0 := fun h => h0 (BitVec.eq_of_toNat_eq h)
  have opened : s1.cur.chunk.closed = false := by rw [cur]; exact ready_open hr
  refine issue_ok hr ?_ (writes_tidy hw (.inl ?_))
  · simp only [run_bind, readP_ok hp, readG_ok hn, run_require, ha, hl, decide_true, Bool.and_self, if_true, some_, if_false,
      hreach, run_get, hst, run_ite, movePins_ok]
    split
    · next h => rw [if_pos h] at hw; exact writeOp_ok hw
    · next h => rw [if_neg h] at hw; exact writeOp_ok hw
  · split
    · exact opened
    · exact opened

theorem unpin_lowers (hreach : reachSteps ((gval s n).toNat / 64) 64 (pval s p) 0 s = .ok (ls, s1)) (once : PinsOnce s1.pins) :
    ∃ t, exec (.unpin p (.reg n)) s = .next t ∧ t.mem = s.mem ∧ t.cur.regs.g = s.cur.regs.g ∧
      ∀ q, pinCount t.pins q = pinCount s1.pins q - ls.countP fun a => samePin q (pinOf s1 a) := by
  have translated := reachSteps_translated hreach
  have cur : s1.cur = s.cur := translated_cur translated
  have some_ : (gval s n).toNat ≠ 0 := fun h => h0 (BitVec.eq_of_toNat_eq h)
  have opened : (pinned ls false s1).cur.chunk.closed = false := by
    show s1.cur.chunk.closed = false
    rw [cur]; exact ready_open hr
  refine ⟨_, issue_ok (t := pinned ls false s1) hr ?_ (.inl opened), ?_⟩
  · simp only [run_bind, readP_ok hp, readOp, readG_ok hn, run_require, ha, hl, decide_true, Bool.and_self, if_true, some_,
      if_false, hreach, movePins_ok]
  · rw [finish_open opened]
    refine ⟨translated_mem (t := s1) translated, congrArg (fun a => a.regs.g) cur, fun q => ?_⟩
    have lowered := pinCount_downs_held (ls.map (pinOf s1)) once q
    rw [List.countP_map] at lowered
    exact lowered

end

end Sys2Proof.Claims
end

section
open Sys2Proof Sys2Proof.Machine Sys2Proof.Claims

/-- Settles O18, instruction by instruction: what each leaves when nothing is in its way. -/
theorem fullEmptyAndPinResult : Obligations.FullEmptyAndPinResult := by
  unfold Obligations.FullEmptyAndPinResult
  refine ⟨?ldsync, ?clre, ?pref, ?pin, ?empty, ?unpin⟩
  case ldsync =>
    intro s s1 b disp ea a sz g hr hreach hpkg hclre hended
    refine ⟨fun hempty => ldsync_blocks hr hreach hpkg hclre hended hempty g, fun hfull hpois u t hw => ⟨?_, ?_⟩⟩
    · exact ldsync_completes hr hreach hpkg hclre hended hfull hpois hw
    · exact ldsync_commits hr hreach hpkg hclre hended hfull hpois hw
  case clre =>
    intro s s1 p n ws hr hp hn ha hl
    refine ⟨fun h0 hreach hheld hrel => ⟨?_, ?_⟩, clre_empty hr hp hn ha⟩
    · exact clre_own hr hp hn ha hl h0 hreach hheld hrel
    · exact clre_far hr hp hn ha hl h0 hreach hheld hrel
  case pref => exact fun s p disp hr hp => pref_completes hr hp disp
  case pin =>
    intro s s1 p n st ls hr hp hn ha hl h0 hreach
    have body := fun {r t} => pin_body (r := r) (t := t) hr hp hn ha hl h0 hreach (st := st)
    refine ⟨fun full quota limit => ?_, fun full t hw => ?_, fun full quota t hw => ?_, fun full quota limit t hw => ?_⟩
    · refine ⟨(pinned ls true s1).pins, (pinned ls true s1).cur.chunk.pinned, pinned_count_up s1 ls, fun t hw => ?_⟩
      exact body (pinStatus_zero full quota limit) hw
    · exact body (pinStatus_setFull full) hw
    · exact body (pinStatus_quota full quota) hw
    · exact body (pinStatus_limit full quota limit) hw
  case empty => exact fun s p n st t hr hp hn ha h0 hreach hw => pin_empty hr hp hn ha h0 hreach hw
  case unpin => exact fun s s1 p n ls hr hp hn ha hl h0 hreach once => unpin_lowers hr hp hn ha hl h0 hreach once

end

section
/-! Memory in canonical form (R87, R371): what a state's parts make of it, and a rule per form of a state, a body and a result. -/

namespace Sys2Proof.Machine
open Sys2Proof.Claims

/-- A launch's local spaces and code are in canonical form. -/
def LaunchCanonical (l : Launch) : Prop := Memory.wf l.lmem = true ∧ Memory.wf l.image = true

/-- Memory in canonical form everywhere. -/
def Canonical (s : State) : Prop :=
  Memory.wf s.mem = true ∧ LaunchCanonical s.launch ∧ (∀ l ∈ s.launches, LaunchCanonical l) ∧
    ∀ c, s.checkpoint = some c → Memory.wf c.cells = true

theorem canonical_iff (s : State) : Canonical s ↔ MemoryCanonical s := by
  simp only [Canonical, MemoryCanonical, allLaunches, List.forall_mem_cons, LaunchCanonical, and_assoc]

section
variable {s t : State} (h : Canonical s)
include h

theorem Canonical.mem : Memory.wf s.mem = true := h.1
theorem Canonical.launch : LaunchCanonical s.launch := h.2.1
theorem Canonical.launches : ∀ l ∈ s.launches, LaunchCanonical l := h.2.2.1
theorem Canonical.checkpoint : ∀ c, s.checkpoint = some c → Memory.wf c.cells = true := h.2.2.2

/-- What holds no memory may change. -/
theorem Canonical.update {agenda plan inputs choice cycle cur agents core cores lc nextTid nextPkt empty poison tuc pins dieqs
    laneTurn profq packages net packets flits links windows absent paddocked trapWait pkts husks arbiters vectors} : Canonical {
      agenda := agenda, plan := plan, inputs := inputs, choice := choice, cycle := cycle, cur := cur, agents := agents, core := core,
      cores := cores, lc := lc, launch := s.launch, launches := s.launches, nextTid := nextTid, nextPkt := nextPkt, mem := s.mem,
      empty := empty, poison := poison, tuc := tuc, pins := pins, dieqs := dieqs, laneTurn := laneTurn, profq := profq,
      packages := packages, net := net, packets := packets, flits := flits, links := links, windows := windows, absent := absent,
      paddocked := paddocked, trapWait := trapWait, pkts := pkts, husks := husks, arbiters := arbiters, vectors := vectors,
      checkpoint := s.checkpoint } := h

/-- So may the launch in front, in what is neither its local spaces nor its code. -/
theorem Canonical.withLaunch {agenda plan inputs choice cycle cur agents core cores lc nextTid nextPkt empty poison tuc pins dieqs
    laneTurn profq packages net packets flits links windows absent paddocked trapWait pkts husks arbiters vectors} {l : Launch}
    (hl : LaunchCanonical l) : Canonical {
      agenda := agenda, plan := plan, inputs := inputs, choice := choice, cycle := cycle, cur := cur, agents := agents, core := core,
      cores := cores, lc := lc, launch := l, launches := s.launches, nextTid := nextTid, nextPkt := nextPkt, mem := s.mem,
      empty := empty, poison := poison, tuc := tuc, pins := pins, dieqs := dieqs, laneTurn := laneTurn, profq := profq,
      packages := packages, net := net, packets := packets, flits := flits, links := links, windows := windows, absent := absent,
      paddocked := paddocked, trapWait := trapWait, pkts := pkts, husks := husks, arbiters := arbiters, vectors := vectors,
      checkpoint := s.checkpoint } := ⟨h.mem, hl, h.launches, h.checkpoint⟩

theorem Canonical.modLaunch {f : Launch → Launch} (hl : LaunchCanonical (f s.launch)) : Canonical (s.modLaunch f) := h.withLaunch hl

theorem Canonical.modLaunch_of {f : Launch → Launch} (hf : ∀ l, LaunchCanonical l → LaunchCanonical (f l)) :
    Canonical (s.modLaunch f) := h.modLaunch (hf _ h.launch)
theorem Canonical.of_translated (ht : Translated s t) : Canonical t := by
  rw [ht]; exact h
/-- The launches that are not in front may change, each in what is neither its local spaces nor its code. -/
theorem Canonical.withLaunches {agenda plan inputs choice cycle cur agents core cores lc nextTid nextPkt empty poison tuc pins dieqs
    laneTurn profq packages net packets flits links windows absent paddocked trapWait pkts husks arbiters vectors} {l : Launch}
    {ls : List Launch} (hl : LaunchCanonical l) (hls : ∀ l ∈ ls, LaunchCanonical l) : Canonical {
      agenda := agenda, plan := plan, inputs := inputs, choice := choice, cycle := cycle, cur := cur, agents := agents, core := core,
      cores := cores, lc := lc, launch := l, launches := ls, nextTid := nextTid, nextPkt := nextPkt, mem := s.mem,
      empty := empty, poison := poison, tuc := tuc, pins := pins, dieqs := dieqs, laneTurn := laneTurn, profq := profq,
      packages := packages, net := net, packets := packets, flits := flits, links := links, windows := windows, absent := absent,
      paddocked := paddocked, trapWait := trapWait, pkts := pkts, husks := husks, arbiters := arbiters, vectors := vectors,
      checkpoint := s.checkpoint } := ⟨h.mem, hl, hls, h.checkpoint⟩
theorem Canonical.mapLaunches {f : Launch → Launch} {vectors : List (Nat × Nat)} (hf : ∀ l, LaunchCanonical l → LaunchCanonical (f l)) :
    Canonical { s with launch := f s.launch, launches := s.launches.map f, vectors := vectors } :=
  h.withLaunches (hf _ h.launch) (List.forall_mem_map.mpr fun l hl => hf l (h.launches l hl))

end

theorem canonical_ite {c : Prop} [Decidable c] {s t : State} (hs : Canonical s) (ht : Canonical t) : Canonical (if c then s else t) := by
  split
  · exact hs
  · exact ht
theorem canonical_dite {c : Prop} [Decidable c] {f : c → State} {g : ¬ c → State} (hf : ∀ hc, Canonical (f hc))
    (hg : ∀ hc, Canonical (g hc)) : Canonical (if hc : c then f hc else g hc) := by
  split
  · exact hf _
  · exact hg _
theorem canonical_foldl {α : Type} {f : State → α → State} {l : List α} {s : State} (h : Canonical s)
    (hf : ∀ s x, Canonical s → Canonical (f s x)) : Canonical (l.foldl f s) := by
  induction l generalizing s with
  | nil => exact h
  | cons x l ih => exact ih (hf s x h)
theorem launchCanonical_ite {c : Prop} [Decidable c] {l m : Launch} (hl : LaunchCanonical l) (hm : LaunchCanonical m) :
    LaunchCanonical (if c then l else m) := by
  split
  · exact hl
  · exact hm

/-- A stop that keeps a state keeps memory canonical. -/
def StopCanonical : Stop → Prop
  | .keep s _ | .utrapKeep s _ => Canonical s
  | .start f _ | .refused f _ _ => ∀ s, Canonical s → Canonical (f s)
  | _ => True

theorem keeps_forIn {I : State → Prop} {E : Stop → Prop} {α β : Type} {f : α → β → Run (ForInStep β)} {l : List α}
    (hf : ∀ a b, Keeps I E (f a b)) {b : β} : Keeps I E (forIn l b f) := by
  induction l generalizing b with
  | nil => exact keeps_pure b
  | cons a l ih =>
    rw [List.forIn_cons]
    refine keeps_bind (hf a b) fun step => ?_
    cases step with
    | done b => exact keeps_pure b
    | yield b => exact ih

/-- A body keeps memory canonical, however it ends. -/
abbrev Sound {α : Type} (x : Run α) : Prop := Keeps Canonical StopCanonical x

theorem sound_ite {α : Type} {c : Prop} [Decidable c] {x y : Run α} (hx : Sound x) (hy : Sound y) : Sound (if c then x else y) :=
  keeps_ite (fun _ => hx) fun _ => hy

/-- What a body does first under a condition, and then in any case. -/
theorem sound_when {α β : Type} {c : Prop} [Decidable c] {x : Run α} {y : Run β} (hx : Sound x) (hy : Sound y) :
    Sound (if c then x >>= fun _ => y else y) := sound_ite (keeps_bind hx fun _ => hy) hy

/-- The state that a step reaches is canonical. -/
def ResCanonical (r : Res) : Prop := ∀ t, r = .next t → Canonical t

theorem resCanonical_next {s : State} (h : Canonical s) : ResCanonical (.next s) := fun t ht => by cases ht; exact h
theorem resCanonical_fault {f : Fault} : ResCanonical (.fault f) := fun t ht => by cases ht
theorem resCanonical_refused {r : Refusal} : ResCanonical (.refused r) := fun t ht => by cases ht
theorem resCanonical_ite {c : Prop} [Decidable c] {r q : Res} (hr : ResCanonical r) (hq : ResCanonical q) :
    ResCanonical (if c then r else q) := by
  split
  · exact hr
  · exact hq
theorem event_canonical {f : State → State} {s : State} (h : Canonical (f s)) : ResCanonical (event f s) := resCanonical_next h

/-- The state that an option, the end of a chunk, a seed's placement, a posted access, an attempt or a pair holds is canonical. -/
def OptionCanonical (o : Option State) : Prop := ∀ t, o = some t → Canonical t
def CommitCanonical (c : Commit) : Prop := ∀ t, c = .done t ∨ c = .squashed t → Canonical t
def PlacedCanonical (p : Placed) : Prop := ∀ t, p = .placed t ∨ p = .held t → Canonical t
def AppliedCanonical (a : Applied) : Prop := ∀ t c, a = .done t c → Canonical t
def TriedCanonical (r : Tried) : Prop := ∀ t, r = .ok t → Canonical t
def PairCanonical {α : Type} (p : State × α) : Prop := Canonical p.1

section
variable {s : State} (h : Canonical s)
include h

theorem optionCanonical_some : OptionCanonical (some s) := fun t ht => by cases ht; exact h
theorem commitCanonical_done : CommitCanonical (.done s) := fun t ht => by rcases ht with ht | ht <;> cases ht; exact h
theorem commitCanonical_squashed : CommitCanonical (.squashed s) := fun t ht => by rcases ht with ht | ht <;> cases ht; exact h
theorem placedCanonical_placed : PlacedCanonical (.placed s) := fun t ht => by rcases ht with ht | ht <;> cases ht; exact h
theorem placedCanonical_held : PlacedCanonical (.held s) := fun t ht => by rcases ht with ht | ht <;> cases ht; exact h
theorem appliedCanonical_done {c : Byte} : AppliedCanonical (.done s c) := fun t c ht => by cases ht; exact h
theorem triedCanonical_ok : TriedCanonical (.ok s) := fun t ht => by cases ht; exact h
theorem pairCanonical_mk {α : Type} {a : α} : PairCanonical (s, a) := h

end

theorem optionCanonical_none : OptionCanonical none := fun t ht => by cases ht
theorem commitCanonical_held {w : Wait} : CommitCanonical (.held w) := fun t ht => by rcases ht with ht | ht <;> cases ht
theorem commitCanonical_noRoom : CommitCanonical .noRoom := fun t ht => by rcases ht with ht | ht <;> cases ht
theorem placedCanonical_full : PlacedCanonical .full := fun t ht => by rcases ht with ht | ht <;> cases ht
theorem placedCanonical_noHold : PlacedCanonical .noHold := fun t ht => by rcases ht with ht | ht <;> cases ht
theorem appliedCanonical_notYet : AppliedCanonical .notYet := fun t c ht => by cases ht
theorem appliedCanonical_absent : AppliedCanonical .absent := fun t c ht => by cases ht
theorem triedCanonical_bad {c : Byte} {a : Addr} : TriedCanonical (.bad c a) := fun t ht => by cases ht
theorem triedCanonical_notYet {o : Option Addr} : TriedCanonical (.notYet o) := fun t ht => by cases ht

section
variable {c : Prop} [Decidable c]

theorem optionCanonical_ite {x y : Option State} (hx : OptionCanonical x) (hy : OptionCanonical y) :
    OptionCanonical (if c then x else y) := by
  split
  · exact hx
  · exact hy
theorem commitCanonical_ite {x y : Commit} (hx : CommitCanonical x) (hy : CommitCanonical y) :
    CommitCanonical (if c then x else y) := by
  split
  · exact hx
  · exact hy
theorem placedCanonical_ite {x y : Placed} (hx : PlacedCanonical x) (hy : PlacedCanonical y) :
    PlacedCanonical (if c then x else y) := by
  split
  · exact hx
  · exact hy
theorem appliedCanonical_ite {x y : Applied} (hx : AppliedCanonical x) (hy : AppliedCanonical y) :
    AppliedCanonical (if c then x else y) := by
  split
  · exact hx
  · exact hy
theorem pairCanonical_ite {α : Type} {x y : State × α} (hx : PairCanonical x) (hy : PairCanonical y) :
    PairCanonical (if c then x else y) := by
  split
  · exact hx
  · exact hy

end

theorem canonical_getD {o : Option State} {s : State} (ho : OptionCanonical o) (h : Canonical s) : Canonical (o.getD s) := by
  cases o with
  | none => exact h
  | some t => exact ho t rfl
theorem optionCanonical_map {o : Option State} {f : State → State} (ho : OptionCanonical o)
    (hf : ∀ s, Canonical s → Canonical (f s)) : OptionCanonical (o.map f) := fun t ht => by
  obtain ⟨s, hs, rfl⟩ := Option.map_eq_some_iff.mp ht
  exact hf s (ho s hs)

theorem PairCanonical.fst {α : Type} {p : State × α} (h : PairCanonical p) : Canonical p.1 := h
theorem PairCanonical.eq {α : Type} {p : State × α} {t : State} {a : α} (h : PairCanonical p) (hp : p = (t, a)) :
    Canonical t := by
  subst hp; exact h
theorem pairCanonical_foldl {α β : Type} {f : State × β → α → State × β} {l : List α} {p : State × β} (h : PairCanonical p)
    (hf : ∀ p x, PairCanonical p → PairCanonical (f p x)) : PairCanonical (l.foldl f p) := by
  induction l generalizing p with
  | nil => exact h
  | cons x l ih => exact ih (hf p x h)

/-! Bytes written, and cells chosen. -/

theorem modFirst_canonical {p : Launch → Bool} {f : Launch → Launch} {ls : List Launch} (h : ∀ l ∈ ls, LaunchCanonical l)
    (hf : ∀ l, LaunchCanonical l → LaunchCanonical (f l)) : ∀ l ∈ modFirst p f ls, LaunchCanonical l := by
  induction ls with
  | nil => exact h
  | cons m ls ih =>
    obtain ⟨hm, hls⟩ := List.forall_mem_cons.mp h
    unfold modFirst
    split
    · exact List.forall_mem_cons.mpr ⟨hf m hm, hls⟩
    · exact List.forall_mem_cons.mpr ⟨hm, ih hls⟩

theorem filter_wf {m : List Host.Cell} (h : Memory.wf m = true) (p : Host.Cell → Bool) : Memory.wf (m.filter p) = true := by
  induction m with
  | nil => exact h
  | cons c m ih =>
    obtain ⟨hb, hlt, hm⟩ := (memory_wf_cons c.1 c.2 m).mp h
    rw [List.filter_cons]
    split
    · exact (memory_wf_cons _ _ _).mpr ⟨hb, fun x hx => hlt x (List.mem_of_mem_filter hx), ih hm⟩
    · exact ih hm

section
variable {s : State} (h : Canonical s)
include h

theorem Canonical.setBaseByte {k : Nat} {b : Byte} : Canonical (setBaseByte s k b) := by
  unfold Machine.setBaseByte
  split
  · exact h.withLaunch ⟨writeCell_wf h.launch.1 k b, h.launch.2⟩
  · exact ⟨writeCell_wf h.mem k b, h.launch, h.launches, h.checkpoint⟩

theorem Canonical.physBytes {pa : Nat} {bs : List Byte} : Canonical (physBytes pa bs s) :=
  ⟨foldl_writeCell_wf _ _ _ h.mem, h.launch, h.launches, h.checkpoint⟩

end

end Sys2Proof.Machine
end

/-! A lemma for each function of the model through which a step passes, in the model's order: `f_sound` says that the body `f` keeps
memory canonical however it ends, `Canonical.f` that the change `f` of the state does, `f_canonical` that what `f` answers is
canonical. Each proof follows the branches of the function and cites the lemmas of what it calls. -/

section
/-! Memory stays canonical: the operations on the state. -/

namespace Sys2Proof.Machine

theorem blocked_sound {α : Type} {on} : Sound (blocked on : Run α) := keeps_throw trivial
theorem stalled_sound {α : Type} {on} : Sound (stalled on : Run α) := keeps_throw trivial
theorem fault_sound {α : Type} {cause addr} : Sound (fault cause addr : Run α) := keeps_throw trivial
theorem startWaiting_sound {α : Type} {f : State → State} {w} (h : ∀ s, Canonical s → Canonical (f s)) :
    Sound (startWaiting f w : Run α) :=
  keeps_throw fun _ hs => h _ hs
theorem keepWaiting_sound {α : Type} {on} : Sound (keepWaiting on : Run α) := keeps_get_bind fun _ hs => keeps_throw hs
theorem illegal_sound {α : Type} : Sound (illegal : Run α) := fault_sound
theorem require_sound {b cause addr} : Sound (require b cause addr) := sound_ite (keeps_pure _) fault_sound
theorem Canonical.mapAgents {s : State} (h : Canonical s) {f : Agent → Agent} : Canonical (s.mapAgents f) := h.update
theorem Canonical.modAgent {s : State} (h : Canonical s) {tid} {f : Agent → Agent} : Canonical (s.modAgent tid f) := h.mapAgents
theorem Canonical.modCur {s : State} (h : Canonical s) {f : Agent → Agent} : Canonical (s.modCur f) := h.update
theorem Canonical.modCore {s : State} (h : Canonical s) {id} {f : Core → Core} : Canonical (s.modCore id f) :=
  canonical_ite h.update (canonical_ite h.update h.update)
theorem Canonical.mapCores {s : State} (h : Canonical s) {f : Core → Core} : Canonical (s.mapCores f) := h.update
theorem Canonical.modLc {s : State} (h : Canonical s) {n} {f : LCore → LCore} : Canonical (s.modLc n f) :=
  canonical_ite h.update (canonical_ite (h.modLaunch h.launch) (h.modLaunch h.launch))
theorem Canonical.modPkg {s : State} (h : Canonical s) {id} {f : Package → Package} : Canonical (s.modPkg id f) :=
  canonical_ite h.update (canonical_ite h.update h)
theorem Canonical.countErr {s : State} (h : Canonical s) {pkg k} : Canonical (countErr pkg k s) := h.modPkg
theorem Canonical.modBoard {s : State} (h : Canonical s) {uid} {f : Board → Board} : Canonical (s.modBoard uid f) :=
  h.modLaunch h.launch
theorem Canonical.modWorld {s : State} (h : Canonical s) {wid} {f : World → World} : Canonical (s.modWorld wid f) :=
  h.modLaunch h.launch
theorem Canonical.modRival {s : State} (h : Canonical s) {wid idx} {f : Rival → Rival} : Canonical (s.modRival wid idx f) :=
  h.modWorld
theorem Canonical.modPlace {s : State} (h : Canonical s) {core i} {f : Place → Place} : Canonical (s.modPlace core i f) :=
  h.modCore
theorem Canonical.focusCore {s : State} (h : Canonical s) {id} : Canonical (focusCore id s) := canonical_ite h h.update
theorem Canonical.focusLc {s : State} (h : Canonical s) {n} : Canonical (focusLc n s) := canonical_ite h (h.withLaunch h.launch)
theorem Canonical.focusLaunch {s : State} (h : Canonical s) {id n} : Canonical (focusLaunch id n s) := by
  unfold Machine.focusLaunch
  refine canonical_ite h.focusLc ?_
  split
  · exact h
  · next l found =>
    refine h.withLaunches (h.launches l (List.mem_of_find?_eq_some found)) (List.forall_mem_cons.mpr ⟨h.launch, fun m hm => ?_⟩)
    exact h.launches m (List.mem_of_mem_filter hm)
theorem Canonical.focusAgent {s : State} (h : Canonical s) {tid} : Canonical (focusAgent tid s) := by
  unfold Machine.focusAgent
  refine .focusCore (.focusLaunch (canonical_ite h ?_))
  split
  · exact h
  · exact h.update
theorem Canonical.setBasePois {s : State} (h : Canonical s) {key e} : Canonical (setBasePois s key e) :=
  canonical_ite (h.modLaunch h.launch) h.update
theorem Canonical.setBaseEmpty {s : State} (h : Canonical s) {key e} : Canonical (setBaseEmpty s key e) :=
  canonical_ite (h.modLaunch h.launch) h.update
theorem Canonical.modView {s : State} (h : Canonical s) {pkg tag} {f : View → View} : Canonical (modView s pkg tag f) :=
  h.modLaunch h.launch
theorem Canonical.copyLine {s : State} (h : Canonical s) {pkg tag key} : Canonical (copyLine s pkg tag key) :=
  canonical_ite h h.modView.modPkg
theorem Canonical.modLine {s : State} (h : Canonical s) {pkg tag key} {f : VLine → VLine} :
    Canonical (modLine s pkg tag key f) :=
  h.modView
theorem Canonical.writeView {s : State} (h : Canonical s) {pkg tag key b} : Canonical (writeView s pkg tag key b) :=
  canonical_ite h.setBaseByte h.copyLine.modLine
theorem Canonical.setEmptyView {s : State} (h : Canonical s) {pkg tag key e} : Canonical (setEmptyView s pkg tag key e) :=
  canonical_ite h.setBaseEmpty h.copyLine.modLine
theorem Canonical.setPoison {s : State} (h : Canonical s) {pkg tag key e} : Canonical (setPoison s pkg tag key e) :=
  canonical_ite h.setBasePois h.copyLine.modLine
theorem Canonical.noteLine {s : State} (h : Canonical s) {pkg tag who line} : Canonical (noteLine s pkg tag who line) :=
  h.mapAgents
theorem Canonical.noteCommit {s : State} (h : Canonical s) {pkg ptag line} : Canonical (noteCommit s pkg ptag line) :=
  h.mapAgents
theorem Canonical.writeBytes {s : State} (h : Canonical s) {pkg tag who cells clean} :
    Canonical (writeBytes s pkg tag who cells clean) :=
  canonical_foldl (canonical_foldl (canonical_foldl h fun _ _ hs => hs.writeView) fun _ _ hs => canonical_ite hs.setPoison hs)
    fun _ _ hs => hs.noteLine
theorem Canonical.cacheEntry {s : State} (h : Canonical s) {core va n} : Canonical (cacheEntry s core va n) := h.update
theorem Canonical.fillFrame {s : State} (h : Canonical s) {x} : Canonical (fillFrame x s) := h.update
theorem Canonical.madeResident {s new : State} (h : Canonical new) {keys} : Canonical (madeResident s new keys) :=
  canonical_ite h (canonical_foldl h fun _ _ hs => hs.fillFrame)
theorem Canonical.writeHome {s : State} (h : Canonical s) {pkg tag who cells clean} :
    Canonical (writeHome s pkg tag who cells clean) :=
  h.writeBytes.madeResident
theorem physKey_sound {s : State} {va} : Sound (physKey s va) := by
  unfold Machine.physKey
  split
  · exact keeps_throw trivial
  · exact sound_ite (keeps_throw trivial) (keeps_pure _)
theorem reach_sound {va need} : Sound (reach va need) :=
  keeps_reach (fun ht h => h.of_translated ht) (fun _ _ => trivial) trivial (fun _ => trivial) (fun _ => trivial)
    (fun _ _ _ hf s hs => hs.of_translated (hf s)) va need
theorem reachAligned_sound {va size need} : Sound (reachAligned va size need) := keeps_bind require_sound fun _ => reach_sound
theorem reachEmpty_sound {va align} : Sound (reachEmpty va align) :=
  keeps_bind require_sound fun _ => keeps_get_bind fun _ _ => keeps_bind require_sound fun _ => require_sound
theorem reachRange_sound {n va len need} : Sound (reachRange n va len need) := by
  induction n generalizing va len with
  | zero => exact keeps_pure _
  | succ n ih => exact sound_ite (keeps_pure _) (keeps_bind reach_sound fun _ => ih)
theorem Canonical.rawWrite {s : State} (h : Canonical s) {core va bs} : Canonical (rawWrite s core va bs) := by
  unfold Machine.rawWrite
  refine canonical_foldl h fun _ _ hs => ?_
  split
  · exact hs.writeBytes
  · exact hs
theorem Canonical.landLine {s : State} (h : Canonical s) {pkg tag who cells} : Canonical (landLine pkg tag who cells s) :=
  canonical_foldl (canonical_foldl h.writeHome fun _ _ hs => hs.setEmptyView) fun _ _ hs => hs.setPoison
theorem Canonical.emptyWords {s : State} (h : Canonical s) {pkg tag ks} : Canonical (emptyWords pkg tag ks s) :=
  canonical_foldl h fun _ _ hs => hs.setEmptyView
theorem Canonical.poisonWords {s : State} (h : Canonical s) {pkg tag ks} : Canonical (poisonWords pkg tag ks s) :=
  canonical_foldl h fun _ _ hs => hs.setPoison
theorem Canonical.inLaunch {s : State} (h : Canonical s) {id n} {f : State → State} (hf : ∀ s, Canonical s → Canonical (f s)) :
    Canonical (inLaunch id n f s) :=
  (hf _ h.focusLaunch).focusLaunch.focusCore
theorem Canonical.onAgent {s : State} (h : Canonical s) {tid}
    {f : Agent → State → State} (hf : ∀ a s, Canonical s → Canonical (f a s)) :
    Canonical (onAgent tid f s) := by
  unfold Machine.onAgent
  split
  · exact h
  · exact h.inLaunch fun _ hs => hf _ _ hs
theorem Canonical.logEvent {s : State} (h : Canonical s) {lc sq kind site pred} : Canonical (logEvent s lc sq kind site pred) :=
  canonical_ite (canonical_ite ((h.modLaunch h.launch).modLaunch (h.modLaunch h.launch).launch)
    ((h.modLaunch h.launch).rawWrite.modLaunch (h.modLaunch h.launch).rawWrite.launch))
    (canonical_ite ((h.modLaunch h.launch).modLaunch (h.modLaunch h.launch).launch) (h.modLaunch h.launch))
theorem Canonical.resizePool {s : State} (h : Canonical s) {old new} : Canonical (resizePool old new s) := h.modPkg
theorem Canonical.putPriv {s : State} (h : Canonical s) {n v} : Canonical (putPriv n v s) :=
  (canonical_ite h.resizePool h).mapCores
theorem Canonical.undoChunk {s : State} (h : Canonical s) {c} : Canonical (undoChunk s c) := by
  unfold Machine.undoChunk
  refine .update (canonical_foldl (canonical_foldl ?_ fun _ _ hs => hs.putPriv) fun _ _ hs => hs.modLc)
  split <;> exact h.update
theorem Canonical.endFollow {s : State} (h : Canonical s) {tid} : Canonical (endFollow tid s) := h.mapAgents
theorem Canonical.squashFrom {s : State} (h : Canonical s) {cs} : Canonical (squashFrom cs s) := by
  unfold Machine.squashFrom
  split
  · exact h
  · exact (canonical_foldl h fun _ _ hs => hs.undoChunk).modCur.endFollow
theorem Canonical.squash {s : State} (h : Canonical s) : Canonical (squash s) := h.squashFrom.update
theorem Canonical.applyChunk {s : State} (h : Canonical s) {c} : Canonical (applyChunk c s) :=
  h.writeHome.emptyWords.poisonWords
theorem Canonical.commitNow {s : State} (h : Canonical s) {c} : Canonical (commitNow c s) :=
  canonical_ite (canonical_ite h.applyChunk h.applyChunk.logEvent).update (canonical_ite h.applyChunk h.applyChunk.logEvent)
theorem commitChunk_canonical {s : State} (h : Canonical s) : CommitCanonical (commitChunk s) := by
  unfold Machine.commitChunk
  refine commitCanonical_ite (commitCanonical_done h.modCur)
    (commitCanonical_ite (commitCanonical_done h.modCur) (commitCanonical_ite (commitCanonical_squashed h.squash) ?_))
  split
  · exact commitCanonical_held
  · exact commitCanonical_ite commitCanonical_noRoom (commitCanonical_done h.commitNow.modCur)
theorem endChunk_sound : Sound endChunk :=
  keeps_get_bind fun _ _ => sound_when (keeps_throw trivial) (sound_ite stalled_sound (keeps_pure _))
theorem closeAfter_sound : Sound closeAfter := keeps_modify fun _ hs => hs.modCur
theorem loadBetween_sound : Sound loadBetween := keeps_bind endChunk_sound fun _ => closeAfter_sound
theorem releaseOver_sound : Sound releaseOver := keeps_get_bind fun _ _ => sound_ite stalled_sound (keeps_pure _)
theorem betweenChunks_sound : Sound betweenChunks :=
  keeps_bind endChunk_sound fun _ => keeps_bind releaseOver_sound fun _ => closeAfter_sound
theorem bufferBytes_sound {home va key bs} : Sound (bufferBytes home va key bs) :=
  keeps_get_bind fun _ _ => sound_when (keeps_throw trivial)
    (sound_when (keeps_throw trivial) (keeps_modify fun _ hs => hs.modCur))
theorem bufferStore_sound {home va key bs} : Sound (bufferStore home va key bs) :=
  keeps_bind releaseOver_sound fun _ => bufferBytes_sound
theorem reachSteps_sound {n step va need} : Sound (reachSteps n step va need) := by
  induction n generalizing va with
  | zero => exact keeps_pure _
  | succ n ih => exact keeps_bind reach_sound fun _ => keeps_bind ih fun _ => keeps_pure _
theorem homeRead_sound {va key n} : Sound (homeRead va key n) :=
  keeps_get_bind fun _ _ => sound_when fault_sound (keeps_bind (keeps_modify fun _ hs => hs.modCur) fun _ => keeps_pure _)
theorem plainFetch_sound {key n} : Sound (plainFetch key n) :=
  keeps_get_bind fun _ _ => keeps_bind (keeps_modify fun _ hs => hs.update) fun _ => keeps_pure _
theorem plainRead_sound {va key n} : Sound (plainRead va key n) :=
  keeps_get_bind fun _ _ => sound_when fault_sound plainFetch_sound
theorem atQuantum_sound : Sound atQuantum := by
  unfold Machine.atQuantum
  refine keeps_get_bind fun _ _ => sound_ite ?_ (keeps_pure _)
  split
  · exact sound_ite (keeps_pure _) stalled_sound
  · exact stalled_sound
theorem orderEvent_sound {kind site} : Sound (orderEvent kind site) :=
  keeps_bind atQuantum_sound fun _ => keeps_get_bind fun _ _ => sound_ite (keeps_pure _)
    (sound_when blocked_sound (keeps_modify fun _ hs => hs.logEvent))
theorem keepStalled_sound {α : Type} {on} : Sound (keepStalled on : Run α) := keeps_get_bind fun _ hs => keeps_throw hs
theorem readG_sound {n} : Sound (readG n) :=
  keeps_get_bind fun _ _ => sound_ite (keeps_pure _) (sound_when stalled_sound
    (sound_when stalled_sound (sound_when fault_sound (keeps_pure _))))
theorem writeG_sound {n v} : Sound (writeG n v) :=
  keeps_get_bind fun _ _ => sound_when stalled_sound (keeps_modify fun _ hs => hs.modCur)
theorem readP_sound {n} : Sound (readP n) := keeps_get_bind fun _ _ => sound_when stalled_sound (keeps_pure _)
theorem writeP_sound {n v} : Sound (writeP n v) := keeps_modify fun _ hs => hs.modCur
theorem readQ_sound {n} : Sound (readQ n) := keeps_get_bind fun _ _ => keeps_pure _
theorem writeQ_sound {n b} : Sound (writeQ n b) := keeps_modify fun _ hs => hs.modCur
theorem setNpc_sound {v} : Sound (setNpc v) := keeps_modify fun _ hs => hs.modCur
theorem Canonical.trigger {s : State} (h : Canonical s) {groups by_} : Canonical (trigger groups by_ s) := h.mapCores
theorem Canonical.raiseVector {s : State} (h : Canonical s) {pkg kind} : Canonical (raiseVector pkg kind s) := h.update
theorem Canonical.haltCore {s : State} (h : Canonical s) {id} : Canonical (haltCore id s) := h.modCore.trigger.raiseVector
theorem Canonical.queueRecord {s : State} (h : Canonical s) {r} : Canonical (queueRecord r s) := by
  unfold Machine.queueRecord
  dsimp only
  split
  · exact h.update
  · exact canonical_ite h.rawWrite.rawWrite.modCore.raiseVector (canonical_ite h.update.rawWrite.haltCore h.update)
theorem Canonical.endLaunch {s : State} (h : Canonical s) {r status} : Canonical (endLaunch r status s) :=
  canonical_ite h (h.modLaunch h.launch).queueRecord
theorem Canonical.releaseVector {s : State} (h : Canonical s) {core slot} : Canonical (releaseVector core slot s) := h.modCore
theorem Canonical.dropAgents {s : State} (h : Canonical s) {p : Agent → Bool} : Canonical (dropAgents p s) := by
  unfold Machine.dropAgents
  refine .update (canonical_ite ?_ h)
  split
  · exact h.update
  · exact h
theorem Canonical.handLines {s : State} (h : Canonical s) {a host} : Canonical (handLines a host s) := h.modCore.modAgent.update
theorem Canonical.releaseHitch {s : State} (h : Canonical s) {core} : Canonical (releaseHitch core s) := by
  unfold Machine.releaseHitch
  dsimp only
  split
  · refine .dropAgents (.modCore ?_)
    split
    · refine .modLc ?_
      split
      · exact h.modLc.handLines
      · exact h
    · split
      · exact h.modLc.handLines
      · exact h
  · refine .modCore ?_
    split
    · refine .modLc ?_
      split
      · exact h.modLc.handLines
      · exact h
    · split
      · exact h.modLc.handLines
      · exact h
theorem Canonical.leaveSlot {s : State} (h : Canonical s) {tid} : Canonical (leaveSlot tid s) := by
  unfold Machine.leaveSlot
  split
  · exact h
  · refine .modAgent (canonical_ite (.releaseHitch (.modCore ?_)) (.modCore ?_))
    · split
      · exact h.releaseVector
      · exact h
    · split
      · exact h.releaseVector
      · exact h
theorem Canonical.checkEnded {s : State} (h : Canonical s) {n uid} : Canonical (checkEnded n uid s) := by
  induction n generalizing uid s with
  | zero => exact h
  | succ n ih =>
    unfold Machine.checkEnded
    split
    · exact h
    · refine canonical_ite h ?_
      dsimp only
      split
      · exact ih h.modBoard
      · exact h.modBoard
theorem Canonical.leaveTeam {s : State} (h : Canonical s) {tid} : Canonical (leaveTeam tid s) := by
  unfold Machine.leaveTeam
  split
  · exact h
  · exact h.modAgent.checkEnded
theorem Canonical.sendBoard {s : State} (h : Canonical s) {m} : Canonical (sendBoard m s) := h.modLaunch h.launch
theorem Canonical.clearMe {s : State} (h : Canonical s) {tid k mask} : Canonical (clearMe tid k mask s) := by
  unfold Machine.clearMe
  split
  · exact h
  · refine canonical_dite (fun _ => canonical_ite h ?_) fun _ => h
    dsimp only
    split
    · exact h.modAgent.sendBoard
    · exact h.modAgent
theorem Canonical.clearAllMe {s : State} (h : Canonical s) {tid} : Canonical (clearAllMe tid s) :=
  canonical_foldl h fun _ _ hs => hs.clearMe
theorem Canonical.dropSeed {s : State} (h : Canonical s) {tid} : Canonical (dropSeed tid s) := h.modAgent.update
theorem Canonical.failTasks {s : State} (h : Canonical s) {pkg tag} : Canonical (failTasks pkg tag s) :=
  canonical_foldl h fun _ _ hs => hs.leaveSlot.dropSeed.modAgent.modLaunch hs.leaveSlot.dropSeed.modAgent.launch
theorem Canonical.dropView {s : State} (h : Canonical s) {pkg tag} : Canonical (dropView pkg tag s) :=
  (h.modLaunch h.launch).modPkg
theorem Canonical.discardView {s : State} (h : Canonical s) {pkg tag} : Canonical (discardView pkg tag s) := by
  unfold Machine.discardView
  split
  · exact h
  · exact canonical_ite h.failTasks.update.modPkg.modView h.failTasks.update.modPkg.dropView
theorem Canonical.killNested {s : State} (h : Canonical s) {n tid} : Canonical (killNested n tid s) := by
  induction n generalizing tid s with
  | zero => exact h
  | succ n ih =>
    unfold Machine.killNested
    refine canonical_foldl h fun s w hs => (canonical_foldl hs fun s r hs => (canonical_ite ?_ (ih hs).modRival).discardView).modWorld
    exact (ih hs).modRival.clearAllMe.leaveSlot.dropSeed.leaveTeam.modAgent
theorem Canonical.checkWorld {s : State} (h : Canonical s) {wid} : Canonical (checkWorld wid s) := by
  unfold Machine.checkWorld
  split
  · exact h
  · dsimp only
    split
    · split
      · exact h.modWorld
      · exact canonical_ite h h.modWorld
      · exact h
    · exact canonical_ite h.modWorld h
    · exact canonical_ite h.modWorld h
    · exact h
theorem Canonical.endRival {s : State} (h : Canonical s) {wid idx code cause} : Canonical (endRival wid idx code cause s) := by
  unfold Machine.endRival
  split
  · exact h
  · split
    · exact h
    · exact canonical_ite h (canonical_ite (canonical_ite h h.killNested).modRival
        (canonical_ite h h.killNested).modRival.discardView).clearAllMe.leaveSlot.dropSeed.leaveTeam.modAgent.checkWorld
theorem Canonical.failRival {s : State} (h : Canonical s) {wid idx cause pc addr seq} :
    Canonical (failRival wid idx cause pc addr seq s) := by
  unfold Machine.failRival
  split
  · exact h
  · exact (h.endRival.modLaunch h.endRival.launch).queueRecord
theorem Canonical.takeFault {s : State} (h : Canonical s) {cause addr} : Canonical (takeFault cause addr s) := by
  unfold Machine.takeFault
  refine canonical_ite h.queueRecord.haltCore ?_
  split
  · exact h.failRival
  · exact h.modAgent.modCur.endLaunch
theorem Canonical.faultNamed {s : State} (h : Canonical s) {name tid cause pc addr} :
    Canonical (faultNamed name tid cause pc addr s) := by
  unfold Machine.faultNamed
  split
  · exact h
  · refine canonical_ite h.queueRecord.haltCore ?_
    split
    · exact h.failRival
    · exact h.modAgent.endLaunch
theorem Canonical.faultAt {s : State} (h : Canonical s) {tid cause pc addr} : Canonical (faultAt tid cause pc addr s) :=
  h.faultNamed
theorem Canonical.metItem {s : State} (h : Canonical s) {i f} : Canonical (metItem i f s) :=
  h.modLaunch (launchCanonical_ite h.launch h.launch)
theorem Canonical.releasedFault {s : State} (h : Canonical s) {r cause addr name} :
    Canonical (releasedFault r cause addr s name) :=
  h.metItem.endLaunch
theorem Canonical.inject {s : State} (h : Canonical s) {c src dst} : Canonical (inject c src dst s) := canonical_ite h h.update
theorem Canonical.sendMsg {s : State} (h : Canonical s) {m src dst} : Canonical (sendMsg m src dst s) := by
  unfold Machine.sendMsg
  dsimp only
  split
  · exact h.update.inject
  · exact h.update
theorem Canonical.sendMarkers {s : State} (h : Canonical s) {core i} : Canonical (sendMarkers core i s) :=
  canonical_foldl h.modPlace fun _ _ hs => hs.sendMsg
theorem Canonical.relCommit {s : State} (h : Canonical s) {a} : Canonical (relCommit a s) := by
  unfold Machine.relCommit
  refine canonical_ite h.modAgent ?_
  dsimp only
  split
  · exact h.failRival
  · exact (canonical_ite h.writeHome h.writeHome.logEvent).modAgent
theorem Canonical.advanceRelease {s : State} (h : Canonical s) {tid} : Canonical (advanceRelease tid s) := by
  unfold Machine.advanceRelease
  refine h.onAgent fun _ _ hs => ?_
  split
  · exact hs
  · exact canonical_ite hs (canonical_ite hs.sendMarkers (canonical_ite hs
      (canonical_ite hs (canonical_ite hs hs.relCommit).modAgent.modPlace)))
theorem Canonical.releaseAt {s : State} (h : Canonical s) {core place} : Canonical (releaseAt core place s) := by
  unfold Machine.releaseAt
  split
  · exact h.advanceRelease
  · exact h
theorem Canonical.beginRelease {s : State} (h : Canonical s) : Canonical (beginRelease s) := h.modCur.advanceRelease
theorem startRelease_sound : Sound startRelease :=
  keeps_bind releaseOver_sound fun _ => keeps_get_bind fun _ _ => sound_ite (keeps_modify fun _ hs => hs.beginRelease)
    (keeps_pure _)
theorem releaseAs_sound {f : State → State} (h : ∀ s, Canonical s → Canonical (f s)) : Sound (releaseAs f) :=
  keeps_bind releaseOver_sound fun _ => keeps_get_bind fun _ _ => sound_ite
    (startWaiting_sound fun _ hs => (h _ hs).beginRelease) (keeps_pure _)
theorem releaseSteps_sound : Sound releaseSteps := releaseAs_sound fun _ hs => hs
theorem Canonical.enterUser {s : State} (h : Canonical s) {cause seq pc} : Canonical (enterUser cause seq pc s) :=
  canonical_ite h.modCur.takeFault h.endFollow.modCur
theorem Canonical.takeUserTrap {s : State} (h : Canonical s) {cause} : Canonical (takeUserTrap cause s) := by
  unfold Machine.takeUserTrap
  dsimp only
  split
  · exact h.enterUser.modCur
  · exact h.takeFault
  · exact h.modCur.modAgent
theorem Canonical.returnUser {s : State} (h : Canonical s) : Canonical (returnUser s) := by
  unfold Machine.returnUser
  refine canonical_ite h.modCur ?_
  dsimp only
  split
  · exact h.modCur
  · exact h.modCur.modAgent
theorem retire_canonical {s : State} (h : Canonical s) : CommitCanonical (retire s) :=
  commitCanonical_ite (commitChunk_canonical h.modCur) (commitCanonical_done h.modCur)
theorem Canonical.park {s : State} (h : Canonical s) {w} : Canonical (park w s) := h.modCur
theorem Canonical.noRoom {s : State} (h : Canonical s) : Canonical (noRoom s) := by
  unfold Machine.noRoom
  split
  · exact h.failRival
  · exact h.takeFault
theorem thenCommit_canonical {s s1 : State} (h : Canonical s) (h' : Canonical s1)
    {f : State → State} (hf : ∀ s, Canonical s → Canonical (f s)) :
    ResCanonical (thenCommit s s1 f) := by
  unfold Machine.thenCommit
  split
  · next heq =>
      exact resCanonical_next (canonical_ite (hf _ (commitChunk_canonical h' _ (.inl heq)))
        (commitChunk_canonical h' _ (.inl heq)).park)
  · next heq => exact resCanonical_next (commitChunk_canonical h' _ (.inr heq))
  · exact resCanonical_next h.park
  · exact resCanonical_next h.noRoom
/-- What a body's end makes of a state is canonical when the body is sound. -/
theorem conclude_canonical {s : State} (h : Canonical s) {again : Res} (ha : ResCanonical again) {body : Run Unit} (hb : Sound body) :
    ResCanonical (conclude s again (body s)) := by
  unfold conclude
  cases done : body s with
  | ok r =>
    have after : Canonical r.2 := hb.ok h done
    dsimp only
    split
    · next heq => exact resCanonical_next (retire_canonical after _ (.inl heq))
    · exact resCanonical_next h.squash
    · exact resCanonical_next h.park
    · exact resCanonical_next h.noRoom
  | error e =>
    have stop : StopCanonical e := hb.stop h done
    cases e with
    | wait w => exact resCanonical_next h.park
    | keep t w => exact resCanonical_next (Canonical.park stop)
    | start f w => exact resCanonical_next (stop s h).park
    | fault c a => exact thenCommit_canonical h h fun _ ht => ht.takeFault
    | utrap c => exact thenCommit_canonical h h fun _ ht => ht.takeUserTrap
    | utrapKeep t c => exact thenCommit_canonical h stop fun _ ht => ht.takeUserTrap
    | rivalFail c =>
      dsimp only
      split
      · exact resCanonical_next h.failRival
      · exact resCanonical_next h.takeFault
    | commit => exact ha
    | noMemory pa => exact resCanonical_fault
    | refused f c a => exact thenCommit_canonical h (stop s h) fun _ ht => ht.takeFault
    | absent va => exact resCanonical_next h.update.park
theorem Canonical.commitThen {s : State} (h : Canonical s) {f : State → State} (hf : ∀ s, Canonical s → Canonical (f s)) :
    Canonical (commitThen s f) := by
  unfold Machine.commitThen
  split
  · next heq => exact canonical_ite (hf _ (commitChunk_canonical h _ (.inl heq))) (commitChunk_canonical h _ (.inl heq))
  · next heq => exact commitChunk_canonical h _ (.inr heq)
  · exact h
  · exact h.noRoom
theorem runBody_canonical {s : State} (h : Canonical s) {body : Run Unit} (hf : Sound body) :
    ResCanonical (runBody body s) := by
  unfold Machine.runBody
  refine resCanonical_ite ?_ (conclude_canonical h ?_ hf)
  · split
    · next heq =>
        exact conclude_canonical (commitChunk_canonical h _ (.inl heq))
          (resCanonical_next (commitChunk_canonical h _ (.inl heq)).park) hf
    · next heq => exact resCanonical_next (commitChunk_canonical h _ (.inr heq))
    · exact resCanonical_next h.park
    · exact resCanonical_next h.noRoom
  · split
    · next heq =>
        exact conclude_canonical (commitChunk_canonical h _ (.inl heq))
          (resCanonical_next (commitChunk_canonical h _ (.inl heq)).park) hf
    · next heq => exact resCanonical_next (commitChunk_canonical h _ (.inr heq))
    · exact resCanonical_next h.park
    · exact resCanonical_next h.noRoom
theorem issue_canonical {s : State} (h : Canonical s) {l} {body : Run Unit} (hf : Sound body) : ResCanonical (issue l body s) :=
  resCanonical_ite (runBody_canonical h hf) (runBody_canonical h illegal_sound)

end Sys2Proof.Machine
end

section
/-! Memory stays canonical: operands. -/

namespace Sys2Proof.Machine

theorem portRead_sound {d} : Sound (portRead d) := by
  unfold Machine.portRead
  refine keeps_bind betweenChunks_sound fun _ => keeps_get_bind fun _ _ => ?_
  dsimp only
  split
  · exact blocked_sound
  · exact keeps_bind (keeps_modify fun _ hs => hs.modLc) fun _ => keeps_pure _
theorem portWrite_sound {d v} : Sound (portWrite d v) :=
  keeps_bind betweenChunks_sound fun _ => keeps_get_bind fun _ _ => sound_when blocked_sound
    (keeps_modify fun _ hs => hs.modLaunch hs.launch)
theorem readOp_sound {a} : Sound (readOp a) := by
  unfold Machine.readOp
  split
  · exact readG_sound
  · exact portRead_sound
theorem writeOp_sound {o v} : Sound (writeOp o v) := by
  unfold Machine.writeOp
  split
  · exact writeG_sound
  · exact portWrite_sound
theorem writeQDst_sound {d b} : Sound (writeQDst d b) := by
  unfold Machine.writeQDst
  split
  · exact writeQ_sound
  · exact keeps_bind betweenChunks_sound fun _ => keeps_get_bind fun _ hs => sound_ite
      (sound_when blocked_sound (keeps_set hs.update)) (sound_when blocked_sound (keeps_set hs.update))
theorem Canonical.drainFmtq {s : State} (h : Canonical s) : Canonical (drainFmtq s) := canonical_ite h.update h
theorem popBq_sound : Sound popBq := by
  unfold Machine.popBq
  refine keeps_bind betweenChunks_sound fun _ => keeps_get_bind fun _ _ => ?_
  split
  · exact blocked_sound
  · exact keeps_bind (keeps_modify fun _ hs => hs.update.drainFmtq) fun _ => sound_when (keeps_modify fun _ hs => hs.update)
      (keeps_pure _)
theorem handleShared_sound {hd} : Sound (handleShared hd) := keeps_get_bind fun _ _ => require_sound
theorem handleAddr_sound {hd n dest} : Sound (handleAddr hd n dest) :=
  keeps_bind handleShared_sound fun _ => keeps_get_bind fun _ _ => keeps_bind require_sound fun _ =>
    keeps_bind betweenChunks_sound fun _ => sound_when blocked_sound (keeps_pure _)
theorem baseAddr_sound {b dest} : Sound (baseAddr b dest) := by
  unfold Machine.baseAddr
  split
  · exact readP_sound
  · exact handleAddr_sound
theorem effAddr_sound {b disp dest} : Sound (effAddr b disp dest) := keeps_bind baseAddr_sound fun _ => keeps_pure _
theorem runRR_sound {r} {f : Word → Word → Run Word} (h : ∀ (a a_1 : Word), Sound (f a a_1)) : Sound (runRR r f) := by
  unfold Machine.runRR
  split
  · exact keeps_bind readG_sound fun _ => keeps_bind readOp_sound fun _ => keeps_bind (h _ _) fun _ => writeG_sound
  · exact keeps_bind readOp_sound fun _ => keeps_bind readG_sound fun _ => keeps_bind (h _ _) fun _ => writeOp_sound
  · exact keeps_bind readOp_sound fun _ => keeps_bind (h _ _) fun _ => writeOp_sound
theorem runRU_sound {r} {f : Word → Run Word} (h : ∀ (a : Word), Sound (f a)) : Sound (runRU r f) := by
  unfold Machine.runRU
  split
  · exact keeps_bind readOp_sound fun _ => keeps_bind (h _) fun _ => writeOp_sound
  · exact keeps_bind readG_sound fun _ => keeps_bind (h _) fun _ => writeOp_sound
theorem pureRR_sound {r} {f : Word → Word → Word} : Sound (pureRR r f) := runRR_sound fun _ _ => keeps_pure _
theorem pureRU_sound {r} {f : Word → Word} : Sound (pureRU r f) := runRU_sound fun _ => keeps_pure _
theorem Canonical.setSrn {s : State} (h : Canonical s) {n} : Canonical (setSrn n s) := h.modCur
theorem encodeNow_sound {t1 x sat} : Sound (encodeNow t1 x sat) :=
  keeps_get_bind fun _ hs => keeps_bind (keeps_set hs.setSrn) fun _ => keeps_pure _

end Sys2Proof.Machine
end

section
/-! Memory stays canonical: loads, stores and full-empty bits. -/

namespace Sys2Proof.Machine

theorem hazard_sound {key n} : Sound (hazard key n) := keeps_get_bind fun _ _ => sound_ite (keeps_throw trivial) (keeps_pure _)
theorem rangeFree_sound {key n} : Sound (rangeFree key n) := keeps_get_bind fun _ _ => sound_ite stalled_sound (keeps_pure _)
theorem holdSb_sound {op bytes} : Sound (holdSb op bytes) := by
  unfold Machine.holdSb
  refine keeps_get_bind fun _ _ => ?_
  split
  · exact keeps_pure _
  · split
    · exact keeps_pure _
    · exact sound_when (keeps_throw trivial) (keeps_modify fun _ hs => hs.modRival)
theorem postRequest_sound {dst va req rel} : Sound (postRequest dst va req rel) := by
  unfold Machine.postRequest
  refine keeps_get_bind fun _ _ => ?_
  dsimp only
  split
  · exact keeps_modify fun _ hs => hs.modPlace
  · split
    · exact stalled_sound
    · exact keeps_modify fun _ hs => hs.modPlace
theorem sendOut_sound {dst va req rel bytes} : Sound (sendOut dst va req rel bytes) :=
  keeps_get_bind fun _ _ => sound_ite holdSb_sound postRequest_sound
theorem deliver_sound {d signed n v va} : Sound (deliver d signed n v va) := by
  unfold Machine.deliver
  split
  · exact writeG_sound
  · exact keeps_bind writeG_sound fun _ => writeG_sound
  · exact keeps_bind require_sound fun _ => writeP_sound
  · exact writeG_sound
  · exact portWrite_sound
  · exact keeps_pure _
  · exact keeps_pure _
theorem ownPosted_sound {va key n} : Sound (ownPosted va key n) := by
  unfold Machine.ownPosted
  refine keeps_get_bind fun _ _ => ?_
  dsimp only
  split
  · exact keeps_pure _
  · split
    · exact sound_when fault_sound (sound_ite (keeps_pure _) stalled_sound)
    · exact stalled_sound
  · exact stalled_sound
theorem loadRoom_sound : Sound loadRoom := keeps_get_bind fun _ _ => sound_ite stalled_sound (keeps_pure _)
theorem Canonical.putLoad {s : State} (h : Canonical s) {l home acq} : Canonical (putLoad l home acq s) := h.modCur.inject
theorem sendLoad_sound {d va a n signed acq atomic rel plain} : Sound (sendLoad d va a n signed acq atomic rel plain) :=
  keeps_bind loadRoom_sound fun _ => keeps_modify fun _ hs => hs.putLoad
theorem runLoad_sound {b disp n signed k d} : Sound (runLoad b disp n signed k d) := by
  unfold Machine.runLoad
  refine keeps_bind effAddr_sound fun _ => keeps_bind reachAligned_sound fun _ => keeps_get_bind fun _ _ => sound_ite
    (sound_when loadBetween_sound (sound_ite (keeps_bind plainRead_sound fun _ => deliver_sound)
    (keeps_bind homeRead_sound fun _ => deliver_sound))) (keeps_bind loadBetween_sound fun _ => sound_when
    (keeps_throw trivial) (keeps_bind ownPosted_sound fun _ => ?_))
  split
  · exact deliver_sound
  · exact sendLoad_sound
theorem storeAt_sound {va a bs rel} : Sound (storeAt va a bs rel) :=
  keeps_bind hazard_sound fun _ => keeps_get_bind fun _ _ => sound_ite
    (sound_ite (keeps_bind endChunk_sound fun _ => keeps_bind startRelease_sound fun _ => keeps_get_bind fun _ _ => sound_ite
    (sound_when (keeps_throw trivial) (keeps_bind (keeps_modify fun _ hs => hs.modCur) fun _ =>
    closeAfter_sound)) bufferBytes_sound) bufferStore_sound)
    (keeps_bind betweenChunks_sound fun _ => sound_when startRelease_sound sendOut_sound)
theorem runStore_sound {g b disp n rel} : Sound (runStore g b disp n rel) :=
  keeps_bind effAddr_sound fun _ => keeps_bind reachAligned_sound fun _ => keeps_bind readOp_sound fun _ => storeAt_sound
theorem runStp_sound {p b disp rel} : Sound (runStp p b disp rel) :=
  keeps_bind effAddr_sound fun _ => keeps_bind reachAligned_sound fun _ => keeps_bind readP_sound fun _ => storeAt_sound
theorem execLd_canonical {s : State} (h : Canonical s) {sz g base disp} : ResCanonical (execLd sz g base disp s) :=
  issue_canonical h runLoad_sound
theorem execLdWr_canonical {s : State} (h : Canonical s) {sz g base disp} : ResCanonical (execLdWr sz g base disp s) :=
  issue_canonical h runLoad_sound
theorem execLds_canonical {s : State} (h : Canonical s) {sz g base disp} : ResCanonical (execLds sz g base disp s) :=
  issue_canonical h runLoad_sound
theorem execLdsWr_canonical {s : State} (h : Canonical s) {sz g base disp} : ResCanonical (execLdsWr sz g base disp s) :=
  issue_canonical h runLoad_sound
theorem execLdAcq_canonical {s : State} (h : Canonical s) {sz g base disp} : ResCanonical (execLdAcq sz g base disp s) :=
  issue_canonical h runLoad_sound
theorem execSt_canonical {s : State} (h : Canonical s) {sz g base disp} : ResCanonical (execSt sz g base disp s) :=
  issue_canonical h runStore_sound
theorem execStRel_canonical {s : State} (h : Canonical s) {sz g base disp} : ResCanonical (execStRel sz g base disp s) :=
  issue_canonical h runStore_sound
theorem execLdq_canonical {s : State} (h : Canonical s) {g base disp} : ResCanonical (execLdq g base disp s) :=
  issue_canonical h runLoad_sound
theorem execLdqWr_canonical {s : State} (h : Canonical s) {g base disp} : ResCanonical (execLdqWr g base disp s) :=
  issue_canonical h runLoad_sound
theorem execLdqAcq_canonical {s : State} (h : Canonical s) {g base disp} : ResCanonical (execLdqAcq g base disp s) :=
  issue_canonical h runLoad_sound
theorem execLdp_canonical {s : State} (h : Canonical s) {p base disp} : ResCanonical (execLdp p base disp s) :=
  issue_canonical h runLoad_sound
theorem execLdpWr_canonical {s : State} (h : Canonical s) {p base disp} : ResCanonical (execLdpWr p base disp s) :=
  issue_canonical h runLoad_sound
theorem execLdpAcq_canonical {s : State} (h : Canonical s) {p base disp} : ResCanonical (execLdpAcq p base disp s) :=
  issue_canonical h runLoad_sound
theorem execStp_canonical {s : State} (h : Canonical s) {p base disp} : ResCanonical (execStp p base disp s) :=
  issue_canonical h runStp_sound
theorem execStpRel_canonical {s : State} (h : Canonical s) {p base disp} : ResCanonical (execStpRel p base disp s) :=
  issue_canonical h runStp_sound
theorem remoteSync_sound {d ea a n} : Sound (remoteSync d ea a n) := by
  unfold Machine.remoteSync
  refine keeps_bind loadBetween_sound fun _ => keeps_get_bind fun _ _ => sound_when (keeps_throw trivial)
    (keeps_bind ownPosted_sound fun _ => ?_)
  dsimp only
  split
  · exact keeps_throw_bind trivial
  · refine keeps_get_bind fun _ _ => ?_
    split
    · exact keeps_bind loadRoom_sound fun _ => startWaiting_sound fun _ hs => hs.putLoad
    · split
      · exact sound_when fault_sound (keeps_bind (keeps_modify fun _ hs => hs.modCur) fun _ => deliver_sound)
      · exact blocked_sound
theorem execLdsync_canonical {s : State} (h : Canonical s) {sz g base disp} : ResCanonical (execLdsync sz g base disp s) :=
  issue_canonical h (keeps_bind effAddr_sound fun _ => keeps_bind reachAligned_sound fun _ => keeps_get_bind fun _ _ =>
    sound_ite (keeps_bind remoteSync_sound fun _ => keeps_pure _)
    (sound_when (keeps_throw trivial) (sound_when stalled_sound
    (sound_when blocked_sound (keeps_bind homeRead_sound fun _ => keeps_bind closeAfter_sound fun _ => deliver_sound)))))
theorem execClre_canonical {s : State} (h : Canonical s) {p g} : ResCanonical (execClre p g s) :=
  issue_canonical h (keeps_bind readP_sound fun _ => keeps_bind readOp_sound fun _ => keeps_bind require_sound fun _ =>
    sound_ite reachEmpty_sound (keeps_bind reachSteps_sound fun _ => keeps_bind (keeps_forM fun _ _ => hazard_sound) fun _ =>
    keeps_get_bind fun _ _ => sound_when betweenChunks_sound
    (keeps_bind (keeps_forM fun _ _ => rangeFree_sound) fun _ => sound_when (keeps_throw trivial)
    (keeps_bind (keeps_modify fun _ hs => hs.emptyWords) fun _ => keeps_get_bind fun _ _ => keeps_bind releaseOver_sound
    fun _ => sound_when (keeps_throw trivial) (sound_when (keeps_throw trivial) (keeps_modify fun _ hs => hs.modCur))))))
theorem prefetch_sound {p disp} : Sound (prefetch p disp) :=
  keeps_bind readP_sound fun _ => keeps_bind reach_sound fun _ => keeps_get_bind fun _ _ =>
    sound_ite (keeps_modify fun _ h => h.modCur) (keeps_pure _)
theorem execPref_canonical {s : State} (h : Canonical s) {p disp} : ResCanonical (execPref p disp s) := by
  rw [execPref_eq]
  refine issue_canonical h ⟨fun hs done => ?_, fun _ stop => ?_⟩
  · split at done
    · next hint => cases done; exact prefetch_sound.ok hs hint
    · cases done
    · cases done; exact hs
  · split at stop
    · cases stop
    · cases stop; trivial
    · cases stop
theorem movePins_sound {ls up} : Sound (movePins ls up) := keeps_modify fun _ hs => hs.update
theorem execPin_canonical {s : State} (h : Canonical s) {st p len} : ResCanonical (execPin st p len s) :=
  issue_canonical h (keeps_bind readP_sound fun _ => keeps_bind readG_sound fun _ => keeps_bind require_sound fun _ =>
    sound_ite (keeps_bind reachEmpty_sound fun _ => writeOp_sound)
    (keeps_bind reachSteps_sound fun _ => keeps_get_bind fun _ _ => sound_when movePins_sound writeOp_sound))
theorem execUnpin_canonical {s : State} (h : Canonical s) {p g} : ResCanonical (execUnpin p g s) :=
  issue_canonical h (keeps_bind readP_sound fun _ => keeps_bind readOp_sound fun _ => keeps_bind require_sound fun _ =>
    sound_ite reachEmpty_sound (keeps_bind reachSteps_sound fun _ => movePins_sound))
theorem Canonical.setD {s : State} (h : Canonical s) {d v} : Canonical (setD d v s) := h.modCur
theorem execSleep_canonical {s : State} (h : Canonical s) {d} : ResCanonical (execSleep d s) := by
  unfold Machine.execSleep
  refine issue_canonical h (keeps_get_bind fun _ hs => ?_)
  split
  · exact keeps_pure _
  · exact sound_ite blocked_sound (sound_ite (keeps_modify fun _ ht => ht.setD) (sound_ite blocked_sound (keeps_throw hs.setD)))
theorem runWaitc_sound {k g sub} : Sound (runWaitc k g sub) :=
  keeps_bind readOp_sound fun _ => keeps_get_bind fun _ _ => sound_when blocked_sound
    (sound_when (keeps_modify fun _ hs => hs.modLc.modCur) closeAfter_sound)
theorem execWaitc_canonical {s : State} (h : Canonical s) {k g} : ResCanonical (execWaitc k g s) :=
  issue_canonical h runWaitc_sound
theorem execWaitcSub_canonical {s : State} (h : Canonical s) {k g} : ResCanonical (execWaitcSub k g s) :=
  issue_canonical h runWaitc_sound
theorem loadsBack_sound : Sound loadsBack := keeps_get_bind fun _ _ => sound_ite stalled_sound (keeps_pure _)
theorem execFenceAcq_canonical {s : State} (h : Canonical s) : ResCanonical (execFenceAcq s) :=
  issue_canonical h (keeps_bind loadBetween_sound fun _ => loadsBack_sound)
theorem execFenceRel_canonical {s : State} (h : Canonical s) : ResCanonical (execFenceRel s) :=
  issue_canonical h (keeps_bind betweenChunks_sound fun _ => startRelease_sound)
theorem execFenceFull_canonical {s : State} (h : Canonical s) : ResCanonical (execFenceFull s) :=
  issue_canonical h (keeps_bind betweenChunks_sound fun _ => keeps_bind releaseSteps_sound fun _ => loadsBack_sound)
theorem execFlush_canonical {s : State} (h : Canonical s) : ResCanonical (execFlush s) :=
  issue_canonical h (keeps_bind betweenChunks_sound fun _ => keeps_bind releaseSteps_sound fun _ => keeps_get_bind fun _ _ =>
    sound_ite stalled_sound (keeps_pure _))

end Sys2Proof.Machine
end

section
/-! Memory stays canonical: atomics and reductions. -/

namespace Sys2Proof.Machine

theorem Canonical.modProc {s : State} (h : Canonical s) {part} {f : PktProc → PktProc} : Canonical (modProc part f s) :=
  canonical_ite h.update h.update
theorem Canonical.readWidx {s : State} (h : Canonical s) {part queue} : Canonical (readWidx part queue s) := by
  unfold Machine.readWidx
  split
  · exact h.modProc
  · exact h
theorem noticeWidx_sound {key} : Sound (noticeWidx key) := by
  unfold Machine.noticeWidx
  refine keeps_get_bind fun _ _ => keeps_get_bind fun _ _ => ?_
  split
  · exact keeps_pure _
  · exact keeps_get_bind fun _ _ => sound_ite holdSb_sound (keeps_modify fun _ hs => hs.readWidx)
theorem roomForLine_sound {key} : Sound (roomForLine key) :=
  keeps_get_bind fun _ _ => sound_ite (keeps_throw trivial) (keeps_pure _)
theorem unreserved_sound {key} : Sound (unreserved key) := keeps_get_bind fun _ _ => sound_ite stalled_sound (keeps_pure _)
theorem runAtomic_sound {dst b c cmp op acq rel} : Sound (runAtomic dst b c cmp op acq rel) := by
  unfold Machine.runAtomic
  refine keeps_bind baseAddr_sound fun _ => keeps_bind reachAligned_sound fun _ => keeps_bind hazard_sound fun _ =>
    keeps_bind betweenChunks_sound fun _ => sound_when releaseSteps_sound
    (keeps_get_bind fun _ _ => sound_ite (sound_when (keeps_throw trivial) (keeps_bind ownPosted_sound fun _ => ?_))
    (sound_when fault_sound (keeps_bind roomForLine_sound fun _ => keeps_bind unreserved_sound fun _ =>
    keeps_bind rangeFree_sound fun _ => keeps_bind orderEvent_sound fun _ => keeps_bind
    (keeps_modify fun _ hs => hs.writeHome) fun _ => sound_when noticeWidx_sound deliver_sound)))
  split
  · exact stalled_sound
  · exact keeps_bind atQuantum_sound fun _ => sendLoad_sound
theorem execOp_canonical {s : State} (h : Canonical s) {a b c op acq rel} : ResCanonical (execOp a b c op acq rel s) :=
  issue_canonical h (keeps_bind readG_sound fun _ => runAtomic_sound)
theorem execCas_canonical {s : State} (h : Canonical s) {a b c acq rel} : ResCanonical (execCas a b c acq rel s) :=
  issue_canonical h (keeps_bind readG_sound fun _ => keeps_bind readG_sound fun _ => runAtomic_sound)
theorem runRed_sound {g b disp op} : Sound (runRed g b disp op) :=
  keeps_bind effAddr_sound fun _ => keeps_bind reachAligned_sound fun _ => keeps_bind hazard_sound fun _ =>
    keeps_bind readOp_sound fun _ => keeps_bind betweenChunks_sound fun _ => keeps_get_bind fun _ _ => sound_when
    (keeps_modify fun _ hs => hs.setSrn) (sound_ite sendOut_sound
    (sound_when fault_sound (keeps_bind roomForLine_sound fun _ => keeps_bind unreserved_sound fun _ =>
    keeps_bind rangeFree_sound fun _ => keeps_bind orderEvent_sound fun _ => keeps_modify fun _ hs => hs.writeHome)))
theorem execAAdd_canonical {s : State} (h : Canonical s) {a base c} : ResCanonical (execAAdd a base c s) := execOp_canonical h
theorem execAAnd_canonical {s : State} (h : Canonical s) {a base c} : ResCanonical (execAAnd a base c s) := execOp_canonical h
theorem execAOr_canonical {s : State} (h : Canonical s) {a base c} : ResCanonical (execAOr a base c s) := execOp_canonical h
theorem execAXor_canonical {s : State} (h : Canonical s) {a base c} : ResCanonical (execAXor a base c s) := execOp_canonical h
theorem execAMin_canonical {s : State} (h : Canonical s) {a base c} : ResCanonical (execAMin a base c s) := execOp_canonical h
theorem execAMax_canonical {s : State} (h : Canonical s) {a base c} : ResCanonical (execAMax a base c s) := execOp_canonical h
theorem execASwap_canonical {s : State} (h : Canonical s) {a base c} : ResCanonical (execASwap a base c s) := execOp_canonical h
theorem execACas_canonical {s : State} (h : Canonical s) {a base c} : ResCanonical (execACas a base c s) := execCas_canonical h
theorem execAAddAcq_canonical {s : State} (h : Canonical s) {a base c} : ResCanonical (execAAddAcq a base c s) :=
  execOp_canonical h
theorem execAAndAcq_canonical {s : State} (h : Canonical s) {a base c} : ResCanonical (execAAndAcq a base c s) :=
  execOp_canonical h
theorem execAOrAcq_canonical {s : State} (h : Canonical s) {a base c} : ResCanonical (execAOrAcq a base c s) :=
  execOp_canonical h
theorem execAXorAcq_canonical {s : State} (h : Canonical s) {a base c} : ResCanonical (execAXorAcq a base c s) :=
  execOp_canonical h
theorem execAMinAcq_canonical {s : State} (h : Canonical s) {a base c} : ResCanonical (execAMinAcq a base c s) :=
  execOp_canonical h
theorem execAMaxAcq_canonical {s : State} (h : Canonical s) {a base c} : ResCanonical (execAMaxAcq a base c s) :=
  execOp_canonical h
theorem execASwapAcq_canonical {s : State} (h : Canonical s) {a base c} : ResCanonical (execASwapAcq a base c s) :=
  execOp_canonical h
theorem execACasAcq_canonical {s : State} (h : Canonical s) {a base c} : ResCanonical (execACasAcq a base c s) :=
  execCas_canonical h
theorem execAAddRel_canonical {s : State} (h : Canonical s) {a base c} : ResCanonical (execAAddRel a base c s) :=
  execOp_canonical h
theorem execAAndRel_canonical {s : State} (h : Canonical s) {a base c} : ResCanonical (execAAndRel a base c s) :=
  execOp_canonical h
theorem execAOrRel_canonical {s : State} (h : Canonical s) {a base c} : ResCanonical (execAOrRel a base c s) :=
  execOp_canonical h
theorem execAXorRel_canonical {s : State} (h : Canonical s) {a base c} : ResCanonical (execAXorRel a base c s) :=
  execOp_canonical h
theorem execAMinRel_canonical {s : State} (h : Canonical s) {a base c} : ResCanonical (execAMinRel a base c s) :=
  execOp_canonical h
theorem execAMaxRel_canonical {s : State} (h : Canonical s) {a base c} : ResCanonical (execAMaxRel a base c s) :=
  execOp_canonical h
theorem execASwapRel_canonical {s : State} (h : Canonical s) {a base c} : ResCanonical (execASwapRel a base c s) :=
  execOp_canonical h
theorem execACasRel_canonical {s : State} (h : Canonical s) {a base c} : ResCanonical (execACasRel a base c s) :=
  execCas_canonical h
theorem execRAdd_canonical {s : State} (h : Canonical s) {a base disp} : ResCanonical (execRAdd a base disp s) :=
  issue_canonical h runRed_sound
theorem execRMin_canonical {s : State} (h : Canonical s) {a base disp} : ResCanonical (execRMin a base disp s) :=
  issue_canonical h runRed_sound
theorem execRMax_canonical {s : State} (h : Canonical s) {a base disp} : ResCanonical (execRMax a base disp s) :=
  issue_canonical h runRed_sound
theorem execRAnd_canonical {s : State} (h : Canonical s) {a base disp} : ResCanonical (execRAnd a base disp s) :=
  issue_canonical h runRed_sound
theorem execROr_canonical {s : State} (h : Canonical s) {a base disp} : ResCanonical (execROr a base disp s) :=
  issue_canonical h runRed_sound
theorem execRXor_canonical {s : State} (h : Canonical s) {a base disp} : ResCanonical (execRXor a base disp s) :=
  issue_canonical h runRed_sound
theorem execRAddF64_canonical {s : State} (h : Canonical s) {a base disp} : ResCanonical (execRAddF64 a base disp s) :=
  issue_canonical h runRed_sound
theorem execRAddF32_canonical {s : State} (h : Canonical s) {a base disp} : ResCanonical (execRAddF32 a base disp s) :=
  issue_canonical h runRed_sound
theorem Canonical.modHandle {s : State} (h : Canonical s) {n hd} {f : Handle → Handle} : Canonical (modHandle n hd f s) :=
  h.modLc
theorem execHcfg_canonical {s : State} (h : Canonical s) {hd g} : ResCanonical (execHcfg hd g s) := by
  unfold Machine.execHcfg
  refine issue_canonical h (keeps_bind readOp_sound fun _ => keeps_get_bind fun _ _ => ?_)
  split
  · exact fault_sound
  · exact keeps_bind require_sound fun _ => keeps_bind betweenChunks_sound fun _ => keeps_bind
      (keeps_modify fun _ hs => hs.modHandle) fun _ => keeps_modify fun _ hs => hs.modCur
theorem runAdvp_sound {hd n} : Sound (runAdvp hd n) :=
  keeps_bind handleShared_sound fun _ => keeps_get_bind fun _ _ => keeps_bind require_sound fun _ =>
    keeps_bind betweenChunks_sound fun _ => keeps_bind releaseSteps_sound fun _ => keeps_bind orderEvent_sound fun _ =>
    keeps_modify fun _ hs => hs.modHandle
theorem runAdvc_sound {hd n} : Sound (runAdvc hd n) :=
  keeps_bind handleShared_sound fun _ => keeps_get_bind fun _ _ => keeps_bind require_sound fun _ =>
    keeps_bind betweenChunks_sound fun _ => keeps_bind releaseSteps_sound fun _ => keeps_bind orderEvent_sound fun _ =>
    keeps_modify fun _ hs => hs.modHandle
theorem execAdvpG_canonical {s : State} (h : Canonical s) {hd g} : ResCanonical (execAdvpG hd g s) :=
  issue_canonical h (keeps_bind readOp_sound fun _ => runAdvp_sound)
theorem execAdvpN_canonical {s : State} (h : Canonical s) {hd n} : ResCanonical (execAdvpN hd n s) :=
  issue_canonical h runAdvp_sound
theorem execAdvcG_canonical {s : State} (h : Canonical s) {hd g} : ResCanonical (execAdvcG hd g s) :=
  issue_canonical h (keeps_bind readOp_sound fun _ => runAdvc_sound)
theorem execAdvcN_canonical {s : State} (h : Canonical s) {hd n} : ResCanonical (execAdvcN hd n s) :=
  issue_canonical h runAdvc_sound
theorem ringTarget_sound {c} : Sound (ringTarget c) := by
  unfold Machine.ringTarget
  refine keeps_get_bind fun _ _ => ?_
  split
  · exact keeps_pure _
  · exact keeps_bind readG_sound fun _ => keeps_bind require_sound fun _ => sound_when (keeps_throw trivial)
      (sound_when stalled_sound (keeps_pure _))
theorem sendRing_sound {d n hd t1} : Sound (sendRing d n hd t1) :=
  keeps_get_bind fun _ _ => keeps_bind loadRoom_sound fun _ => keeps_bind atQuantum_sound fun _ => keeps_modify fun _ hs =>
    hs.putLoad
theorem execTkt_canonical {s : State} (h : Canonical s) {g hd c} : ResCanonical (execTkt g hd c s) :=
  issue_canonical h (keeps_bind ringTarget_sound fun _ => keeps_get_bind fun _ _ => sound_when handleShared_sound
    (sound_ite (keeps_bind betweenChunks_sound fun _ => keeps_bind sendRing_sound fun _ => keeps_pure _)
    (keeps_get_bind fun _ _ => keeps_bind require_sound fun _ => keeps_bind betweenChunks_sound fun _ =>
    sound_when blocked_sound (keeps_bind orderEvent_sound fun _ => keeps_bind (keeps_modify fun _ hs => hs.modHandle) fun _ =>
    writeOp_sound))))
theorem execRfill_canonical {s : State} (h : Canonical s) {g hd c} : ResCanonical (execRfill g hd c s) :=
  issue_canonical h (keeps_bind readOp_sound fun _ => keeps_bind ringTarget_sound fun _ => keeps_get_bind fun _ _ =>
    sound_when handleShared_sound (sound_ite (keeps_bind betweenChunks_sound fun _ => keeps_bind releaseSteps_sound fun _ =>
    keeps_bind sendRing_sound fun _ => keeps_pure _) (keeps_get_bind fun _ _ => keeps_bind require_sound fun _ =>
    keeps_bind betweenChunks_sound fun _ => keeps_bind releaseSteps_sound fun _ => keeps_bind orderEvent_sound fun _ =>
    keeps_modify fun _ hs => hs.modHandle)))
theorem execRtake_canonical {s : State} (h : Canonical s) {g hd} : ResCanonical (execRtake g hd s) :=
  issue_canonical h (keeps_bind handleShared_sound fun _ => keeps_get_bind fun _ _ => keeps_bind require_sound fun _ =>
    keeps_bind betweenChunks_sound fun _ => sound_when blocked_sound
    (keeps_bind orderEvent_sound fun _ => keeps_bind (keeps_modify fun _ hs => hs.modHandle) fun _ => writeOp_sound))

end Sys2Proof.Machine
end

section
/-! Memory stays canonical: tiles and accumulators. -/

namespace Sys2Proof.Machine

theorem Canonical.retireOn {s : State} (h : Canonical s) {core} : Canonical (retireOn core s) := h.modCore
theorem commitBatch_sound : Sound commitBatch :=
  keeps_get_bind fun _ _ => sound_when blocked_sound (keeps_modify fun _ hs => hs.update.retireOn)
theorem Canonical.startOp {s : State} (h : Canonical s) {core} : Canonical (startOp core s) := by
  unfold Machine.startOp
  dsimp only
  split
  · exact h
  · exact h.modCore
theorem Canonical.finishOp {s : State} (h : Canonical s) {core} : Canonical (finishOp core s) := by
  unfold Machine.finishOp
  dsimp only
  split
  · exact h
  · exact canonical_ite h (h.onAgent fun _ _ hs => hs.modCore.retireOn.modAgent)
theorem execTileOperationStart_canonical {s : State} (h : Canonical s) {core} : ResCanonical (execTileOperationStart core s) :=
  event_canonical h.startOp
theorem execTileOperationFinish_canonical {s : State} (h : Canonical s) {core} :
    ResCanonical (execTileOperationFinish core s) :=
  event_canonical h.finishOp
theorem matrixUsed_sound : Sound matrixUsed := keeps_get_bind fun _ _ => require_sound
theorem ownLocal_sound {va len} : Sound (ownLocal va len) := keeps_get_bind fun _ _ => require_sound
theorem mmaPointers_sound {o} : Sound (mmaPointers o) := keeps_bind require_sound fun _ => keeps_forM fun _ _ => ownLocal_sound
theorem joinBatch_sound {op ranges} : Sound (joinBatch op ranges) := by
  unfold Machine.joinBatch
  refine keeps_get_bind fun _ _ => sound_when commitBatch_sound (keeps_get_bind fun _ _ => ?_)
  dsimp only
  split
  · exact keepWaiting_sound
  · exact keeps_get_bind fun _ _ => keeps_modify fun _ hs => hs.update
theorem issueMma_sound {sparse t1 p c} : Sound (issueMma sparse t1 p c) :=
  keeps_bind matrixUsed_sound fun _ => keeps_bind readG_sound fun _ => keeps_get_bind fun _ _ => keeps_bind readP_sound
    fun _ => keeps_get_bind fun _ _ => keeps_bind require_sound fun _ => keeps_bind mmaPointers_sound fun _ => joinBatch_sound
theorem execMma_canonical {s : State} (h : Canonical s) {t1 p c} : ResCanonical (execMma t1 p c s) :=
  issue_canonical h issueMma_sound
theorem execMmas_canonical {s : State} (h : Canonical s) {t1 p c} : ResCanonical (execMmas t1 p c s) :=
  issue_canonical h issueMma_sound
theorem execMzero_canonical {s : State} (h : Canonical s) {t1} : ResCanonical (execMzero t1 s) :=
  issue_canonical h (keeps_bind matrixUsed_sound fun _ => joinBatch_sound)
theorem execMtrn_canonical {s : State} (h : Canonical s) {t1 u} : ResCanonical (execMtrn t1 u s) :=
  issue_canonical h (keeps_bind matrixUsed_sound fun _ => joinBatch_sound)
theorem execMcommit_canonical {s : State} (h : Canonical s) : ResCanonical (execMcommit s) :=
  issue_canonical h (keeps_bind matrixUsed_sound fun _ => commitBatch_sound)
theorem execMwaitb_canonical {s : State} (h : Canonical s) {n} : ResCanonical (execMwaitb n s) :=
  issue_canonical h (keeps_bind matrixUsed_sound fun _ => keeps_get_bind fun _ _ => sound_when blocked_sound require_sound)
theorem execWload_canonical {s : State} (h : Canonical s) {p g} : ResCanonical (execWload p g s) :=
  issue_canonical h (keeps_bind matrixUsed_sound fun _ => keeps_bind readOp_sound fun _ => keeps_bind readP_sound fun _ =>
    keeps_bind require_sound fun _ => keeps_bind require_sound fun _ => keeps_bind reachRange_sound fun _ => joinBatch_sound)
theorem execDict_canonical {s : State} (h : Canonical s) {p} : ResCanonical (execDict p s) :=
  issue_canonical h (keeps_bind matrixUsed_sound fun _ => keeps_bind readP_sound fun _ => keeps_bind require_sound fun _ =>
    keeps_bind ownLocal_sound fun _ => keeps_get_bind fun _ hs => sound_when blocked_sound (keeps_set hs.update))
theorem windowReady_sound {d t1} : Sound (windowReady d t1) :=
  keeps_get_bind fun _ _ => sound_ite (keeps_bind commitBatch_sound fun _ => keeps_bind keepWaiting_sound fun _ =>
    sound_ite blocked_sound (keeps_pure _)) (sound_ite blocked_sound (keeps_pure _))
theorem accChecks_sound {t1 p desc read} : Sound (accChecks t1 p desc read) :=
  keeps_get_bind fun _ _ => keeps_bind require_sound fun _ => keeps_bind require_sound fun _ => keeps_bind require_sound
    fun _ => keeps_bind require_sound fun _ => keeps_bind ownLocal_sound fun _ => keeps_pure _
theorem Canonical.incCounter {s : State} (h : Canonical s) {lc k} : Canonical (incCounter lc k s) := h.modLc
theorem Canonical.landCells {s : State} (h : Canonical s) {pkg who cells} : Canonical (landCells pkg who cells s) :=
  canonical_foldl h fun _ _ hs => hs.landLine
theorem execAccrd_canonical {s : State} (h : Canonical s) {t1 p c} : ResCanonical (execAccrd t1 p c s) :=
  issue_canonical h (keeps_bind matrixUsed_sound fun _ => keeps_bind readG_sound fun _ => keeps_bind readP_sound fun _ =>
    keeps_bind accChecks_sound fun _ => keeps_bind windowReady_sound fun _ => keeps_get_bind fun _ _ => sound_ite
    (sound_ite (keeps_bind commitBatch_sound fun _ => keeps_bind keepWaiting_sound fun _ => sound_when stalled_sound
    (keeps_bind (keeps_forIn fun _ _ => keeps_get_bind fun _ _ => keeps_bind (keeps_modify fun _ hs => hs.setSrn) fun _ =>
    keeps_bind (keeps_modify fun _ hs => hs.landCells) fun _ => keeps_pure _) fun _ => sound_ite
    (keeps_modify fun _ hs => hs.incCounter) (keeps_pure _))) (keeps_throw_bind trivial))
    (sound_when stalled_sound (keeps_bind (keeps_forIn fun _ _ => keeps_get_bind fun _ _ => keeps_bind
    (keeps_modify fun _ hs => hs.setSrn) fun _ => keeps_bind (keeps_modify fun _ hs => hs.landCells) fun _ => keeps_pure _)
    fun _ => sound_ite (keeps_modify fun _ hs => hs.incCounter) (keeps_pure _))))
theorem execAccwr_canonical {s : State} (h : Canonical s) {t1 p c} : ResCanonical (execAccwr t1 p c s) :=
  issue_canonical h (keeps_bind matrixUsed_sound fun _ => keeps_bind readG_sound fun _ => keeps_bind readP_sound fun _ =>
    keeps_bind accChecks_sound fun _ => keeps_bind windowReady_sound fun _ => keeps_get_bind fun _ hs => keeps_set hs.update)

end Sys2Proof.Machine
end

section
/-! Memory stays canonical: exchanges between cores. -/

namespace Sys2Proof.Machine

theorem Canonical.modLink {s : State} (h : Canonical s) {id} {f : Link → Link} : Canonical (modLink id f s) :=
  canonical_ite h.update h.update
theorem Canonical.flitLost {s : State} (h : Canonical s) {f} : Canonical (flitLost f s) := by
  unfold Machine.flitLost
  split
  · exact canonical_ite h.update.inject h.inject
  · exact h.inject
theorem eject_canonical {s : State} (h : Canonical s) {f} : OptionCanonical (eject f s) := by
  unfold Machine.eject
  refine optionCanonical_ite optionCanonical_none (optionCanonical_ite
    (optionCanonical_some (canonical_ite h.update.countErr.flitLost h.update)) ?_)
  split
  · exact optionCanonical_ite optionCanonical_none (optionCanonical_some
      (canonical_ite h.update.countErr.flitLost h.update.modLink))
  · exact optionCanonical_none
theorem Canonical.nextCycle {s : State} (h : Canonical s) {pkg} : Canonical (nextCycle pkg s) := canonical_ite h.update h
theorem Canonical.routerHop {s : State} (h : Canonical s) {pkg node} : Canonical (routerHop pkg node s) := by
  refine (PairCanonical.fst (pairCanonical_foldl (pairCanonical_mk h.update) fun p f hp => ?_)).update.nextCycle
  split
  · next out => exact pairCanonical_mk (eject_canonical hp.fst _ out)
  · exact pairCanonical_mk hp.fst
theorem execFlitHop_canonical {s : State} (h : Canonical s) {pkg node} : ResCanonical (execFlitHop pkg node s) :=
  event_canonical h.routerHop
theorem Canonical.closeLink {s : State} (h : Canonical s) {id} : Canonical (closeLink id s) := by
  unfold Machine.closeLink
  split
  · exact h
  · exact h.modLink.update
theorem Canonical.linkReceive {s : State} (h : Canonical s) {link good} : Canonical (linkReceive link good s) := by
  unfold Machine.linkReceive
  split
  · exact h
  · split
    · exact h
    · exact canonical_ite h (canonical_ite h.modLink.update (canonical_ite h.modLink.countErr h.modLink))
theorem execSpanLinkFlitReceive_canonical {s : State} (h : Canonical s) {link good} :
    ResCanonical (execSpanLinkFlitReceive link good s) :=
  event_canonical h.linkReceive

end Sys2Proof.Machine
end

section
/-! Memory stays canonical: the walker and handles. -/

namespace Sys2Proof.Machine

theorem paddockLine_canonical {s : State} (h : Canonical s) {core cells counter full who} :
    OptionCanonical (paddockLine core cells counter full who s) := by
  unfold Machine.paddockLine
  dsimp only
  split
  · exact optionCanonical_some h
  · exact optionCanonical_ite optionCanonical_none (optionCanonical_some
      (canonical_ite (canonical_foldl h.physBytes fun _ _ hs => hs.setPoison).physBytes.update
      (canonical_foldl h.physBytes fun _ _ hs => hs.setPoison).physBytes.update.queueRecord))
theorem Canonical.raiseAbsent {s : State} (h : Canonical s) {core va} : Canonical (raiseAbsent core va s) :=
  canonical_ite h h.update.queueRecord
theorem readDesc_sound {p} : Sound (readDesc p) := by
  unfold Machine.readDesc
  refine keeps_bind readP_sound fun _ => keeps_bind require_sound fun _ => keeps_bind reachRange_sound fun _ => keeps_get_bind
    fun _ _ => ?_
  split
  · exact keeps_pure _
  · exact keeps_throw trivial
theorem checkRange_sound {va len need} : Sound (checkRange va len need) := sound_ite reachEmpty_sound reachRange_sound
theorem hazardDest_sound {va len} : Sound (hazardDest va len) :=
  keeps_get_bind fun _ _ => sound_ite (keeps_throw trivial) (keeps_pure _)
theorem accept_sound {w} : Sound (accept w) :=
  keeps_get_bind fun _ _ => sound_when stalled_sound (keeps_bind (keeps_modify fun _ hs => hs.update) fun _ => keeps_modify
    fun _ hs => hs.setD)
theorem submit_sound {w} : Sound (submit w) := by
  unfold Machine.submit
  refine keeps_get_bind fun _ _ => sound_ite ?_ (sound_ite
    (keeps_bind holdSb_sound fun _ => keeps_modify fun _ hs => hs.setD) accept_sound)
  dsimp only
  split
  · exact keeps_bind (keeps_forM fun _ _ => keeps_bind orderEvent_sound fun _ => keeps_modify fun _ hs => hs.incCounter)
      fun _ => keeps_modify fun _ hs => hs.setD
  · exact keeps_modify fun _ hs => hs.setD
theorem copyPtr_sound {d cnt dst src g} : Sound (copyPtr d cnt dst src g) :=
  keeps_bind require_sound fun _ => keeps_bind checkRange_sound fun _ => keeps_bind checkRange_sound fun _ =>
    keeps_bind hazardDest_sound fun _ => keeps_get_bind fun _ _ => submit_sound
theorem copyRing_sound {d cnt hd src g} : Sound (copyRing d cnt hd src g) :=
  keeps_get_bind fun _ _ => sound_when handleShared_sound
    (keeps_bind checkRange_sound fun _ => keeps_bind require_sound fun _ => submit_sound)
theorem execCopy_canonical {s : State} (h : Canonical s) {d cnt dst src g} : ResCanonical (execCopy d cnt dst src g s) := by
  unfold Machine.execCopy
  refine issue_canonical h (keeps_bind readG_sound fun _ => keeps_bind readP_sound fun _ => keeps_bind betweenChunks_sound
    fun _ => ?_)
  split
  · exact keeps_bind readP_sound fun _ => copyPtr_sound
  · exact copyRing_sound
theorem execTile_canonical {s : State} (h : Canonical s) {d cnt dst src desc} : ResCanonical (execTile d cnt dst src desc s) :=
  issue_canonical h (keeps_bind betweenChunks_sound fun _ => keeps_bind readDesc_sound fun _ => keeps_bind require_sound
    fun _ => keeps_bind readP_sound fun _ => keeps_bind readP_sound fun _ => sound_ite
    (keeps_bind checkRange_sound fun _ => keeps_bind checkRange_sound fun _ => keeps_bind
    (keeps_forM fun _ _ => hazardDest_sound) fun _ => keeps_get_bind fun _ _ => submit_sound)
    (keeps_bind (keeps_forM fun _ _ => checkRange_sound) fun _ => keeps_bind (keeps_forM fun _ _ => checkRange_sound) fun _ =>
    keeps_bind (keeps_forM fun _ _ => hazardDest_sound) fun _ => keeps_get_bind fun _ _ => submit_sound))
theorem execGather_canonical {s : State} (h : Canonical s) {d cnt dst src desc} :
    ResCanonical (execGather d cnt dst src desc s) :=
  issue_canonical h (keeps_bind betweenChunks_sound fun _ => keeps_bind readDesc_sound fun _ => keeps_bind require_sound
    fun _ => keeps_bind readP_sound fun _ => keeps_bind readP_sound fun _ => keeps_bind require_sound fun _ =>
    keeps_bind checkRange_sound fun _ => sound_when checkRange_sound
    (keeps_bind checkRange_sound fun _ => keeps_bind hazardDest_sound fun _ => keeps_get_bind fun _ _ => submit_sound))
theorem execMcast_canonical {s : State} (h : Canonical s) {d cnt dst src desc} :
    ResCanonical (execMcast d cnt dst src desc s) :=
  issue_canonical h (keeps_bind betweenChunks_sound fun _ => keeps_bind readDesc_sound fun _ => keeps_bind require_sound
    fun _ => keeps_bind readP_sound fun _ => keeps_bind readP_sound fun _ => keeps_bind checkRange_sound fun _ =>
    keeps_bind require_sound fun _ => keeps_get_bind fun _ _ => keeps_bind require_sound fun _ => sound_when checkRange_sound
    (keeps_bind (keeps_forM fun _ _ => checkRange_sound) fun _ => keeps_bind (keeps_forM fun _ _ => hazardDest_sound) fun _ =>
    submit_sound))
theorem execCopym_canonical {s : State} (h : Canonical s) {d cnt dst src desc} :
    ResCanonical (execCopym d cnt dst src desc s) :=
  issue_canonical h (keeps_bind matrixUsed_sound fun _ => keeps_get_bind fun _ _ => keeps_bind require_sound fun _ =>
    keeps_bind betweenChunks_sound fun _ => keeps_bind readDesc_sound fun _ => keeps_bind require_sound fun _ =>
    keeps_bind readP_sound fun _ => keeps_bind readP_sound fun _ => keeps_bind checkRange_sound fun _ =>
    keeps_bind checkRange_sound fun _ => keeps_bind mmaPointers_sound fun _ => keeps_bind hazardDest_sound fun _ =>
    keeps_get_bind fun _ _ => submit_sound)
theorem Canonical.modCmd {s : State} (h : Canonical s) {core id} {f : WCmd → WCmd} : Canonical (modCmd core id f s) := h.modCore
theorem Canonical.sendPacket {s : State} (h : Canonical s) {p} : Canonical (sendPacket p s) := h.update.inject
theorem Canonical.sendLines {s : State} (h : Canonical s) {core w ls} : Canonical (sendLines core w ls s) :=
  canonical_foldl h.modCmd fun _ _ hs => hs.sendPacket
theorem Canonical.cmdFault {s : State} (h : Canonical s) {core w cause addr} : Canonical (cmdFault core w cause addr s) := by
  unfold Machine.cmdFault
  split
  · exact h.failRival
  · exact canonical_ite h.modCore h.modAgent.endLaunch
  · exact h
theorem Canonical.failCmd {s : State} (h : Canonical s) {core w cause addr} : Canonical (failCmd core w cause addr s) := by
  unfold Machine.failCmd
  dsimp only
  split
  · exact h.modCmd.releasedFault
  · exact h.modCmd.cmdFault
theorem Canonical.startCmd {s : State} (h : Canonical s) {core} : Canonical (startCmd core s) := by
  unfold Machine.startCmd
  split
  · exact h
  · refine h.inLaunch fun _ hs => ?_
    dsimp only
    split
    · exact canonical_ite hs.failCmd hs.modHandle.sendLines
    · split
      · exact hs.sendLines
      · exact hs.failCmd
    · exact hs.sendLines
theorem execWalkerCommandStart_canonical {s : State} (h : Canonical s) {core} : ResCanonical (execWalkerCommandStart core s) :=
  event_canonical h.startCmd
theorem Canonical.walkerEvent {s : State} (h : Canonical s) {w site} : Canonical (walkerEvent w site s) := h.logEvent
theorem Canonical.advanceRing {s : State} (h : Canonical s) {core id n} : Canonical (advanceRing core id n s) := by
  induction n generalizing s with
  | zero => exact h
  | succ n ih =>
    unfold Machine.advanceRing
    split
    · exact h
    · split
      · exact h
      · exact canonical_ite (ih h.modHandle.modCmd.walkerEvent) h
theorem Canonical.countThese {s : State} (h : Canonical s) {core w k l} : Canonical (countThese core w k l s) := by
  induction l generalizing s with
  | nil => exact h
  | cons t l ih => exact canonical_ite (ih h.walkerEvent.incCounter.modCmd) h
theorem Canonical.countTargets {s : State} (h : Canonical s) {core w} : Canonical (countTargets core w s) := by
  unfold Machine.countTargets
  dsimp only
  split
  · exact h.countThese
  · exact h
theorem Canonical.landPaddock {s s1 : State} (h : Canonical s) (h' : Canonical s1) {core w l}
    {after : State → State} (hf : ∀ s, Canonical s → Canonical (after s)) :
    Canonical (landPaddock core w l s s1 after) := by
  unfold Machine.landPaddock
  refine canonical_ite h' ?_
  split
  · next heq => exact hf _ (canonical_ite (paddockLine_canonical h _ heq).modCmd (paddockLine_canonical h _ heq))
  · split
    · exact h'.raiseAbsent
    · exact h'
theorem Canonical.landView {s s1 : State} (h : Canonical s) (h' : Canonical s1) {seq pkg tag cells}
    {after : State → State} (hf : ∀ s, Canonical s → Canonical (after s)) :
    Canonical (landView seq pkg tag cells s s1 after) := by
  unfold Machine.landView
  refine canonical_ite (hf _ h) ?_
  split
  · exact hf _ h.landLine
  · refine canonical_ite (hf _ h) ?_
    split
    · exact h.failRival
    · exact h'
theorem Canonical.landWalker {s : State} (h : Canonical s) {core k} : Canonical (landWalker core k s) := by
  unfold Machine.landWalker
  split
  · exact h
  · refine h.inLaunch fun _ hs => ?_
    split
    · exact hs
    · dsimp only
      split
      · refine canonical_ite hs (hs.modCmd.landView hs fun _ ht => ?_)
        split
        · exact ht.advanceRing.countTargets
        · exact ht
      · refine canonical_ite hs ?_
        split
        · split
          · exact hs.modCmd.advanceRing.countTargets
          · exact hs.modCmd
        · refine canonical_ite hs (hs.modCmd.landPaddock hs fun _ hs => ?_)
          split
          · exact hs.advanceRing.countTargets
          · exact hs
theorem execEngineLineLanding_canonical {s : State} (h : Canonical s) {core k} :
    ResCanonical (execEngineLineLanding core k s) :=
  event_canonical h.landWalker
theorem Canonical.handOver {s : State} (h : Canonical s) {core w o} : Canonical (handOver core w o s) := by
  unfold Machine.handOver
  refine canonical_ite h ?_
  split
  · exact h
  · exact h.modCore.modCmd
theorem Canonical.completeCmd {s : State} (h : Canonical s) {core id} : Canonical (completeCmd core id s) := by
  unfold Machine.completeCmd
  split
  · exact h
  · refine h.inLaunch fun _ hs => canonical_ite hs (canonical_ite hs.advanceRing ?_)
    split
    · exact hs.handOver
    · exact hs
    · refine canonical_ite ?_ (.modCore ?_)
      · split
        · exact hs.countThese
        · exact hs
      · split
        · exact hs.countThese
        · exact hs
theorem execWalkerCommandComplete_canonical {s : State} (h : Canonical s) {core cmd} :
    ResCanonical (execWalkerCommandComplete core cmd s) :=
  event_canonical h.completeCmd
theorem execPromiseDue_canonical {s : State} (h : Canonical s) {tid d} : ResCanonical (execPromiseDue tid d s) :=
  event_canonical h.modAgent

end Sys2Proof.Machine
end

section
/-! Memory stays canonical: homes. -/

namespace Sys2Proof.Machine

theorem Canonical.modWindow {s : State} (h : Canonical s) {m} {f : Window → Window} : Canonical (modWindow m f s) := h.update
theorem Canonical.respond {s : State} (h : Canonical s) {m cause core} : Canonical (respond m cause core s) := h.sendMsg
theorem Canonical.remember {s : State} (h : Canonical s) {m cause} : Canonical (remember m cause s) := h.modWindow
theorem Canonical.performed {s : State} (h : Canonical s) {m} : Canonical (performed m s) := h.modWindow
theorem applyPosted_canonical {s : State} (h : Canonical s) {m} : AppliedCanonical (applyPosted m s) := by
  unfold Machine.applyPosted
  split
  · refine appliedCanonical_ite (appliedCanonical_done h) ?_
    split
    · exact appliedCanonical_ite appliedCanonical_notYet (appliedCanonical_done h.writeHome.poisonWords)
    · exact appliedCanonical_ite (appliedCanonical_done h) (appliedCanonical_ite appliedCanonical_notYet
        (appliedCanonical_done (canonical_ite h h.logEvent).writeHome))
  · split
    · split
      · next heq => exact appliedCanonical_done (paddockLine_canonical h _ heq)
      · exact appliedCanonical_absent
    · exact appliedCanonical_absent

end Sys2Proof.Machine
end

section
/-! Memory stays canonical: branches, chunks and traps. -/

namespace Sys2Proof.Machine

theorem Canonical.followBranch {s : State} (h : Canonical s) : Canonical (followBranch s) := h.modCur.update
theorem branchTo_sound {t1} : Sound (branchTo t1) := keeps_bind setNpc_sound fun _ => keeps_modify fun _ hs => hs.followBranch
theorem branchIf_sound {b off} : Sound (branchIf b off) :=
  sound_ite (keeps_get_bind fun _ _ => keeps_bind setNpc_sound fun _ => keeps_modify fun _ hs => hs.followBranch)
    (keeps_modify fun _ hs => hs.followBranch)
theorem jumpTo_sound {t1} : Sound (jumpTo t1) := keeps_bind require_sound fun _ => branchTo_sound
theorem execNop_canonical {s : State} (h : Canonical s) : ResCanonical (execNop s) := issue_canonical h (keeps_pure _)
theorem execChunk_canonical {s : State} (h : Canonical s) : ResCanonical (execChunk s) :=
  issue_canonical h (keeps_bind endChunk_sound fun _ => closeAfter_sound)
theorem execFollow_canonical {s : State} (h : Canonical s) : ResCanonical (execFollow s) :=
  issue_canonical h (keeps_modify fun _ hs => canonical_ite hs hs.modCur)
theorem execTrap_canonical {s : State} (h : Canonical s) {code} : ResCanonical (execTrap code s) :=
  issue_canonical h (sound_ite illegal_sound (keeps_throw trivial))
theorem execRtu_canonical {s : State} (h : Canonical s) : ResCanonical (execRtu s) :=
  issue_canonical h (keeps_get_bind fun _ _ => keeps_bind require_sound fun _ => keeps_bind betweenChunks_sound fun _ =>
    keeps_modify fun _ hs => hs.returnUser)
theorem execB_canonical {s : State} (h : Canonical s) {off} : ResCanonical (execB off s) :=
  issue_canonical h (keeps_get_bind fun _ _ => branchTo_sound)
theorem execCall_canonical {s : State} (h : Canonical s) {off} : ResCanonical (execCall off s) :=
  issue_canonical h (keeps_get_bind fun _ _ => keeps_bind writeP_sound fun _ => branchTo_sound)
theorem execJ_canonical {s : State} (h : Canonical s) {p} : ResCanonical (execJ p s) :=
  issue_canonical h (keeps_bind readP_sound fun _ => jumpTo_sound)
theorem execCallP_canonical {s : State} (h : Canonical s) {p} : ResCanonical (execCallP p s) :=
  issue_canonical h (keeps_bind readP_sound fun _ => keeps_get_bind fun _ _ => keeps_bind writeP_sound fun _ => jumpTo_sound)
theorem execLoop_canonical {s : State} (h : Canonical s) {g off} : ResCanonical (execLoop g off s) :=
  issue_canonical h (keeps_bind require_sound fun _ => keeps_bind readG_sound fun _ => keeps_bind writeG_sound fun _ =>
    branchIf_sound)
theorem execBc_canonical {s : State} (h : Canonical s) {q off} : ResCanonical (execBc q off s) :=
  issue_canonical h (keeps_bind readQ_sound fun _ => branchIf_sound)
theorem execBcN_canonical {s : State} (h : Canonical s) {q off} : ResCanonical (execBcN q off s) :=
  issue_canonical h (keeps_bind readQ_sound fun _ => branchIf_sound)
theorem execBq_canonical {s : State} (h : Canonical s) {off} : ResCanonical (execBq off s) :=
  issue_canonical h (keeps_bind popBq_sound fun _ => branchIf_sound)
theorem execBqp_canonical {s : State} (h : Canonical s) {q} : ResCanonical (execBqp q s) :=
  issue_canonical h (keeps_bind popBq_sound fun _ => writeQDst_sound)
theorem execChunkLimit_canonical {s : State} (h : Canonical s) : ResCanonical (execChunkLimit s) :=
  event_canonical (canonical_ite (h.commitThen fun _ hs => hs) h)
theorem execFollowAttach_canonical {s : State} (h : Canonical s) {tid} : ResCanonical (execFollowAttach tid s) := by
  unfold Machine.execFollowAttach
  refine event_canonical ?_
  split
  · exact h
  · split
    · exact canonical_ite h.modAgent h
    · exact h
theorem execUserTrapEntry_canonical {s : State} (h : Canonical s) {tid} : ResCanonical (execUserTrapEntry tid s) := by
  unfold Machine.execUserTrapEntry
  refine event_canonical ?_
  split
  · exact h
  · split
    · exact h
    · exact canonical_ite (h.focusAgent.commitThen fun _ hs => hs.modCur.enterUser.modCur) h

end Sys2Proof.Machine
end

section
/-! Memory stays canonical: suspension and resumption. -/

namespace Sys2Proof.Machine

theorem Canonical.asAgent {s : State} (h : Canonical s) {tid} {f : State → State} (hf : ∀ s, Canonical s → Canonical (f s)) :
    Canonical (asAgent tid f s) :=
  (hf _ h.focusAgent).focusAgent
theorem attempt_canonical {s : State} (h : Canonical s) {body : Run Unit} (hf : Sound body) : TriedCanonical (attempt body s) := by
  unfold attempt
  split
  · next done => exact triedCanonical_ok (hf.ok h done)
  · exact triedCanonical_bad
  · exact triedCanonical_bad
  · exact triedCanonical_bad
  · exact triedCanonical_notYet
  · exact triedCanonical_notYet
theorem frameArea_sound : Sound frameArea :=
  keeps_bind readP_sound fun _ => keeps_bind require_sound fun _ => keeps_bind reachRange_sound fun _ => keeps_pure _
theorem frameGet_sound {fp off n} : Sound (frameGet fp off n) :=
  keeps_bind reach_sound fun _ => keeps_get_bind fun _ _ => keeps_bind require_sound fun _ => keeps_pure _
theorem framePut_sound {fp off bs} : Sound (framePut fp off bs) :=
  keeps_bind reach_sound fun _ => keeps_get_bind fun _ _ => sound_ite bufferStore_sound
    (keeps_bind rangeFree_sound fun _ => keeps_bind roomForLine_sound fun _ => keeps_bind unreserved_sound fun _ =>
    keeps_modify fun _ hs => hs.writeHome)
theorem frameMasks_sound {fp off} : Sound (frameMasks fp off) :=
  keeps_bind frameGet_sound fun _ => keeps_bind frameGet_sound fun _ => keeps_bind frameGet_sound fun _ =>
    keeps_bind frameGet_sound fun _ => keeps_bind frameGet_sound fun _ => keeps_pure _
theorem Canonical.modDie {s : State} (h : Canonical s) {die} {f : DieQ → DieQ} : Canonical (s.modDie die f) :=
  canonical_ite h.update h.update
theorem Canonical.enqueueSeed {s : State} (h : Canonical s) {die tid} : Canonical (enqueueSeed die tid s) := by
  unfold Machine.enqueueSeed
  split
  · exact h
  · exact h.modDie.modAgent
theorem Canonical.takeEntry {s : State} (h : Canonical s) {die e} : Canonical (takeEntry die e s) := h.modDie
theorem Canonical.suspended {s : State} (h : Canonical s) {st up} : Canonical (suspended st up s) := h.endFollow.modCur
theorem runPause_sound {up} : Sound (runPause up) :=
  keeps_get_bind fun _ _ => keeps_bind require_sound fun _ => keeps_bind readP_sound fun _ => keeps_bind require_sound fun _ =>
    keeps_bind frameArea_sound fun _ => keeps_bind betweenChunks_sound fun _ => keeps_bind releaseSteps_sound fun _ =>
    keeps_bind frameMasks_sound fun _ => keeps_bind framePut_sound fun _ => keeps_modify fun _ hs =>
    canonical_ite hs.modCur.clearMe.suspended hs.modCur.clearMe.suspended.leaveSlot
theorem execPause_canonical {s : State} (h : Canonical s) : ResCanonical (execPause s) := issue_canonical h runPause_sound
theorem execPauseUp_canonical {s : State} (h : Canonical s) : ResCanonical (execPauseUp s) := issue_canonical h runPause_sound
theorem execYield_canonical {s : State} (h : Canonical s) : ResCanonical (execYield s) :=
  issue_canonical h (keeps_get_bind fun _ _ => keeps_bind require_sound fun _ => keeps_bind readP_sound fun _ =>
    keeps_bind require_sound fun _ => sound_ite (sound_when frameArea_sound
    (keeps_bind betweenChunks_sound fun _ => keeps_bind releaseSteps_sound fun _ => sound_when framePut_sound
    (keeps_modify fun _ hs => hs.suspended.modCur))) (sound_when frameArea_sound
    (keeps_bind betweenChunks_sound fun _ => keeps_bind releaseSteps_sound fun _ => sound_ite
    (keeps_get_bind fun _ _ => keeps_bind framePut_sound fun _ => keeps_bind framePut_sound fun _ => keeps_bind framePut_sound
    fun _ => keeps_modify fun _ hs => hs.suspended.leaveSlot.enqueueSeed)
    (keeps_modify fun _ hs => hs.suspended.leaveSlot.enqueueSeed))))
theorem loadFrame_sound : Sound loadFrame :=
  keeps_get_bind fun _ _ => sound_ite (keeps_modify fun _ hs => hs.modCur)
    (keeps_bind frameArea_sound fun _ => keeps_bind frameGet_sound fun _ => keeps_bind (keeps_modify fun _ hs => hs.setSrn)
    fun _ => keeps_bind frameGet_sound fun _ => sound_ite
    (keeps_bind frameMasks_sound fun _ => keeps_bind (keeps_modify fun _ hs => hs.modCur) fun _ => keeps_bind reach_sound
    fun _ => keeps_bind rangeFree_sound fun _ => keeps_bind roomForLine_sound fun _ => keeps_bind unreserved_sound fun _ =>
    keeps_modify fun _ hs => hs.writeHome) (keeps_pure _))
theorem Canonical.askFor {s : State} (h : Canonical s) {core va} : Canonical (askFor core va s) := h.modCore
theorem Canonical.enterSlot {s s1 : State} (h : Canonical s) (h' : Canonical s1) {tid core slot lc} :
    Canonical (enterSlot s tid core slot lc s1) := by
  unfold Machine.enterSlot
  refine canonical_ite h'.modAgent.focusAgent.takeFault.modAgent.leaveSlot.focusAgent ?_
  split
  · next heq => exact (attempt_canonical h'.modAgent.focusAgent loadFrame_sound _ heq).focusAgent
  · exact h'.modAgent.focusAgent.takeFault.modAgent.leaveSlot.focusAgent
  · exact h.askFor
  · exact h
theorem Canonical.takeSeed {s : State} (h : Canonical s) {core slot} : Canonical (takeSeed core slot s) := by
  unfold Machine.takeSeed
  refine canonical_ite h ?_
  split
  · exact h
  · exact h.enterSlot h
  · exact h.enterSlot (h.takeEntry.inLaunch fun _ hs => hs.focusCore.logEvent.focusCore)
theorem execTakeSeed_canonical {s : State} (h : Canonical s) {core slot} : ResCanonical (execTakeSeed core slot s) :=
  event_canonical h.takeSeed
theorem execHandlerSeedSteal_canonical {s : State} (h : Canonical s) {core slot} :
    ResCanonical (execHandlerSeedSteal core slot s) := by
  unfold Machine.execHandlerSeedSteal
  refine event_canonical (canonical_ite h ?_)
  split
  · exact h.enterSlot h
  · exact h
theorem runHitch_sound {ea em mask} : Sound (runHitch ea em mask) :=
  keeps_get_bind fun _ _ => keeps_bind require_sound fun _ => keeps_bind require_sound fun _ => keeps_bind require_sound
    fun _ => sound_when stalled_sound (sound_when stalled_sound
    (keeps_bind betweenChunks_sound fun _ => sound_when (keeps_modify fun _ hs => hs.update)
    (keeps_get_bind fun _ _ => sound_when keepWaiting_sound (keeps_modify fun _ hs => hs.update))))
theorem execHitch_canonical {s : State} (h : Canonical s) {aoff moff mask} : ResCanonical (execHitch aoff moff mask s) :=
  issue_canonical h (keeps_get_bind fun _ _ => runHitch_sound)
theorem execHitchP_canonical {s : State} (h : Canonical s) {pa pm mask} : ResCanonical (execHitchP pa pm mask s) :=
  issue_canonical h (keeps_bind readP_sound fun _ => keeps_bind readP_sound fun _ => runHitch_sound)
theorem awaitHitch_sound : Sound awaitHitch := keeps_get_bind fun _ _ => sound_when keepWaiting_sound require_sound
theorem execUnhitch_canonical {s : State} (h : Canonical s) : ResCanonical (execUnhitch s) :=
  issue_canonical h (keeps_get_bind fun _ _ => keeps_bind require_sound fun _ => keeps_bind betweenChunks_sound fun _ =>
    keeps_bind awaitHitch_sound fun _ => keeps_modify fun _ hs => hs.releaseHitch)
theorem execRest_canonical {s : State} (h : Canonical s) : ResCanonical (execRest s) :=
  issue_canonical h (keeps_get_bind fun _ _ => sound_ite (keeps_bind betweenChunks_sound fun _ =>
    keeps_bind releaseSteps_sound fun _ => keeps_modify fun _ hs => hs.modCur)
    (keeps_bind commitBatch_sound fun _ => keeps_modify fun _ hs => hs.modCur))
theorem Canonical.discardWorld {s : State} (h : Canonical s) {wid} : Canonical (discardWorld wid s) := by
  unfold Machine.discardWorld
  split
  · exact h
  · exact (canonical_foldl h fun _ _ hs => hs.discardView.modRival).modWorld
theorem Canonical.cardDone {s : State} (h : Canonical s) {card num} : Canonical (cardDone card num s) := by
  unfold Machine.cardDone
  refine canonical_ite (h.modLaunch h.launch) ?_
  split
  · exact h.modLaunch h.launch
  · exact canonical_ite (h.modLaunch h.launch).incCounter (h.modLaunch h.launch)
theorem Canonical.handlerDone {s : State} (h : Canonical s) {uid resolved} : Canonical (handlerDone uid resolved s) :=
  canonical_ite h.endLaunch h.modBoard
theorem Canonical.endThread {s : State} (h : Canonical s) : Canonical (endThread s) := by
  unfold Machine.endThread
  dsimp only
  split
  · refine canonical_ite (.cardDone ?_) ?_
    · split
      · refine .handlerDone (.endFollow ?_)
        split
        · exact h.endRival
        · exact h.clearAllMe.leaveSlot.leaveTeam.modAgent
      · refine .endFollow ?_
        split
        · exact h.endRival
        · exact h.clearAllMe.leaveSlot.leaveTeam.modAgent
    · split
      · refine .handlerDone (.endFollow ?_)
        split
        · exact h.endRival
        · exact h.clearAllMe.leaveSlot.leaveTeam.modAgent
      · refine .endFollow ?_
        split
        · exact h.endRival
        · exact h.clearAllMe.leaveSlot.leaveTeam.modAgent
  · split
    · refine .handlerDone (.endFollow ?_)
      split
      · exact h.endRival
      · exact h.clearAllMe.leaveSlot.leaveTeam.modAgent
    · refine .endFollow ?_
      split
      · exact h.endRival
      · exact h.clearAllMe.leaveSlot.leaveTeam.modAgent
theorem Canonical.leftHandler {s : State} (h : Canonical s) : Canonical (leftHandler s) := h.modCur
theorem runDone_sound : Sound runDone := by
  unfold runDone
  refine keeps_bind (keeps_modify fun _ hs => hs.leftHandler) fun _ => keeps_get_bind fun _ _ => ?_
  extract_lets a finish deal world hitch release
  have finishes : ∀ u, Sound (finish u) := fun _ => keeps_modify fun _ hs => hs.endThread
  have deals : ∀ u, Sound (deal u) := by
    refine fun _ => keeps_bind (releaseAs_sound fun _ hs => hs.leftHandler) fun _ => keeps_get_bind fun _ _ => ?_
    split
    · exact sound_ite (keeps_throw_bind trivial) (finishes ())
    · exact finishes ()
  have worlds : ∀ u, Sound (world u) := by
    refine fun _ => keeps_get_bind fun _ _ => keeps_get_bind fun _ _ => ?_
    split
    · exact sound_ite (sound_when keepWaiting_sound (keeps_bind (keeps_modify fun _ hs => hs.discardWorld) deals)) (deals ())
    · exact deals ()
  have hitches : ∀ u, Sound (hitch u) := fun _ => keeps_bind betweenChunks_sound fun _ => keeps_get_bind fun _ _ =>
    sound_ite (keeps_bind awaitHitch_sound fun _ => keeps_bind (keeps_modify fun _ hs => hs.releaseHitch) worlds) (worlds ())
  have releases : ∀ u, Sound (release u) := fun _ => sound_ite (keeps_bind keepStalled_sound hitches) (hitches ())
  exact sound_ite (sound_ite (keeps_bind keepStalled_sound releases) (releases ())) (hitches ())
theorem execDone_canonical {s : State} (h : Canonical s) : ResCanonical (execDone s) := issue_canonical h runDone_sound
theorem execRet_canonical {s : State} (h : Canonical s) : ResCanonical (execRet s) := by
  unfold Machine.execRet
  refine issue_canonical h (keeps_bind readP_sound fun _ => sound_ite jumpTo_sound (keeps_get_bind fun _ _ => ?_))
  split
  · exact runDone_sound
  · exact illegal_sound
  · exact keeps_bind betweenChunks_sound fun _ => keeps_bind releaseSteps_sound fun _ => keeps_modify fun _ hs => hs.modCur
  · exact keeps_bind commitBatch_sound fun _ => keeps_modify fun _ hs => hs.modCur

end Sys2Proof.Machine
end

section
/-! Memory stays canonical: boards and signals. -/

namespace Sys2Proof.Machine

theorem boardAt_sound {l} : Sound (boardAt l) := by
  unfold Machine.boardAt
  refine keeps_get_bind fun _ _ => ?_
  split
  · split
    · exact keeps_pure _
    · exact illegal_sound
  · split
    · exact keeps_pure _
    · exact illegal_sound
theorem sendEmit_sound {so v} : Sound (sendEmit so v) :=
  keeps_bind boardAt_sound fun _ => keeps_bind betweenChunks_sound fun _ => keeps_get_bind fun _ _ => sound_ite holdSb_sound
    (keeps_modify fun _ hs => hs.sendBoard)
theorem execEmit_canonical {s : State} (h : Canonical s) {so} : ResCanonical (execEmit so s) := issue_canonical h sendEmit_sound
theorem execEmitv_canonical {s : State} (h : Canonical s) {so g} : ResCanonical (execEmitv so g s) :=
  issue_canonical h (keeps_bind boardAt_sound fun _ => keeps_bind readOp_sound fun _ => sendEmit_sound)
theorem testSignal_sound {so tv} : Sound (testSignal so tv) := by
  unfold Machine.testSignal
  refine keeps_bind boardAt_sound fun _ => keeps_bind betweenChunks_sound fun _ => ?_
  dsimp only
  split
  · exact keeps_throw trivial
  · exact sound_ite (keeps_throw trivial) (keeps_pure _)
  · exact keeps_pure _
  · exact keeps_pure _
theorem execTest_canonical {s : State} (h : Canonical s) {q so} : ResCanonical (execTest q so s) :=
  issue_canonical h (keeps_bind testSignal_sound fun _ => writeQDst_sound)
theorem execTestv_canonical {s : State} (h : Canonical s) {q g so} : ResCanonical (execTestv q g so s) :=
  issue_canonical h (keeps_bind testSignal_sound fun _ => keeps_bind writeQDst_sound fun _ => writeOp_sound)
theorem execRenounce_canonical {s : State} (h : Canonical s) {k g} : ResCanonical (execRenounce k g s) :=
  issue_canonical h (keeps_bind boardAt_sound fun _ => keeps_bind readOp_sound fun _ => keeps_bind betweenChunks_sound fun _ =>
    keeps_modify fun _ hs => hs.clearMe)
theorem execResolve_canonical {s : State} (h : Canonical s) {q so} : ResCanonical (execResolve q so s) := by
  unfold Machine.execResolve
  refine issue_canonical h (keeps_get_bind fun _ _ => keeps_bind require_sound fun _ => keeps_bind betweenChunks_sound fun _ =>
    ?_)
  split
  · exact keeps_bind (keeps_modify fun _ hs => hs.modCur) fun _ => writeQDst_sound
  · refine sound_when blocked_sound ?_
    dsimp only
    split
    · exact writeQDst_sound
    · exact keeps_bind (keeps_modify fun _ hs => hs.sendBoard) fun _ => keeps_bind (keeps_modify fun _ hs => hs.modCur)
        fun _ => keepWaiting_sound
theorem pushFrame_sound {so} {record : ℕ → ℕ} : Sound (pushFrame so record) :=
  keeps_get_bind fun _ _ => keeps_bind require_sound fun _ => keeps_bind boardAt_sound fun _ => keeps_bind readP_sound fun _ =>
    keeps_bind require_sound fun _ => keeps_bind reachAligned_sound fun _ => keeps_bind storeAt_sound fun _ => keeps_modify
    fun _ hs => hs.modCur
theorem execAbortw_canonical {s : State} (h : Canonical s) {so off} : ResCanonical (execAbortw so off s) :=
  issue_canonical h (keeps_get_bind fun _ _ => pushFrame_sound)
theorem execSuspw_canonical {s : State} (h : Canonical s) {so} : ResCanonical (execSuspw so s) :=
  issue_canonical h pushFrame_sound
theorem execEndw_canonical {s : State} (h : Canonical s) : ResCanonical (execEndw s) :=
  issue_canonical h (keeps_get_bind fun _ _ => keeps_bind require_sound fun _ => keeps_modify fun _ hs => hs.modCur)
theorem execInstn_canonical {s : State} (h : Canonical s) {g l} : ResCanonical (execInstn g l s) :=
  issue_canonical h (keeps_bind boardAt_sound fun _ => writeOp_sound)
theorem execCause_canonical {s : State} (h : Canonical s) {g} : ResCanonical (execCause g s) :=
  issue_canonical h (keeps_get_bind fun _ _ => writeOp_sound)
theorem atBoundary_sound {start : Run Unit} (h : Sound start) : Sound (atBoundary start) :=
  keeps_get_bind fun _ _ => sound_ite (keeps_bind (keeps_modify fun _ hs => hs.modCur) fun _ => betweenChunks_sound)
    (sound_ite (keeps_bind h fun _ => keeps_bind (keeps_modify fun _ hs => hs.modCur) fun _ =>
    keepWaiting_sound) keepWaiting_sound)
theorem execTeamj_canonical {s : State} (h : Canonical s) {g} : ResCanonical (execTeamj g s) := by
  unfold Machine.execTeamj
  refine issue_canonical h (atBoundary_sound (keeps_bind readOp_sound fun _ => keeps_get_bind fun _ _ =>
    keeps_bind require_sound fun _ => keeps_bind require_sound fun _ => ?_))
  split
  · exact illegal_sound
  · exact sound_when frameArea_sound (keeps_bind betweenChunks_sound fun _ => keeps_modify fun _ hs => hs.modCur)
theorem execTeaml_canonical {s : State} (h : Canonical s) : ResCanonical (execTeaml s) :=
  issue_canonical h (atBoundary_sound (keeps_get_bind fun _ _ => keeps_bind require_sound fun _ =>
    keeps_bind betweenChunks_sound fun _ => keeps_bind releaseSteps_sound fun _ => keeps_modify fun _ hs =>
    hs.modCur.clearAllMe))
theorem execTeamh_canonical {s : State} (h : Canonical s) {p l} : ResCanonical (execTeamh p l s) :=
  issue_canonical h (keeps_bind boardAt_sound fun _ => keeps_bind readP_sound fun _ => keeps_bind require_sound fun _ =>
    keeps_bind betweenChunks_sound fun _ => keeps_bind reachSteps_sound fun _ => keeps_get_bind fun _ _ =>
    keeps_bind require_sound fun _ => sound_ite (keeps_modify fun _ hs => hs.sendBoard)
    (keeps_bind require_sound fun _ => keeps_bind require_sound fun _ => keeps_bind reachRange_sound fun _ => keeps_modify
    fun _ hs => hs.sendBoard))
theorem Canonical.modSig {s : State} (h : Canonical s) {uid i} {f : SigCell → SigCell} : Canonical (modSig uid i f s) :=
  h.modBoard
theorem Canonical.deliverEmit {s : State} (h : Canonical s) {uid sig val tid pc rel} :
    Canonical (deliverEmit uid sig val tid pc rel s) := by
  unfold Machine.deliverEmit
  split
  · exact h
  · refine canonical_dite (fun _ => canonical_ite h ?_) fun _ => h
    split
    · refine .modSig ?_
      split
      · exact h.focusCore.logEvent.focusCore
      · exact h
    · refine .modSig ?_
      split
      · exact h.focusCore.logEvent.focusCore
      · exact h
    · split
      · exact h.releasedFault
      · exact h.faultAt
    · split
      · exact h.releasedFault
      · exact h.faultAt
theorem Canonical.deliverResolve {s : State} (h : Canonical s) {uid lvl sig tid} :
    Canonical (deliverResolve uid lvl sig tid s) :=
  (canonical_ite h.modSig h).modAgent
theorem Canonical.withMsg {s : State} (h : Canonical s) {p : BoardMsg → Bool}
    {f : BoardMsg → State → State} (hf : ∀ a s, Canonical s → Canonical (f a s)) :
    Canonical (withMsg p f s) := by
  unfold Machine.withMsg
  refine canonical_ite ?_ ?_
  · dsimp only
    split
    · exact canonical_ite (hf _ _ (h.modLaunch h.launch)).checkEnded h
    · exact h
  · split
    · refine h.inLaunch fun _ hs => ?_
      split
      · exact canonical_ite (hf _ _ (hs.modLaunch hs.launch)).checkEnded hs
      · exact hs
    · exact h
theorem Canonical.deliverMsg {s : State} (h : Canonical s) {m} : Canonical (deliverMsg m s) := by
  unfold Machine.deliverMsg
  split
  · exact h.deliverEmit
  · exact h.modBoard
  · exact h.deliverResolve
  · exact h.modBoard
theorem Canonical.arrive {s : State} (h : Canonical s) {kind : BoardMsg → Bool} : Canonical (arrive kind s) := by
  unfold Machine.arrive
  refine canonical_ite (h.withMsg fun _ _ hs => hs.deliverMsg) ?_
  split
  · exact h.inLaunch fun _ hs => hs.withMsg fun _ _ hs => hs.deliverMsg
  · exact h
theorem execSignalEmitArrival_canonical {s : State} (h : Canonical s) : ResCanonical (execSignalEmitArrival s) :=
  event_canonical h.arrive
theorem execMaskClearArrival_canonical {s : State} (h : Canonical s) : ResCanonical (execMaskClearArrival s) :=
  event_canonical h.arrive
theorem execResolveArrival_canonical {s : State} (h : Canonical s) : ResCanonical (execResolveArrival s) :=
  event_canonical h.arrive
theorem execHandlerRegistrationArrival_canonical {s : State} (h : Canonical s) :
    ResCanonical (execHandlerRegistrationArrival s) :=
  event_canonical h.arrive
theorem Canonical.causalityTrap {s : State} (h : Canonical s) {uid} : Canonical (causalityTrap uid s) := by
  unfold Machine.causalityTrap
  split
  · exact h
  · refine canonical_ite h ?_
    split
    · exact h
    · dsimp only
      split
      · split
        · exact h.askFor
        · exact h.rawWrite.modBoard.update
      · refine canonical_ite (canonical_foldl h fun _ _ hs => ?_) ?_
        · split
          · exact hs.failRival
          · exact hs.faultAt
        · split
          · exact h.endLaunch
          · exact h
theorem Canonical.onBoard {s : State} (h : Canonical s) {uid} {f : State → State} (hf : ∀ s, Canonical s → Canonical (f s)) :
    Canonical (onBoard uid f s) := by
  unfold Machine.onBoard
  refine canonical_ite (hf _ h) ?_
  split
  · exact h.inLaunch fun _ hs => hf _ hs
  · exact h
theorem execCausalityTrap_canonical {s : State} (h : Canonical s) {team} : ResCanonical (execCausalityTrap team s) :=
  event_canonical (h.onBoard fun _ hs => hs.causalityTrap)
theorem Canonical.computePhaseEnd {s : State} (h : Canonical s) {uid} : Canonical (computePhaseEnd uid s) := by
  unfold Machine.computePhaseEnd
  split
  · exact h
  · refine canonical_ite h ?_
    dsimp only
    split
    · exact canonical_ite (canonical_foldl h.modBoard fun _ _ hs => hs.clearMe) h.modBoard
    · exact h.modBoard
theorem execComputePhaseEnd_canonical {s : State} (h : Canonical s) {team} : ResCanonical (execComputePhaseEnd team s) :=
  event_canonical (h.onBoard fun _ hs => hs.computePhaseEnd)
theorem Canonical.zeroFile {s : State} (h : Canonical s) {a} : Canonical (zeroFile a s) := h.modCore
theorem Canonical.wake {s : State} (h : Canonical s) {tid} : Canonical (wake tid s) := by
  unfold Machine.wake
  split
  · exact h
  · exact canonical_ite h.modAgent (canonical_ite h.enqueueSeed h.modAgent)
theorem Canonical.boundaryThread {s : State} (h : Canonical s) {due tid} : Canonical (boundaryThread due tid s) := by
  unfold Machine.boundaryThread
  split
  · exact h
  · dsimp only
    split
    · exact h.faultAt.modAgent
    · refine canonical_foldl h.modAgent fun _ _ hs => ?_
      split
      · exact canonical_ite hs hs.clearMe
      · exact hs
    · exact h.zeroFile.modAgent.wake
    · exact h.modAgent.wake
theorem Canonical.joinTeam {s : State} (h : Canonical s) {b a} : Canonical (joinTeam b a s) := h.modAgent
theorem Canonical.dropMember {s : State} (h : Canonical s) {tid} : Canonical (dropMember tid s) := h.modAgent.leaveTeam
theorem Canonical.closeExchange {s : State} (h : Canonical s) {uid} : Canonical (closeExchange uid s) :=
  canonical_foldl h fun _ _ hs => canonical_ite hs.modLc.modAgent hs.modLc
theorem Canonical.instantStart {s : State} (h : Canonical s) {uid} : Canonical (instantStart uid s) := by
  unfold Machine.instantStart
  split
  · exact h
  · refine canonical_ite h (canonical_foldl (canonical_foldl
      (canonical_foldl (canonical_foldl (canonical_foldl (canonical_foldl h fun _ _ hs => ?_) fun _ _ ht => ht.boundaryThread)
      fun _ _ ht => ht.dropMember) fun _ _ ht => ht.modAgent) fun _ _ ht => ht.closeExchange) fun _ _ ht => ?_)
    · split
      · exact hs.joinTeam
      · exact hs
    · split
      · exact ht.modBoard
      · exact ht
theorem execInstantStart_canonical {s : State} (h : Canonical s) {team} : ResCanonical (execInstantStart team s) :=
  event_canonical (h.onBoard fun _ hs => hs.instantStart)

end Sys2Proof.Machine
end

section
/-! Memory stays canonical: the exchange. -/

namespace Sys2Proof.Machine

theorem readTable_sound {va size n} : Sound (readTable va size n) :=
  keeps_bind reachSteps_sound fun _ => keeps_get_bind fun _ _ => keeps_bind require_sound fun _ => keeps_pure _
theorem execDemand_canonical {s : State} (h : Canonical s) {p hd l} : ResCanonical (execDemand p hd l s) :=
  issue_canonical h (keeps_bind boardAt_sound fun _ => keeps_get_bind fun _ _ => keeps_bind require_sound fun _ =>
    keeps_bind require_sound fun _ => keeps_bind readP_sound fun _ => keeps_bind require_sound fun _ =>
    keeps_bind betweenChunks_sound fun _ => keeps_bind readTable_sound fun _ => keeps_bind require_sound fun _ =>
    keeps_bind require_sound fun _ => sound_ite holdSb_sound (keeps_modify fun _ hs => hs.update))
theorem sendEntries_sound {me va n d} : Sound (sendEntries me va n d) := by
  induction n generalizing d with
  | zero => exact keeps_pure _
  | succ n ih =>
    refine sound_ite (keeps_bind (keeps_pure _) fun _ => keeps_bind ih fun _ => keeps_pure _) ?_
    refine keeps_bind readTable_sound fun _ => keeps_bind require_sound fun _ => keeps_bind require_sound fun _ => ?_
    exact keeps_bind checkRange_sound fun _ => keeps_bind (keeps_pure _) fun _ => keeps_bind ih fun _ => keeps_pure _
theorem execXgo_canonical {s : State} (h : Canonical s) {p} : ResCanonical (execXgo p s) := by
  unfold Machine.execXgo
  refine issue_canonical h (keeps_get_bind fun _ _ => ?_)
  split
  · exact illegal_sound
  · exact keeps_bind readP_sound fun _ => keeps_bind require_sound fun _ => keeps_bind betweenChunks_sound fun _ =>
      keeps_bind sendEntries_sound fun _ => sound_ite holdSb_sound (keeps_modify fun _ hs => hs.update)
theorem execXwait_canonical {s : State} (h : Canonical s) : ResCanonical (execXwait s) := by
  unfold Machine.execXwait
  refine issue_canonical h (keeps_bind betweenChunks_sound fun _ => keeps_get_bind fun _ hs => sound_ite ?_ (keeps_pure _))
  split
  · exact keeps_pure _
  · exact illegal_sound
  · exact sound_ite (keeps_throw hs.update) (keeps_pure _)
  · exact blocked_sound
theorem execXstat_canonical {s : State} (h : Canonical s) {g hd} : ResCanonical (execXstat g hd s) :=
  issue_canonical h (keeps_bind readOp_sound fun _ => keeps_get_bind fun _ _ => writeOp_sound)
theorem Canonical.setArbiter {s : State} (h : Canonical s) {a} : Canonical (setArbiter a s) := h.update
theorem Canonical.modX {s : State} (h : Canonical s) {uid n} {f : XPart → XPart} : Canonical (modX s uid n f) := h.modLc
theorem Canonical.calendarCompute {s : State} (h : Canonical s) {uid} : Canonical (calendarCompute uid s) := by
  unfold Machine.calendarCompute
  split
  · exact h
  · split
    · exact h
    · exact canonical_ite h (canonical_foldl h fun _ _ hs => hs.modLc).modBoard
theorem execCalendarCompute_canonical {s : State} (h : Canonical s) {team} : ResCanonical (execCalendarCompute team s) :=
  event_canonical (h.onBoard fun _ hs => hs.calendarCompute)
theorem Canonical.modXch {s : State} (h : Canonical s) {uid} {f : Exchange → Exchange} : Canonical (modXch uid f s) :=
  h.modBoard
theorem Canonical.resend {s : State} (h : Canonical s) {uid rank gen} : Canonical (resend uid rank gen s) := h.update
theorem Canonical.calendarArrival {s : State} (h : Canonical s) {uid rank} : Canonical (calendarArrival uid rank s) := by
  unfold Machine.calendarArrival
  split
  · split
    · exact h.modX
    · exact canonical_ite h h.modX.resend
    · exact canonical_ite h h.modX.resend
    · exact h
  · exact h
theorem execCalendarArrival_canonical {s : State} (h : Canonical s) {team rank} :
    ResCanonical (execCalendarArrival team rank s) :=
  event_canonical (h.onBoard fun _ hs => hs.calendarArrival)
theorem execArbiterHeartbeat_canonical {s : State} (h : Canonical s) {beat} : ResCanonical (execArbiterHeartbeat beat s) := by
  unfold Machine.execArbiterHeartbeat
  refine event_canonical ?_
  dsimp only
  split <;> exact h.setArbiter
theorem Canonical.recompute {s : State} (h : Canonical s) {gen} : Canonical (recompute gen s) := by
  unfold Machine.recompute
  refine canonical_foldl h fun _ _ hs => ?_
  split
  · exact canonical_ite hs.modBoard hs
  · exact hs
theorem Canonical.endExchange {s : State} (h : Canonical s) {id} : Canonical (endExchange id s) :=
  canonical_ite h (h.inLaunch fun _ hs => canonical_ite hs hs.endLaunch)
theorem Canonical.failover {s : State} (h : Canonical s) {part} : Canonical (failover part s) := by
  unfold Machine.failover
  refine canonical_ite h ?_
  split
  · exact canonical_foldl h.setArbiter fun _ _ hs => hs.inLaunch fun _ hs => hs.recompute
  · exact canonical_foldl h.setArbiter fun _ _ hs => hs.endExchange
  · exact h
theorem execArbiterFailover_canonical {s : State} (h : Canonical s) : ResCanonical (execArbiterFailover s) := by
  unfold Machine.execArbiterFailover
  refine event_canonical ?_
  split
  · exact h.failover
  · exact h
theorem Canonical.sendUnit {s : State} (h : Canonical s) {src dst uid u} : Canonical (sendUnit src dst uid u s) := h.sendPacket
theorem Canonical.sendUnits {s : State} (h : Canonical s) {uid src dst residual n} :
    Canonical (sendUnits uid src dst residual n s) := by
  induction n generalizing s with
  | zero => exact h
  | succ n ih =>
    unfold Machine.sendUnits
    split
    · exact h
    · split
      · exact h
      · exact canonical_ite h (ih h.modX.sendUnit)
theorem Canonical.phaseStart {s : State} (h : Canonical s) {uid rank} : Canonical (phaseStart uid rank s) := by
  unfold Machine.phaseStart
  split
  · exact h
  · split
    · exact h
    · refine canonical_ite h ?_
      split
      · exact h
      · dsimp only
        split
        · exact h.modX
        · exact canonical_ite h.sendUnits.modX h
theorem execExchangePhaseStart_canonical {s : State} (h : Canonical s) {team rank} :
    ResCanonical (execExchangePhaseStart team rank s) :=
  event_canonical (h.onBoard fun _ hs => hs.phaseStart)
theorem Canonical.takeTickets {s : State} (h : Canonical s) {uid lc hd n m} : Canonical (takeTickets uid lc hd n m s) := by
  induction m generalizing s with
  | zero => exact h
  | succ m ih => exact canonical_ite h (ih h.modX.modHandle)
theorem ticketAt_canonical {s : State} (h : Canonical s) {uid dst place} : PairCanonical (ticketAt uid dst place s) := by
  unfold Machine.ticketAt
  split
  · exact pairCanonical_mk h
  · split
    · exact pairCanonical_mk h
    · exact pairCanonical_mk h.takeTickets
theorem Canonical.markTicket {s : State} (h : Canonical s) {n hd t1} : Canonical (markTicket n hd t1 s) := h.modHandle
theorem Canonical.settle {s : State} (h : Canonical s) {uid} : Canonical (settle uid s) := by
  unfold Machine.settle
  split
  · exact h
  · exact canonical_ite h (canonical_foldl h fun _ _ hs => hs.modX)
theorem Canonical.unitLanding {s : State} (h : Canonical s) {uid k} : Canonical (unitLanding uid k s) := by
  unfold Machine.unitLanding
  split
  · exact h
  · split
    · exact h
    · split
      · next heq => exact (ticketAt_canonical h).eq heq
      · next heq =>
          exact canonical_ite ((ticketAt_canonical h).eq heq).modXch.settle
            (canonical_ite ((ticketAt_canonical h).eq heq) ((ticketAt_canonical h).eq heq).landCells.markTicket.modXch.settle)
theorem execExchangeUnitLanding_canonical {s : State} (h : Canonical s) {team k} :
    ResCanonical (execExchangeUnitLanding team k s) :=
  event_canonical (h.onBoard fun _ hs => hs.unitLanding)
theorem markVoid_canonical {s : State} (h : Canonical s) {uid src dst} : PairCanonical (markVoid uid src dst s) := by
  unfold Machine.markVoid
  split
  · exact pairCanonical_mk h
  · refine pairCanonical_ite (pairCanonical_mk h) (pairCanonical_foldl (pairCanonical_mk h) fun _ _ hs => ?_)
    split
    · next heq => exact pairCanonical_mk ((ticketAt_canonical hs.fst).eq heq).markTicket
    · next heq => exact pairCanonical_mk ((ticketAt_canonical hs.fst).eq heq)
theorem Canonical.segmentEnd {s : State} (h : Canonical s) {uid rank} : Canonical (segmentEnd uid rank s) := by
  unfold Machine.segmentEnd
  split
  · exact h
  · split
    · exact h
    · exact canonical_ite h (canonical_ite (pairCanonical_foldl (pairCanonical_mk h) fun _ _ hs => pairCanonical_mk
        (markVoid_canonical hs.fst).fst).fst (pairCanonical_foldl (pairCanonical_mk h) fun _ _ hs => pairCanonical_mk
        (markVoid_canonical hs.fst).fst).fst.modX.settle)
theorem execExchangeSegmentEnd_canonical {s : State} (h : Canonical s) {team rank} :
    ResCanonical (execExchangeSegmentEnd team rank s) :=
  event_canonical (h.onBoard fun _ hs => hs.segmentEnd)
theorem Canonical.residualStart {s : State} (h : Canonical s) {uid} : Canonical (residualStart uid s) := by
  unfold Machine.residualStart
  split
  · exact h
  · refine canonical_ite h ?_
    split
    · exact h.settle
    · refine .modXch ?_
      split
      · exact (canonical_foldl h fun _ _ hs => hs.sendUnits).modX
      · exact canonical_foldl h fun _ _ hs => hs.sendUnits
theorem execResidualPhaseStart_canonical {s : State} (h : Canonical s) {team} : ResCanonical (execResidualPhaseStart team s) :=
  event_canonical (h.onBoard fun _ hs => hs.residualStart)

end Sys2Proof.Machine
end

section
/-! Memory stays canonical: worlds. -/

namespace Sys2Proof.Machine

theorem Canonical.bumpOrd {s : State} (h : Canonical s) {lc sq kind} : Canonical (bumpOrd lc sq kind s) := h.modLaunch h.launch
theorem Canonical.makeWorld {s : State} (h : Canonical s) {g n} : Canonical (makeWorld g n s) :=
  (canonical_foldl (h.modPkg.modLaunch h.modPkg.launch).update fun _ _ hs => hs.enqueueSeed).modCur.bumpOrd
theorem execForkw_canonical {s : State} (h : Canonical s) {g n1} : ResCanonical (execForkw g n1 s) :=
  issue_canonical h (keeps_bind require_sound fun _ => keeps_bind betweenChunks_sound fun _ => keeps_get_bind fun _ _ =>
    sound_ite writeG_sound (sound_ite (keeps_bind (keeps_modify fun _ hs => hs.modCur) fun _ => writeG_sound)
    (sound_ite stalled_sound (sound_ite (keeps_bind (keeps_modify fun _ hs => hs.modCur) fun _ => writeG_sound)
    (sound_ite (keeps_bind (keeps_modify fun _ hs => hs.modCur) fun _ => writeG_sound)
    (sound_when stalled_sound (sound_when stalled_sound (keeps_bind readP_sound fun _ => keeps_bind
    (keeps_modify fun _ hs => hs.makeWorld) fun _ => writeG_sound))))))))
theorem execWidx_canonical {s : State} (h : Canonical s) {g} : ResCanonical (execWidx g s) :=
  issue_canonical h (keeps_get_bind fun _ _ => writeOp_sound)
theorem execClaimw_canonical {s : State} (h : Canonical s) : ResCanonical (execClaimw s) := by
  unfold Machine.execClaimw
  refine issue_canonical h (keeps_get_bind fun _ _ => ?_)
  dsimp only
  split
  · exact illegal_sound
  · exact sound_ite runDone_sound (keeps_bind betweenChunks_sound fun _ => sound_when
      (keeps_modify fun _ hs => hs.modWorld.modCur) keepStalled_sound)
theorem awaitWorld_sound {w} : Sound (awaitWorld w) := sound_ite blocked_sound (keeps_pure _)
theorem execJoinw_canonical {s : State} (h : Canonical s) {g} : ResCanonical (execJoinw g s) := by
  unfold Machine.execJoinw
  refine issue_canonical h (keeps_bind betweenChunks_sound fun _ => keeps_get_bind fun _ _ => ?_)
  split
  · exact writeOp_sound
  · exact keeps_bind awaitWorld_sound fun _ => writeOp_sound
theorem execChoosew_canonical {s : State} (h : Canonical s) {q g} : ResCanonical (execChoosew q g s) := by
  unfold Machine.execChoosew
  refine issue_canonical h (keeps_bind betweenChunks_sound fun _ => keeps_get_bind fun _ _ => ?_)
  split
  · exact keeps_bind readOp_sound fun _ => writeQDst_sound
  · refine keeps_bind awaitWorld_sound fun _ => keeps_bind readOp_sound fun _ => sound_ite writeQDst_sound
      (sound_ite writeQDst_sound ?_)
    split
    · exact startWaiting_sound fun _ hs => hs.modWorld
    · exact keeps_bind (keeps_modify fun _ hs => hs.discardWorld) fun _ => writeQDst_sound
theorem execAbandw_canonical {s : State} (h : Canonical s) : ResCanonical (execAbandw s) := by
  unfold Machine.execAbandw
  refine issue_canonical h (keeps_get_bind fun _ _ => ?_)
  dsimp only
  split
  · exact illegal_sound
  · exact sound_ite runDone_sound (keeps_bind betweenChunks_sound fun _ => keeps_get_bind fun _ _ =>
      sound_when awaitHitch_sound (keeps_modify fun _ hs => hs.endRival))
theorem execWstat_canonical {s : State} (h : Canonical s) {g hd} : ResCanonical (execWstat g hd s) :=
  issue_canonical h (keeps_bind readOp_sound fun _ => keeps_get_bind fun _ _ => writeOp_sound)
theorem Canonical.winClaim {s : State} (h : Canonical s) {wid idx} : Canonical (winClaim wid idx s) := by
  unfold Machine.winClaim
  split
  · exact h
  · refine canonical_foldl h.focusCore.logEvent.focusCore.modWorld fun _ _ hs => canonical_ite hs ?_
    split
    · split
      · exact canonical_ite hs.modAgent hs.endRival
      · exact hs
    · exact hs.discardView.modRival
    · exact hs
theorem Canonical.claimArrival {s : State} (h : Canonical s) {wid} : Canonical (claimArrival wid s) := by
  unfold Machine.claimArrival
  split
  · exact h
  · split
    · exact h
    · refine canonical_ite h.modWorld (canonical_ite ?_ h.winClaim)
      split
      · exact canonical_ite h.winClaim h
      · exact canonical_ite h h.modWorld.endRival
theorem Canonical.onWorld {s : State} (h : Canonical s) {wid} {f : State → State} (hf : ∀ s, Canonical s → Canonical (f s)) :
    Canonical (onWorld wid f s) := by
  unfold Machine.onWorld
  refine canonical_ite (hf _ h) ?_
  split
  · exact h.inLaunch fun _ hs => hf _ hs
  · exact h
theorem execClaimArrival_canonical {s : State} (h : Canonical s) {k} : ResCanonical (execClaimArrival k s) :=
  event_canonical (h.onWorld fun _ hs => hs.claimArrival)
theorem execRivalKill_canonical {s : State} (h : Canonical s) {tid} : ResCanonical (execRivalKill tid s) := by
  unfold Machine.execRivalKill
  refine event_canonical ?_
  split
  · exact h
  · split
    · exact h.onAgent fun _ _ hs => hs.endRival.modAgent
    · exact h
theorem Canonical.commitLine {s : State} (h : Canonical s) {pkg ptag l} : Canonical (commitLine pkg ptag l s) :=
  canonical_ite (canonical_foldl (canonical_foldl h.noteCommit fun _ _ hs => hs.setBaseByte) fun _ _ hs =>
    hs.setBaseEmpty.setBasePois) h.noteCommit.modView
theorem Canonical.commitLines {s : State} (h : Canonical s) {pkg tag ptag} : Canonical (commitLines pkg tag ptag s) := by
  unfold Machine.commitLines
  dsimp only
  split
  · exact (canonical_foldl h fun _ _ hs => hs.commitLine).madeResident
  · exact (canonical_foldl h fun _ _ hs => hs.commitLine).modView.modPkg
theorem issueEntry_canonical {s : State} (h : Canonical s) {core place w e} : PairCanonical (issueEntry core place w e s) := by
  unfold Machine.issueEntry
  dsimp only
  split
  · refine pairCanonical_ite (pairCanonical_mk h) (pairCanonical_ite (pairCanonical_mk h.sendMarkers)
      (pairCanonical_ite (pairCanonical_mk h) ?_))
    split
    · exact pairCanonical_mk h
    · exact pairCanonical_mk h.modPlace
  · exact pairCanonical_ite (pairCanonical_mk h) (pairCanonical_mk h.modCore)
  · exact pairCanonical_mk h.sendBoard
  · exact pairCanonical_ite (pairCanonical_mk h) (pairCanonical_ite (pairCanonical_mk h.releasedFault)
      (pairCanonical_mk h.modLc))
  · exact pairCanonical_ite (pairCanonical_mk h) (pairCanonical_ite (pairCanonical_mk h.releasedFault)
      (pairCanonical_mk h.modLc))
  · exact pairCanonical_mk h.readWidx
theorem issueEntries_canonical {s : State} (h : Canonical s) {core place w l} : PairCanonical (issueEntries core place w l s) := by
  induction l generalizing s with
  | nil => exact pairCanonical_mk h
  | cons e l ih =>
    unfold issueEntries
    split
    · next heq => exact ih ((issueEntry_canonical h).eq heq)
    · next heq => exact pairCanonical_mk ((issueEntry_canonical h).eq heq)
theorem Canonical.retag {s : State} (h : Canonical s) {pkg old new} : Canonical (retag pkg old new s) :=
  h.mapAgents.update.mapCores
theorem Canonical.carryNested {s : State} (h : Canonical s) {w r} : Canonical (carryNested w r s) := h.modLaunch h.launch
theorem Canonical.enterParent {s : State} (h : Canonical s) {w r} : Canonical (enterParent w r s) :=
  (canonical_ite h.modRival h).commitLines.carryNested.retag.modWorld
theorem Canonical.promote {s : State} (h : Canonical s) {w r} : Canonical (promote w r s) :=
  h.mapAgents.discardView.modRival.modWorld
theorem Canonical.finishCommit {s : State} (h : Canonical s) {w r} : Canonical (finishCommit w r s) := by
  unfold Machine.finishCommit
  split
  · exact h.endRival.discardView.modRival.modWorld.checkWorld
  · exact h.promote
  · exact h.modWorld.discardWorld
theorem passEntries_canonical {s : State} (h : Canonical s) {r o} : PairCanonical (passEntries r o s) :=
  pairCanonical_ite (pairCanonical_mk h.failRival) (pairCanonical_mk h.modRival)
theorem Canonical.viewCommit {s : State} (h : Canonical s) {wid idx} : Canonical (viewCommit wid idx s) := by
  unfold Machine.viewCommit
  split
  · exact h
  · split
    · exact h
    · refine canonical_ite h (canonical_ite h ?_)
      dsimp only
      split
      · split
        · next heq => exact ((passEntries_canonical (canonical_ite h h.enterParent)).eq heq).modRival.finishCommit
        · next heq => exact (passEntries_canonical (canonical_ite h h.enterParent)).eq heq
      · split
        · next heq => exact ((issueEntries_canonical (canonical_ite h h.enterParent)).eq heq).modRival.finishCommit
        · next heq => exact ((issueEntries_canonical (canonical_ite h h.enterParent)).eq heq).modRival
theorem execViewCommitComplete_canonical {s : State} (h : Canonical s) {wid idx} :
    ResCanonical (execViewCommitComplete wid idx s) :=
  event_canonical (h.onWorld fun _ hs => hs.viewCommit)
theorem Canonical.dropGone {s : State} (h : Canonical s) {pkg tag} : Canonical (dropGone pkg tag s) :=
  canonical_foldl h fun _ _ hs => hs.inLaunch fun _ hs => hs.dropView
theorem execViewTagFree_canonical {s : State} (h : Canonical s) {pkg tag} : ResCanonical (execViewTagFree pkg tag s) :=
  event_canonical (canonical_ite h.dropGone.modPkg h)

end Sys2Proof.Machine
end

section
/-! Memory stays canonical: tasks and queues. -/

namespace Sys2Proof.Machine

theorem Canonical.pushRing {s : State} (h : Canonical s) {die va tail e} : Canonical (pushRing die va tail e s) := by
  unfold Machine.pushRing
  split
  · exact h
  · exact h.rawWrite.rawWrite.modDie
theorem Canonical.raiseSpill {s : State} (h : Canonical s) {die va} : Canonical (raiseSpill die va s) :=
  canonical_ite h h.modDie.queueRecord
theorem placeSeed_canonical {s : State} (h : Canonical s) {die e} : PlacedCanonical (placeSeed die e s) := by
  unfold Machine.placeSeed
  split
  · exact placedCanonical_placed h.modDie
  · exact placedCanonical_placed h.pushRing
  · exact placedCanonical_full
  · exact placedCanonical_ite placedCanonical_noHold (placedCanonical_held (canonical_ite h.modDie.raiseSpill h.modDie))
theorem viewRecord_sound {va need rel} : Sound (viewRecord va need rel) :=
  keeps_bind reachAligned_sound fun _ => keeps_bind betweenChunks_sound fun _ => sound_when releaseSteps_sound
    (keeps_get_bind fun _ _ => keeps_bind require_sound fun _ => keeps_pure _)
theorem Canonical.addSpawned {s : State} (h : Canonical s) {a} : Canonical (addSpawned a s) := h.update.bumpOrd
theorem Canonical.forgetAnswer {s : State} (h : Canonical s) : Canonical (forgetAnswer s) := h.modCur
theorem execSpawn_canonical {s : State} (h : Canonical s) {gd gk p} : ResCanonical (execSpawn gd gk p s) := by
  unfold Machine.execSpawn
  refine issue_canonical h (keeps_get_bind fun _ _ => sound_ite
    (keeps_bind (keeps_modify fun _ hs => hs.forgetAnswer) fun _ => keeps_bind betweenChunks_sound fun _ => writeOp_sound)
    (keeps_get_bind fun _ _ => sound_ite blocked_sound (keeps_bind readP_sound fun _ => keeps_bind viewRecord_sound fun _ =>
    keeps_bind require_sound fun _ => keeps_bind readG_sound fun _ => keeps_bind atQuantum_sound fun _ => keeps_get_bind
    fun _ hs => sound_ite writeOp_sound ?_)))
  split
  · next heq => exact keeps_bind (keeps_set (placeSeed_canonical hs.addSpawned _ (.inl heq))) fun _ => writeOp_sound
  · next heq => exact keeps_bind (keeps_set (placeSeed_canonical hs.addSpawned _ (.inr heq)).modCur) fun _ => keepWaiting_sound
  · exact blocked_sound
  · exact writeOp_sound
theorem spawnWorkers_canonical {s : State} (h : Canonical s) {die x card key n} : PlacedCanonical (spawnWorkers die x card key n s) := by
  induction n generalizing s with
  | zero => exact placedCanonical_placed h
  | succ n ih =>
    unfold spawnWorkers
    dsimp only
    split
    · next heq => exact ih (placeSeed_canonical h.addSpawned _ (.inl heq)).modDie.modCur
    · next heq => exact placedCanonical_held (placeSeed_canonical h.addSpawned _ (.inr heq)).modDie.modCur
    · exact placeSeed_canonical h.addSpawned
theorem execSpawnb_canonical {s : State} (h : Canonical s) {gd gk p} : ResCanonical (execSpawnb gd gk p s) := by
  unfold Machine.execSpawnb
  refine issue_canonical h (keeps_get_bind fun _ _ => sound_when blocked_sound
    (keeps_bind (keeps_modify fun _ hs => hs.modCur) fun _ => keeps_bind readP_sound fun _ => keeps_bind viewRecord_sound
    fun _ => keeps_bind readG_sound fun _ => sound_ite (keeps_bind require_sound fun _ => keeps_bind atQuantum_sound fun _ =>
    keeps_get_bind fun _ _ => sound_ite writeOp_sound (sound_when
    (keeps_modify fun _ hs => hs.modDie.modCur.modLaunch hs.modDie.modCur.launch) (keeps_get_bind fun _ hs => ?_)))
    (keeps_get_bind fun _ _ => sound_ite writeOp_sound (sound_when
    (keeps_modify fun _ ht => ht.modDie.modCur.modLaunch ht.modDie.modCur.launch) (keeps_get_bind fun _ ht => ?_)))))
  · split
    · next heq => exact keeps_bind (keeps_set (spawnWorkers_canonical hs _ (.inl heq)).modCur) fun _ => writeOp_sound
    · next heq => exact keeps_bind (keeps_set (spawnWorkers_canonical hs _ (.inr heq))) fun _ => keepWaiting_sound
    · exact keepWaiting_sound
  · split
    · next heq => exact keeps_bind (keeps_set (spawnWorkers_canonical ht _ (.inl heq)).modCur) fun _ => writeOp_sound
    · next heq => exact keeps_bind (keeps_set (spawnWorkers_canonical ht _ (.inr heq))) fun _ => keepWaiting_sound
    · exact keepWaiting_sound
theorem writeDirect_sound {key bs} : Sound (writeDirect key bs) :=
  keeps_bind rangeFree_sound fun _ => keeps_bind roomForLine_sound fun _ => keeps_bind unreserved_sound fun _ => keeps_modify
    fun _ hs => hs.writeHome
theorem execTake_canonical {s : State} (h : Canonical s) {gd p} : ResCanonical (execTake gd p s) := by
  unfold execTake
  refine issue_canonical h (keeps_bind readP_sound fun _ => keeps_bind reachAligned_sound fun _ => keeps_bind hazard_sound fun _ =>
    keeps_bind betweenChunks_sound fun _ => keeps_bind atQuantum_sound fun _ => keeps_get_bind fun _ _ => ?_)
  extract_lets die q logged qs take
  have takes : ∀ pick, Sound (take pick) := by
    intro pick
    cases pick with
    | none => exact sound_ite blocked_sound (keeps_bind (keeps_modify fun _ hs => hs.logEvent) fun _ => writeOp_sound)
    | some x =>
      dsimp only [take]
      split
      · exact writeOp_sound
      · refine keeps_bind (keeps_modify fun _ hs => hs.takeEntry.update.logEvent) fun _ => ?_
        exact keeps_bind writeDirect_sound fun _ => writeOp_sound
  clear_value take logged
  split
  · split
    · exact keeps_bind (keeps_pure _) takes
    · exact sound_ite (keeps_bind (keeps_pure _) takes) (keeps_bind blocked_sound takes)
  · exact sound_ite (keeps_bind (keeps_pure _) takes) (keeps_bind (keeps_pure _) takes)
theorem execDeal_canonical {s : State} (h : Canonical s) {gd p} : ResCanonical (execDeal gd p s) :=
  issue_canonical h (keeps_bind readP_sound fun _ => keeps_bind viewRecord_sound fun _ => keeps_bind hazard_sound fun _ =>
    keeps_get_bind fun _ _ => sound_ite (keeps_bind ownPosted_sound fun _ => sound_when stalled_sound
    (keeps_bind unreserved_sound fun _ => keeps_bind orderEvent_sound fun _ => keeps_get_bind fun _ _ => sound_ite
    (keeps_bind writeDirect_sound fun _ => writeOp_sound)
    (keeps_bind (keeps_modify fun _ hs => hs.modCur) fun _ => writeOp_sound)))
    (keeps_bind unreserved_sound fun _ => keeps_bind orderEvent_sound fun _ => keeps_get_bind fun _ _ => sound_ite
    (keeps_bind writeDirect_sound fun _ => writeOp_sound)
    (keeps_bind (keeps_modify fun _ hs => hs.modCur) fun _ => writeOp_sound)))
theorem Canonical.spillRefill {s : State} (h : Canonical s) {die} : Canonical (spillRefill die s) := by
  unfold Machine.spillRefill
  dsimp only
  split
  · refine canonical_ite h ?_
    split
    · exact canonical_ite h h.modDie.queueRecord
    · exact h.rawWrite.modAgent.modDie
  · exact h
theorem execSpillRefill_canonical {s : State} (h : Canonical s) {die} : ResCanonical (execSpillRefill die s) :=
  event_canonical h.spillRefill
theorem Canonical.spillResume {s : State} (h : Canonical s) {die} : Canonical (spillResume die s) := by
  unfold Machine.spillResume
  dsimp only
  split
  · exact canonical_ite h (canonical_ite h.raiseSpill (canonical_ite h.modDie.pushRing.modAgent.raiseSpill
      h.modDie.pushRing.modAgent))
  · split
    · exact canonical_ite h.modDie h
    · exact h
theorem execSpillResume_canonical {s : State} (h : Canonical s) {die} : ResCanonical (execSpillResume die s) :=
  event_canonical h.spillResume
theorem Canonical.showOccupancy {s : State} (h : Canonical s) : Canonical (showOccupancy s) := h.update
theorem Canonical.queueBalance {s : State} (h : Canonical s) {a b} : Canonical (queueBalance a b s) :=
  canonical_ite h h.modDie.modDie
theorem execQueueBalance_canonical {s : State} (h : Canonical s) {a b} : ResCanonical (execQueueBalance a b s) :=
  event_canonical h.queueBalance
theorem execPredw_canonical {s : State} (h : Canonical s) {g} : ResCanonical (execPredw g s) := by
  unfold Machine.execPredw
  refine issue_canonical h (keeps_get_bind fun _ _ => ?_)
  split
  · exact blocked_sound
  · exact keeps_bind closeAfter_sound fun _ => writeOp_sound
theorem execHints_canonical {s : State} (h : Canonical s) : ResCanonical (execHints s) :=
  issue_canonical h (keeps_bind betweenChunks_sound fun _ => keeps_bind releaseSteps_sound fun _ => keeps_get_bind fun _ _ =>
    keeps_get_bind fun _ _ => sound_ite (keeps_modify fun _ hs => hs.modLaunch hs.launch) (keeps_pure _))
theorem Canonical.addProf {s : State} (h : Canonical s) {r} : Canonical (addProf r s) := h.update
theorem execProfq_canonical {s : State} (h : Canonical s) {g} : ResCanonical (execProfq g s) :=
  issue_canonical h (keeps_bind readOp_sound fun _ => keeps_modify fun _ hs => hs.addProf)

end Sys2Proof.Machine
end

section
/-! Memory stays canonical: the supervisor and the units. -/

namespace Sys2Proof.Machine

theorem crP_sound {a} : Sound (crP a) := by
  unfold Machine.crP
  split
  · exact keeps_pure _
  · exact illegal_sound
theorem execCrrd_canonical {s : State} (h : Canonical s) {r cr} : ResCanonical (execCrrd r cr s) := by
  unfold Machine.execCrrd
  refine issue_canonical h (keeps_get_bind fun _ _ => keeps_bind require_sound fun _ => ?_)
  split
  · exact illegal_sound
  · exact writeOp_sound
  · exact keeps_bind crP_sound fun _ => writeP_sound
theorem writeFmt_sound {n v} {f : Regs → Regs} : Sound (writeFmt n v f) :=
  keeps_get_bind fun _ _ => sound_ite (sound_when stalled_sound
    (keeps_bind (keeps_modify fun _ hs => hs.update) fun _ => keeps_modify fun _ hs => hs.modCur))
    (keeps_modify fun _ hs => hs.modCur)
theorem writeUserW_sound {cr v} : Sound (writeUserW cr v) := by
  unfold Machine.writeUserW
  dsimp only
  split
  · exact keeps_bind require_sound fun _ => keeps_modify fun _ hs => hs.modCur
  · exact keeps_bind require_sound fun _ => writeFmt_sound
  · exact keeps_bind require_sound fun _ => writeFmt_sound
  · exact keeps_bind require_sound fun _ => writeFmt_sound
  · exact keeps_modify fun _ hs => hs.modCur
  · exact keeps_pure _
theorem writeUserA_sound {cr v} : Sound (writeUserA cr v) := by
  unfold Machine.writeUserA
  dsimp only
  split
  · exact writeFmt_sound
  · exact writeFmt_sound
  · exact keeps_modify fun _ hs => hs.modCur
  · exact keeps_modify fun _ hs => hs.modCur
  · exact keeps_pure _
theorem setPriv_sound {n v} : Sound (setPriv n v) := keeps_modify fun _ hs => hs.update.putPriv
theorem writePrivW_sound {n v} : Sound (writePrivW n v) := by
  unfold Machine.writePrivW
  split
  · exact setPriv_sound
  · exact setPriv_sound
  · exact keeps_bind require_sound fun _ => setPriv_sound
  · exact setPriv_sound
  · exact setPriv_sound
  · exact keeps_get_bind fun _ _ => keeps_bind require_sound fun _ => keeps_bind require_sound fun _ => setPriv_sound
  · exact keeps_bind require_sound fun _ => setPriv_sound
  · exact sound_ite setPriv_sound (keeps_pure _)
theorem writePrivA_sound {n v} : Sound (writePrivA n v) := by
  unfold Machine.writePrivA
  split
  · exact setPriv_sound
  · exact setPriv_sound
  · exact setPriv_sound
  · exact setPriv_sound
  · exact keeps_bind require_sound fun _ => setPriv_sound
  · exact setPriv_sound
  · exact keeps_bind require_sound fun _ => setPriv_sound
  · exact setPriv_sound
  · exact sound_ite setPriv_sound (keeps_pure _)
theorem execCrwr_canonical {s : State} (h : Canonical s) {r cr} : ResCanonical (execCrwr r cr s) := by
  unfold Machine.execCrwr
  refine issue_canonical h (keeps_get_bind fun _ _ => keeps_bind require_sound fun _ => ?_)
  split
  · exact illegal_sound
  · exact keeps_bind readOp_sound fun _ => sound_ite writePrivW_sound writeUserW_sound
  · exact keeps_bind crP_sound fun _ => keeps_bind readP_sound fun _ => sound_ite writePrivA_sound writeUserA_sound
theorem commitAgents_canonical {s : State} (h : Canonical s) {l} : OptionCanonical (commitAgents l s) := by
  induction l generalizing s with
  | nil => exact optionCanonical_some h
  | cons t l ih =>
    unfold commitAgents
    dsimp only
    split
    · next heq => exact ih (commitChunk_canonical h.focusAgent _ (.inl heq)).focusAgent
    · next heq => exact ih (commitChunk_canonical h.focusAgent _ (.inr heq)).focusAgent
    · exact optionCanonical_none
    · exact ih h.focusAgent.noRoom.focusAgent
theorem withSupervisor_canonical {s : State} (h : Canonical s) {core} : Canonical (withSupervisor core s).2 := by
  unfold withSupervisor
  split
  · exact h
  · exact h.update
theorem enterSupervisor_canonical {s : State} (h : Canonical s) {core source num svc} :
    OptionCanonical (enterSupervisor core source num svc s) := by
  refine optionCanonical_map (commitAgents_canonical h) fun s hs => ?_
  refine canonical_ite ?_ (withSupervisor_canonical hs).modAgent.modCore
  split
  · exact (withSupervisor_canonical hs).modAgent.modCore.queueRecord.haltCore
  · exact (withSupervisor_canonical hs).modAgent.modCore
theorem Canonical.supervisorEntry {s : State} (h : Canonical s) {core} : Canonical (supervisorEntry core s) := by
  unfold Machine.supervisorEntry
  dsimp only
  split
  · exact h
  · exact canonical_ite h (canonical_getD (enterSupervisor_canonical h.modCore) h)
theorem execSupervisorEntry_canonical {s : State} (h : Canonical s) {core} : ResCanonical (execSupervisorEntry core s) :=
  event_canonical h.supervisorEntry
theorem execSvc_canonical {s : State} (h : Canonical s) {n} : ResCanonical (execSvc n s) := by
  unfold Machine.execSvc
  refine issue_canonical h (keeps_get_bind fun _ _ => sound_when (keeps_throw trivial)
    (keeps_bind betweenChunks_sound fun _ => keeps_get_bind fun _ hs => ?_))
  split
  · next heq => exact keeps_set (enterSupervisor_canonical hs _ heq)
  · exact blocked_sound
theorem inSupervisor_sound : Sound inSupervisor := keeps_get_bind fun _ _ => require_sound
theorem Canonical.leaveSupervisor {s : State} (h : Canonical s) : Canonical (leaveSupervisor s) := by
  unfold Machine.leaveSupervisor
  refine canonical_ite (.modCur (.supervisorEntry (.update ?_))) (.supervisorEntry (.update ?_))
  · split
    · exact h
    · exact h.mapAgents
  · split
    · exact h
    · exact h.mapAgents
theorem execTret_canonical {s : State} (h : Canonical s) : ResCanonical (execTret s) :=
  issue_canonical h (keeps_bind inSupervisor_sound fun _ => keeps_bind betweenChunks_sound fun _ => keeps_get_bind fun _ _ =>
    sound_ite (keeps_bind readG_sound fun _ => keeps_bind readG_sound fun _ => keeps_bind readG_sound fun _ =>
    keeps_bind readG_sound fun _ => keeps_modify fun _ hs => hs.leaveSupervisor) (keeps_modify fun _ hs => hs.leaveSupervisor))
theorem execIdle_canonical {s : State} (h : Canonical s) : ResCanonical (execIdle s) :=
  issue_canonical h (keeps_bind inSupervisor_sound fun _ => keeps_get_bind fun _ _ => sound_ite blocked_sound (keeps_pure _))
theorem Canonical.dropGranules {s : State} (h : Canonical s) {p n} : Canonical (dropGranules p n s) :=
  h.mapCores.mapAgents.update
theorem execPlbinv_canonical {s : State} (h : Canonical s) {p g} : ResCanonical (execPlbinv p g s) := by
  unfold Machine.execPlbinv
  refine issue_canonical h (keeps_bind inSupervisor_sound fun _ => keeps_bind readP_sound fun _ => keeps_bind readOp_sound
    fun _ => keeps_bind require_sound fun _ => keeps_bind require_sound fun _ => sound_ite
    (keeps_bind betweenChunks_sound fun _ => keeps_get_bind fun _ _ => ?_) (keeps_pure _))
  dsimp only
  split
  · refine keeps_bind (keeps_modify fun _ hs => hs.dropGranules.update) fun _ => keeps_get_bind fun _ _ => ?_
    split
    · exact sound_when keepWaiting_sound (keeps_modify fun _ hs => hs.update)
    · exact keeps_modify fun _ hs => hs.update
  · refine keeps_bind (keeps_modify fun _ hs => hs.update) fun _ => keeps_get_bind fun _ _ => ?_
    split
    · exact sound_when keepWaiting_sound (keeps_modify fun _ hs => hs.update)
    · exact keeps_modify fun _ hs => hs.update
theorem Canonical.markPlaces {s : State} (h : Canonical s) {core} : Canonical (markPlaces core s) :=
  canonical_foldl h fun _ _ hs => canonical_ite hs hs.sendMarkers
theorem Canonical.stream {s : State} (h : Canonical s) {core va bs} : Canonical (stream core va bs s) :=
  h.writeBytes.poisonWords
theorem Canonical.saveCore {s : State} (h : Canonical s) {p} : Canonical (saveCore p s) :=
  (canonical_foldl h.stream.stream.mapAgents fun _ _ hs => hs.modLc).rawWrite.update
theorem execHusk_canonical {s : State} (h : Canonical s) {g p} : ResCanonical (execHusk g p s) :=
  issue_canonical h (keeps_bind inSupervisor_sound fun _ => keeps_bind readP_sound fun _ => keeps_get_bind fun _ _ =>
    sound_ite (keeps_bind (keeps_modify fun _ hs => hs.forgetAnswer) fun _ => writeOp_sound)
    (keeps_bind require_sound fun _ => keeps_bind reachRange_sound fun _ => keeps_bind betweenChunks_sound fun _ =>
    keeps_get_bind fun _ hs => sound_ite writeOp_sound (sound_when blocked_sound
    (sound_when stalled_sound (sound_ite (keeps_bind (keeps_set hs.markPlaces) fun _ => keeps_bind keepStalled_sound fun _ =>
    keeps_bind (keeps_modify fun _ hs => hs.update.rawWrite) fun _ => keepWaiting_sound)
    (keeps_bind (keeps_modify fun _ hs => hs.update.rawWrite) fun _ => keepWaiting_sound))))))
theorem execHuskStreamComplete_canonical {s : State} (h : Canonical s) {core} :
    ResCanonical (execHuskStreamComplete core s) := by
  unfold Machine.execHuskStreamComplete
  refine event_canonical (canonical_ite h (canonical_ite h.markPlaces ?_))
  split
  · dsimp only
    split
    · exact (h.inLaunch fun _ hs => hs.focusCore.saveCore.focusCore).modCore.modAgent
    · exact (h.inLaunch fun _ hs => hs.focusCore.saveCore.focusCore).modCore
  · exact h.modCore
  · exact h
theorem Canonical.restoreLocal {s : State} (h : Canonical s) {p hd} : Canonical (restoreLocal p hd s) := by
  unfold Machine.restoreLocal
  refine canonical_foldl (canonical_foldl h fun _ _ hs => ?_) fun _ _ ht => ht.modLc
  split
  · exact hs.setBaseByte.setPoison
  · exact hs
theorem Canonical.dropEnded {s : State} (h : Canonical s) {hd} : Canonical (dropEnded hd s) := by
  unfold Machine.dropEnded
  refine canonical_ite (.releaseHitch (.update (canonical_foldl h fun _ _ hs => ?_)))
    (.update (canonical_foldl h fun _ _ ht => ?_))
  · split
    · exact canonical_ite hs.releaseVector hs
    · exact hs
  · split
    · exact canonical_ite ht.releaseVector ht
    · exact ht
theorem Canonical.applyArrivals {s : State} (h : Canonical s) {core l} : Canonical (applyArrivals core l s) := by
  induction l generalizing s with
  | nil => exact h
  | cons m l ih =>
    unfold Machine.applyArrivals
    split
    · next heq =>
      have landed := applyPosted_canonical h _ _ heq
      exact ih (canonical_ite landed.performed landed.performed.respond)
    · exact h.update
theorem Canonical.restoreHusk {s : State} (h : Canonical s) {p hd} : Canonical (restoreHusk p hd s) :=
  (h.update.inLaunch fun _ hs => (canonical_foldl hs.restoreLocal fun _ _ hs =>
    hs.modLc).applyArrivals).mapAgents.rawWrite.dropEnded.update
theorem execUnhusk_canonical {s : State} (h : Canonical s) {g p} : ResCanonical (execUnhusk g p s) := by
  unfold Machine.execUnhusk
  refine issue_canonical h (keeps_bind inSupervisor_sound fun _ => keeps_bind readP_sound fun _ => keeps_bind require_sound
    fun _ => keeps_bind reachRange_sound fun _ => keeps_bind betweenChunks_sound fun _ => keeps_get_bind fun _ _ =>
    sound_ite writeOp_sound (sound_ite writeOp_sound ?_))
  split
  · exact writeOp_sound
  · exact sound_ite writeOp_sound (keeps_bind require_sound fun _ => keeps_bind (keeps_modify fun _ hs => hs.restoreHusk)
      fun _ => writeOp_sound)
theorem execHaltg_canonical {s : State} (h : Canonical s) {g} : ResCanonical (execHaltg g s) :=
  issue_canonical h (keeps_bind inSupervisor_sound fun _ => keeps_bind readOp_sound fun _ => keeps_bind require_sound fun _ =>
    keeps_modify fun _ hs => canonical_ite hs.mapCores hs.trigger)
theorem execHaltGroupMemberHalt_canonical {s : State} (h : Canonical s) {core} :
    ResCanonical (execHaltGroupMemberHalt core s) :=
  event_canonical h.modCore
theorem execHostDebugHalt_canonical {s : State} (h : Canonical s) {core} : ResCanonical (execHostDebugHalt core s) :=
  event_canonical h.haltCore
theorem execCoreResume_canonical {s : State} (h : Canonical s) {core} : ResCanonical (execCoreResume core s) :=
  event_canonical h.modCore
theorem execTrapRecordRetry_canonical {s : State} (h : Canonical s) : ResCanonical (execTrapRecordRetry s) := by
  unfold Machine.execTrapRecordRetry
  refine event_canonical ?_
  split
  · exact h
  · split
    · exact h.update.queueRecord
    · exact h
theorem execIllegalInsn_canonical {s : State} (h : Canonical s) {cause addr} : ResCanonical (execIllegalInsn cause addr s) :=
  runBody_canonical h fault_sound

end Sys2Proof.Machine
end

section
/-! Memory stays canonical: integer instructions. -/

namespace Sys2Proof.Machine

theorem runDiv_sound {r} {f : Word → Word → Word} : Sound (runDiv r f) :=
  runRR_sound fun _ _ => sound_ite (keeps_throw trivial) (keeps_pure _)
theorem execAdd_canonical {s : State} (h : Canonical s) {r} : ResCanonical (execAdd r s) := issue_canonical h pureRR_sound
theorem execSub_canonical {s : State} (h : Canonical s) {r} : ResCanonical (execSub r s) := issue_canonical h pureRR_sound
theorem execAnd_canonical {s : State} (h : Canonical s) {r} : ResCanonical (execAnd r s) := issue_canonical h pureRR_sound
theorem execOr_canonical {s : State} (h : Canonical s) {r} : ResCanonical (execOr r s) := issue_canonical h pureRR_sound
theorem execXor_canonical {s : State} (h : Canonical s) {r} : ResCanonical (execXor r s) := issue_canonical h pureRR_sound
theorem execAndn_canonical {s : State} (h : Canonical s) {r} : ResCanonical (execAndn r s) := issue_canonical h pureRR_sound
theorem execMin_canonical {s : State} (h : Canonical s) {r} : ResCanonical (execMin r s) := issue_canonical h pureRR_sound
theorem execMax_canonical {s : State} (h : Canonical s) {r} : ResCanonical (execMax r s) := issue_canonical h pureRR_sound
theorem execMinu_canonical {s : State} (h : Canonical s) {r} : ResCanonical (execMinu r s) := issue_canonical h pureRR_sound
theorem execMaxu_canonical {s : State} (h : Canonical s) {r} : ResCanonical (execMaxu r s) := issue_canonical h pureRR_sound
theorem execMul_canonical {s : State} (h : Canonical s) {r} : ResCanonical (execMul r s) := issue_canonical h pureRR_sound
theorem execMulh_canonical {s : State} (h : Canonical s) {r} : ResCanonical (execMulh r s) := issue_canonical h pureRR_sound
theorem execMulhu_canonical {s : State} (h : Canonical s) {r} : ResCanonical (execMulhu r s) := issue_canonical h pureRR_sound
theorem execClmul_canonical {s : State} (h : Canonical s) {r} : ResCanonical (execClmul r s) := issue_canonical h pureRR_sound
theorem execClmulh_canonical {s : State} (h : Canonical s) {r} : ResCanonical (execClmulh r s) := issue_canonical h pureRR_sound
theorem execShl_canonical {s : State} (h : Canonical s) {r} : ResCanonical (execShl r s) := issue_canonical h pureRR_sound
theorem execShr_canonical {s : State} (h : Canonical s) {r} : ResCanonical (execShr r s) := issue_canonical h pureRR_sound
theorem execSar_canonical {s : State} (h : Canonical s) {r} : ResCanonical (execSar r s) := issue_canonical h pureRR_sound
theorem execRol_canonical {s : State} (h : Canonical s) {r} : ResCanonical (execRol r s) := issue_canonical h pureRR_sound
theorem execDiv_canonical {s : State} (h : Canonical s) {r} : ResCanonical (execDiv r s) := issue_canonical h runDiv_sound
theorem execDivu_canonical {s : State} (h : Canonical s) {r} : ResCanonical (execDivu r s) := issue_canonical h runDiv_sound
theorem execRem_canonical {s : State} (h : Canonical s) {r} : ResCanonical (execRem r s) := issue_canonical h runDiv_sound
theorem execRemu_canonical {s : State} (h : Canonical s) {r} : ResCanonical (execRemu r s) := issue_canonical h runDiv_sound
theorem execMov_canonical {s : State} (h : Canonical s) {r} : ResCanonical (execMov r s) := issue_canonical h pureRU_sound
theorem execNeg_canonical {s : State} (h : Canonical s) {r} : ResCanonical (execNeg r s) := issue_canonical h pureRU_sound
theorem execAbs_canonical {s : State} (h : Canonical s) {r} : ResCanonical (execAbs r s) := issue_canonical h pureRU_sound
theorem execPopc_canonical {s : State} (h : Canonical s) {r} : ResCanonical (execPopc r s) := issue_canonical h pureRU_sound
theorem execClz_canonical {s : State} (h : Canonical s) {r} : ResCanonical (execClz r s) := issue_canonical h pureRU_sound
theorem execCtz_canonical {s : State} (h : Canonical s) {r} : ResCanonical (execCtz r s) := issue_canonical h pureRU_sound
theorem execBswap_canonical {s : State} (h : Canonical s) {r} : ResCanonical (execBswap r s) := issue_canonical h pureRU_sound
theorem execExtr_canonical {s : State} (h : Canonical s) {d b pos len1} : ResCanonical (execExtr d b pos len1 s) :=
  issue_canonical h (keeps_bind readOp_sound fun _ => writeOp_sound)
theorem execInsr_canonical {s : State} (h : Canonical s) {a b pos len1} : ResCanonical (execInsr a b pos len1 s) :=
  issue_canonical h (keeps_bind readG_sound fun _ => keeps_bind readOp_sound fun _ => writeG_sound)
theorem execSel_canonical {s : State} (h : Canonical s) {k d b c} : ResCanonical (execSel k d b c s) :=
  issue_canonical h (keeps_bind readOp_sound fun _ => keeps_bind readG_sound fun _ => keeps_bind readQ_sound fun _ =>
    writeOp_sound)
theorem execAddi_canonical {s : State} (h : Canonical s) {g imm} : ResCanonical (execAddi g imm s) :=
  issue_canonical h (keeps_bind readG_sound fun _ => writeG_sound)
theorem execLdi_canonical {s : State} (h : Canonical s) {g imm} : ResCanonical (execLdi g imm s) :=
  issue_canonical h writeOp_sound
theorem execLdih_canonical {s : State} (h : Canonical s) {g imm} : ResCanonical (execLdih g imm s) :=
  issue_canonical h (keeps_bind readG_sound fun _ => writeG_sound)
theorem execShlImm_canonical {s : State} (h : Canonical s) {g n} : ResCanonical (execShlImm g n s) :=
  issue_canonical h (keeps_bind readG_sound fun _ => writeG_sound)
theorem execShrImm_canonical {s : State} (h : Canonical s) {g n} : ResCanonical (execShrImm g n s) :=
  issue_canonical h (keeps_bind readG_sound fun _ => writeG_sound)
theorem execSarImm_canonical {s : State} (h : Canonical s) {g n} : ResCanonical (execSarImm g n s) :=
  issue_canonical h (keeps_bind readG_sound fun _ => writeG_sound)
theorem execRolImm_canonical {s : State} (h : Canonical s) {g n} : ResCanonical (execRolImm g n s) :=
  issue_canonical h (keeps_bind readG_sound fun _ => writeG_sound)
theorem execPaddi_canonical {s : State} (h : Canonical s) {p imm} : ResCanonical (execPaddi p imm s) :=
  issue_canonical h (keeps_bind readP_sound fun _ => writeP_sound)
theorem readOpt_sound {c} : Sound (readOpt c) := by
  unfold Machine.readOpt
  split
  · exact readG_sound
  · exact keeps_pure _
theorem execCmp_canonical {s : State} (h : Canonical s) {cc q b c} : ResCanonical (execCmp cc q b c s) :=
  issue_canonical h (keeps_bind readOp_sound fun _ => keeps_bind readOpt_sound fun _ => writeQDst_sound)
theorem execCmpi_canonical {s : State} (h : Canonical s) {cc q b imm} : ResCanonical (execCmpi cc q b imm s) :=
  issue_canonical h (keeps_bind readOp_sound fun _ => writeQDst_sound)
theorem execPcmp_canonical {s : State} (h : Canonical s) {cc q b c} : ResCanonical (execPcmp cc q b c s) := by
  unfold Machine.execPcmp
  refine issue_canonical h (keeps_bind readP_sound fun _ => ?_)
  dsimp only
  split
  · exact keeps_bind readP_sound fun _ => writeQDst_sound
  · exact keeps_bind (keeps_pure _) fun _ => writeQDst_sound
theorem execPadd_canonical {s : State} (h : Canonical s) {r} : ResCanonical (execPadd r s) := by
  unfold Machine.execPadd
  refine issue_canonical h ?_
  split
  · exact keeps_bind readP_sound fun _ => keeps_bind readOp_sound fun _ => writeP_sound
  · exact keeps_bind readP_sound fun _ => keeps_bind readG_sound fun _ => writeP_sound
theorem execPset_canonical {s : State} (h : Canonical s) {p g c} : ResCanonical (execPset p g c s) :=
  issue_canonical h (keeps_bind readOp_sound fun _ => keeps_bind readOpt_sound fun _ => writeP_sound)
theorem execPget_canonical {s : State} (h : Canonical s) {g p} : ResCanonical (execPget g p s) :=
  issue_canonical h (keeps_bind readP_sound fun _ => writeOp_sound)
theorem execPgetHi_canonical {s : State} (h : Canonical s) {g p} : ResCanonical (execPgetHi g p s) :=
  issue_canonical h (keeps_bind readP_sound fun _ => writeOp_sound)
theorem execPmake_canonical {s : State} (h : Canonical s) {p g c} : ResCanonical (execPmake p g c s) :=
  issue_canonical h (keeps_bind readOp_sound fun _ => keeps_bind readOpt_sound fun _ => writeP_sound)
theorem execQand_canonical {s : State} (h : Canonical s) {a b} : ResCanonical (execQand a b s) :=
  issue_canonical h (keeps_bind readQ_sound fun _ => keeps_bind readQ_sound fun _ => writeQ_sound)
theorem execQor_canonical {s : State} (h : Canonical s) {a b} : ResCanonical (execQor a b s) :=
  issue_canonical h (keeps_bind readQ_sound fun _ => keeps_bind readQ_sound fun _ => writeQ_sound)
theorem execQnot_canonical {s : State} (h : Canonical s) {a b} : ResCanonical (execQnot a b s) :=
  issue_canonical h (keeps_bind readQ_sound fun _ => writeQDst_sound)
theorem execQset_canonical {s : State} (h : Canonical s) {q v} : ResCanonical (execQset q v s) :=
  issue_canonical h writeQDst_sound

end Sys2Proof.Machine
end

section
/-! Memory stays canonical: floating point. -/

namespace Sys2Proof.Machine

theorem roundOut_sound {t1 x} : Sound (roundOut t1 x) := keeps_bind encodeNow_sound fun _ => keeps_pure _
theorem runF2_sound {t1 r} {f : Bool → Val → Val → Val} : Sound (runF2 t1 r f) :=
  runRR_sound fun _ _ => keeps_get_bind fun _ _ => roundOut_sound
theorem runFfma_sound {t1 a b c} : Sound (runFfma t1 a b c) :=
  keeps_bind readG_sound fun _ => keeps_bind readOp_sound fun _ => keeps_bind readG_sound fun _ => keeps_get_bind fun _ _ =>
    keeps_bind roundOut_sound fun _ => writeG_sound
theorem runFsqrt_sound {t1 r} : Sound (runFsqrt t1 r) := runRU_sound fun _ => roundOut_sound
theorem runFcmp_sound {t1 cc q b c} : Sound (runFcmp t1 cc q b c) :=
  keeps_bind readOp_sound fun _ => keeps_bind readOpt_sound fun _ => writeQDst_sound
theorem execFaddF64_canonical {s : State} (h : Canonical s) {r} : ResCanonical (execFaddF64 r s) :=
  issue_canonical h runF2_sound
theorem execFsubF64_canonical {s : State} (h : Canonical s) {r} : ResCanonical (execFsubF64 r s) :=
  issue_canonical h runF2_sound
theorem execFmulF64_canonical {s : State} (h : Canonical s) {r} : ResCanonical (execFmulF64 r s) :=
  issue_canonical h runF2_sound
theorem execFdivF64_canonical {s : State} (h : Canonical s) {r} : ResCanonical (execFdivF64 r s) :=
  issue_canonical h runF2_sound
theorem execFfmaF64_canonical {s : State} (h : Canonical s) {a b c} : ResCanonical (execFfmaF64 a b c s) :=
  issue_canonical h runFfma_sound
theorem execFsqrtF64_canonical {s : State} (h : Canonical s) {r} : ResCanonical (execFsqrtF64 r s) :=
  issue_canonical h runFsqrt_sound
theorem execFminF64_canonical {s : State} (h : Canonical s) {r} : ResCanonical (execFminF64 r s) :=
  issue_canonical h pureRR_sound
theorem execFmaxF64_canonical {s : State} (h : Canonical s) {r} : ResCanonical (execFmaxF64 r s) :=
  issue_canonical h pureRR_sound
theorem execFcmpF64_canonical {s : State} (h : Canonical s) {cc q b c} : ResCanonical (execFcmpF64 cc q b c s) :=
  issue_canonical h runFcmp_sound
theorem execFaddF32_canonical {s : State} (h : Canonical s) {r} : ResCanonical (execFaddF32 r s) :=
  issue_canonical h runF2_sound
theorem execFsubF32_canonical {s : State} (h : Canonical s) {r} : ResCanonical (execFsubF32 r s) :=
  issue_canonical h runF2_sound
theorem execFmulF32_canonical {s : State} (h : Canonical s) {r} : ResCanonical (execFmulF32 r s) :=
  issue_canonical h runF2_sound
theorem execFdivF32_canonical {s : State} (h : Canonical s) {r} : ResCanonical (execFdivF32 r s) :=
  issue_canonical h runF2_sound
theorem execFfmaF32_canonical {s : State} (h : Canonical s) {a b c} : ResCanonical (execFfmaF32 a b c s) :=
  issue_canonical h runFfma_sound
theorem execFsqrtF32_canonical {s : State} (h : Canonical s) {r} : ResCanonical (execFsqrtF32 r s) :=
  issue_canonical h runFsqrt_sound
theorem execFminF32_canonical {s : State} (h : Canonical s) {r} : ResCanonical (execFminF32 r s) :=
  issue_canonical h pureRR_sound
theorem execFmaxF32_canonical {s : State} (h : Canonical s) {r} : ResCanonical (execFmaxF32 r s) :=
  issue_canonical h pureRR_sound
theorem execFcmpF32_canonical {s : State} (h : Canonical s) {cc q b c} : ResCanonical (execFcmpF32 cc q b c s) :=
  issue_canonical h runFcmp_sound
theorem execFaddF16_canonical {s : State} (h : Canonical s) {r} : ResCanonical (execFaddF16 r s) :=
  issue_canonical h runF2_sound
theorem execFsubF16_canonical {s : State} (h : Canonical s) {r} : ResCanonical (execFsubF16 r s) :=
  issue_canonical h runF2_sound
theorem execFmulF16_canonical {s : State} (h : Canonical s) {r} : ResCanonical (execFmulF16 r s) :=
  issue_canonical h runF2_sound
theorem execFdivF16_canonical {s : State} (h : Canonical s) {r} : ResCanonical (execFdivF16 r s) :=
  issue_canonical h runF2_sound
theorem execFfmaF16_canonical {s : State} (h : Canonical s) {a b c} : ResCanonical (execFfmaF16 a b c s) :=
  issue_canonical h runFfma_sound
theorem execFsqrtF16_canonical {s : State} (h : Canonical s) {r} : ResCanonical (execFsqrtF16 r s) :=
  issue_canonical h runFsqrt_sound
theorem execFminF16_canonical {s : State} (h : Canonical s) {r} : ResCanonical (execFminF16 r s) :=
  issue_canonical h pureRR_sound
theorem execFmaxF16_canonical {s : State} (h : Canonical s) {r} : ResCanonical (execFmaxF16 r s) :=
  issue_canonical h pureRR_sound
theorem execFcmpF16_canonical {s : State} (h : Canonical s) {cc q b c} : ResCanonical (execFcmpF16 cc q b c s) :=
  issue_canonical h runFcmp_sound
theorem execFaddBf16_canonical {s : State} (h : Canonical s) {r} : ResCanonical (execFaddBf16 r s) :=
  issue_canonical h runF2_sound
theorem execFsubBf16_canonical {s : State} (h : Canonical s) {r} : ResCanonical (execFsubBf16 r s) :=
  issue_canonical h runF2_sound
theorem execFmulBf16_canonical {s : State} (h : Canonical s) {r} : ResCanonical (execFmulBf16 r s) :=
  issue_canonical h runF2_sound
theorem execFdivBf16_canonical {s : State} (h : Canonical s) {r} : ResCanonical (execFdivBf16 r s) :=
  issue_canonical h runF2_sound
theorem execFfmaBf16_canonical {s : State} (h : Canonical s) {a b c} : ResCanonical (execFfmaBf16 a b c s) :=
  issue_canonical h runFfma_sound
theorem execFsqrtBf16_canonical {s : State} (h : Canonical s) {r} : ResCanonical (execFsqrtBf16 r s) :=
  issue_canonical h runFsqrt_sound
theorem execFminBf16_canonical {s : State} (h : Canonical s) {r} : ResCanonical (execFminBf16 r s) :=
  issue_canonical h pureRR_sound
theorem execFmaxBf16_canonical {s : State} (h : Canonical s) {r} : ResCanonical (execFmaxBf16 r s) :=
  issue_canonical h pureRR_sound
theorem execFcmpBf16_canonical {s : State} (h : Canonical s) {cc q b c} : ResCanonical (execFcmpBf16 cc q b c s) :=
  issue_canonical h runFcmp_sound
theorem toIntNow_sound {lo hi x} : Sound (toIntNow lo hi x) :=
  keeps_get_bind fun _ hs => keeps_bind (keeps_set hs.setSrn) fun _ => keeps_pure _
theorem cvtNow_sound {dst src sat v} : Sound (cvtNow dst src sat v) := by
  unfold Machine.cvtNow
  refine sound_ite ?_ (sound_ite toIntNow_sound (keeps_pure _))
  split
  · exact keeps_bind encodeNow_sound fun _ => keeps_pure _
  · exact keeps_pure _
theorem execFcvt_canonical {s : State} (h : Canonical s) {dst src sat d b} : ResCanonical (execFcvt dst src sat d b s) :=
  issue_canonical h (keeps_bind readOp_sound fun _ => keeps_bind cvtNow_sound fun _ => writeOp_sound)
theorem execFclass_canonical {s : State} (h : Canonical s) {f r} : ResCanonical (execFclass f r s) :=
  issue_canonical h pureRU_sound
theorem execFmov_canonical {s : State} (h : Canonical s) {f r} : ResCanonical (execFmov f r s) := issue_canonical h pureRU_sound

end Sys2Proof.Machine
end

section
/-! Memory stays canonical: vector instructions. -/

namespace Sys2Proof.Machine

theorem Canonical.othersKeep {s : State} (h : Canonical s) {core tid seq} {op : VF → VF} :
    Canonical (othersKeep core tid seq op s) :=
  h.mapAgents
theorem Canonical.freshFile {s : State} (h : Canonical s) : Canonical (freshFile s) := h.othersKeep.update
theorem acquireFile_sound : Sound acquireFile := by
  unfold Machine.acquireFile
  refine keeps_get_bind fun _ _ => sound_when stalled_sound ?_
  split
  · exact sound_when stalled_sound (sound_when stalled_sound
      (sound_ite (sound_when stalled_sound (keeps_modify fun _ hs => hs.freshFile)) (keeps_pure _)))
  · exact sound_when stalled_sound (keeps_modify fun _ hs => hs.othersKeep.update)
theorem queueRun_sound : Sound queueRun := keeps_get_bind fun _ _ => sound_ite stalled_sound (keeps_pure _)
theorem sampleType_sound {i} : Sound (sampleType i) := keeps_get_bind fun _ _ => keeps_bind require_sound fun _ => keeps_pure _
theorem enqueue_sound {i t1 g elems data lines act} : Sound (enqueue i t1 g elems data lines act) :=
  keeps_get_bind fun _ _ => sound_when stalled_sound (sound_ite
    (keeps_bind queueRun_sound fun _ => keeps_bind (keeps_modify fun _ hs => hs.setSrn) fun _ => keeps_modify fun _ hs =>
    hs.update) (keeps_modify fun _ hs => hs.update))
theorem runVec_sound {i} : Sound (runVec i) :=
  keeps_bind acquireFile_sound fun _ => keeps_bind sampleType_sound fun _ => enqueue_sound
theorem vec_canonical {s : State} (h : Canonical s) {i} : ResCanonical (vec i s) := issue_canonical h runVec_sound
theorem runToG_sound {i g} : Sound (runToG i g) := by
  unfold Machine.runToG
  refine keeps_bind acquireFile_sound fun _ => keeps_bind sampleType_sound fun _ => ?_
  split
  · exact enqueue_sound
  · refine keeps_bind queueRun_sound fun _ => keeps_get_bind fun _ _ => keeps_bind (keeps_modify fun _ hs => hs.setSrn)
      fun _ => ?_
    split
    · exact keeps_bind require_sound fun _ => portWrite_sound
    · exact keeps_pure _
theorem execVsett_canonical {s : State} (h : Canonical s) {g} : ResCanonical (execVsett g s) :=
  issue_canonical h (keeps_bind readOp_sound fun _ => keeps_get_bind fun _ _ => keeps_bind require_sound fun _ =>
    keeps_bind acquireFile_sound fun _ => sound_ite (keeps_modify fun _ hs => hs.modCur) (keeps_modify fun _ hs => hs.modCur))
theorem execMand_canonical {s : State} (h : Canonical s) {r} : ResCanonical (execMand r s) := vec_canonical h
theorem execMor_canonical {s : State} (h : Canonical s) {r} : ResCanonical (execMor r s) := vec_canonical h
theorem execMnot_canonical {s : State} (h : Canonical s) {a b} : ResCanonical (execMnot a b s) := vec_canonical h
theorem execMpop_canonical {s : State} (h : Canonical s) {g m} : ResCanonical (execMpop g m s) := issue_canonical h runToG_sound
theorem execCompress_canonical {s : State} (h : Canonical s) {a b} : ResCanonical (execCompress a b s) := vec_canonical h
theorem execVadd_canonical {s : State} (h : Canonical s) {gm r} : ResCanonical (execVadd gm r s) := vec_canonical h
theorem execVsub_canonical {s : State} (h : Canonical s) {gm r} : ResCanonical (execVsub gm r s) := vec_canonical h
theorem execVmul_canonical {s : State} (h : Canonical s) {gm r} : ResCanonical (execVmul gm r s) := vec_canonical h
theorem execVfma_canonical {s : State} (h : Canonical s) {gm a b c} : ResCanonical (execVfma gm a b c s) := vec_canonical h
theorem execVdiv_canonical {s : State} (h : Canonical s) {gm r} : ResCanonical (execVdiv gm r s) := vec_canonical h
theorem execVsqrt_canonical {s : State} (h : Canonical s) {gm a b} : ResCanonical (execVsqrt gm a b s) := vec_canonical h
theorem execVmin_canonical {s : State} (h : Canonical s) {gm r} : ResCanonical (execVmin gm r s) := vec_canonical h
theorem execVmax_canonical {s : State} (h : Canonical s) {gm r} : ResCanonical (execVmax gm r s) := vec_canonical h
theorem execVand_canonical {s : State} (h : Canonical s) {gm r} : ResCanonical (execVand gm r s) := vec_canonical h
theorem execVor_canonical {s : State} (h : Canonical s) {gm r} : ResCanonical (execVor gm r s) := vec_canonical h
theorem execVxor_canonical {s : State} (h : Canonical s) {gm r} : ResCanonical (execVxor gm r s) := vec_canonical h
theorem execVshl_canonical {s : State} (h : Canonical s) {gm r} : ResCanonical (execVshl gm r s) := vec_canonical h
theorem execVshr_canonical {s : State} (h : Canonical s) {gm r} : ResCanonical (execVshr gm r s) := vec_canonical h
theorem execVsar_canonical {s : State} (h : Canonical s) {gm r} : ResCanonical (execVsar gm r s) := vec_canonical h
theorem execVcmp_canonical {s : State} (h : Canonical s) {gm cc md b c} : ResCanonical (execVcmp gm cc md b c s) :=
  vec_canonical h
theorem execVsel_canonical {s : State} (h : Canonical s) {gm a b c} : ResCanonical (execVsel gm a b c s) := vec_canonical h
theorem execVmov_canonical {s : State} (h : Canonical s) {gm a b} : ResCanonical (execVmov gm a b s) := vec_canonical h
theorem execVbcast_canonical {s : State} (h : Canonical s) {gm a g} : ResCanonical (execVbcast gm a g s) :=
  issue_canonical h (keeps_bind acquireFile_sound fun _ => keeps_bind sampleType_sound fun _ => keeps_bind readOp_sound
    fun _ => enqueue_sound)
theorem execVred_canonical {s : State} (h : Canonical s) {gm op g b} : ResCanonical (execVred gm op g b s) :=
  issue_canonical h runToG_sound
theorem execVscan_canonical {s : State} (h : Canonical s) {gm op a b} : ResCanonical (execVscan gm op a b s) := vec_canonical h
theorem execVperm_canonical {s : State} (h : Canonical s) {gm a b c} : ResCanonical (execVperm gm a b c s) := vec_canonical h
theorem execVshuf_canonical {s : State} (h : Canonical s) {gm a b c} : ResCanonical (execVshuf gm a b c s) := vec_canonical h
theorem execVcvt_canonical {s : State} (h : Canonical s) {gm f sat a b} : ResCanonical (execVcvt gm f sat a b s) :=
  vec_canonical h
theorem execVqnt_canonical {s : State} (h : Canonical s) {gm f sat a b} : ResCanonical (execVqnt gm f sat a b s) :=
  vec_canonical h
theorem reachElems_sound {need size l} : Sound (reachElems need size l) := by
  induction l with
  | nil => exact keeps_pure _
  | cons x l ih => exact keeps_bind reachAligned_sound fun _ => keeps_bind ih fun _ => keeps_pure _
theorem vecElems_sound {t1 gm base how} : Sound (vecElems t1 gm base how) := keeps_get_bind fun _ _ => keeps_pure _
theorem loadLocal_sound {t l} : Sound (loadLocal t l) := by
  induction l with
  | nil => exact keeps_pure _
  | cons x l ih =>
    exact keeps_get_bind fun _ _ => sound_ite (keeps_bind plainFetch_sound fun _ => keeps_bind ih fun _ => keeps_pure _) ih
theorem loadOut_sound {t l} : Sound (loadOut t l) := by
  induction l with
  | nil => exact keeps_pure _
  | cons x l ih =>
    refine keeps_get_bind fun _ _ => sound_ite ih (sound_ite (keeps_throw_bind trivial) ?_)
    refine keeps_bind ownPosted_sound fun _ => keeps_bind ih fun _ => ?_
    split <;> exact keeps_pure _
theorem sendLine_sound {op va key home pkg} : Sound (sendLine op va key home pkg) := keeps_modify fun _ hs => hs.putLoad
theorem stage_sound {α : Type} {x on} : Sound (stage x on : Run α) :=
  keeps_bind (keeps_modify fun _ hs => hs.modCur) fun _ => keepStalled_sound
theorem staged?_sound : Sound staged? := keeps_get_bind fun _ _ => keeps_pure _
theorem unstage_sound : Sound unstage := keeps_modify fun _ hs => hs.modCur
theorem sendAll_sound {op l} : Sound (sendAll op l) := by
  induction l with
  | nil => exact unstage_sound
  | cons x l ih =>
    exact keeps_get_bind fun _ _ => sound_when stage_sound (keeps_bind sendLine_sound fun _ => ih)
theorem runVload_sound {i gm b how} : Sound (runVload i gm b how) := by
  unfold Machine.runVload
  refine keeps_bind staged?_sound fun _ => ?_
  split
  · exact keeps_bind sendAll_sound fun _ => keeps_pure _
  · exact keeps_bind acquireFile_sound fun _ => keeps_bind sampleType_sound fun _ => sound_when queueRun_sound
      (keeps_bind baseAddr_sound fun _ => keeps_bind vecElems_sound fun _ => keeps_bind reachElems_sound fun _ =>
      keeps_get_bind fun _ _ => sound_when loadBetween_sound
      (keeps_bind loadLocal_sound fun _ => keeps_bind loadOut_sound fun _ => keeps_get_bind fun _ _ =>
      keeps_bind enqueue_sound fun _ => sendAll_sound))
theorem storeOwn_sound {l} : Sound (storeOwn l) := by
  induction l with
  | nil => exact keeps_pure _
  | cons x l ih => exact keeps_bind bufferStore_sound fun _ => sound_when (keeps_modify fun _ h => h.modCur) ih
theorem landElem_sound {va key bs pois} : Sound (landElem va key bs pois) :=
  keeps_bind roomForLine_sound fun _ => keeps_bind unreserved_sound fun _ => keeps_bind rangeFree_sound fun _ => keeps_modify
    fun _ hs => canonical_ite hs.modCur hs.writeHome.poisonWords
theorem postAll_sound {i t own active l} : Sound (postAll i t own active l) := by
  induction l with
  | nil => exact keeps_bind storeOwn_sound fun _ => keeps_bind enqueue_sound fun _ => unstage_sound
  | cons x l ih => exact keeps_get_bind fun _ _ => sound_when stage_sound (keeps_bind sendOut_sound fun _ => ih)
theorem runVstore_sound {i gm a b how apart} : Sound (runVstore i gm a b how apart) := by
  unfold Machine.runVstore
  refine keeps_bind staged?_sound fun _ => ?_
  split
  · exact keeps_get_bind fun _ _ => keeps_bind postAll_sound fun _ => keeps_pure _
  · exact keeps_bind acquireFile_sound fun _ => keeps_bind sampleType_sound fun _ => keeps_get_bind fun _ _ =>
      sound_when stalled_sound (keeps_bind queueRun_sound fun _ => keeps_bind baseAddr_sound fun _ =>
      keeps_bind vecElems_sound fun _ => keeps_bind reachElems_sound fun _ => keeps_bind (keeps_forM fun _ _ => hazard_sound)
      fun _ => keeps_get_bind fun _ _ => sound_when betweenChunks_sound
      (sound_when (keeps_forM fun _ _ => landElem_sound) postAll_sound))
theorem execVld_canonical {s : State} (h : Canonical s) {gm a base disp} : ResCanonical (execVld gm a base disp s) :=
  issue_canonical h runVload_sound
theorem execVlds_canonical {s : State} (h : Canonical s) {gm a base c} : ResCanonical (execVlds gm a base c s) :=
  issue_canonical h (keeps_bind readG_sound fun _ => runVload_sound)
theorem execVgather_canonical {s : State} (h : Canonical s) {gm a base c} : ResCanonical (execVgather gm a base c s) :=
  issue_canonical h runVload_sound
theorem execVst_canonical {s : State} (h : Canonical s) {gm a base disp} : ResCanonical (execVst gm a base disp s) :=
  issue_canonical h runVstore_sound
theorem execVsts_canonical {s : State} (h : Canonical s) {gm a base c} : ResCanonical (execVsts gm a base c s) :=
  issue_canonical h (keeps_bind readG_sound fun _ => runVstore_sound)
theorem execVscatter_canonical {s : State} (h : Canonical s) {gm a base c} : ResCanonical (execVscatter gm a base c s) :=
  issue_canonical h runVstore_sound
theorem Canonical.runQueueHead {s : State} (h : Canonical s) {core} : Canonical (runQueueHead core s) := by
  unfold Machine.runQueueHead
  dsimp only
  split
  · exact h
  · exact canonical_ite h (canonical_ite h.othersKeep.modCore.modAgent.modAgent h.othersKeep.modCore.modAgent)
theorem execVectorQueueExecute_canonical {s : State} (h : Canonical s) {core} : ResCanonical (execVectorQueueExecute core s) :=
  event_canonical h.runQueueHead
theorem Canonical.grantGroup {s : State} (h : Canonical s) {cluster total} : Canonical (grantGroup cluster total s) := by
  unfold Machine.grantGroup
  dsimp only
  split
  · exact h.modCore
  · split
    · exact h
    · exact h.modCore.update
theorem Canonical.grantCycle {s : State} (h : Canonical s) {cluster} : Canonical (grantCycle cluster s) :=
  (canonical_foldl h fun _ _ hs => hs.modCore).grantGroup.grantGroup.grantGroup.grantGroup
theorem execLaneGroupGrant_canonical {s : State} (h : Canonical s) {cluster} : ResCanonical (execLaneGroupGrant cluster s) :=
  event_canonical h.grantCycle

end Sys2Proof.Machine
end

section
/-! Memory stays canonical: the fabric. -/

namespace Sys2Proof.Machine

theorem execNeighbourPortDelivery_canonical {s : State} (h : Canonical s) {k} :
    ResCanonical (execNeighbourPortDelivery k s) := by
  unfold Machine.execNeighbourPortDelivery
  refine event_canonical ?_
  split
  · exact h
  · exact canonical_dite (fun _ => canonical_ite (h.modLaunch h.launch).modLc h) fun _ => h
theorem Canonical.fillPackage {s : State} (h : Canonical s) {pkg} : Canonical (fillPackage pkg s) :=
  h.withLaunches h.launch (List.forall_mem_map.mpr h.launches)
theorem Canonical.loseArbiters {s : State} (h : Canonical s) {pkg} : Canonical (loseArbiters pkg s) :=
  canonical_foldl h fun _ _ hs => canonical_ite hs (canonical_ite hs.setArbiter
    (canonical_foldl hs.setArbiter fun _ _ hs => hs.endExchange))
theorem Canonical.loseFlits {s : State} (h : Canonical s) {pkg} : Canonical (loseFlits pkg s) :=
  canonical_foldl h.update.mapAgents fun _ _ hs => hs.inject
theorem Canonical.resetPackage {s : State} (h : Canonical s) {pkg} : Canonical (resetPackage pkg s) :=
  h.loseFlits.loseArbiters.fillPackage.modPkg.update
theorem execPackageReset_canonical {s : State} (h : Canonical s) {pkg} : ResCanonical (execPackageReset pkg s) :=
  event_canonical h.resetPackage
theorem execSpanLinkRetrain_canonical {s : State} (h : Canonical s) {link ok} :
    ResCanonical (execSpanLinkRetrain link ok s) := by
  unfold Machine.execSpanLinkRetrain
  refine event_canonical ?_
  split
  · exact h
  · exact canonical_ite h (canonical_ite h.countErr.countErr.modLink.countErr
      (canonical_ite h.countErr.countErr.modLink
      h.countErr.countErr.modLink.countErr.countErr.modPkg.modPkg.resetPackage.resetPackage))
theorem Canonical.dispatch {s : State} (h : Canonical s) {e} : Canonical (dispatch e s) := h.inLaunch fun _ hs => hs.sendMsg
theorem execPostedStoreSend_canonical {s : State} (h : Canonical s) {core place entry} :
    ResCanonical (execPostedStoreSend core place entry s) := by
  unfold Machine.execPostedStoreSend
  refine event_canonical (canonical_dite (fun _ => ?_) fun _ => h)
  dsimp only
  split
  · exact h
  · exact canonical_ite h h.modPlace.dispatch.releaseAt
theorem execPostedResendTimeout_canonical {s : State} (h : Canonical s) {core place entry} :
    ResCanonical (execPostedResendTimeout core place entry s) := by
  unfold Machine.execPostedResendTimeout
  refine event_canonical (canonical_dite (fun _ => ?_) fun _ => h)
  split
  · exact h
  · exact canonical_ite h.dispatch h
theorem Canonical.freeEntry {s : State} (h : Canonical s) {id} : Canonical (freeEntry id s) :=
  canonical_dite (fun _ => h.modPlace.releaseAt) fun _ => h
theorem Canonical.dropNet {s : State} (h : Canonical s) {k} : Canonical (dropNet k s) := h.update
theorem Canonical.staleNet {s : State} (h : Canonical s) {pkg k} : Canonical (staleNet pkg k s) := h.dropNet.countErr
theorem Canonical.postedArrival {s : State} (h : Canonical s) {k} : Canonical (postedArrival k s) := by
  unfold Machine.postedArrival
  split
  · next heq =>
      refine h.inLaunch fun _ hs => canonical_ite hs (canonical_ite hs.staleNet ?_)
      dsimp only
      split
      · exact hs.dropNet.respond
      · refine canonical_ite hs (canonical_ite hs.dropNet.countErr
          (canonical_ite hs.dropNet.update.remember.respond (canonical_ite hs ?_)))
        split
        · exact hs
        · exact hs.raiseAbsent
        · next heq => exact (applyPosted_canonical hs.dropNet _ _ heq).remember.performed.respond
  · refine h.inLaunch fun _ hs => canonical_ite hs ?_
    split
    · exact hs
    · exact hs.raiseAbsent
    · next heq =>
        exact canonical_ite (applyPosted_canonical hs.dropNet _ _ heq).performed
          (applyPosted_canonical hs.dropNet _ _ heq).performed.respond
  · exact h
theorem execPostedRequestArrival_canonical {s : State} (h : Canonical s) {k} : ResCanonical (execPostedRequestArrival k s) :=
  event_canonical h.postedArrival
theorem execPostedAckArrival_canonical {s : State} (h : Canonical s) {k} : ResCanonical (execPostedAckArrival k s) := by
  unfold Machine.execPostedAckArrival
  refine event_canonical ?_
  split
  · exact canonical_ite h (canonical_ite h.staleNet h.dropNet.freeEntry)
  · exact h
theorem Canonical.metEntry {s : State} (h : Canonical s) {id cause} : Canonical (metEntry id cause s) := h.metItem
theorem Canonical.postedFault {s : State} (h : Canonical s) {m cause} : Canonical (postedFault m cause s) := by
  unfold Machine.postedFault
  split
  · exact h.faultNamed
  · exact h.endLaunch
theorem execRemoteRefused_canonical {s : State} (h : Canonical s) {k} : ResCanonical (execRemoteRefused k s) := by
  unfold Machine.execRemoteRefused
  refine event_canonical ?_
  split
  · refine h.inLaunch fun _ hs => canonical_ite hs (canonical_ite hs.staleNet ?_)
    dsimp only
    split
    · exact hs.dropNet.freeEntry.metEntry.releasedFault
    · exact hs.dropNet.freeEntry.metEntry.postedFault
  · exact h
theorem execFlushMarkerArrival_canonical {s : State} (h : Canonical s) {k} : ResCanonical (execFlushMarkerArrival k s) := by
  unfold Machine.execFlushMarkerArrival
  refine event_canonical ?_
  split
  · exact canonical_ite h (canonical_ite h.staleNet (canonical_ite h h.dropNet.update.sendMsg))
  · exact h
theorem execFlushMarkerAnswer_canonical {s : State} (h : Canonical s) {k} : ResCanonical (execFlushMarkerAnswer k s) := by
  unfold Machine.execFlushMarkerAnswer
  refine event_canonical ?_
  split
  · exact canonical_ite h (canonical_ite h.staleNet (canonical_dite (fun _ => h.dropNet.modPlace.releaseAt) fun _ => h.dropNet))
  · exact h
theorem Canonical.gotLoad {s : State} (h : Canonical s) {a l home v p fault} : Canonical (gotLoad a l home v p fault s) :=
  h.modAgent.inject
theorem Canonical.ringArrival {s : State} (h : Canonical s) {a l n hd ticket} : Canonical (ringArrival a l n hd ticket s) := by
  unfold Machine.ringArrival
  dsimp only
  split
  · exact canonical_ite h.gotLoad (canonical_ite h (canonical_ite h h.logEvent.modHandle.gotLoad))
  · exact canonical_ite (canonical_ite h h.logEvent.modHandle.gotLoad) h.gotLoad
theorem Canonical.remoteArrival {s : State} (h : Canonical s) {tid id} : Canonical (remoteArrival tid id s) := by
  unfold Machine.remoteArrival
  refine h.onAgent fun _ _ hs => ?_
  split
  · exact hs
  · refine canonical_ite hs ?_
    split
    · exact hs.ringArrival
    · dsimp only
      split
      · exact canonical_ite hs hs.gotLoad
      · refine canonical_ite hs.gotLoad (canonical_ite hs (.gotLoad ?_))
        split
        · exact (canonical_ite hs hs.logEvent).writeHome.readWidx
        · exact (canonical_ite hs hs.logEvent).writeHome
theorem execRemoteAccessArrival_canonical {s : State} (h : Canonical s) {tid id} :
    ResCanonical (execRemoteAccessArrival tid id s) :=
  event_canonical h.remoteArrival
theorem giveLoad_canonical {s : State} (h : Canonical s) {a l v} : OptionCanonical (giveLoad a l v s) := by
  unfold Machine.giveLoad
  split
  · exact optionCanonical_some h.modCore
  · exact optionCanonical_ite (optionCanonical_some (h.modLaunch h.launch)) optionCanonical_none
  · exact optionCanonical_ite (optionCanonical_some h.faultAt) (optionCanonical_some h.modAgent)
theorem Canonical.loadReturn {s : State} (h : Canonical s) {tid id} : Canonical (loadReturn tid id s) := by
  unfold Machine.loadReturn
  refine h.onAgent fun _ _ hs => ?_
  split
  · exact hs
  · split
    · exact hs
    · refine canonical_ite hs.faultAt.modAgent.advanceRelease (canonical_ite hs.faultAt.modAgent.advanceRelease ?_)
      split
      · next heq => exact (giveLoad_canonical hs _ heq).modAgent.advanceRelease
      · exact hs
theorem execRemoteLoadReturn_canonical {s : State} (h : Canonical s) {tid id} : ResCanonical (execRemoteLoadReturn tid id s) :=
  event_canonical h.loadReturn
theorem Canonical.modPacket {s : State} (h : Canonical s) {k} {f : Packet → Packet} : Canonical (modPacket k f s) := h.update
theorem Canonical.packetSend {s : State} (h : Canonical s) {k p st back} : Canonical (packetSend k p st back s) :=
  h.modPacket.inject
theorem Canonical.takePacket {s : State} (h : Canonical s) {p} : Canonical (takePacket p s) := by
  unfold Machine.takePacket
  split
  · exact h.inLaunch fun _ hs => hs.modXch
  · exact h.modCmd
theorem execBulkPacketArrival_canonical {s : State} (h : Canonical s) {k room} :
    ResCanonical (execBulkPacketArrival k room s) := by
  unfold Machine.execBulkPacketArrival
  refine event_canonical ?_
  split
  · exact h
  · split
    · exact h.update
    · exact canonical_ite h (canonical_ite (canonical_ite h.modPacket.countErr h.modPacket.countErr.modCmd)
        (canonical_ite h.update.takePacket h.packetSend))
theorem execDropNoticeArrival_canonical {s : State} (h : Canonical s) {k} : ResCanonical (execDropNoticeArrival k s) := by
  unfold Machine.execDropNoticeArrival
  refine event_canonical ?_
  split
  · exact canonical_ite h.packetSend h
  · exact h
theorem execReservationRequestArrival_canonical {s : State} (h : Canonical s) {k} :
    ResCanonical (execReservationRequestArrival k s) := by
  unfold Machine.execReservationRequestArrival
  refine event_canonical ?_
  split
  · exact canonical_ite h.packetSend h
  · exact h
theorem execGrantArrival_canonical {s : State} (h : Canonical s) {k} : ResCanonical (execGrantArrival k s) := by
  unfold Machine.execGrantArrival
  refine event_canonical ?_
  split
  · exact canonical_ite h.modPacket.packetSend h
  · exact h
theorem execGrantExpiry_canonical {s : State} (h : Canonical s) {k} : ResCanonical (execGrantExpiry k s) := by
  unfold Machine.execGrantExpiry
  refine event_canonical ?_
  split
  · exact canonical_ite h.packetSend h
  · exact h
theorem Canonical.restartPlaces {s : State} (h : Canonical s) {pkg core} : Canonical (restartPlaces pkg core s) :=
  canonical_foldl (canonical_foldl h fun _ _ hs => hs.inLaunch fun _ hs => hs.queueRecord.metEntry).modCore fun _ _ hs =>
    hs.releaseAt
theorem Canonical.restartLoads {s : State} (h : Canonical s) {pkg tid} : Canonical (restartLoads pkg tid s) := by
  unfold Machine.restartLoads
  split
  · exact h
  · next heq =>
      refine canonical_foldl h fun _ _ hs => hs.onAgent fun _ _ hs => ?_
      dsimp only
      split
      · next heq =>
          exact (giveLoad_canonical (canonical_ite hs.queueRecord.metItem.countErr hs.queueRecord.metItem) _
            heq).modAgent.advanceRelease
      · exact (canonical_ite hs.queueRecord.metItem.countErr hs.queueRecord.metItem).modAgent
theorem Canonical.restartLaunch {s : State} (h : Canonical s) {pkg id} : Canonical (restartLaunch pkg id s) := by
  unfold Machine.restartLaunch
  dsimp only
  split
  · exact h
  · exact canonical_ite h (h.inLaunch fun _ hs => hs.endLaunch)
theorem Canonical.incarnation {s : State} (h : Canonical s) {pkg} : Canonical (incarnation pkg s) :=
  canonical_ite h (canonical_foldl (canonical_foldl (canonical_foldl h.modPkg.update fun _ _ hs => hs.restartPlaces)
    fun _ _ hs => hs.restartLoads) fun _ _ hs => hs.restartLaunch)
theorem execIncarnationChange_canonical {s : State} (h : Canonical s) {pkg} : ResCanonical (execIncarnationChange pkg s) :=
  event_canonical h.incarnation

end Sys2Proof.Machine
end

section
/-! Memory stays canonical: launches. -/

namespace Sys2Proof.Machine

theorem execQueueNotify_canonical {s : State} (h : Canonical s) {pkg off} : ResCanonical (execQueueNotify pkg off s) := by
  unfold Machine.execQueueNotify
  refine event_canonical ?_
  split
  · exact canonical_ite h.readWidx h
  · exact h
theorem Canonical.modLaunchId {s : State} (h : Canonical s) {id} {f : Launch → Launch}
    (hf : ∀ l, LaunchCanonical l → LaunchCanonical (f l)) : Canonical (modLaunchId id f s) :=
  canonical_ite (h.modLaunch (hf _ h.launch)) (h.withLaunches h.launch (modFirst_canonical h.launches hf))
theorem firstIn_canonical {s : State} (h : Canonical s) {p l} (found : firstIn s p = some l) : LaunchCanonical l := by
  obtain rfl | hl := List.mem_cons.mp (List.mem_of_find?_eq_some found)
  · exact h.launch
  · exact h.launches l hl
theorem Canonical.procAsk {s : State} (h : Canonical s) {part va} : Canonical (procAsk part va s) := h.modCore
theorem Canonical.dispatchPart {s : State} (h : Canonical s) {part} : Canonical (dispatchPart part s) := by
  unfold Machine.dispatchPart
  split
  · exact h
  · dsimp only
    split
    · exact h.modProc.procAsk
    · refine canonical_ite h.modProc.rawWrite (h.modProc.withLaunches h.modProc.launch (List.forall_mem_append.mpr ⟨?_, ?_⟩))
      · exact h.modProc.launches
      · exact List.forall_mem_singleton.mpr ⟨rfl, rfl⟩
theorem Canonical.packetDispatch {s : State} (h : Canonical s) : Canonical (packetDispatch s) :=
  canonical_foldl h fun _ _ hs => hs.dispatchPart
theorem execPacketDispatch_canonical {s : State} (h : Canonical s) : ResCanonical (execPacketDispatch s) :=
  event_canonical h.packetDispatch
theorem Canonical.advanceRidx {s : State} (h : Canonical s) {l} : Canonical (advanceRidx l s) := h.rawWrite
theorem Canonical.refuse {s : State} (h : Canonical s) {l status} : Canonical (refuse l status s) := by
  unfold Machine.refuse
  refine Canonical.advanceRidx ?_
  exact h.modLaunchId fun _ hl => hl
theorem Canonical.launchAdmit {s : State} (h : Canonical s) : Canonical (launchAdmit s) := by
  unfold Machine.launchAdmit
  split
  · exact h
  · next l found =>
    have admitted : LaunchCanonical l := firstIn_canonical h found
    refine canonical_ite h.refuse (canonical_ite h.refuse ?_)
    split
    · exact h.refuse
    · exact canonical_ite h.refuse (canonical_ite (h.modLaunchId fun _ _ => admitted) h.refuse)
theorem execLaunchAdmit_canonical {s : State} (h : Canonical s) : ResCanonical (execLaunchAdmit s) :=
  event_canonical h.launchAdmit
theorem Canonical.capacityReserve {s : State} (h : Canonical s) : Canonical (capacityReserve s) := by
  unfold Machine.capacityReserve
  split
  · exact h
  · exact h.modLaunchId fun _ hs => hs
theorem execLaunchCapacityReserve_canonical {s : State} (h : Canonical s) : ResCanonical (execLaunchCapacityReserve s) :=
  event_canonical h.capacityReserve
theorem Canonical.queueEntry {s : State} (h : Canonical s) {a} : Canonical (queueEntry a s) := canonical_ite h.enqueueSeed h
theorem Canonical.launchStart {s : State} (h : Canonical s) : Canonical (launchStart s) := by
  unfold Machine.launchStart
  split
  · exact h
  · refine canonical_ite (h.modLaunchId fun _ hl => hl) ?_
    split
    · exact canonical_ite h.refuse h.procAsk
    · have started := fun lcs f => canonical_foldl (l := lcs) h fun s (lc : LCore) hs => hs.modCore (id := lc.core) (f := f)
      refine (Canonical.inLaunch ?_ fun s hs => canonical_foldl hs fun _ _ hs => hs.modBoard).advanceRidx
      refine canonical_foldl (Canonical.update ?_) fun _ _ hs => hs.queueEntry
      exact (started _ _).modLaunchId fun l hl => ⟨argCells_wf _ _, (started _ _).mem⟩
theorem execLaunchStart_canonical {s : State} (h : Canonical s) : ResCanonical (execLaunchStart s) :=
  event_canonical h.launchStart
theorem Canonical.faultStop {s : State} (h : Canonical s) : Canonical (faultStop s) := by
  unfold Machine.faultStop
  split
  · exact h
  · exact h.inLaunch fun _ hs => hs.modLaunch hs.launch
theorem execLaunchFaultStop_canonical {s : State} (h : Canonical s) : ResCanonical (execLaunchFaultStop s) :=
  event_canonical h.faultStop
theorem Canonical.clearLaunch {s : State} (h : Canonical s) {id} : Canonical (clearLaunch id s) :=
  ((canonical_foldl (canonical_foldl h fun _ _ hs => hs.leaveSlot).mapAgents.mapCores fun _ _ hs => hs.discardView).modLaunch
    (canonical_foldl (canonical_foldl h fun _ _ hs => hs.leaveSlot).mapAgents.mapCores fun _ _ hs =>
    hs.discardView).launch).update
theorem Canonical.accounting {s : State} (h : Canonical s) : Canonical (accounting s) := by
  unfold Machine.accounting
  split
  · refine h.inLaunch fun s hs => ?_
    refine Canonical.modLaunch_of (Canonical.clearLaunch ?_) fun _ hl => hl
    exact hs.modLaunch_of fun _ hl => hl
  · split
    · refine h.inLaunch fun s hs => ?_
      exact Canonical.modLaunch_of hs.clearLaunch fun _ hl => hl
    · exact h
theorem execLaunchItemAccounting_canonical {s : State} (h : Canonical s) : ResCanonical (execLaunchItemAccounting s) :=
  event_canonical h.accounting
theorem Canonical.crecFinal {s : State} (h : Canonical s) : Canonical (crecFinal s) := by
  unfold Machine.crecFinal
  split
  · exact h
  · extract_lets core
    split
    · exact h
    · extract_lets cap w listed headed ended tell pidx
      have canonical : Canonical ended := by
        refine Canonical.modLaunchId (Canonical.rawWrite ?_) fun _ hl => hl
        exact canonical_foldl h fun _ _ hs => canonical_ite hs.rawWrite hs
      have told : ∀ l, LaunchCanonical l → LaunchCanonical (tell l) := fun _ hl => launchCanonical_ite hl hl
      clear_value ended
      exact canonical.mapLaunches told
theorem execCrecFinalWrite_canonical {s : State} (h : Canonical s) : ResCanonical (execCrecFinalWrite s) :=
  event_canonical h.crecFinal

end Sys2Proof.Machine
end

section
/-! Memory stays canonical: quanta and segments. -/

namespace Sys2Proof.Machine

theorem Canonical.noteIssue {s : State} (h : Canonical s) {by_} : Canonical (noteIssue by_ s) := by
  unfold Machine.noteIssue
  split
  · exact h.modCore.mapAgents
  · exact h
theorem Canonical.grantReservation {s : State} (h : Canonical s) : Canonical (grantReservation s) := canonical_ite h.modCur h
theorem Canonical.takeTurn {s : State} (h : Canonical s) : Canonical (takeTurn s) :=
  canonical_ite h.modCur.advanceRelease.grantReservation.update h.modCur.advanceRelease.grantReservation
theorem Canonical.endTurn {s : State} (h : Canonical s) {by_} : Canonical (endTurn by_ s) :=
  canonical_ite h (canonical_ite h.noteIssue h.modCur)
theorem Canonical.endServe {s : State} (h : Canonical s) {tid} : Canonical (endServe tid s) := by
  unfold Machine.endServe
  refine h.modLaunch ?_
  split
  · exact launchCanonical_ite h.launch h.launch
  · exact h.launch

end Sys2Proof.Machine
end

section
/-! Memory stays canonical: translation. -/

namespace Sys2Proof.Machine

theorem Canonical.translationRequest {s : State} (h : Canonical s) {core va} : Canonical (translationRequest core va s) := by
  unfold Machine.translationRequest
  refine canonical_ite h ?_
  split
  · exact h.update.cacheEntry
  · exact h.raiseAbsent
theorem execTranslationRequest_canonical {s : State} (h : Canonical s) {core va} :
    ResCanonical (execTranslationRequest core va s) :=
  event_canonical h.translationRequest
theorem Canonical.translationReply {s : State} (h : Canonical s) {core} : Canonical (translationReply core s) := by
  unfold Machine.translationReply
  dsimp only
  split
  · exact h
  · split
    · exact h
    · exact h.update.modCore
theorem execTranslationReply_canonical {s : State} (h : Canonical s) {core} : ResCanonical (execTranslationReply core s) :=
  event_canonical h.translationReply
theorem Canonical.landRecord {s : State} (h : Canonical s) {pkg tag cells key fe} :
    Canonical (landRecord pkg tag cells key fe s) :=
  canonical_foldl (canonical_foldl h.writeHome fun _ _ hs => hs.setEmptyView) fun _ _ hs => hs.setPoison
theorem Canonical.applyRecord {s : State} (h : Canonical s) {r} : Canonical (applyRecord r s) := by
  unfold Machine.applyRecord
  refine h.inLaunch fun _ hs => ?_
  dsimp only
  split
  · exact hs
  · refine canonical_ite (.incCounter (.logEvent (canonical_ite hs ?_))) (canonical_ite hs ?_)
    · split
      · exact hs.landRecord
      · refine canonical_ite hs ?_
        split
        · exact hs.failRival
        · exact hs
    · split
      · exact hs.landRecord
      · refine canonical_ite hs ?_
        split
        · exact hs.failRival
        · exact hs
theorem Canonical.moveHead {s : State} (h : Canonical s) {core} : Canonical (moveHead core s) := h.physBytes
theorem Canonical.applyRecords {s : State} (h : Canonical s) {l} : Canonical (applyRecords l s) := by
  induction l generalizing s with
  | nil => exact h
  | cons r l ih => exact canonical_ite (ih h.applyRecord.update.moveHead) h
theorem Canonical.paddockApply {s : State} (h : Canonical s) {page} : Canonical (paddockApply page s) := h.applyRecords
theorem execPaddockApply_canonical {s : State} (h : Canonical s) {page} : ResCanonical (execPaddockApply page s) :=
  event_canonical h.paddockApply
theorem Canonical.replayDiverged {s : State} (h : Canonical s) : Canonical (replayDiverged s) := by
  unfold Machine.replayDiverged
  split
  · exact h
  · exact h.modLaunchId fun _ hs => hs
theorem execReplayDiverged_canonical {s : State} (h : Canonical s) : ResCanonical (execReplayDiverged s) :=
  event_canonical h.replayDiverged
theorem Canonical.commitEnded {s : State} (h : Canonical s) {n} : Canonical (commitEnded n s) := by
  induction n generalizing s with
  | zero => exact h
  | succ n ih =>
    unfold Machine.commitEnded
    split
    · exact h
    · exact canonical_ite h.squashFrom (canonical_ite h (canonical_ite h.noRoom (ih h.modCur.commitNow)))
theorem Canonical.modQuantum {s : State} (h : Canonical s) {id q} : Canonical (modQuantum id q s) :=
  h.modLaunchId fun _ hs => hs
theorem Canonical.showQuantum {s : State} (h : Canonical s) {id} : Canonical (showQuantum id s) :=
  h.mapCores.inLaunch fun _ hs => hs.update.modLaunch hs.update.launch
theorem Canonical.quantumNext {s : State} (h : Canonical s) {l} : Canonical (quantumNext l s) := by
  unfold Machine.quantumNext
  split
  · exact (canonical_foldl h fun _ _ hs => hs.asAgent fun _ hs => hs.commitEnded).modQuantum
  · exact h.modQuantum
  · exact h.modQuantum
  · exact h.mapAgents.showQuantum.modQuantum
theorem Canonical.quantumEnd {s : State} (h : Canonical s) : Canonical (quantumEnd s) := by
  unfold Machine.quantumEnd
  split
  · exact h
  · exact h.quantumNext
theorem execQuantumEnd_canonical {s : State} (h : Canonical s) : ResCanonical (execQuantumEnd s) := event_canonical h.quantumEnd

end Sys2Proof.Machine
end

section
/-! Memory stays canonical: bring-up and checkpoints. -/

namespace Sys2Proof.Machine

theorem Canonical.modMgmt {s : State} (h : Canonical s) {pkg} {f : Mgmt → Mgmt} : Canonical (modMgmt pkg f s) := h.modPkg
theorem Canonical.logCaps {s : State} (h : Canonical s) {pkg} : Canonical (logCaps pkg s) := h.modMgmt
theorem Canonical.bootCores {s : State} (h : Canonical s) {pkg} : Canonical (bootCores pkg s) := by
  have booted : Canonical { s with mem := (Config.bootCells pkg).foldl (fun m c => writeCell m c.1 c.2) s.mem } :=
    ⟨foldl_writeCell_wf _ _ _ h.mem, h.launch, h.launches, h.checkpoint⟩
  exact canonical_foldl booted.mapCores fun _ _ hs => hs.modCore
theorem Canonical.linksOff {s : State} (h : Canonical s) {pkg lmask} : Canonical (linksOff pkg lmask s) :=
  canonical_foldl h fun _ _ hs => canonical_ite hs hs.closeLink
theorem Canonical.applyFuses {s : State} (h : Canonical s) {pkg} : Canonical (applyFuses pkg s) := h.modPkg.linksOff
theorem Canonical.bringUp {s : State} (h : Canonical s) {pkg image} : Canonical (bringUp pkg image s) :=
  h.applyFuses.bootCores.modMgmt.logCaps.modPkg
theorem Canonical.firmwareVerify {s : State} (h : Canonical s) {pkg image} : Canonical (firmwareVerify pkg image s) :=
  canonical_ite h (canonical_ite h.bringUp h.modMgmt)
theorem execFirmwareVerify_canonical {s : State} (h : Canonical s) {pkg image} :
    ResCanonical (execFirmwareVerify pkg image s) :=
  event_canonical h.firmwareVerify
theorem execFirmwareRetry_canonical {s : State} (h : Canonical s) {pkg} : ResCanonical (execFirmwareRetry pkg s) :=
  event_canonical h.modMgmt
theorem Canonical.reply {s : State} (h : Canonical s) {pkg bs} : Canonical (reply pkg bs s) := h.modMgmt.raiseVector
theorem execAttestationRequest_canonical {s : State} (h : Canonical s) {pkg nonce} :
    ResCanonical (execAttestationRequest pkg nonce s) :=
  event_canonical (canonical_ite h h.reply.update)
theorem execIdentityCertRequest_canonical {s : State} (h : Canonical s) {pkg} : ResCanonical (execIdentityCertRequest pkg s) :=
  event_canonical h.reply
theorem Canonical.partitionChange {s : State} (h : Canonical s) {pkg plan} : Canonical (partitionChange pkg plan s) :=
  canonical_ite h h.modPkg.modMgmt
theorem execPartitionChange_canonical {s : State} (h : Canonical s) {pkg plan} :
    ResCanonical (execPartitionChange pkg plan s) :=
  event_canonical h.partitionChange
theorem execErrcntClear_canonical {s : State} (h : Canonical s) {pkg k} : ResCanonical (execErrcntClear pkg k s) :=
  event_canonical h.modPkg
theorem Canonical.failLaunch {s : State} (h : Canonical s) {lost : ℕ → Bool} {id} : Canonical (failLaunch lost id s) := by
  unfold Machine.failLaunch
  dsimp only
  split
  · exact h
  · exact canonical_ite h (h.inLaunch fun _ hs => hs.mapAgents.endLaunch)
theorem Canonical.disable {s : State} (h : Canonical s) {pkg} {f : Package → Package} : Canonical (disable pkg f s) :=
  h.modPkg.logCaps
theorem Canonical.clusterFailure {s : State} (h : Canonical s) {pkg u} : Canonical (clusterFailure pkg u s) := by
  unfold Machine.clusterFailure
  dsimp only
  split
  · exact canonical_ite h (canonical_foldl h.disable.mapCores fun _ _ hs => hs.failLaunch)
  · exact canonical_ite h h.disable
  · split
    · exact h
    · exact canonical_ite h h.closeLink.disable.disable.countErr.countErr
theorem execClusterFailure_canonical {s : State} (h : Canonical s) {pkg u} : ResCanonical (execClusterFailure pkg u s) :=
  event_canonical h.clusterFailure
theorem execCheckpointStream_canonical {s : State} (h : Canonical s) {part} : ResCanonical (execCheckpointStream part s) := by
  refine event_canonical (canonical_ite ⟨h.mem, h.launch, h.launches, fun c hc => ?_⟩ h)
  cases hc
  exact filter_wf h.mem _
theorem Canonical.restorePages {s : State} (h : Canonical s) {c} : Canonical (restorePages c s) :=
  ⟨foldl_writeCell_wf _ _ _ (filter_wf h.mem _), h.launch, h.launches, h.checkpoint⟩
theorem execCheckpointRestore_canonical {s : State} (h : Canonical s) {part} : ResCanonical (execCheckpointRestore part s) := by
  unfold Machine.execCheckpointRestore
  refine event_canonical ?_
  split
  · exact canonical_ite h.restorePages h
  · exact h
theorem execThermalThrottle_canonical {s : State} (h : Canonical s) {pkg mhz} : ResCanonical (execThermalThrottle pkg mhz s) :=
  event_canonical h.modMgmt
theorem execThermalHalt_canonical {s : State} (h : Canonical s) {die} : ResCanonical (execThermalHalt die s) :=
  event_canonical (canonical_foldl h fun _ _ hs => hs.modCore).modMgmt.raiseVector.raiseVector
theorem Canonical.hostWindow {s : State} (h : Canonical s) {pkg va data len} : Canonical (hostWindow pkg va data len s) := by
  unfold Machine.hostWindow
  dsimp only
  split
  · exact h
  · exact h.translationRequest
  · split
    · exact h.writeHome
    · exact h.reply
theorem Canonical.capabilityAccess {s : State} (h : Canonical s) {pkg off data len} :
    Canonical (capabilityAccess pkg off data len s) :=
  canonical_ite h h.reply
theorem execHostWindowAccess_canonical {s : State} (h : Canonical s) {pkg place data len} :
    ResCanonical (execHostWindowAccess pkg place data len s) := by
  unfold Machine.execHostWindowAccess
  refine event_canonical ?_
  split
  · exact h.hostWindow
  · exact h.capabilityAccess

end Sys2Proof.Machine
end

section
/-! Memory stays canonical: fetching. -/

namespace Sys2Proof.Machine

theorem fetchRight_sound {va} : Sound (fetchRight va) := by
  refine keeps_bind require_sound fun _ => keeps_get_bind fun s h => ?_
  dsimp only
  split
  · exact keeps_modify fun _ h => h.update
  · split
    · exact keeps_throw trivial
    · next asked => exact keeps_bind (keeps_set (h.of_translated (translated_ask asked))) fun _ => require_sound
theorem codeKey_sound {s : State} {va} : Sound (codeKey s va) := by
  unfold Machine.codeKey
  refine keeps_bind physKey_sound fun _ => ?_
  split <;> exact keeps_pure _
theorem fetchWord_sound {va} : Sound (fetchWord va) :=
  keeps_bind require_sound fun _ => keeps_bind fetchRight_sound fun _ => keeps_get_bind fun _ _ => keeps_bind codeKey_sound
    fun _ => keeps_bind require_sound fun _ => keeps_pure _
theorem fetchChain_sound {n va} : Sound (fetchChain n va) := by
  induction n generalizing va with
  | zero => exact keeps_pure _
  | succ n ih =>
    exact keeps_bind fetchWord_sound fun _ => sound_ite (keeps_bind ih fun _ => keeps_pure _) (keeps_pure _)
theorem fetchInstr_sound : Sound fetchInstr := by
  unfold Machine.fetchInstr
  refine keeps_get_bind fun _ _ => keeps_bind fetchChain_sound fun _ => ?_
  split
  · exact keeps_bind (keeps_modify fun _ hs => hs.modCur) fun _ => keeps_pure _
  · exact sound_ite fault_sound illegal_sound
  · exact illegal_sound
theorem Canonical.askPage {s : State} (h : Canonical s) {va} : Canonical (askPage va s) := h.update
theorem andThen_canonical {r : Res} (h : ResCanonical r) {f : State → State} (hf : ∀ s, Canonical s → Canonical (f s)) :
    ResCanonical (andThen f r) := by
  cases r with
  | next s => exact resCanonical_next (hf s (h s rfl))
  | fault f => exact resCanonical_fault
  | refused r => exact resCanonical_refused

end Sys2Proof.Machine
end

section
/-! Memory stays canonical: what falls due. -/

namespace Sys2Proof.Machine

theorem Canonical.still {s : State} (h : Canonical s) : Canonical s.still := h.update
theorem Canonical.nextAgent {s : State} (h : Canonical s) : Canonical (nextAgent s) := by
  unfold Machine.nextAgent
  dsimp only
  split
  · exact h.update.focusAgent
  · exact h.update
theorem Canonical.correctedError {s : State} (h : Canonical s) : Canonical (correctedError s) := by
  unfold Machine.correctedError
  split
  · exact canonical_ite h.countErr h
  · exact h
theorem Canonical.uncorrectableError {s : State} (h : Canonical s) : Canonical (uncorrectableError s) := by
  unfold Machine.uncorrectableError
  split
  · exact canonical_ite h.setPoison h
  · exact h
theorem Canonical.outsideInterrupt {s : State} (h : Canonical s) : Canonical (outsideInterrupt s) := by
  unfold Machine.outsideInterrupt
  split
  · exact canonical_ite h.modCore h
  · exact h
theorem Canonical.outside {s : State} (h : Canonical s) : Canonical (outside s) :=
  h.correctedError.uncorrectableError.outsideInterrupt
theorem Canonical.afterIssue {s : State} (h : Canonical s) : Canonical (afterIssue s) :=
  (canonical_ite h.update.nextAgent.outside.showOccupancy h.update.nextAgent.outside).update

end Sys2Proof.Machine
end

section

namespace Sys2Proof.Machine

/-- Whatever instruction or event is executed, memory stays canonical. -/
theorem exec_canonical {s : State} (h : Canonical s) : ∀ i, ResCanonical (exec i s)
  | .nop => execNop_canonical h
  | .ret => execRet_canonical h
  | .yield => execYield_canonical h
  | .rtu => execRtu_canonical h
  | .follow => execFollow_canonical h
  | .trap _ => execTrap_canonical h
  | .chunk => execChunk_canonical h
  | .b _ => execB_canonical h
  | .call _ => execCall_canonical h
  | .j _ => execJ_canonical h
  | .callP _ => execCallP_canonical h
  | .loop _ _ => execLoop_canonical h
  | .bc _ _ => execBc_canonical h
  | .bcN _ _ => execBcN_canonical h
  | .bq _ => execBq_canonical h
  | .bqp _ => execBqp_canonical h
  | .sleep _ => execSleep_canonical h
  | .waitc _ _ => execWaitc_canonical h
  | .waitcSub _ _ => execWaitcSub_canonical h
  | .fenceAcq => execFenceAcq_canonical h
  | .fenceRel => execFenceRel_canonical h
  | .fenceFull => execFenceFull_canonical h
  | .flush => execFlush_canonical h
  | .add _ => execAdd_canonical h
  | .sub _ => execSub_canonical h
  | .and _ => execAnd_canonical h
  | .or _ => execOr_canonical h
  | .xor _ => execXor_canonical h
  | .andn _ => execAndn_canonical h
  | .min _ => execMin_canonical h
  | .max _ => execMax_canonical h
  | .minu _ => execMinu_canonical h
  | .maxu _ => execMaxu_canonical h
  | .mul _ => execMul_canonical h
  | .mulh _ => execMulh_canonical h
  | .mulhu _ => execMulhu_canonical h
  | .clmul _ => execClmul_canonical h
  | .clmulh _ => execClmulh_canonical h
  | .insr _ _ _ _ => execInsr_canonical h
  | .div _ => execDiv_canonical h
  | .divu _ => execDivu_canonical h
  | .rem _ => execRem_canonical h
  | .remu _ => execRemu_canonical h
  | .shl _ => execShl_canonical h
  | .shr _ => execShr_canonical h
  | .sar _ => execSar_canonical h
  | .rol _ => execRol_canonical h
  | .mov _ => execMov_canonical h
  | .neg _ => execNeg_canonical h
  | .abs _ => execAbs_canonical h
  | .popc _ => execPopc_canonical h
  | .clz _ => execClz_canonical h
  | .ctz _ => execCtz_canonical h
  | .bswap _ => execBswap_canonical h
  | .extr _ _ _ _ => execExtr_canonical h
  | .sel _ _ _ _ => execSel_canonical h
  | .addi _ _ => execAddi_canonical h
  | .ldi _ _ => execLdi_canonical h
  | .ldih _ _ => execLdih_canonical h
  | .shlImm _ _ => execShlImm_canonical h
  | .shrImm _ _ => execShrImm_canonical h
  | .sarImm _ _ => execSarImm_canonical h
  | .rolImm _ _ => execRolImm_canonical h
  | .paddi _ _ => execPaddi_canonical h
  | .cmp _ _ _ _ => execCmp_canonical h
  | .cmpi _ _ _ _ => execCmpi_canonical h
  | .padd _ => execPadd_canonical h
  | .pset _ _ _ => execPset_canonical h
  | .pget _ _ => execPget_canonical h
  | .pgetHi _ _ => execPgetHi_canonical h
  | .pmake _ _ _ => execPmake_canonical h
  | .qand _ _ => execQand_canonical h
  | .qor _ _ => execQor_canonical h
  | .qnot _ _ => execQnot_canonical h
  | .pcmp _ _ _ _ => execPcmp_canonical h
  | .qset _ _ => execQset_canonical h
  | .faddF64 _ => execFaddF64_canonical h
  | .fsubF64 _ => execFsubF64_canonical h
  | .fmulF64 _ => execFmulF64_canonical h
  | .ffmaF64 _ _ _ => execFfmaF64_canonical h
  | .fdivF64 _ => execFdivF64_canonical h
  | .fsqrtF64 _ => execFsqrtF64_canonical h
  | .fminF64 _ => execFminF64_canonical h
  | .fmaxF64 _ => execFmaxF64_canonical h
  | .faddF32 _ => execFaddF32_canonical h
  | .fsubF32 _ => execFsubF32_canonical h
  | .fmulF32 _ => execFmulF32_canonical h
  | .ffmaF32 _ _ _ => execFfmaF32_canonical h
  | .fdivF32 _ => execFdivF32_canonical h
  | .fsqrtF32 _ => execFsqrtF32_canonical h
  | .fminF32 _ => execFminF32_canonical h
  | .fmaxF32 _ => execFmaxF32_canonical h
  | .faddF16 _ => execFaddF16_canonical h
  | .fsubF16 _ => execFsubF16_canonical h
  | .fmulF16 _ => execFmulF16_canonical h
  | .ffmaF16 _ _ _ => execFfmaF16_canonical h
  | .fdivF16 _ => execFdivF16_canonical h
  | .fsqrtF16 _ => execFsqrtF16_canonical h
  | .fminF16 _ => execFminF16_canonical h
  | .fmaxF16 _ => execFmaxF16_canonical h
  | .faddBf16 _ => execFaddBf16_canonical h
  | .fsubBf16 _ => execFsubBf16_canonical h
  | .fmulBf16 _ => execFmulBf16_canonical h
  | .ffmaBf16 _ _ _ => execFfmaBf16_canonical h
  | .fdivBf16 _ => execFdivBf16_canonical h
  | .fsqrtBf16 _ => execFsqrtBf16_canonical h
  | .fminBf16 _ => execFminBf16_canonical h
  | .fmaxBf16 _ => execFmaxBf16_canonical h
  | .fcmpF64 _ _ _ _ => execFcmpF64_canonical h
  | .fcmpF32 _ _ _ _ => execFcmpF32_canonical h
  | .fcmpF16 _ _ _ _ => execFcmpF16_canonical h
  | .fcmpBf16 _ _ _ _ => execFcmpBf16_canonical h
  | .fcvt _ _ _ _ _ => execFcvt_canonical h
  | .fclass _ _ => execFclass_canonical h
  | .fmov _ _ => execFmov_canonical h
  | .ld _ _ _ _ => execLd_canonical h
  | .ldWr _ _ _ _ => execLdWr_canonical h
  | .lds _ _ _ _ => execLds_canonical h
  | .ldsWr _ _ _ _ => execLdsWr_canonical h
  | .st _ _ _ _ => execSt_canonical h
  | .stRel _ _ _ _ => execStRel_canonical h
  | .ldAcq _ _ _ _ => execLdAcq_canonical h
  | .ldq _ _ _ => execLdq_canonical h
  | .ldqWr _ _ _ => execLdqWr_canonical h
  | .ldqAcq _ _ _ => execLdqAcq_canonical h
  | .ldsync _ _ _ _ => execLdsync_canonical h
  | .clre _ _ => execClre_canonical h
  | .pref _ _ => execPref_canonical h
  | .pin _ _ _ => execPin_canonical h
  | .unpin _ _ => execUnpin_canonical h
  | .ldp _ _ _ => execLdp_canonical h
  | .ldpWr _ _ _ => execLdpWr_canonical h
  | .ldpAcq _ _ _ => execLdpAcq_canonical h
  | .stp _ _ _ => execStp_canonical h
  | .stpRel _ _ _ => execStpRel_canonical h
  | .aAdd _ _ _ => execAAdd_canonical h
  | .aAnd _ _ _ => execAAnd_canonical h
  | .aOr _ _ _ => execAOr_canonical h
  | .aXor _ _ _ => execAXor_canonical h
  | .aMin _ _ _ => execAMin_canonical h
  | .aMax _ _ _ => execAMax_canonical h
  | .aSwap _ _ _ => execASwap_canonical h
  | .aCas _ _ _ => execACas_canonical h
  | .aAddAcq _ _ _ => execAAddAcq_canonical h
  | .aAndAcq _ _ _ => execAAndAcq_canonical h
  | .aOrAcq _ _ _ => execAOrAcq_canonical h
  | .aXorAcq _ _ _ => execAXorAcq_canonical h
  | .aMinAcq _ _ _ => execAMinAcq_canonical h
  | .aMaxAcq _ _ _ => execAMaxAcq_canonical h
  | .aSwapAcq _ _ _ => execASwapAcq_canonical h
  | .aCasAcq _ _ _ => execACasAcq_canonical h
  | .aAddRel _ _ _ => execAAddRel_canonical h
  | .aAndRel _ _ _ => execAAndRel_canonical h
  | .aOrRel _ _ _ => execAOrRel_canonical h
  | .aXorRel _ _ _ => execAXorRel_canonical h
  | .aMinRel _ _ _ => execAMinRel_canonical h
  | .aMaxRel _ _ _ => execAMaxRel_canonical h
  | .aSwapRel _ _ _ => execASwapRel_canonical h
  | .aCasRel _ _ _ => execACasRel_canonical h
  | .rAdd _ _ _ => execRAdd_canonical h
  | .rMin _ _ _ => execRMin_canonical h
  | .rMax _ _ _ => execRMax_canonical h
  | .rAnd _ _ _ => execRAnd_canonical h
  | .rOr _ _ _ => execROr_canonical h
  | .rXor _ _ _ => execRXor_canonical h
  | .rAddF64 _ _ _ => execRAddF64_canonical h
  | .rAddF32 _ _ _ => execRAddF32_canonical h
  | .vsett _ => execVsett_canonical h
  | .mand _ => execMand_canonical h
  | .mor _ => execMor_canonical h
  | .mnot _ _ => execMnot_canonical h
  | .mpop _ _ => execMpop_canonical h
  | .compress _ _ => execCompress_canonical h
  | .vadd _ _ => execVadd_canonical h
  | .vsub _ _ => execVsub_canonical h
  | .vmul _ _ => execVmul_canonical h
  | .vfma _ _ _ _ => execVfma_canonical h
  | .vdiv _ _ => execVdiv_canonical h
  | .vsqrt _ _ _ => execVsqrt_canonical h
  | .vmin _ _ => execVmin_canonical h
  | .vmax _ _ => execVmax_canonical h
  | .vand _ _ => execVand_canonical h
  | .vor _ _ => execVor_canonical h
  | .vxor _ _ => execVxor_canonical h
  | .vshl _ _ => execVshl_canonical h
  | .vshr _ _ => execVshr_canonical h
  | .vsar _ _ => execVsar_canonical h
  | .vcmp _ _ _ _ _ => execVcmp_canonical h
  | .vsel _ _ _ _ => execVsel_canonical h
  | .vmov _ _ _ => execVmov_canonical h
  | .vbcast _ _ _ => execVbcast_canonical h
  | .vld _ _ _ _ => execVld_canonical h
  | .vst _ _ _ _ => execVst_canonical h
  | .vlds _ _ _ _ => execVlds_canonical h
  | .vsts _ _ _ _ => execVsts_canonical h
  | .vgather _ _ _ _ => execVgather_canonical h
  | .vscatter _ _ _ _ => execVscatter_canonical h
  | .vred _ _ _ _ => execVred_canonical h
  | .vscan _ _ _ _ => execVscan_canonical h
  | .vperm _ _ _ _ => execVperm_canonical h
  | .vshuf _ _ _ _ => execVshuf_canonical h
  | .vcvt _ _ _ _ _ => execVcvt_canonical h
  | .vqnt _ _ _ _ _ => execVqnt_canonical h
  | .mma _ _ _ => execMma_canonical h
  | .mmas _ _ _ => execMmas_canonical h
  | .mzero _ => execMzero_canonical h
  | .mcommit => execMcommit_canonical h
  | .mwaitb _ => execMwaitb_canonical h
  | .mtrn _ _ => execMtrn_canonical h
  | .accrd _ _ _ => execAccrd_canonical h
  | .accwr _ _ _ => execAccwr_canonical h
  | .wload _ _ => execWload_canonical h
  | .dict _ => execDict_canonical h
  | .copy _ _ _ _ _ => execCopy_canonical h
  | .copym _ _ _ _ _ => execCopym_canonical h
  | .tile _ _ _ _ _ => execTile_canonical h
  | .gather _ _ _ _ _ => execGather_canonical h
  | .mcast _ _ _ _ _ => execMcast_canonical h
  | .hitch _ _ _ => execHitch_canonical h
  | .hitchP _ _ _ => execHitchP_canonical h
  | .unhitch => execUnhitch_canonical h
  | .rest => execRest_canonical h
  | .hcfg _ _ => execHcfg_canonical h
  | .advpG _ _ => execAdvpG_canonical h
  | .advpN _ _ => execAdvpN_canonical h
  | .advcG _ _ => execAdvcG_canonical h
  | .advcN _ _ => execAdvcN_canonical h
  | .tkt _ _ _ => execTkt_canonical h
  | .rfill _ _ _ => execRfill_canonical h
  | .rtake _ _ => execRtake_canonical h
  | .pause => execPause_canonical h
  | .pauseUp => execPauseUp_canonical h
  | .emit _ => execEmit_canonical h
  | .emitv _ _ => execEmitv_canonical h
  | .test _ _ => execTest_canonical h
  | .testv _ _ _ => execTestv_canonical h
  | .renounce _ _ => execRenounce_canonical h
  | .resolve _ _ => execResolve_canonical h
  | .abortw _ _ => execAbortw_canonical h
  | .suspw _ => execSuspw_canonical h
  | .endw => execEndw_canonical h
  | .instn _ _ => execInstn_canonical h
  | .teamj _ => execTeamj_canonical h
  | .teaml => execTeaml_canonical h
  | .teamh _ _ => execTeamh_canonical h
  | .cause _ => execCause_canonical h
  | .forkw _ _ => execForkw_canonical h
  | .widx _ => execWidx_canonical h
  | .claimw => execClaimw_canonical h
  | .joinw _ => execJoinw_canonical h
  | .choosew _ _ => execChoosew_canonical h
  | .abandw => execAbandw_canonical h
  | .wstat _ _ => execWstat_canonical h
  | .demand _ _ _ => execDemand_canonical h
  | .xgo _ => execXgo_canonical h
  | .xwait => execXwait_canonical h
  | .xstat _ _ => execXstat_canonical h
  | .profq _ => execProfq_canonical h
  | .predw _ => execPredw_canonical h
  | .hints => execHints_canonical h
  | .spawn _ _ _ => execSpawn_canonical h
  | .spawnb _ _ _ => execSpawnb_canonical h
  | .take _ _ => execTake_canonical h
  | .deal _ _ => execDeal_canonical h
  | .done => execDone_canonical h
  | .svc _ => execSvc_canonical h
  | .crrd _ _ => execCrrd_canonical h
  | .crwr _ _ => execCrwr_canonical h
  | .plbinv _ _ => execPlbinv_canonical h
  | .husk _ _ => execHusk_canonical h
  | .unhusk _ _ => execUnhusk_canonical h
  | .tret => execTret_canonical h
  | .haltg _ => execHaltg_canonical h
  | .idle => execIdle_canonical h
  | .takeSeed _ _ => execTakeSeed_canonical h
  | .followAttach _ => execFollowAttach_canonical h
  | .chunkLimit => execChunkLimit_canonical h
  | .userTrapEntry _ => execUserTrapEntry_canonical h
  | .vectorQueueExecute _ => execVectorQueueExecute_canonical h
  | .laneGroupGrant _ => execLaneGroupGrant_canonical h
  | .tileOperationStart _ => execTileOperationStart_canonical h
  | .tileOperationFinish _ => execTileOperationFinish_canonical h
  | .engineLineLanding _ _ => execEngineLineLanding_canonical h
  | .walkerCommandComplete _ _ => execWalkerCommandComplete_canonical h
  | .promiseDue _ _ => execPromiseDue_canonical h
  | .neighbourPortDelivery _ => execNeighbourPortDelivery_canonical h
  | .postedRequestArrival _ => execPostedRequestArrival_canonical h
  | .postedAckArrival _ => execPostedAckArrival_canonical h
  | .postedResendTimeout _ _ _ => execPostedResendTimeout_canonical h
  | .flushMarkerArrival _ => execFlushMarkerArrival_canonical h
  | .flushMarkerAnswer _ => execFlushMarkerAnswer_canonical h
  | .remoteAccessArrival _ _ => execRemoteAccessArrival_canonical h
  | .remoteLoadReturn _ _ => execRemoteLoadReturn_canonical h
  | .remoteRefused _ => execRemoteRefused_canonical h
  | .flitHop _ _ => execFlitHop_canonical h
  | .spanLinkFlitReceive _ _ => execSpanLinkFlitReceive_canonical h
  | .spanLinkRetrain _ _ => execSpanLinkRetrain_canonical h
  | .bulkPacketArrival _ _ => execBulkPacketArrival_canonical h
  | .dropNoticeArrival _ => execDropNoticeArrival_canonical h
  | .reservationRequestArrival _ => execReservationRequestArrival_canonical h
  | .grantArrival _ => execGrantArrival_canonical h
  | .grantExpiry _ => execGrantExpiry_canonical h
  | .incarnationChange _ => execIncarnationChange_canonical h
  | .signalEmitArrival => execSignalEmitArrival_canonical h
  | .maskClearArrival => execMaskClearArrival_canonical h
  | .resolveArrival => execResolveArrival_canonical h
  | .handlerRegistrationArrival => execHandlerRegistrationArrival_canonical h
  | .causalityTrap _ => execCausalityTrap_canonical h
  | .computePhaseEnd _ => execComputePhaseEnd_canonical h
  | .instantStart _ => execInstantStart_canonical h
  | .claimArrival _ => execClaimArrival_canonical h
  | .rivalKill _ => execRivalKill_canonical h
  | .viewCommitComplete _ _ => execViewCommitComplete_canonical h
  | .viewTagFree _ _ => execViewTagFree_canonical h
  | .calendarCompute _ => execCalendarCompute_canonical h
  | .calendarArrival _ _ => execCalendarArrival_canonical h
  | .exchangePhaseStart _ _ => execExchangePhaseStart_canonical h
  | .exchangeUnitLanding _ _ => execExchangeUnitLanding_canonical h
  | .exchangeSegmentEnd _ _ => execExchangeSegmentEnd_canonical h
  | .residualPhaseStart _ => execResidualPhaseStart_canonical h
  | .arbiterHeartbeat _ => execArbiterHeartbeat_canonical h
  | .arbiterFailover => execArbiterFailover_canonical h
  | .spillRefill _ => execSpillRefill_canonical h
  | .spillResume _ => execSpillResume_canonical h
  | .queueBalance _ _ => execQueueBalance_canonical h
  | .handlerSeedSteal _ _ => execHandlerSeedSteal_canonical h
  | .replayDiverged => execReplayDiverged_canonical h
  | .quantumEnd => execQuantumEnd_canonical h
  | .queueNotify _ _ => execQueueNotify_canonical h
  | .packetDispatch => execPacketDispatch_canonical h
  | .launchAdmit => execLaunchAdmit_canonical h
  | .launchCapacityReserve => execLaunchCapacityReserve_canonical h
  | .launchStart => execLaunchStart_canonical h
  | .launchFaultStop => execLaunchFaultStop_canonical h
  | .launchItemAccounting => execLaunchItemAccounting_canonical h
  | .crecFinalWrite => execCrecFinalWrite_canonical h
  | .translationRequest _ _ => execTranslationRequest_canonical h
  | .translationReply _ => execTranslationReply_canonical h
  | .paddockApply _ => execPaddockApply_canonical h
  | .trapRecordRetry => execTrapRecordRetry_canonical h
  | .supervisorEntry _ => execSupervisorEntry_canonical h
  | .huskStreamComplete _ => execHuskStreamComplete_canonical h
  | .haltGroupMemberHalt _ => execHaltGroupMemberHalt_canonical h
  | .hostDebugHalt _ => execHostDebugHalt_canonical h
  | .coreResume _ => execCoreResume_canonical h
  | .packageReset _ => execPackageReset_canonical h
  | .firmwareVerify _ _ => execFirmwareVerify_canonical h
  | .firmwareRetry _ => execFirmwareRetry_canonical h
  | .attestationRequest _ _ => execAttestationRequest_canonical h
  | .identityCertRequest _ => execIdentityCertRequest_canonical h
  | .partitionChange _ _ => execPartitionChange_canonical h
  | .errcntClear _ _ => execErrcntClear_canonical h
  | .clusterFailure _ _ => execClusterFailure_canonical h
  | .checkpointStream _ => execCheckpointStream_canonical h
  | .checkpointRestore _ => execCheckpointRestore_canonical h
  | .thermalThrottle _ _ => execThermalThrottle_canonical h
  | .thermalHalt _ => execThermalHalt_canonical h
  | .illegalInsn _ _ => execIllegalInsn_canonical h
  | .postedStoreSend _ _ _ => execPostedStoreSend_canonical h
  | .walkerCommandStart _ => execWalkerCommandStart_canonical h
  | .hostWindowAccess _ _ _ _ => execHostWindowAccess_canonical h

theorem stepIssue_canonical {s : State} (h : Canonical s) : ResCanonical (stepIssue s) := by
  have turn : Canonical (takeTurn s) := h.takeTurn
  have after : ∀ t, Canonical t → Canonical (afterIssue (endServe s.cur.tid (endTurn s.cur t))) := fun _ ht =>
    ht.endTurn.endServe.afterIssue
  unfold stepIssue
  dsimp only
  cases fetched : fetchInstr (takeTurn s) with
  | ok r => exact andThen_canonical (exec_canonical (fetchInstr_sound.ok turn fetched) r.1) after
  | error e =>
    have stop : StopCanonical e := fetchInstr_sound.stop turn fetched
    split
    · next heq => cases heq
    · exact andThen_canonical (exec_canonical turn _) after
    · exact resCanonical_fault
    · exact resCanonical_next (after _ turn.park)
    · next heq => cases heq; exact andThen_canonical (exec_canonical (stop _ turn) _) after
    · exact resCanonical_next (after _ turn.askPage.park)
    · exact resCanonical_next (after _ turn)

theorem step_canonical {s : State} (h : Canonical s) : ResCanonical (step s) := by
  unfold step
  split
  · exact exec_canonical h.update _
  · exact resCanonical_ite (stepIssue_canonical h) (resCanonical_next h.afterIssue)

end Sys2Proof.Machine
end

section
open Sys2Proof Sys2Proof.Machine Sys2Proof.Claims

/-- Settles O60: memory is written through cells that keep the canonical form, and every other change leaves it. -/
theorem stepKeepsMemoryCanonical : Obligations.StepKeepsMemoryCanonical := by
  unfold Obligations.StepKeepsMemoryCanonical
  intro s t h ht
  exact (canonical_iff t).mp (step_canonical ((canonical_iff s).mpr h) t ht)

end

section
/-! The formats of R110 that follow the table of R111 throughout, and the round trip of their encodings (R111, R119, R120). -/

namespace Sys2Proof.Machine

/-- The largest exponent field stands for the infinities and NaN alone, so the largest finite value has every fraction bit set and
the exponent field below it. E4M3 departs from this (R111). -/
structure Fmt.Ieee (t : Fmt) : Prop where
  infs : t.infs = true
  two_le_w : 2 ≤ t.w
  maxM : t.maxM = 2 ^ (t.f + 1) - 1
  maxE : t.maxE = (2 ^ t.w - 2 : Nat) - t.bias - t.f

theorem ieee_of_mem {t : Fmt} (h : t ∈ [f64, f32, f16, bf16]) : t.Ieee := by
  simp only [List.mem_cons, List.not_mem_nil, or_false] at h
  rcases h with rfl | rfl | rfl | rfl <;> exact ⟨rfl, by decide, rfl, by decide⟩

/-- m × 2^e is a finite value of `t`, with e the spacing of `t` there (R119): a normal number, or one at the spacing of the
subnormals (R111). -/
structure Fmt.Holds (t : Fmt) (m : Nat) (e : Int) : Prop where
  m_lt : m < 2 ^ (t.f + 1)
  le_e : t.emin - t.f ≤ e
  e_le : e ≤ t.maxE
  normal : t.emin - t.f < e → 2 ^ t.f ≤ m

/-! The three fields of an encoding. -/

/-- The sign bit as `bitsOf` adds it. -/
def signBits (t : Fmt) (neg : Bool) : Nat := if neg then 2 ^ (t.w + t.f) else 0

/-- The exponent field of an encoding (R110). -/
def expBits (t : Fmt) (n : Nat) : Nat := field n (t.w + t.f - 1) t.f

theorem Fmt.Ieee.w_pos {t : Fmt} (ht : t.Ieee) : 0 < t.w := Nat.lt_of_lt_of_le (by decide) ht.two_le_w

theorem expBits_eq {t : Fmt} (ht : t.Ieee) (n : Nat) : expBits t n = n / 2 ^ t.f % 2 ^ t.w := by
  have hw := ht.w_pos
  rw [expBits, field, show t.w + t.f - 1 + 1 - t.f = t.w by omega]

theorem expBits_lt {t : Fmt} (ht : t.Ieee) (n : Nat) : expBits t n < 2 ^ t.w := by
  rw [expBits_eq ht]
  exact Nat.mod_lt _ (Nat.two_pow_pos _)

theorem signBits_bit {t : Fmt} {n : Nat} (hn : n < 2 ^ t.bits) :
    signBits t (bit n (t.w + t.f)) = n / 2 ^ (t.w + t.f) * 2 ^ (t.w + t.f) := by
  have top : n / 2 ^ (t.w + t.f) < 2 := Nat.div_lt_of_lt_mul (by rwa [← pow_succ])
  rw [signBits, bit, Nat.testBit_eq_decide_div_mod_eq, Nat.mod_eq_of_lt top]
  rcases Nat.le_one_iff_eq_zero_or_eq_one.mp (Nat.le_of_lt_succ top) with h | h <;> simp [h]

/-- An encoding is its sign, exponent and fraction side by side (R110). -/
theorem sign_exponent_fraction {t : Fmt} (ht : t.Ieee) {n : Nat} (hn : n < 2 ^ t.bits) :
    signBits t (bit n (t.w + t.f)) + expBits t n * 2 ^ t.f + n % 2 ^ t.f = n := by
  rw [signBits_bit hn, expBits_eq ht, pow_add, mul_comm (2 ^ t.w), ← Nat.div_div_eq_div_mul]
  calc n / 2 ^ t.f / 2 ^ t.w * (2 ^ t.f * 2 ^ t.w) + n / 2 ^ t.f % 2 ^ t.w * 2 ^ t.f + n % 2 ^ t.f
      = (2 ^ t.w * (n / 2 ^ t.f / 2 ^ t.w) + n / 2 ^ t.f % 2 ^ t.w) * 2 ^ t.f + n % 2 ^ t.f := by ring
    _ = n := by rw [Nat.div_add_mod, Nat.div_add_mod']

/-! What an encoding decodes to, by its exponent field. -/

theorem decodeF_subnormal {t : Fmt} {n : Nat} (he : expBits t n = 0) :
    decodeF t n = .fin (bit n (t.w + t.f)) (n % 2 ^ t.f) (t.emin - t.f) :=
  if_pos he

theorem decodeF_normal {t : Fmt} {n : Nat} (h0 : expBits t n ≠ 0) (hmax : expBits t n < 2 ^ t.w - 1) :
    decodeF t n = .fin (bit n (t.w + t.f)) (2 ^ t.f + n % 2 ^ t.f) (expBits t n - t.bias - t.f) :=
  (if_neg h0).trans (if_pos (.inl hmax))

theorem decodeF_infinity {t : Fmt} (ht : t.Ieee) {n : Nat} (h0 : expBits t n ≠ 0)
    (hmax : ¬ expBits t n < 2 ^ t.w - 1) (hnan : (decodeF t n).isNan = false) :
    decodeF t n = .inf (bit n (t.w + t.f)) ∧ n % 2 ^ t.f = 0 := by
  have hd : decodeF t n = if n % 2 ^ t.f = 0 then .inf (bit n (t.w + t.f)) else .nan := by
    simp only [expBits] at h0 hmax
    simp [decodeF, h0, hmax, ht.infs]
  split at hd
  · next hf => exact ⟨hd, hf⟩
  · simp [hd, Val.isNan] at hnan

/-! Rounding leaves a value that the format holds. -/

/-- The spacing of R119 at a value that the format holds is the value's own. -/
theorem Fmt.Holds.spacing {t : Fmt} {m : Nat} {e : Int} (h : t.Holds m e) (hm : m ≠ 0) :
    max ((Nat.log2 m : Int) + e) t.emin - t.f = e := by
  have below : Nat.log2 m < t.f + 1 := (Nat.log2_lt hm).mpr h.m_lt
  have above : t.emin - t.f < e → t.f ≤ Nat.log2 m := fun he => (Nat.le_log2 hm).mpr (h.normal he)
  have := h.le_e
  by_cases he : t.emin - t.f < e
  · have := above he
    omega
  · omega

theorem atExp_self (m : Nat) (e : Int) : atExp m e e = m := by simp [atExp]

theorem roundAt_self (mode : RMode) (neg : Bool) (m : Nat) (e : Int) (z : Word) : roundAt mode neg m e e z = m := by
  rw [roundAt, if_pos le_rfl, atExp_self]

theorem cmp_nonneg_of_le {M m : Nat} {E e : Int} (hm : m ≤ M) (he : e ≤ E) :
    0 ≤ Val.cmp (.fin false M E) (.fin false m e) := by
  have hle : (atExp m e e : Int) ≤ atExp M E e := by
    rw [atExp_self]
    exact_mod_cast hm.trans (Nat.le_mul_of_pos_right M (Nat.two_pow_pos _))
  have hmin : min E e = e := min_eq_right he
  simp only [Val.cmp, sgnAt, hmin, Bool.false_eq_true, if_false, not_lt.mpr hle]
  split <;> decide

theorem roundTo_of_holds {t : Fmt} (ht : t.Ieee) {m : Nat} {e : Int} (h : t.Holds m e) (mode : RMode) (z : Word) (neg : Bool) :
    roundTo t mode z (.fin neg m e) = .fin neg m e := by
  by_cases hm : m = 0
  · rw [roundTo, if_pos hm]
  · have finite : 0 ≤ Val.cmp (.fin false t.maxM t.maxE) (.fin false m e) :=
      cmp_nonneg_of_le (by have := h.m_lt; rw [ht.maxM]; omega) h.e_le
    simp only [roundTo, if_neg hm, h.spacing hm, roundAt_self, not_lt.mpr finite, if_false]

/-! Encoding a value that the format holds. -/

theorem encodeF_of_holds {t : Fmt} (ht : t.Ieee) {m : Nat} {e : Int} (h : t.Holds m e) (mode : RMode) (sat : Bool) (z : Word)
    (neg : Bool) : encodeF t (.fin neg m e) mode sat z = bitsOf t (.fin neg m e) := by
  rw [encodeF, roundTo_of_holds ht h]

theorem encodeF_inf {t : Fmt} (ht : t.Ieee) (mode : RMode) (z : Word) (neg : Bool) :
    encodeF t (.inf neg) mode false z = signBits t neg + (2 ^ t.w - 1) * 2 ^ t.f := by
  simp [encodeF, roundTo, ht.infs, bitsOf, signBits]

theorem bitsOf_subnormal {t : Fmt} {m : Nat} (hm : m < 2 ^ t.f) (neg : Bool) :
    bitsOf t (.fin neg m (t.emin - t.f)) = signBits t neg + m := by
  by_cases h0 : m = 0
  · simp [bitsOf, signBits, h0]
  · have below : Nat.log2 m < t.f := (Nat.log2_lt h0).mpr hm
    have top : (Nat.log2 m : Int) + (t.emin - t.f) < t.emin := by omega
    simp [bitsOf, signBits, h0, top, max_eq_right top.le]

theorem bitsOf_normal {t : Fmt} {m E : Nat} (hm : 2 ^ t.f ≤ m) (h : t.Holds m (E - t.bias - t.f)) (neg : Bool) :
    bitsOf t (.fin neg m (E - t.bias - t.f)) = signBits t neg + E * 2 ^ t.f + (m - 2 ^ t.f) := by
  have h0 : m ≠ 0 := by have := Nat.two_pow_pos t.f; omega
  have log : Nat.log2 m = t.f :=
    le_antisymm (Nat.lt_succ_iff.mp ((Nat.log2_lt h0).mpr h.m_lt)) ((Nat.le_log2 h0).mpr hm)
  have top : ¬ (Nat.log2 m : Int) + (E - t.bias - t.f) < t.emin := by have := h.le_e; rw [log]; omega
  have exponent : ((Nat.log2 m : Int) + (E - t.bias - t.f) + t.bias).toNat = E := by rw [log]; omega
  simp only [bitsOf, h0, if_false, h.spacing h0, le_refl, if_true, sub_self, Int.toNat_zero, pow_zero, mul_one, top, exponent,
    signBits]

/-! The round trip. -/

theorem holds_subnormal {t : Fmt} (ht : t.Ieee) {m : Nat} (hm : m < 2 ^ t.f) : t.Holds m (t.emin - t.f) where
  m_lt := hm.trans (Nat.pow_lt_pow_right (by decide) (Nat.lt_succ_self _))
  le_e := le_rfl
  e_le := by
    have : 2 ^ 2 ≤ 2 ^ t.w := Nat.pow_le_pow_right (by decide) ht.two_le_w
    rw [ht.maxE, Fmt.emin]; omega
  normal h := absurd h (lt_irrefl _)

theorem holds_normal {t : Fmt} (ht : t.Ieee) {F E : Nat} (hF : F < 2 ^ t.f) (h0 : E ≠ 0) (hmax : E < 2 ^ t.w - 1) :
    t.Holds (2 ^ t.f + F) (E - t.bias - t.f) where
  m_lt := by rw [pow_succ]; omega
  le_e := by rw [Fmt.emin]; omega
  e_le := by rw [ht.maxE]; omega
  normal _ := Nat.le_add_right _ _

/-- The three rows of R111 that are no NaN: a subnormal number or zero, a normal number, an infinity. -/
theorem encodeF_decodeF {t : Fmt} (ht : t.Ieee) {n : Nat} (hn : n < 2 ^ t.bits) (hnan : (decodeF t n).isNan = false)
    (mode : RMode) (sat : Bool) (z : Word) (hsat : sat = false ∨ ∀ neg, decodeF t n ≠ .inf neg) :
    encodeF t (decodeF t n) mode sat z = n := by
  have split := sign_exponent_fraction ht hn
  have hF : n % 2 ^ t.f < 2 ^ t.f := Nat.mod_lt _ (Nat.two_pow_pos _)
  by_cases h0 : expBits t n = 0
  · rw [decodeF_subnormal h0, encodeF_of_holds ht (holds_subnormal ht hF), bitsOf_subnormal hF]
    simpa [h0] using split
  · by_cases hmax : expBits t n < 2 ^ t.w - 1
    · have holds := holds_normal ht hF h0 hmax
      rw [decodeF_normal h0 hmax, encodeF_of_holds ht holds, bitsOf_normal (Nat.le_add_right _ _) holds,
        Nat.add_sub_cancel_left, split]
    · obtain ⟨hinf, hF0⟩ := decodeF_infinity ht h0 hmax hnan
      have all : expBits t n = 2 ^ t.w - 1 := by have := expBits_lt ht n; omega
      obtain rfl : sat = false := hsat.resolve_right fun h => h _ hinf
      rw [hinf, encodeF_inf ht, ← all]
      simpa [hF0] using split

end Sys2Proof.Machine
end

section
open Sys2Proof Sys2Proof.Machine

/-- Settles O9: an encoding that is no NaN decodes to an infinity or to a number that stands at its format's own spacing, which
rounding leaves, and its three fields are read back. -/
theorem floatEncodingRoundTrip : Obligations.FloatEncodingRoundTrip := by
  unfold Obligations.FloatEncodingRoundTrip
  intro t ht n hn hnan mode sat z hsat
  exact encodeF_decodeF (ieee_of_mem ht) hn hnan mode sat z hsat

end

section
/-! The commit of the open chunk with nothing in its way: what memory reads as behind it (R7, R127 to R129). -/

namespace Sys2Proof.Machine

/-- Stores from the oldest on, each as `f` lets it: the newest one decides a byte. -/
theorem lastByte_newest (f : Nat → Byte → Byte) (wbuf : List (Nat × Byte)) (k : Nat) (old : Byte) :
    lastByte (wbuf.reverse.map fun c => (c.1, f c.1 c.2)) k old = ((aget k wbuf).map (f k)).getD old := by
  induction wbuf with
  | nil => rfl
  | cons c wbuf ih =>
    rw [lastByte] at ih
    rw [List.reverse_cons, List.map_append, lastByte, List.foldl_append, ih]
    by_cases here : c.1 = k
    · simp [aget, here]
    · simp [aget, here]

/-- A write at its home under no view: each byte as its access code lets it (R7). -/
theorem writeHome_byte {s : State} (h : CellsWf s) (p who : Nat) (cells : List (Nat × Byte)) (clean : List Nat) (k : Nat) :
    baseByte (writeHome s p 0 who cells clean) k =
      lastByte (cells.map fun c => (c.1, softByte s c.1 c.2)) k (baseByte s k) := by
  rw [writeHome, (madeResident_same _ _ _).byte, writeBytes_byte h]
  rfl

theorem applyChunk_byte {s : State} (h : CellsWf s) (htag : s.cur.tag = 0) (c : Chunk) (k : Nat) :
    baseByte (applyChunk c s) k = ((aget k c.wbuf).map (softByte s k)).getD (baseByte s k) := by
  let u := writeHome s s.pkg s.cur.tag s.cur.tid c.wbuf.reverse c.wclean
  have words : SameCells u (applyChunk c s) := (emptyWords_same u _ _ _).trans (poisonWords_same _ _ _ _)
  have bytes : baseByte u k = lastByte (c.wbuf.reverse.map fun x => (x.1, softByte s x.1 x.2)) k (baseByte s k) := by
    rw [← writeHome_byte h s.pkg s.cur.tid c.wbuf.reverse c.wclean k, ← htag]
  rw [words.byte, bytes, lastByte_newest]

/-- What follows the writes of a commit leaves memory as it is. -/
theorem commitNow_same {s : State} (hmode : s.launch.mode = .free) (c : Chunk) : SameCells (applyChunk c s) (commitNow c s) := by
  have mode : (applyChunk c s).launch.mode = .free := by rw [(applyChunk_homeFrame c s).launch]; exact hmode
  have logged : SameCells (applyChunk c s) (if (applyChunk c s).cur.seq = .s then applyChunk c s else logEvent (applyChunk c s)
      (applyChunk c s).cur.lcore (seqCode (applyChunk c s).cur.seq) 1 (siteCommit (applyChunk c s).pkg)) := by
    split
    · exact ⟨rfl, rfl⟩
    · rw [logEvent_free mode]; exact ⟨rfl, rfl⟩
  unfold commitNow
  dsimp only
  split
  · exact logged
  · exact logged

/-- A chunk that has counted an instruction or stored a byte, and whose commit nothing holds up. -/
structure Commits (s : State) : Prop where
  mode : s.launch.mode = .free
  tag : s.cur.tag = 0
  agrees : s.cur.chunk.conflict = false
  holds : s.cur.chunk.count ≠ 0 ∨ s.cur.chunk.wbuf ≠ []
  bytes : ∀ c ∈ s.cur.chunk.wbuf, heldRange s c.1 1 = false
  words : ∀ k ∈ s.cur.chunk.clre, heldRange s k 8 = false
  homes : ∀ h ∈ s.cur.chunk.homes, homeStands s s.core.id h = false
  lines : ∀ l ∈ s.cur.chunk.wlines, reservedLine s s.pkg 0 s.cur.tid l = false

section
variable {s : State} (h : Commits s)
include h

theorem Commits.noWait : commitWait s.cur.chunk s = none := by
  have held : chunkHeld s.cur.chunk s = false := by
    rw [chunkHeld, List.any_eq_false.mpr fun x hx => Bool.eq_false_iff.mp (h.bytes x hx),
      List.any_eq_false.mpr fun k hk => Bool.eq_false_iff.mp (h.words k hk)]
    rfl
  have homes := List.any_eq_false.mpr fun x hx => Bool.eq_false_iff.mp (h.homes x hx)
  have lines := List.any_eq_false.mpr fun l hl => Bool.eq_false_iff.mp (h.lines l hl)
  simp [commitWait, held, homes, h.tag, lines, replayMay, h.mode]

theorem Commits.commitChunk_done : commitChunk s = .done ((commitNow s.cur.chunk s).modCur Agent.newChunk) := by
  have something : ¬ (s.cur.chunk.count = 0 ∧ s.cur.chunk.wbuf = [] ∧ s.cur.chunk.clre = []) :=
    fun ⟨count, wbuf, _⟩ => h.holds.elim (· count) (· wbuf)
  simp [commitChunk, something, h.mode, h.agrees, h.noWait, lacksRoom_committed h.tag]

theorem Commits.endChunk_commits : endChunk s = .error .commit := by
  have something : (s.cur.chunk.count == 0 && s.cur.chunk.wbuf.isEmpty && s.cur.chunk.clre.isEmpty) = false := by
    rcases h.holds with count | wbuf
    · simp [count]
    · simp [wbuf]
  simp only [endChunk, run_bind, run_get, something, Bool.not_false, if_true, run_throw]

end

/-- An issue whose body asks for the chunk's commit first: the body runs again behind it (R127). -/
theorem issue_commit {l : Legal} {body : Run Unit} {s u t : State} (hr : Ready l s) (first : body s = .error .commit)
    (hc : commitChunk s = .done u) (again : body u = .ok ((), t)) (ht : Tidy t) : issue l body s = .next (finish t) := by
  obtain ⟨legal, room, -⟩ := hr
  have few : ¬ Config.chunkInstrs ≤ s.cur.chunk.count := Nat.not_le.2 room
  have issued : issue l body s = conclude u (.next (park (.resource .boundary) u)) (body u) := by
    simp only [issue, legal, if_true, runBody, few, if_false, first, conclude, hc]
  rw [issued, again]
  cases closed : t.cur.chunk.closed with
  | false => simp [conclude, retire_open closed, finish, closed]
  | true =>
    obtain isOpen | empty := ht
    · rw [closed] at isOpen; cases isOpen
    · simp [conclude, retire_alone empty closed, finish, closed]

theorem finish_same (s : State) : SameCells s (finish s) := by
  unfold finish
  split
  · exact ⟨rfl, rfl⟩
  · exact ⟨rfl, rfl⟩

theorem advanceAlone_empty {s : State} (h : ChunkEmpty s) : ChunkEmpty (advanceAlone s) := by
  obtain ⟨-, -, -, -, ended, rel⟩ := h
  exact ⟨rfl, rfl, rfl, rfl, ended, rel⟩
theorem finish_closing (s : State) : finish (closing s) = advanceAlone (closing s) := rfl

end Sys2Proof.Machine
end

section
open Sys2Proof Sys2Proof.Machine

/-- Settles O12: CHUNK asks for the commit of its chunk, which writes the stores from the oldest on, and then runs on the empty
chunk behind it. -/
theorem chunkCommitWritesItsStores : Obligations.ChunkCommitWritesItsStores := by
  unfold Obligations.ChunkCommitWritesItsStores
  rintro s hr tag mode agrees ended rel - homes words lines bytes memory lmem - - holds
  have commits : Commits s := { mode, tag, agrees, holds, bytes, words, homes, lines }
  let u := (commitNow s.cur.chunk s).modCur Agent.newChunk
  have cur : u.cur = s.cur.newChunk := congrArg Agent.newChunk (commitNow_cur mode s.cur.chunk)
  have empty : ChunkEmpty (closing u) := by
    rw [ChunkEmpty, closing, State.modCur_cur, cur]
    exact ⟨rfl, rfl, rfl, rfl, ended, rel⟩
  have again : (do endChunk; closeAfter : Run Unit) u = .ok ((), closing u) := by
    rw [run_bind, endChunk_ok (s := u) empty]
    exact closeAfter_ok u
  have first : (do endChunk; closeAfter : Run Unit) s = .error .commit := by rw [run_bind, commits.endChunk_commits]
  have regs : (finish (closing u)).cur.regs = { s.cur.regs with pc := s.cur.npc } := by
    rw [finish_regs, closing, State.modCur_cur, cur]
    rfl
  have steps := issue_commit hr first commits.commitChunk_done again (.inr empty)
  refine ⟨finish (closing u), steps, ?_, by rw [regs], by rw [regs], ?_⟩
  · rw [finish_closing]
    exact advanceAlone_empty empty
  · intro key
    calc baseByte (finish (closing u)) key = baseByte u key := (finish_same (closing u)).byte key
      _ = baseByte (applyChunk s.cur.chunk s) key := (commitNow_same mode s.cur.chunk).byte key
      _ = _ := applyChunk_byte ⟨memory, lmem⟩ tag s.cur.chunk key

end

section
/-! Requests to another package at issue (R132 to R137, R142): the access or the journal entry that they leave. -/

namespace Sys2Proof.Machine
open Sys2Proof.Claims

/-- What a memory operand and the reach of its byte leave: the chunk may have closed, and the caches may have filled. -/
structure Addressed (s t : State) : Prop where
  regs : t.cur.regs = s.cur.regs
  npc : t.cur.npc = s.cur.npc
  loads : t.cur.loads = s.cur.loads
  gate : t.cur.gate = s.cur.gate
  mem : t.mem = s.mem
  launch : t.launch = s.launch

theorem addressed_of {s u t : State} (hu : u = s ∨ u = closing s) (ht : Translated u t) : Addressed s t := by
  have cur : t.cur = u.cur := translated_cur ht
  have mem : t.mem = u.mem := translated_mem ht
  have launch : t.launch = u.launch := by rw [ht]
  rcases hu with rfl | rfl
  all_goals exact ⟨(congrArg Agent.regs cur :), (congrArg Agent.npc cur :), (congrArg Agent.loads cur :),
    (congrArg Agent.gate cur :), mem, launch⟩

theorem reaches_addressed {b : PBase} {disp : Word} {dest : Bool} {n : Nat} {need : Rights} {s t : State} {ea : Addr} {a : Acc}
    (h : Reaches b disp dest n need s t ea a) : Addressed s t := by
  obtain ⟨u, operand, reached⟩ := h
  exact addressed_of (effAddr_state operand) (reachAligned_translated reached)

theorem reachesAt_addressed {b : PBase} {need : Rights} {s t : State} {ea : Addr} {a : Acc}
    (h : ReachesAt b need s t ea a) : Addressed s t := by
  obtain ⟨u, operand, reached⟩ := h
  exact addressed_of (baseAddr_state operand) (reachAligned_translated reached)

/-! What stands in the way of a request. -/

theorem hazard_free {s : State} {key n : Nat} (h : heldRange s key n = false) : hazard key n s = .ok ((), s) := by
  simp only [hazard, run_bind, run_get, h, Bool.false_and, Bool.false_eq_true, if_false, run_pure]

theorem loadBetween_ok {s : State} (h : ChunkEmpty s) : loadBetween s = .ok ((), closing s) := by
  simp only [loadBetween, run_bind, endChunk_ok h, closeAfter_ok]

/-- No own request meets these bytes or is on its way to their line (R133). -/
theorem ownPosted_none {s : State} {key n : Nat} (h : (s.core.places[s.cur.place]).entries.filter (fun e =>
    e.req.meets key n || (e.sent && lineOf e.key == lineOf key)) = []) (va : Addr) : ownPosted va key n s = .ok (none, s) := by
  simp only [ownPosted, run_bind, run_get, h, run_pure]

/-- Nothing is out: a release is over as soon as it begins (R136). -/
theorem startRelease_clear {s : State} (he : ChunkEmpty s) (h : Released0 s) : startRelease (closing s) = .ok ((), closing s) := by
  have clear : releaseClear (closing s) = true := releaseClear_of_released (s := closing s) h
  have none : (closing s).cur.rel = none := chunkEmpty_noRelease (s := closing s) he
  simp only [startRelease, releaseOver, run_bind, run_get, none, clear, Option.isSome_none, Bool.not_true, Bool.false_eq_true,
    if_false, run_pure]

theorem atQuantum_free {s : State} (h : s.launch.mode ≠ .quantum) : atQuantum s = .ok ((), s) := by
  simp only [atQuantum, run_bind, run_get, h, false_and, if_false, run_pure]

/-! Remote loads and atomics (R134, R137). -/

theorem inject_mem (c : Cargo) (src dst : Nat) (s : State) : (inject c src dst s).mem = s.mem := by unfold inject; split <;> rfl
theorem inject_launch (c : Cargo) (src dst : Nat) (s : State) : (inject c src dst s).launch = s.launch := by
  unfold inject; split <;> rfl

theorem sendLoad_ok {s : State} (h : s.cur.loads.length < 64) (d : LDst) (va : Addr) (a : Acc) (n : Nat) (signed acq : Bool)
    (atomic : Option (AOp × Word × Word)) (rel plain : Bool) : sendLoad d va a n signed acq atomic rel plain s =
      .ok ((), putLoad (remoteLoad d va a n signed atomic rel plain) a.home acq s) := by
  have room : ¬ Config.maxRemoteLoads ≤ s.cur.loads.length := Nat.not_le.2 h
  simp only [sendLoad, loadRoom, run_bind, run_get, run_ite, if_neg room, run_pure, run_modify]

/-- What an instruction leaves that has put an access on its way. -/
structure Sent (x : RLoad) (acq : Bool) (s t : State) : Prop where
  loads : ∃ id inc pc, t.cur.loads = s.cur.loads ++ [{ x with id := id, inc := inc, pc := pc }]
  gate : t.cur.gate = (s.cur.gate || acq)
  regs : t.cur.regs = { s.cur.regs with pc := s.cur.npc }
  mem : t.mem = s.mem
  launch : t.launch = s.launch

theorem gate_finish (t : State) : (finish t).cur.gate = t.cur.gate := by
  unfold finish; split <;> rfl

theorem issue_sends {l : Legal} {body : Run Unit} {s u : State} {x : RLoad} {home : Nat} {acq : Bool} (hr : Ready l s)
    (ha : Addressed s u) (he : ChunkEmpty u) (hb : body s = .ok ((), putLoad x home acq (closing u))) :
    ∃ t, issue l body s = .next t ∧ Sent x acq s t := by
  have empty : ChunkEmpty (putLoad x home acq (closing u)) := by unfold ChunkEmpty; rw [putLoad_cur]; exact he
  refine ⟨_, issue_ok hr hb (.inr empty), ⟨u.cur.nextLoad, (u.getPkg x.pkg).inc, u.cur.regs.pc, ?_⟩, ?_, ?_, ?_, ?_⟩
  · rw [loads_finish, putLoad_cur, ← ha.loads]
    rfl
  · rw [gate_finish, putLoad_cur, ← ha.gate]
    rfl
  · rw [finish_regs, putLoad_cur, ← ha.regs, ← ha.npc]
    rfl
  · rw [finish_mem, putLoad, inject_mem]
    exact ha.mem
  · rw [finish_launch, putLoad, inject_launch]
    exact ha.launch

/-! Posted requests (R132). -/

/-- A journal that holds fewer than 32 entries has a number left for another. -/
theorem journal_room {l : List JEntry} (h : l.length < 32) :
    ∃ k, (List.range Config.journalSize).find? (fun k => !l.any fun e => e.id.entry == k) = some k := by
  refine Option.isSome_iff_exists.1 (Option.isSome_iff_ne_none.2 fun full => ?_)
  have taken : List.range Config.journalSize ⊆ l.map (·.id.entry) := by
    intro k hk
    have used := List.find?_eq_none.1 full k hk
    simpa using used
  have count := (List.subperm_of_subset List.nodup_range taken).length_le
  rw [List.length_range, List.length_map] at count
  exact absurd count (Nat.not_le.2 h)

/-- A journal entry of a request that has not been sent. -/
structure Unsent (va : Addr) (a : Acc) (req : PReq) (e : JEntry) : Prop where
  key : e.key = a.key
  va : e.va = va
  pkg : e.pkg = a.pkg
  sent : e.sent = false
  req : e.req = req

/-- The journal of the agent in front takes an entry. -/
def journaled (e : JEntry) (s : State) : State :=
  s.modPlace s.core.id s.cur.place fun p => { p with entries := p.entries ++ [e] }

theorem journaled_eq (e : JEntry) (s : State) : journaled e s = { s with core := { s.core with
    places := s.core.places.set s.cur.place { s.core.places[s.cur.place] with
      entries := (s.core.places[s.cur.place]).entries ++ [e] } } } := by
  rw [journaled, State.modPlace, State.modCore, if_pos rfl]

/-- Where no entry stands to its line, a request takes one of its own. -/
theorem postRequest_ok {s : State} {a : Acc} (hroom : (s.core.places[s.cur.place]).entries.length < 32)
    (hline : ∀ e ∈ (s.core.places[s.cur.place]).entries, lineOf e.key ≠ lineOf a.key) (va : Addr) (req : PReq) (rel : Bool) :
    ∃ e, postRequest a va req rel s = .ok ((), journaled e s) ∧ Unsent va a req e := by
  have none : (s.core.places[s.cur.place]).entries.filter (fun e => lineOf e.key == lineOf a.key) = [] :=
    List.filter_eq_nil_iff.2 fun e he => by simpa using hline e he
  obtain ⟨k, free⟩ := journal_room hroom
  apply Exists.intro
  constructor
  · simp only [postRequest, run_bind, run_get, none, List.getLast?_nil, free, run_modify]
    rfl
  · exact ⟨rfl, rfl, rfl, rfl, rfl⟩

/-- What an instruction leaves that has posted a request. -/
structure Journaled (e : JEntry) (i : Fin 7) (old : List JEntry) (s t : State) : Prop where
  entries : (t.core.places[i]).entries = old ++ [e]
  regs : t.cur.regs = { s.cur.regs with pc := s.cur.npc }
  mem : t.mem = s.mem
  launch : t.launch = s.launch

theorem issue_posts {l : Legal} {body : Run Unit} {s u : State} {e : JEntry} (hr : Ready l s)
    (ha : Addressed s u) (he : ChunkEmpty u) (hb : body s = .ok ((), journaled e (closing u))) :
    ∃ t, issue l body s = .next t ∧ Journaled e u.cur.place (u.core.places[u.cur.place]).entries s t := by
  rw [journaled_eq] at hb
  refine ⟨_, issue_ok hr hb (.inr he), ?_, ?_, ?_, ?_⟩
  · rw [finish_core]
    exact congrArg Place.entries (Vector.getElem_set_self _)
  · rw [finish_regs, ← ha.regs, ← ha.npc]
    rfl
  · rw [finish_mem]
    exact ha.mem
  · rw [finish_launch]
    exact ha.launch

end Sys2Proof.Machine
end

section
open Sys2Proof Sys2Proof.Machine

namespace Sys2Proof.Claims

/-! Loads from another package. -/

section
variable {s u : State} {b : PBase} {disp : Word} {ea : Addr} {a : Acc} {n : Nat} (hr : Ready onXA s)
  (hreach : Reaches b disp false n rR s u ea a) (hpkg : a.pkg ≠ u.pkg) (hempty : ChunkEmpty u)
  (hroom : u.cur.loads.length < 64) (hsb : sbCovers u ea a.key n = false)
  (hown : (u.core.places[u.cur.place]).entries.filter
    (fun e => e.req.meets a.key n || (e.sent && lineOf e.key == lineOf a.key)) = [])
include hr hreach hpkg hempty hroom hsb hown

theorem load_sends (signed : Bool) (k : LKind) (d : LDst) :
    ∃ t, issue onXA (runLoad b disp n signed k d) s = .next t ∧ SentLoad d ea a n signed (decide (k = .acq)) s t := by
  have body : runLoad b disp n signed k d s = .ok ((), putLoad (remoteLoad d ea a n signed none false (decide (k = .plain))) a.home
      (decide (k = .acq)) (closing u)) := by
    obtain ⟨s0, operand, reached⟩ := hreach
    simp only [runLoad, run_bind, operand, reached, run_get, hpkg, if_false, loadBetween_ok hempty, hsb, Bool.false_eq_true,
      ownPosted_none (s := closing u) hown]
    exact sendLoad_ok (s := closing u) hroom _ _ _ _ _ _ _ _ _
  obtain ⟨t, steps, sent⟩ := issue_sends hr (reaches_addressed hreach) hempty body
  obtain ⟨⟨id, inc, pc, loads⟩, gate, regs, mem, -⟩ := sent
  exact ⟨t, steps, _, loads, rfl, rfl, rfl, rfl, rfl, rfl, rfl, rfl, gate, by rw [regs], by rw [regs], mem, by rw [regs]⟩

end

/-! Stores to another package. -/

/-- A store's entry stands last in the journal, and no register and no byte has changed. -/
def PostedStore (ea : Addr) (a : Acc) (bs : List Byte) (s u t : State) : Prop :=
  (∃ e, (t.core.places[u.cur.place]).entries = (u.core.places[u.cur.place]).entries ++ [e] ∧ e.key = a.key ∧ e.va = ea ∧
    e.pkg = a.pkg ∧ e.sent = false ∧ e.req = .store (cellsAt a.key bs) (wholeWords (cellsAt a.key bs)) []) ∧
  t.mem = s.mem ∧ t.launch.lmem = s.launch.lmem ∧ t.cur.regs.g = s.cur.regs.g ∧ t.cur.regs.p = s.cur.regs.p ∧
  t.cur.regs.pc = s.cur.npc

section
variable {u : State} {a : Acc} {n : Nat} (hpkg : a.pkg ≠ u.pkg) (hempty : ChunkEmpty u) (hheld : heldRange u a.key n = false)
  (hbuf : buffered u = false) (hroom : (u.core.places[u.cur.place]).entries.length < 32)
  (hline : ∀ e ∈ (u.core.places[u.cur.place]).entries, lineOf e.key ≠ lineOf a.key)

section
include hpkg hempty hheld hbuf hroom hline

theorem storeAt_posts (ea : Addr) {bs : List Byte} (hbs : bs.length = n) {rel : Bool} (hrel : rel = true → Released0 u) :
    ∃ e, storeAt ea a bs rel u = .ok ((), journaled e (closing u)) ∧
      Unsent ea a (.store (cellsAt a.key bs) (wholeWords (cellsAt a.key bs)) []) e := by
  subst hbs
  have outside : buffered (closing u) = false := hbuf
  obtain ⟨e, posts, entry⟩ := postRequest_ok (s := closing u) hroom hline ea
    (.store (cellsAt a.key bs) (wholeWords (cellsAt a.key bs)) []) rel
  refine ⟨e, ?_, entry⟩
  simp only [storeAt, run_bind, hazard_free hheld, run_get, hpkg, if_false, betweenChunks_ok hempty, hbuf, Bool.not_false,
    Bool.and_true]
  cases rel with
  | false => simp only [sendOut, run_bind, run_get, outside, Bool.false_eq_true, if_false, posts]
  | true => simp only [if_true, run_bind, startRelease_clear hempty (hrel rfl), sendOut, run_get, outside, Bool.false_eq_true,
      if_false, posts]

end

variable {s : State} {b : PBase} {disp : Word} {ea : Addr} (hr : Ready onXA s) (hreach : Reaches b disp true n rW s u ea a)

include hr hreach hempty in
theorem store_completes {body : Run Unit} {bs : List Byte} {e : JEntry} (hb : body s = .ok ((), journaled e (closing u)))
    (he : Unsent ea a (.store (cellsAt a.key bs) (wholeWords (cellsAt a.key bs)) []) e) :
    ∃ t, issue onXA body s = .next t ∧ PostedStore ea a bs s u t := by
  obtain ⟨t, steps, entries, regs, mem, launch⟩ := issue_posts hr (reaches_addressed hreach) hempty hb
  exact ⟨t, steps, ⟨e, entries, he.key, he.va, he.pkg, he.sent, he.req⟩, mem, by rw [launch], by rw [regs], by rw [regs],
    by rw [regs]⟩

include hr hreach hpkg hempty hheld hbuf hroom hline

theorem st_posts {g : GReg} (hg : Readable u g) {rel : Bool} (hrel : rel = true → Released0 u) :
    ∃ t, issue onXA (runStore (.reg g) b disp n rel) s = .next t ∧ PostedStore ea a (toBytes n (gval u g).toNat) s u t := by
  obtain ⟨e, posts, entry⟩ := storeAt_posts hpkg hempty hheld hbuf hroom hline ea (toBytes_length n (gval u g).toNat) hrel
  refine store_completes hempty hr hreach ?_ entry
  obtain ⟨s0, operand, reached⟩ := hreach
  simp only [runStore, run_bind, operand, reached, readOp, readG_ok hg, posts]

theorem stp_posts (hn : n = 16) {p : BitVec 4} (hp : PReadable u p) {rel : Bool} (hrel : rel = true → Released0 u) :
    ∃ t, issue onXA (runStp p b disp rel) s = .next t ∧ PostedStore ea a (toBytes 16 (pval u p).toNat) s u t := by
  subst hn
  obtain ⟨e, posts, entry⟩ := storeAt_posts hpkg hempty hheld hbuf hroom hline ea (toBytes_length 16 (pval u p).toNat) hrel
  refine store_completes hempty hr hreach ?_ entry
  obtain ⟨s0, operand, reached⟩ := hreach
  simp only [runStp, run_bind, operand, reached, readP_ok hp, posts]

end

/-! Atomics of another package. -/

section
variable {s u : State} {b : PBase} {c d : GReg} {ea : Addr} {a : Acc} (hr : Ready onXA s) (hc : Readable s c)
  (hreach : ReachesAt b 11 s u ea a) (hpkg : a.pkg ≠ u.pkg) (hheld : heldRange u a.key 8 = false) (hempty : ChunkEmpty u)
  (hbuf : buffered u = false) (hmode : u.launch.mode ≠ .quantum) (hroom : u.cur.loads.length < 64)
  (hown : (u.core.places[u.cur.place]).entries.filter
    (fun e => e.req.meets a.key 8 || (e.sent && lineOf e.key == lineOf a.key)) = [])
include hr hreach hpkg hheld hempty hbuf hmode hroom hown

theorem atomic_sends {i : Instr} {body : Run Unit} {op : AOp} {x cmp : Word} {acq rel : Bool} (hrel : rel = true → Released0 u)
    (hi : exec i s = issue onXA body s) (hb : body s = runAtomic (.g d) b x cmp op acq rel s) :
    SentAtomic i ea a op x cmp acq rel d s := by
  have sends : runAtomic (.g d) b x cmp op acq rel s =
      .ok ((), putLoad (remoteLoad (.g d) ea a 8 false (some (op, x, cmp)) rel false) a.home acq (closing u)) := by
    have away : a.pkg ≠ (closing u).pkg := hpkg
    have outside : buffered (closing u) = false := hbuf
    obtain ⟨s0, operand, reached⟩ := hreach
    have reached : reachAligned ea 8 (rR ||| rW ||| Machine.rA) s0 = .ok (a, u) := reached
    have load := sendLoad_ok (s := closing u) hroom (.g d) ea a 8 false acq (some (op, x, cmp)) rel false
    simp only [runAtomic, run_bind, operand, reached, hazard_free hheld, betweenChunks_ok hempty]
    cases rel with
    | false => simp only [Bool.false_eq_true, if_false, run_bind, run_get, away, ne_eq, not_false_eq_true, if_true, outside,
        ownPosted_none (s := closing u) hown, atQuantum_free (s := closing u) hmode, load]
    | true => simp only [if_true, run_bind, released_closing hempty (hrel rfl), run_get, away, ne_eq, not_false_eq_true,
        Bool.false_eq_true, if_false, outside, ownPosted_none (s := closing u) hown, atQuantum_free (s := closing u) hmode, load]
  obtain ⟨t, done, ⟨id, inc, pc, loads⟩, gate, regs, mem, launch⟩ :=
    issue_sends hr (reachesAt_addressed hreach) hempty (hb.trans sends)
  exact ⟨t, _, hi.trans done, loads, rfl, rfl, rfl, rfl, rfl, rfl, gate, mem, by rw [launch], by rw [regs], by rw [regs]⟩

include hc

theorem op_sends {i : Instr} {op : AOp} {acq rel : Bool} (hrel : rel = true → Released0 u)
    (hi : exec i s = execOp (.reg d) b c op acq rel s) : SentAtomic i ea a op (gval s c) 0 acq rel d s :=
  atomic_sends hr hreach hpkg hheld hempty hbuf hmode hroom hown hrel hi (by simp only [run_bind, readG_ok hc, gDst])

theorem cas_sends (hd : Readable s d) {i : Instr} {acq rel : Bool} (hrel : rel = true → Released0 u)
    (hi : exec i s = execCas d b c acq rel s) : SentAtomic i ea a .cas (gval s c) (gval s d) acq rel d s :=
  atomic_sends hr hreach hpkg hheld hempty hbuf hmode hroom hown hrel hi (by simp only [run_bind, readG_ok hd, readG_ok hc])

end

end Sys2Proof.Claims
end

section
open Sys2Proof Sys2Proof.Machine Sys2Proof.Claims

/-- Settles O21: loads and atomics end in one access on its way, stores in one journal entry; the issue then completes with registers
and memory as they were. -/
theorem remoteAccessIsSent : Obligations.RemoteAccessIsSent := by
  unfold Obligations.RemoteAccessIsSent
  refine ⟨?loads, ?stores, ?atomics⟩
  case loads =>
    intro s u b disp ea a n hr hreach hpkg hempty hroom hsb hown
    have sends := load_sends hr hreach hpkg hempty hroom hsb hown
    refine ⟨fun sz g hn => ?_, fun hn g p => ?_⟩
    · subst hn
      exact ⟨sends false .plain _, sends false .home _, sends true .plain _, sends true .home _, sends false .acq _⟩
    · subst hn
      exact ⟨sends false .plain _, sends false .home _, sends false .acq _, sends false .plain _, sends false .home _,
        sends false .acq _⟩
  case stores =>
    intro s u b disp ea a n hr hreach hpkg hempty hheld hbuf old hroom hline Posted
    refine ⟨fun sz g hn hg => ?_, fun hn p hp => ?_⟩
    · subst hn
      exact ⟨st_posts hpkg hempty hheld hbuf hroom hline hr hreach hg (rel := false) nofun,
        fun released => st_posts hpkg hempty hheld hbuf hroom hline hr hreach hg fun _ => released⟩
    · exact ⟨stp_posts hpkg hempty hheld hbuf hroom hline hr hreach hn hp (rel := false) nofun,
        fun released => stp_posts hpkg hempty hheld hbuf hroom hline hr hreach hn hp fun _ => released⟩
  case atomics =>
    intro s u b c ea a d hr hc hreach hpkg hheld hempty hbuf hmode hroom hown
    refine ⟨fun p hp => ?_, fun hd => ?_⟩
    · rcases hp with rfl | rfl | rfl | rfl | rfl | rfl | rfl
      all_goals exact ⟨op_sends hr hc hreach hpkg hheld hempty hbuf hmode hroom hown nofun rfl,
        op_sends hr hc hreach hpkg hheld hempty hbuf hmode hroom hown nofun rfl,
        fun released => op_sends hr hc hreach hpkg hheld hempty hbuf hmode hroom hown (fun _ => released) rfl⟩
    · exact ⟨cas_sends hr hc hreach hpkg hheld hempty hbuf hmode hroom hown hd nofun rfl,
        cas_sends hr hc hreach hpkg hheld hempty hbuf hmode hroom hown hd nofun rfl,
        fun released => cas_sends hr hc hreach hpkg hheld hempty hbuf hmode hroom hown hd (fun _ => released) rfl⟩

end

section
/-! A refused store of a thread on X that names another thread as its host (R25, R80, R146). -/

namespace Sys2Proof.Machine

/-- A store of thread 1 to package 1. -/
def refusedStore : Posted :=
  { id := { core := 0, place := 0, lcore := 0, entry := 0, seqn := 0 }, tid := 1, launch := 0, seq := .x, pkg := 1, home := 0
    va := 0, key := 0, req := .store [] [] [], released := none }

/-- Thread 1 runs on X outside views and names thread 2, the rival of `hitchedWorld`, as its host; the refusal of its store has come. -/
def hostedThread : State :=
  { State.reset with
    cur := { Agent.new 1 with host := some 2 }
    agents := [{ Agent.new 2 with tag := 1, world := some 0 }]
    launch := { Launch.none with phase := .running, worlds := [hitchedWorld] }
    packages := [{ Package.new 0 with inReset := false }]
    net := [.refusal refusedStore cRefused 0] }

theorem inFront_hostedThread : Claims.InFront hostedThread refusedStore.launch refusedStore.id.lcore :=
  ⟨⟨rfl, rfl, rfl⟩, rfl, rfl⟩

/-- The fault is one of the host, whose rival fails (R80): the launch goes on. -/
theorem remoteRefused_hostedThread : ∃ t, exec (.remoteRefused 0) hostedThread = .next t ∧ t.launch.fatal = none :=
  ⟨_, rfl, by decide +kernel⟩

end Sys2Proof.Machine
end

section
open Sys2Proof Sys2Proof.Machine Sys2Proof.Claims

/-- Refutes O52: the statement asks that the thread on X whose store is refused run in no rival's view, and lets it name a host that
does. The fault is the host's, so that its rival fails (R80), and the launch does not end. -/
theorem not_postedRequestsResult : ¬ Obligations.PostedRequestsResult := by
  unfold Obligations.PostedRequestsResult
  rintro ⟨-, -, -, refused, -⟩
  obtain ⟨t, r, -, steps, ends, -⟩ := refused hostedThread 0 refusedStore cRefused 0 hostedThread.cur rfl inFront_hostedThread
    (by decide +kernel) (by decide +kernel) (by decide +kernel) rfl rfl rfl (by decide +kernel) rfl rfl
  obtain ⟨u, steps', goesOn⟩ := remoteRefused_hostedThread
  cases steps.symm.trans steps'
  cases ends.symm.trans goesOn

end

section
/-! The calendar of R151: a phase pairs sources with receivers, none of them twice, and the calendar carries the demand exactly. -/

namespace Sys2Proof.Machine
open Sys2Proof.Claims

/-! The receiver that a source chooses. -/

/-- A source may choose the receiver: it is another rank, not chosen yet, for which there is demand. -/
structure MayChoose (d : Nat → Nat → Nat) (chosen : List (Nat × Nat)) (s k : Nat) : Prop where
  other : k ≠ s
  untaken : ∀ x ∈ chosen, x.2 ≠ k
  demanded : 0 < d s k

/-- One receiver more that a source looks at, where `best` is the one with the most demand so far. -/
def keepLarger (d : Nat → Nat → Nat) (chosen : List (Nat × Nat)) (s : Nat) (best : Option Nat) (k : Nat) : Option Nat :=
  if k ≠ s ∧ ¬ chosen.any (fun x => x.2 == k) ∧ 0 < d s k ∧
      (match best with | some b => decide (d s b < d s k) | none => true) = true then some k else best

/-- The receiver that a source chooses, of those in `l` and the one found before. -/
def largestOf (d : Nat → Nat → Nat) (chosen : List (Nat × Nat)) (s : Nat) (l : List Nat) (best : Option Nat) : Option Nat :=
  l.foldl (keepLarger d chosen s) best

/-- The choice of one more source. -/
def addSource (d : Nat → Nat → Nat) (p : Nat) (chosen : List (Nat × Nat)) (s : Nat) : List (Nat × Nat) :=
  match largestOf d chosen s (List.range p) none with
  | some k => chosen ++ [(s, k)]
  | none => chosen

theorem choosePhase_eq (d : Nat → Nat → Nat) (p : Nat) : choosePhase d p = (List.range p).foldl (addSource d p) [] := rfl

section
variable {d : Nat → Nat → Nat} {chosen : List (Nat × Nat)} {s : Nat}

theorem keepLarger_some {best : Option Nat} {k b : Nat} (h : keepLarger d chosen s best k = some b) :
    best = some b ∨ b = k ∧ MayChoose d chosen s k := by
  obtain ⟨⟨other, untaken, demanded, -⟩, eq⟩ | ⟨-, eq⟩ := ite_eq_iff.mp h
  · cases eq
    refine .inr ⟨rfl, other, fun x hx taken => untaken ?_, demanded⟩
    exact List.any_eq_true.mpr ⟨x, hx, beq_iff_eq.mpr taken⟩
  · exact .inl eq

theorem keepLarger_isSome {best : Option Nat} {k : Nat} (h : best.isSome ∨ MayChoose d chosen s k) :
    (keepLarger d chosen s best k).isSome := by
  cases best with
  | some b => unfold keepLarger; rw [apply_ite Option.isSome, Option.isSome_some, Option.isSome_some, ite_self]
  | none =>
    obtain none | may := h
    · cases none
    · have untaken : ¬ chosen.any (fun x => x.2 == k) = true := fun taken => by
        obtain ⟨x, hx, eq⟩ := List.any_eq_true.mp taken
        exact may.untaken x hx (beq_iff_eq.mp eq)
      rw [keepLarger, if_pos ⟨may.other, untaken, may.demanded, rfl⟩]
      rfl

theorem largestOf_some {l : List Nat} {best : Option Nat} {b : Nat} (h : largestOf d chosen s l best = some b) :
    best = some b ∨ b ∈ l ∧ MayChoose d chosen s b := by
  induction l generalizing best with
  | nil => exact .inl h
  | cons k l ih =>
    obtain found | ⟨mem, may⟩ := ih h
    · obtain before | ⟨rfl, may⟩ := keepLarger_some found
      · exact .inl before
      · exact .inr ⟨List.mem_cons_self, may⟩
    · exact .inr ⟨List.mem_cons_of_mem k mem, may⟩

theorem largestOf_isSome {l : List Nat} {best : Option Nat} (h : best.isSome ∨ ∃ k ∈ l, MayChoose d chosen s k) :
    (largestOf d chosen s l best).isSome := by
  induction l generalizing best with
  | nil =>
    obtain found | ⟨k, mem, -⟩ := h
    · exact found
    · cases mem
  | cons k l ih =>
    refine ih ?_
    obtain found | ⟨j, mem, may⟩ := h
    · exact .inl (keepLarger_isSome (.inl found))
    · obtain rfl | mem := List.mem_cons.mp mem
      · exact .inl (keepLarger_isSome (.inr may))
      · exact .inr ⟨j, mem, may⟩

end

/-! One phase. -/

/-- No two pairs with one source or one receiver. -/
abbrev Apart (pairs : List (Nat × Nat)) : Prop := pairs.Pairwise fun u v => u.1 ≠ v.1 ∧ u.2 ≠ v.2

/-- Pairs of the first `n` sources that may stand in one phase: each has demand. -/
structure PhasePairs (d : Nat → Nat → Nat) (p n : Nat) (pairs : List (Nat × Nat)) : Prop where
  apart : Apart pairs
  source : ∀ x ∈ pairs, x.1 < n
  receiver : ∀ x ∈ pairs, x.2 < p
  other : ∀ x ∈ pairs, x.1 ≠ x.2
  demanded : ∀ x ∈ pairs, 0 < d x.1 x.2

theorem PhasePairs.addSource {d : Nat → Nat → Nat} {p n : Nat} {pairs : List (Nat × Nat)} (h : PhasePairs d p n pairs) :
    PhasePairs d p (n + 1) (addSource d p pairs n) := by
  unfold Machine.addSource
  cases found : largestOf d pairs n (List.range p) none with
  | none => exact { h with source := fun x hx => Nat.lt_succ_of_lt (h.source x hx) }
  | some k =>
    obtain none | ⟨mem, other, untaken, demanded⟩ := largestOf_some found
    · cases none
    · have new {P : Nat × Nat → Prop} (old : ∀ x ∈ pairs, P x) (last : P (n, k)) : ∀ x ∈ pairs ++ [(n, k)], P x := by
        simpa [or_imp, forall_and] using And.intro (fun a b hx => old (a, b) hx) last
      constructor
      · refine List.pairwise_append.mpr ⟨h.apart, List.pairwise_singleton _ _, fun x hx y hy => ?_⟩
        cases List.mem_singleton.mp hy
        exact ⟨Nat.ne_of_lt (h.source x hx), untaken x hx⟩
      · exact new (fun x hx => Nat.lt_succ_of_lt (h.source x hx)) (Nat.lt_succ_self n)
      · exact new h.receiver (List.mem_range.mp mem)
      · exact new h.other other.symm
      · exact new h.demanded demanded

theorem phasePairs_foldl (d : Nat → Nat → Nat) (p n : Nat) : PhasePairs d p n ((List.range n).foldl (addSource d p) []) := by
  induction n with
  | zero => exact ⟨.nil, nofun, nofun, nofun, nofun⟩
  | succ n ih =>
    rw [List.range_succ, List.foldl_append]
    exact ih.addSource

theorem choosePhase_pairs (d : Nat → Nat → Nat) (p : Nat) : PhasePairs d p p (choosePhase d p) := by
  rw [choosePhase_eq]; exact phasePairs_foldl d p p

theorem addSource_ne_nil {d : Nat → Nat → Nat} {p s : Nat} {chosen : List (Nat × Nat)} (h : chosen ≠ []) : addSource d p chosen s ≠ [] := by
  unfold addSource
  split
  · exact List.append_ne_nil_of_left_ne_nil h _
  · exact h

theorem foldl_addSource_ne_nil {d : Nat → Nat → Nat} {p k n i : Nat} (hi : i < n) (hk : k < p) (hne : i ≠ k) (hpos : 0 < d i k) :
    (List.range n).foldl (addSource d p) [] ≠ [] := by
  induction n with
  | zero => cases hi
  | succ n ih =>
    rw [List.range_succ, List.foldl_append, List.foldl_cons, List.foldl_nil]
    by_cases before : (List.range n).foldl (addSource d p) [] = []
    · have here : i = n := by
        by_contra earlier
        exact ih (by omega) before
      subst here
      have may : MayChoose d [] i k := ⟨hne.symm, nofun, hpos⟩
      obtain ⟨b, chosen⟩ := Option.isSome_iff_exists.mp (largestOf_isSome (best := none) (.inr ⟨k, List.mem_range.mpr hk, may⟩))
      rw [before, addSource, chosen]
      exact List.cons_ne_nil _ _
    · exact addSource_ne_nil before

/-- While there is demand between two ranks, a phase has a pair. -/
theorem choosePhase_ne_nil {d : Nat → Nat → Nat} {p i k : Nat} (hi : i < p) (hk : k < p) (hne : i ≠ k) (hpos : 0 < d i k) :
    choosePhase d p ≠ [] := by
  rw [choosePhase_eq]; exact foldl_addSource_ne_nil hi hk hne hpos

/-! The length of a phase, and the demand that it leaves. -/

/-- The length of a phase: the least demand of its pairs. -/
def phaseLen (d : Nat → Nat → Nat) (x : Nat × Nat) (l : List (Nat × Nat)) : Nat :=
  l.foldl (fun k x => min k (d x.1 x.2)) (d x.1 x.2)

theorem foldl_min_spec (d : Nat → Nat → Nat) (l : List (Nat × Nat)) (k : Nat) :
    let r := l.foldl (fun k x => min k (d x.1 x.2)) k
    r ≤ k ∧ (∀ x ∈ l, r ≤ d x.1 x.2) ∧ (r = k ∨ ∃ x ∈ l, r = d x.1 x.2) := by
  induction l generalizing k with
  | nil => exact ⟨Nat.le_refl k, nofun, .inl rfl⟩
  | cons y l ih =>
    obtain ⟨le, least, attained⟩ := ih (min k (d y.1 y.2))
    refine ⟨le.trans (Nat.min_le_left _ _), List.forall_mem_cons.mpr ⟨le.trans (Nat.min_le_right _ _), least⟩, ?_⟩
    obtain first | ⟨x, mem, eq⟩ := attained
    · rcases Nat.le_total k (d y.1 y.2) with h | h
      · exact .inl (first.trans (Nat.min_eq_left h))
      · exact .inr ⟨y, List.mem_cons_self, first.trans (Nat.min_eq_right h)⟩
    · exact .inr ⟨x, List.mem_cons_of_mem y mem, eq⟩

theorem phaseLen_le (d : Nat → Nat → Nat) {x y : Nat × Nat} {l : List (Nat × Nat)} (h : y ∈ x :: l) : phaseLen d x l ≤ d y.1 y.2 := by
  obtain ⟨le, least, -⟩ := foldl_min_spec d l (d x.1 x.2)
  obtain rfl | mem := List.mem_cons.mp h
  · exact le
  · exact least y mem

theorem phaseLen_attained (d : Nat → Nat → Nat) (x : Nat × Nat) (l : List (Nat × Nat)) : ∃ y ∈ x :: l, phaseLen d x l = d y.1 y.2 := by
  obtain ⟨-, -, first | ⟨y, mem, eq⟩⟩ := foldl_min_spec d l (d x.1 x.2)
  · exact ⟨x, List.mem_cons_self, first⟩
  · exact ⟨y, List.mem_cons_of_mem x mem, eq⟩

/-- The demand matrix behind a phase. -/
def afterPhase (p : Nat) (m : List (List Nat)) (pairs : List (Nat × Nat)) (len : Nat) : List (List Nat) :=
  (List.range p).map fun a => (List.range p).map fun b =>
    if (a, b) ∈ pairs then entry m a b - len else entry m a b

theorem entry_afterPhase {p a b : Nat} (ha : a < p) (hb : b < p) (m : List (List Nat)) (pairs : List (Nat × Nat)) (len : Nat) :
    entry (afterPhase p m pairs len) a b = entry m a b - if (a, b) ∈ pairs then len else 0 := by
  by_cases same : a = b
  · simp [entry, same]
  · have read : entry (afterPhase p m pairs len) a b = if (a, b) ∈ pairs then entry m a b - len else entry m a b := by
      simp [entry, afterPhase, same, ha, hb]
    rw [read]
    split <;> rfl

/-- One step of the calendar: the phase of the chosen pairs, and the calendar of what it leaves. -/
theorem calendar_cons {p n : Nat} {m : List (List Nat)} {x : Nat × Nat} {l : List (Nat × Nat)}
    (h : choosePhase (entry m) p = x :: l) : calendar p (n + 1) m =
      { pairs := x :: l, len := phaseLen (entry m) x l } :: calendar p n (afterPhase p m (x :: l) (phaseLen (entry m) x l)) := by
  rw [calendar, h]
  rfl

theorem calendar_nil {p n : Nat} {m : List (List Nat)} (h : choosePhase (entry m) p = []) : calendar p (n + 1) m = [] := by
  rw [calendar, h]

/-! The phases of the calendar. -/

theorem calendar_phases (p n : Nat) (m : List (List Nat)) : ∀ ph ∈ calendar p n m, 0 < ph.len ∧ ph.pairs ≠ [] ∧ Apart ph.pairs := by
  induction n generalizing m with
  | zero => exact nofun
  | succ n ih =>
    have pairs := choosePhase_pairs (entry m) p
    cases chosen : choosePhase (entry m) p with
    | nil => rw [calendar_nil chosen]; exact nofun
    | cons x l =>
      rw [chosen] at pairs
      obtain ⟨y, mem, len⟩ := phaseLen_attained (entry m) x l
      rw [calendar_cons chosen]
      refine List.forall_mem_cons.mpr ⟨⟨?_, List.cons_ne_nil x l, pairs.apart⟩, ih _⟩
      exact (pairs.demanded y mem).trans_eq len.symm

/-! Each phase serves one pair to its end, so that as many phases as there are pairs with demand serve them all. -/

/-- The pairs of ranks with demand. -/
def demandedPairs (p : Nat) (m : List (List Nat)) : Finset (Nat × Nat) :=
  (Finset.range p ×ˢ Finset.range p).filter fun x => 0 < entry m x.1 x.2

theorem mem_demandedPairs {p : Nat} {m : List (List Nat)} {x : Nat × Nat} :
    x ∈ demandedPairs p m ↔ (x.1 < p ∧ x.2 < p) ∧ 0 < entry m x.1 x.2 := by
  simp [demandedPairs]

theorem card_demandedPairs_le (p : Nat) (m : List (List Nat)) : (demandedPairs p m).card ≤ p * p := by
  refine (Finset.card_filter_le _ _).trans_eq ?_
  rw [Finset.card_product, Finset.card_range]

theorem card_demandedPairs_afterPhase {p : Nat} {m : List (List Nat)} {x : Nat × Nat} {l : List (Nat × Nat)}
    (h : choosePhase (entry m) p = x :: l) :
    (demandedPairs p (afterPhase p m (x :: l) (phaseLen (entry m) x l))).card < (demandedPairs p m).card := by
  have pairs := choosePhase_pairs (entry m) p
  rw [h] at pairs
  obtain ⟨y, mem, len⟩ := phaseLen_attained (entry m) x l
  have inside : y.1 < p ∧ y.2 < p := ⟨pairs.source y mem, pairs.receiver y mem⟩
  refine Finset.card_lt_card (Finset.ssubset_iff_of_subset (fun z hz => ?_) |>.mpr ⟨y, ?_, fun hy => ?_⟩)
  · obtain ⟨⟨ha, hb⟩, left⟩ := mem_demandedPairs.mp hz
    rw [entry_afterPhase ha hb] at left
    exact mem_demandedPairs.mpr ⟨⟨ha, hb⟩, by omega⟩
  · exact mem_demandedPairs.mpr ⟨inside, pairs.demanded y mem⟩
  · obtain ⟨-, left⟩ := mem_demandedPairs.mp hy
    rw [entry_afterPhase inside.1 inside.2, if_pos mem, len, Nat.sub_self] at left
    exact Nat.lt_irrefl 0 left

/-- With a phase for each pair that has demand, the calendar carries the demand exactly. -/
theorem carried_calendar {p n : Nat} {m : List (List Nat)} (hn : (demandedPairs p m).card ≤ n) {i j : Nat} (hi : i < p) (hj : j < p)
    (hne : i ≠ j) : carried (calendar p n m) i j = entry m i j := by
  induction n generalizing m with
  | zero =>
    have served : ¬ 0 < entry m i j := fun left => by
      have mem : (i, j) ∈ demandedPairs p m := mem_demandedPairs.mpr ⟨⟨hi, hj⟩, left⟩
      exact absurd (Finset.card_pos.mpr ⟨_, mem⟩) (by omega)
    exact (Nat.eq_zero_of_not_pos served).symm
  | succ n ih =>
    cases chosen : choosePhase (entry m) p with
    | nil =>
      have served : ¬ 0 < entry m i j := fun left => choosePhase_ne_nil hi hj hne left chosen
      rw [calendar_nil chosen]
      exact (Nat.eq_zero_of_not_pos served).symm
    | cons x l =>
      have rest := ih (m := afterPhase p m (x :: l) (phaseLen (entry m) x l)) (by have := card_demandedPairs_afterPhase chosen; omega)
      rw [entry_afterPhase hi hj] at rest
      have step : carried (calendar p (n + 1) m) i j = (if (i, j) ∈ x :: l then phaseLen (entry m) x l else 0) +
          carried (calendar p n (afterPhase p m (x :: l) (phaseLen (entry m) x l))) i j := by
        simp only [calendar_cons chosen, carried, List.map_cons, List.sum_cons, List.contains_iff_mem]
      rw [step, rest]
      split
      · next mem => exact Nat.add_sub_cancel' (phaseLen_le (entry m) mem)
      · rw [Nat.zero_add, Nat.sub_zero]

end Sys2Proof.Machine
end

section
/-! Logical cores by number: what a change of one leaves of the others. -/

namespace Sys2Proof.Machine

theorem getLc_id (s : State) (n : Nat) : (s.getLc n).id = n := by
  unfold State.getLc
  split
  · assumption
  · cases found : s.launch.lcores.find? (·.id == n) with
    | none => rfl
    | some lc => simpa using List.find?_some found

theorem getLc_of_eq {s t : State} (hlc : t.lc = s.lc) (hl : t.launch.lcores = s.launch.lcores) (hp : t.packages = s.packages) (n : Nat) :
    t.getLc n = s.getLc n := by
  simp only [State.getLc, freshLc, placeOf, hlc, hl, hp]

theorem getLc_modLc_ne (s : State) {n m : Nat} (hne : m ≠ n) {f : LCore → LCore} (hf : ∀ lc, (f lc).id = lc.id) :
    (s.modLc n f).getLc m = s.getLc m := by
  have keeps : ∀ lc : LCore, ((f lc).id == m) = (lc.id == m) := fun lc => by rw [hf]
  have misses : ∀ lc : LCore, (lc.id == n) = true → (lc.id == m) = false := fun lc h => by
    rw [beq_iff_eq.mp h]; exact beq_false_of_ne hne.symm
  have fresh : ((f (freshLc s n)).id == m) = false := by rw [hf]; exact beq_false_of_ne hne.symm
  by_cases hn : s.lc.id = n
  · simp [State.modLc, State.getLc, hn, hf, hne.symm, freshLc, placeOf]
  · by_cases hl : s.launch.lcores.any (·.id == n) = true
    · simp [State.modLc, State.getLc, hn, hl, find?_modFirst_of_misses keeps misses, freshLc, placeOf]
    · simp [State.modLc, State.getLc, hn, hl, fresh]
      rfl

theorem modFirst_eq_self {α : Type} {p : α → Bool} {f : α → α} {l : List α} {a : α} (h : l.find? p = some a) (hf : f a = a) :
    modFirst p f l = l := by
  induction l with
  | nil => rfl
  | cons b l ih =>
    rw [modFirst]
    cases hb : p b with
    | true =>
      rw [List.find?_cons, hb] at h
      cases h
      rw [if_pos rfl, hf]
    | false =>
      rw [List.find?_cons, hb] at h
      rw [if_neg Bool.false_ne_true, ih h]

/-- A change that leaves a logical core with an entry of its own leaves the state. -/
theorem modLc_eq_self {s : State} {n : Nat} {f : LCore → LCore} (hf : f (s.getLc n) = s.getLc n) (hs : s.getLc n ≠ freshLc s n) :
    s.modLc n f = s := by
  unfold State.getLc at hf hs
  unfold State.modLc
  split
  · next here =>
    rw [if_pos here] at hf
    rw [hf]
  · next other =>
    rw [if_neg other] at hf hs
    cases found : s.launch.lcores.find? (·.id == n) with
    | none => exact absurd (by rw [found]; rfl) hs
    | some lc =>
      rw [found] at hf
      have any : s.launch.lcores.any (·.id == n) = true :=
        List.any_eq_true.mpr ⟨lc, List.mem_of_find?_eq_some found, List.find?_some (p := fun lc : LCore => lc.id == n) found⟩
      rw [if_pos any, State.modLaunch, modFirst_eq_self found hf]

end Sys2Proof.Machine
end

section
/-! CALENDAR_COMPUTE where every participant is READY (R150, R151): the demand that it computes from, and the calendar's place. -/

namespace Sys2Proof.Machine
open Sys2Proof.Claims

/-- An event of a team of the launch in front. -/
theorem onBoard_front {s : State} {uid : Nat} (h : (s.getBoard uid).isSome = true) (f : State → State) : onBoard uid f s = f s := by
  rw [onBoard, if_pos h]

theorem event_onBoard {s : State} {uid : Nat} (h : (s.getBoard uid).isSome = true) (f : State → State) :
    event (onBoard uid f) s = .next (f s) := by
  rw [event, onBoard_front h]

theorem getBoard_modBoard {s : State} {uid : Nat} {f : Board → Board} (hf : ∀ b, (f b).uid = b.uid) :
    (s.modBoard uid f).getBoard uid = (s.getBoard uid).map f :=
  find?_modFirst_of_keeps (p := fun b : Board => b.uid == uid) (fun b => by rw [hf]) s.launch.boards

theorem xpartOf_same {s : State} {uid n : Nat} (h : (s.getLc n).xp.team = uid) : xpartOf s uid n = (s.getLc n).xp := if_pos h

/-- What CALENDAR_COMPUTE makes of a participant that posted nothing, or that closed without XGO. -/
def nowReady (uid p : Nat) (lc : LCore) : LCore :=
  if lc.xp.state = .idle ∨ (lc.xp.team = uid ∧ lc.xp.state = .posted) then
    { lc with xp := { lc.xp with
      state := .ready, team := uid, ring := none, table := []
      demand := if lc.xp.state = .posted then lc.xp.demand else List.replicate p 0
      bytes := List.replicate p 0, units := List.replicate p 0 } }
  else lc

/-- A participant that is READY stays as it is. -/
theorem modLc_nowReady {s : State} {n : Nat} (h : (s.getLc n).xp.state = .ready) (uid p : Nat) : s.modLc n (nowReady uid p) = s := by
  refine modLc_eq_self ?_ fun fresh => ?_
  · simp [nowReady, h]
  · rw [fresh] at h
    cases h

theorem foldl_nowReady {s : State} {l : List Nat} (h : ∀ n ∈ l, (s.getLc n).xp.state = .ready) (uid p : Nat) :
    l.foldl (fun s n => s.modLc n (nowReady uid p)) s = s := by
  induction l with
  | nil => rfl
  | cons n l ih =>
    obtain ⟨first, rest⟩ := List.forall_mem_cons.mp h
    rw [List.foldl_cons, modLc_nowReady first, ih rest]

section
variable {s : State} {uid : Nat} {b : Board} {x : Exchange} (hb : s.getBoard uid = some b) (hx : b.xch = some x)
  (ready : ∀ n ∈ x.ranks, (s.getLc n).xp.state = .ready ∧ (s.getLc n).xp.team = uid)
include ready

theorem xpartOf_ready {n : Nat} (hn : n ∈ x.ranks) : (xpartOf s uid n).state = .ready := by
  rw [xpartOf_same (ready n hn).2, (ready n hn).1]

include hb hx

theorem calendarCompute_ready (hcal : x.calendar = none) (hne : x.ranks ≠ []) (harb : (arbiterOf s s.launch.part).primary.isSome = true) :
    calendarCompute uid s = s.modBoard uid fun b => { b with xch := some { x with
      calendar := some (computed s uid x), gen := (arbiterOf s s.launch.part).gen } } := by
  obtain ⟨n, hn⟩ := List.exists_mem_of_ne_nil _ hne
  have asked : (x.ranks.any fun n => (xpartOf s uid n).state != .idle) = true :=
    List.any_eq_true.mpr ⟨n, hn, by rw [xpartOf_ready ready hn]; rfl⟩
  have all : (x.ranks.all fun n => (xpartOf s uid n).state == .ready ||
      (((xpartOf s uid n).state == .idle || (xpartOf s uid n).state == .posted) && participantClosed s b n)) = true :=
    List.all_eq_true.mpr fun n hn => by rw [xpartOf_ready ready hn]; rfl
  have primary : (arbiterOf s s.launch.part).primary.isNone = false := by rw [Option.isNone_eq_false_iff]; exact harb
  simp only [calendarCompute, hb, hx, hcal, Option.isSome_none, asked, all, primary, Bool.not_true, Bool.or_false, Bool.false_eq_true, if_false]
  exact congrArg (fun u => u.modBoard uid fun b => { b with xch := some { x with
    calendar := some (computed u uid x), gen := (arbiterOf u u.launch.part).gen } }) (foldl_nowReady (fun n hn => (ready n hn).1) uid x.ranks.length)

omit hb hx in
/-- The demand matrix that the arbiters hold has the participants' vectors. -/
theorem entry_demand {i j n : Nat} (hi : x.ranks[i]? = some n) (hne : i ≠ j) :
    entry (x.ranks.map fun n => (xpartOf s uid n).demand) i j = ((s.getLc n).xp.demand[j]?).getD 0 := by
  rw [entry, if_neg hne, List.getElem?_map, hi, Option.map_some, Option.bind_some, xpartOf_same (ready n (List.mem_of_getElem? hi)).2]

end

end Sys2Proof.Machine
end

section
open Sys2Proof Sys2Proof.Machine Sys2Proof.Claims

/-- Settles O43: each phase of the calendar serves one pair of ranks to its end, so that a phase for each pair is enough for all. -/
theorem calendarCarriesTheDemand : Obligations.CalendarCarriesTheDemand := by
  unfold Obligations.CalendarCarriesTheDemand
  intro s uid b x hb hx hcal hne ready harb
  have onFront : (s.getBoard uid).isSome = true := by rw [hb]; rfl
  refine ⟨calendarCompute uid s, computed s uid x, event_onBoard onFront _, ?_, ?_, ?_, ?_⟩
  · rw [calendarCompute_ready hb hx ready hcal hne harb, getBoard_modBoard, hb]
    · rfl
    · exact fun _ => rfl
  · rw [calendarCompute_ready hb hx ready hcal hne harb]
    rfl
  · exact calendar_phases _ _ _
  · intro i j n hi hj hij
    have hip : i < x.ranks.length := (List.getElem?_eq_some_iff.mp hi).1
    rw [computed, carried_calendar (card_demandedPairs_le _ _) hip hj hij, entry_demand ready hi hij]

end

section
/-! The arbiters and their takeover (R156). -/

namespace Sys2Proof.Machine
open Sys2Proof.Claims

theorem arbiterOf_part (s : State) (part : Nat) : (arbiterOf s part).part = part := by
  unfold arbiterOf
  cases found : s.arbiters.find? (·.part == part) with
  | none => rfl
  | some a => simpa using List.find?_some found

theorem arbiterOf_setArbiter (a : Arbiter) (s : State) : arbiterOf (setArbiter a s) a.part = a := by
  simp [arbiterOf, setArbiter]

/-- An arbiter that keeps its partition, where its partition looks for it. -/
theorem arbiterOf_setArbiter_of_part {s : State} {part : Nat} {a : Arbiter} (h : a.part = part) :
    arbiterOf (setArbiter a s) part = a := by
  rw [← h, arbiterOf_setArbiter]

/-! ARBITER_HEARTBEAT. -/

/-- The arbiter behind a heartbeat that the standby misses, or that it hears. -/
def beaten (s : State) (part : Nat) (lost : Bool) (c : Nat × Nat) : Arbiter :=
  { arbiterOf s part with
    primary := some c, missed := if lost then (arbiterOf s part).missed + 1 else 0
    standby := some ((arbiterOf s part).standby.getD (standbyFor (partDies s part) c)) }

theorem arbiterHeartbeat_result {s : State} {part : Nat} {c : Nat × Nat} (h : (arbiterOf s part).primary = some c) (lost : Bool) :
    ∃ t, exec (.arbiterHeartbeat { part := part, lost := lost }) s = .next t ∧
      (arbiterOf t part).missed = (if lost then (arbiterOf s part).missed + 1 else 0) ∧ t.mem = s.mem := by
  refine ⟨setArbiter (beaten s part lost c) s, ?_, ?_, rfl⟩
  · show execArbiterHeartbeat _ s = _
    simp only [execArbiterHeartbeat, event, h]
    rfl
  · rw [arbiterOf_setArbiter_of_part (a := beaten s part lost c) (arbiterOf_part s part)]
    rfl

/-! What turning to a launch leaves. -/

/-- Memory and the arbiters stand. -/
structure ArbitersKept (s t : State) : Prop where
  mem : t.mem = s.mem
  arbiters : t.arbiters = s.arbiters

theorem ArbitersKept.refl (s : State) : ArbitersKept s s := ⟨rfl, rfl⟩
theorem ArbitersKept.trans {s t u : State} (h : ArbitersKept s t) (g : ArbitersKept t u) : ArbitersKept s u :=
  ⟨g.mem.trans h.mem, g.arbiters.trans h.arbiters⟩
theorem ArbitersKept.arbiterOf_of_found {s t : State} (h : ArbitersKept s t) {part : Nat} {a : Arbiter}
    (ha : s.arbiters.find? (·.part == part) = some a) : arbiterOf t part = a := by
  rw [arbiterOf, h.arbiters, ha, Option.getD_some]

theorem foldl_arbitersKept {α : Type} {f : State → α → State} (hf : ∀ s x, ArbitersKept s (f s x)) (l : List α) (s : State) :
    ArbitersKept s (l.foldl f s) := by
  induction l generalizing s with
  | nil => exact .refl s
  | cons x l ih => exact (hf s x).trans (ih _)

theorem focusCore_arbitersKept (i : Nat) (s : State) : ArbitersKept s (focusCore i s) := by
  unfold focusCore; split <;> exact ⟨rfl, rfl⟩
theorem focusLaunch_arbitersKept (id n : Nat) (s : State) : ArbitersKept s (focusLaunch id n s) := by
  unfold focusLaunch focusLc
  repeat' split
  all_goals exact ⟨rfl, rfl⟩
theorem inLaunch_arbitersKept {f : State → State} (hf : ∀ s, ArbitersKept s (f s)) (id n : Nat) (s : State) :
    ArbitersKept s (inLaunch id n f s) :=
  ((focusLaunch_arbitersKept id n s).trans (hf _)).trans ((focusLaunch_arbitersKept _ _ _).trans (focusCore_arbitersKept _ _))

/-- Every logical core reads the same with another one in front. -/
theorem getLc_focusLc (m : Nat) (s : State) (n : Nat) : (focusLc m s).getLc n = s.getLc n := by
  unfold focusLc
  split
  · rfl
  · next other =>
    have front : (s.getLc m).id = m := getLc_id s m
    by_cases hm : m = n
    · subst hm
      rw [State.getLc, if_pos front]
    · have rest : (s.launch.lcores.filter (·.id != m)).find? (·.id == n) = s.launch.lcores.find? (·.id == n) := by
        rw [List.find?_filter]
        refine congrArg (fun p => s.launch.lcores.find? p) (funext fun lc => ?_)
        by_cases named : lc.id = n
        · simp [named, Ne.symm hm]
        · simp [named]
      rw [State.getLc, if_neg (front.trans_ne hm)]
      by_cases own : s.lc.id = n
      · simp [State.getLc, own]
      · simp only [State.getLc, own, List.find?_cons, beq_false_of_ne own, rest, if_false]
        rfl

theorem focusLc_boards (n : Nat) (s : State) : (focusLc n s).launch.boards = s.launch.boards := by
  unfold focusLc; split <;> rfl
theorem focusLc_launches (n : Nat) (s : State) : (focusLc n s).launches = s.launches := by
  unfold focusLc; split <;> rfl
/-- Where there is one launch, it stays in front. -/
theorem focusLaunch_boards {s : State} (h : s.launches = []) (id n : Nat) : (focusLaunch id n s).launch.boards = s.launch.boards := by
  unfold focusLaunch
  split
  · exact focusLc_boards n s
  · rw [h]; rfl

theorem inLaunch_boards {s : State} {f : State → State} (h : s.launches = []) (hf : ∀ u, (f u).launches = u.launches) (n : Nat) :
    (inLaunch s.launch.id n f s).launch.boards = (f (focusLc n s)).launch.boards := by
  have front : focusLaunch s.launch.id n s = focusLc n s := if_pos rfl
  have one : (f (focusLc n s)).launches = [] := by rw [hf, focusLc_launches, h]
  unfold inLaunch
  dsimp only
  rw [focusCore_launch, front, focusLaunch_boards one]

/-! ARBITER_FAILOVER. -/

/-- The calendar of one exchange, computed again. -/
def recomputeBoard (gen : Nat) (s : State) (b : Board) : State :=
  match b.xch with
  | some x => if x.calendar.isSome then s.modBoard b.uid fun b => { b with xch := some { x with
      calendar := some (computed s b.uid x), gen := gen } } else s
  | none => s

theorem recompute_eq (gen : Nat) (s : State) : recompute gen s = s.launch.boards.foldl (recomputeBoard gen) s := rfl

theorem recomputeBoard_arbitersKept (gen : Nat) (s : State) (b : Board) : ArbitersKept s (recomputeBoard gen s b) := by
  unfold recomputeBoard
  split
  · split <;> exact ⟨rfl, rfl⟩
  · exact .refl s
theorem recompute_arbitersKept (gen : Nat) (s : State) : ArbitersKept s (recompute gen s) :=
  foldl_arbitersKept (recomputeBoard_arbitersKept gen) _ s

theorem recomputeBoard_launches (gen : Nat) (s : State) (b : Board) : (recomputeBoard gen s b).launches = s.launches := by
  unfold recomputeBoard
  split
  · split <;> rfl
  · rfl
theorem recompute_launches (gen : Nat) (s : State) : (recompute gen s).launches = s.launches := by
  rw [recompute_eq]
  induction s.launch.boards generalizing s with
  | nil => rfl
  | cons b l ih => rw [List.foldl_cons, ih, recomputeBoard_launches]

theorem computed_of_getLc {s t : State} (h : ∀ n, t.getLc n = s.getLc n) (uid : Nat) (x : Exchange) : computed t uid x = computed s uid x := by
  simp only [computed, xpartOf, h]

/-- The calendar of the one exchange, under the next generation. -/
theorem recompute_boards {s : State} {b : Board} {x : Exchange} (hb : s.launch.boards = [b]) (hx : b.xch = some x)
    (hc : x.calendar.isSome = true) (gen : Nat) : (recompute gen s).launch.boards =
      [{ b with xch := some { x with calendar := some (computed s b.uid x), gen := gen } }] := by
  have one : recompute gen s = s.modBoard b.uid fun b => { b with xch := some { x with
      calendar := some (computed s b.uid x), gen := gen } } := by
    rw [recompute_eq, hb, List.foldl_cons, List.foldl_nil, recomputeBoard, hx]
    exact if_pos hc
  rw [one, State.modBoard_launch, hb]
  simp [modFirst]

/-- The arbiter behind a takeover: the standby is the primary copy. -/
def takenOver (s : State) (part : Nat) (d : Nat × Nat) : Arbiter :=
  { arbiterOf s part with
    primary := some d, standby := some (standbyFor (partDies s part) d), missed := 0, gen := (arbiterOf s part).gen + 1 }

/-- The launches of a partition that run. -/
def runningIn (s : State) (part : Nat) : List Nat :=
  ((s.launch :: s.launches).filter fun l => l.part == part && l.phase == .running).map (·.id)

/-- The exchanges of a launch go on under the next generation. -/
def continueLaunch (gen : Nat) (s : State) (id : Nat) : State := inLaunch id 0 (recompute gen) s

section
variable {s : State} {part : Nat} {d : Nat × Nat}

theorem failover_eq (hdue : failoverDue s part = true) (hd : (arbiterOf s part).standby = some d) : failover part s =
    (runningIn s part).foldl (continueLaunch ((arbiterOf s part).gen + 1)) (setArbiter (takenOver s part d) s) := by
  have missed : ¬ (arbiterOf s part).missed < ARBITER_MISSES := by
    have due := (Bool.and_eq_true_iff.mp hdue).1
    exact Nat.not_lt.mpr (of_decide_eq_true due)
  unfold failover
  simp only [missed, if_false, hd]
  rfl

theorem arbiterFailover_steps (hp : (partsOf s).find? (failoverDue s) = some part) :
    exec .arbiterFailover s = .next (failover part s) := by
  show execArbiterFailover s = _
  simp only [execArbiterFailover, event, hp]

theorem continueLaunches_arbitersKept (gen : Nat) (l : List Nat) (u : State) : ArbitersKept u (l.foldl (continueLaunch gen) u) :=
  foldl_arbitersKept (fun s id => inLaunch_arbitersKept (recompute_arbitersKept gen) id 0 s) l u

/-- The one launch, with one team whose exchange is under way. -/
theorem continueLaunch_getBoard {u : State} {b : Board} {x : Exchange} (hl : u.launches = []) (hb : u.launch.boards = [b])
    (hx : b.xch = some x) (hc : x.calendar.isSome = true) (gen : Nat) : (continueLaunch gen u u.launch.id).getBoard b.uid =
      some { b with xch := some { x with calendar := some (computed u b.uid x), gen := gen } } := by
  have focused : (focusLc 0 u).launch.boards = [b] := (focusLc_boards 0 u).trans hb
  rw [State.getBoard, continueLaunch, inLaunch_boards hl (recompute_launches gen), recompute_boards focused hx hc,
    computed_of_getLc (getLc_focusLc 0 u)]
  simp

end

/-- ARBITER_FAILOVER: the standby is the primary copy under the next generation, and an exchange under way goes on with its calendar
computed again. -/
theorem arbiterFailover_result {s : State} {part : Nat} {d : Nat × Nat} (hp : (partsOf s).find? (failoverDue s) = some part)
    (hd : (arbiterOf s part).standby = some d) : ∃ t, exec .arbiterFailover s = .next t ∧ t.mem = s.mem ∧
      (arbiterOf t part).primary = some d ∧ (arbiterOf t part).missed = 0 ∧ (arbiterOf t part).gen = (arbiterOf s part).gen + 1 ∧
      ∀ b x, s.launches = [] → s.launch.part = part → s.launch.phase = .running → s.launch.boards = [b] → b.xch = some x →
        x.calendar.isSome = true → t.getBoard b.uid =
          some { b with xch := some { x with calendar := some (computed s b.uid x), gen := (arbiterOf s part).gen + 1 } } := by
  have due : failoverDue s part = true := List.find?_some hp
  have kept := continueLaunches_arbitersKept ((arbiterOf s part).gen + 1) (runningIn s part) (setArbiter (takenOver s part d) s)
  have first : (setArbiter (takenOver s part d) s).arbiters.find? (·.part == part) = some (takenOver s part d) :=
    List.find?_cons_of_pos (beq_iff_eq.mpr (arbiterOf_part s part))
  have arbiter := kept.arbiterOf_of_found first
  refine ⟨_, (arbiterFailover_steps hp).trans (congrArg _ (failover_eq due hd)), kept.mem, ?_, ?_, ?_, ?_⟩
  · rw [arbiter]; rfl
  · rw [arbiter]; rfl
  · rw [arbiter]; rfl
  · intro b x hl hpart hrun hb hx hc
    have own : runningIn s part = [s.launch.id] := by simp [runningIn, hl, hpart, hrun]
    rw [own, List.foldl_cons, List.foldl_nil]
    exact continueLaunch_getBoard (u := setArbiter (takenOver s part d) s) hl hb hx hc _

end Sys2Proof.Machine
end

section
/-! The participants of an exchange (R150, R152, R153): what their events leave of the machine, and what sending does. -/

namespace Sys2Proof.Machine
open Sys2Proof.Claims

/-- What an event leaves that changes participants alone, each as `R` allows. -/
structure PartsChange (R : XPart → XPart → Prop) (s t : State) : Prop where
  mem : t.mem = s.mem
  launch : t.launch = { s.launch with lcores := t.launch.lcores }
  parts : ∀ m, ∃ q, t.getLc m = { s.getLc m with xp := q } ∧ R (s.getLc m).xp q

section
variable {R : XPart → XPart → Prop} (hrefl : ∀ q, R q q) (htrans : ∀ ⦃p q r⦄, R p q → R q r → R p r)

include hrefl in
theorem PartsChange.refl (s : State) : PartsChange R s s := ⟨rfl, rfl, fun m => ⟨(s.getLc m).xp, rfl, hrefl _⟩⟩

include htrans in
theorem PartsChange.trans {s t u : State} (h : PartsChange R s t) (g : PartsChange R t u) : PartsChange R s u := by
  refine ⟨g.mem.trans h.mem, by rw [g.launch, h.launch], fun m => ?_⟩
  obtain ⟨q, hq, first⟩ := h.parts m
  obtain ⟨r, hr, second⟩ := g.parts m
  rw [hq] at hr second
  exact ⟨r, hr, htrans first second⟩

include hrefl htrans in
theorem foldl_partsChange {α : Type} {f : State → α → State} (hf : ∀ s x, PartsChange R s (f s x)) (l : List α) (s : State) :
    PartsChange R s (l.foldl f s) := by
  induction l generalizing s with
  | nil => exact .refl hrefl s
  | cons x l ih => exact (hf s x).trans htrans (ih _)

include hrefl in
theorem modX_partsChange (s : State) (uid n : Nat) {f : XPart → XPart} (hf : ∀ q, R q (f q)) :
    PartsChange R s (modX s uid n f) := by
  refine ⟨State.modLc_mem _ _ _, modLc_launch _ _ _, fun m => ?_⟩
  have named : ∀ lc : LCore, (if lc.xp.team = uid then { lc with xp := f lc.xp } else lc).id = lc.id := fun lc => by split <;> rfl
  by_cases here : m = n
  · subst here
    rw [modX, getLc_modLc s m named]
    split
    · exact ⟨_, rfl, hf _⟩
    · exact ⟨_, rfl, hrefl _⟩
  · rw [modX, getLc_modLc_ne s here named]
    exact ⟨_, rfl, hrefl _⟩

end

/-- A participant of the exchange, changed. -/
theorem getLc_modX {s : State} {uid n : Nat} (h : (s.getLc n).xp.team = uid) (f : XPart → XPart) :
    (modX s uid n f).getLc n = { s.getLc n with xp := f (s.getLc n).xp } := by
  rw [modX, getLc_modLc s n fun lc => by split <;> rfl, if_pos h]

theorem modX_mem (s : State) (uid n : Nat) (f : XPart → XPart) : (modX s uid n f).mem = s.mem := State.modLc_mem _ _ _

section
variable {R : XPart → XPart → Prop} {s t : State} (h : PartsChange R s t)
include h

theorem PartsChange.boards : t.launch.boards = s.launch.boards := by rw [h.launch]
theorem PartsChange.lmem : t.launch.lmem = s.launch.lmem := by rw [h.launch]
theorem PartsChange.xp (m : Nat) : R (s.getLc m).xp (t.getLc m).xp := by
  obtain ⟨q, hq, allowed⟩ := h.parts m
  rw [hq]; exact allowed
theorem PartsChange.getHandle (m : Nat) (hd : BitVec 3) : getHandle t m hd = getHandle s m hd := by
  obtain ⟨q, hq, -⟩ := h.parts m
  rw [Machine.getHandle, Machine.getHandle, hq]
theorem PartsChange.exchangeOf (uid : Nat) : exchangeOf t uid = exchangeOf s uid := by
  rw [Machine.exchangeOf, Machine.exchangeOf, getBoard_of_boards h.boards]

end

/-! CALENDAR_ARRIVAL. -/

section
variable {s : State} {uid rank n : Nat} {x : Exchange} {cal : List XPhase} (hx : exchangeOf s uid = some (x, cal))
  (hn : x.ranks[rank]? = some n) (ht : (s.getLc n).xp.team = uid)
include hx hn ht

theorem calendarArrival_ready (hs : (s.getLc n).xp.state = .ready) :
    calendarArrival uid rank s = modX s uid n fun p => { p with state := .sending, gen := x.gen } := by
  simp only [calendarArrival, hx, hn, Option.bind_some, xpartOf_same ht, hs]

end

/-! Sending. -/

/-- What sending changes of a participant. -/
def Sends (p q : XPart) : Prop := q = { p with bytes := q.bytes, units := q.units, overran := q.overran }

theorem Sends.refl (q : XPart) : Sends q q := rfl
theorem Sends.trans ⦃p q r : XPart⦄ (h : Sends p q) (g : Sends q r) : Sends p r := by
  rw [Sends, g, h]

theorem sends_xpartOf {s t : State} (h : PartsChange Sends s t) (uid m : Nat) : Sends (xpartOf s uid m) (xpartOf t uid m) := by
  have sent := h.xp m
  have team : (t.getLc m).xp.team = (s.getLc m).xp.team := by rw [sent]
  unfold xpartOf
  simp only [team]
  split
  · exact sent
  · exact .refl _

section
variable {s t : State} (h : PartsChange Sends s t) (uid : Nat) (x : Exchange)
include h

theorem given_of_sends (src dst : Nat) : given t uid x src dst = given s uid x src dst := by
  have table (m : Nat) : (xpartOf t uid m).table = (xpartOf s uid m).table := by rw [sends_xpartOf h uid m]
  simp only [given, table]
theorem hasRing_of_sends (dst : Nat) : hasRing t uid x dst = hasRing s uid x dst := by
  have ring (m : Nat) : (xpartOf t uid m).ring = (xpartOf s uid m).ring := by rw [sends_xpartOf h uid m]
  simp only [hasRing, ring]

end

theorem sendPacket_eq (p : Packet) (s : State) : ∃ fl, sendPacket p s =
    { s with packets := s.packets ++ [{ p with id := s.nextPkt }], nextPkt := s.nextPkt + 1, flits := fl } := by
  unfold sendPacket inject
  split
  · exact ⟨_, rfl⟩
  · exact ⟨_, rfl⟩

/-- The packet of a unit: nothing else is new but its flit. -/
theorem sendUnit_eq (src dst uid : Nat) (u : XUnit) (s : State) : ∃ fl p, sendUnit src dst uid u s =
    { s with packets := s.packets ++ [p], nextPkt := s.nextPkt + 1, flits := fl } ∧ p.unit = some (s.launch.id, uid, u) := by
  obtain ⟨fl, sent⟩ := sendPacket_eq _ s
  exact ⟨fl, _, sent, rfl⟩

theorem sendUnit_partsChange {R : XPart → XPart → Prop} (refl : ∀ q, R q q) (src dst uid : Nat) (u : XUnit) (s : State) :
    PartsChange R s (sendUnit src dst uid u s) := by
  obtain ⟨fl, p, sent, -⟩ := sendUnit_eq src dst uid u s
  rw [sent]
  exact ⟨rfl, rfl, fun m => ⟨_, rfl, refl _⟩⟩

/-- The next unit of a source for a receiver, from its byte cursor. -/
def nextUnit (uid src dst : Nat) (residual : Bool) (x : Exchange) (lc : Nat) (s : State) : XUnit :=
  let p := xpartOf s uid lc
  { src := src, dst := dst, idx := listAt p.units dst, residual := residual, gen := p.gen
    data := sendBytes s (s.getLc lc).core (((p.table[dst]?).map (·.1)).getD 0) (listAt p.bytes dst)
      (min 256 (given s uid x src dst - listAt p.bytes dst)) }

/-- A participant whose next unit for a receiver has been sent, up to the byte `upTo`. -/
def XPart.sent (dst upTo : Nat) (residual : Bool) (p : XPart) : XPart :=
  { p with bytes := setAt p.bytes dst upTo, units := setAt p.units dst (listAt p.units dst + 1), overran := p.overran || residual }

/-- The byte at which the next unit of a source for a receiver ends. -/
def nextByte (uid src dst : Nat) (x : Exchange) (lc : Nat) (s : State) : Nat :=
  listAt (xpartOf s uid lc).bytes dst + min 256 (given s uid x src dst - listAt (xpartOf s uid lc).bytes dst)

/-- The next unit goes on its way. -/
def sendNext (uid src dst : Nat) (residual : Bool) (x : Exchange) (lc : Nat) (s : State) : State :=
  sendUnit lc ((x.ranks[dst]?).getD 0) uid (nextUnit uid src dst residual x lc s)
    (modX s uid lc (XPart.sent dst (nextByte uid src dst x lc s) residual))

section
variable {s : State} {uid src dst lc : Nat} {residual : Bool} {x : Exchange} {cal : List XPhase}

theorem sendUnits_succ (n : Nat) (hx : exchangeOf s uid = some (x, cal)) (hr : x.ranks[src]? = some lc) :
    sendUnits uid src dst residual (n + 1) s =
      if given s uid x src dst - listAt (xpartOf s uid lc).bytes dst = 0 ∨ hasRing s uid x dst = false then s
      else sendUnits uid src dst residual n (sendNext uid src dst residual x lc s) := by
  rw [sendUnits, hx]
  dsimp only
  rw [hr]
  rfl

theorem sendNext_partsChange : PartsChange Sends s (sendNext uid src dst residual x lc s) :=
  (modX_partsChange Sends.refl s uid lc (f := XPart.sent _ _ _) fun _ => rfl).trans Sends.trans
    (sendUnit_partsChange Sends.refl _ _ _ _ _)

theorem sendNext_getLc (ht : (s.getLc lc).xp.team = uid) :
    ((sendNext uid src dst residual x lc s).getLc lc).xp = (s.getLc lc).xp.sent dst (nextByte uid src dst x lc s) residual := by
  obtain ⟨fl, p, sent, -⟩ := sendUnit_eq lc ((x.ranks[dst]?).getD 0) uid (nextUnit uid src dst residual x lc s)
    (modX s uid lc (XPart.sent dst (nextByte uid src dst x lc s) residual))
  rw [sendNext, sent]
  exact congrArg LCore.xp (getLc_modX ht _)

theorem sendNext_packets : ∃ p, (sendNext uid src dst residual x lc s).packets = s.packets ++ [p] ∧
    p.unit = some (s.launch.id, uid, nextUnit uid src dst residual x lc s) := by
  obtain ⟨fl, p, sent, carried⟩ := sendUnit_eq lc ((x.ranks[dst]?).getD 0) uid (nextUnit uid src dst residual x lc s)
    (modX s uid lc (XPart.sent dst (nextByte uid src dst x lc s) residual))
  refine ⟨p, ?_, ?_⟩
  · rw [sendNext, sent]
    exact congrArg (· ++ [p]) (State.modLc_packets _ _ _)
  · rw [carried, modX, modLc_launch]

end

theorem sendUnits_partsChange (uid src dst : Nat) (residual : Bool) (n : Nat) (s : State) :
    PartsChange Sends s (sendUnits uid src dst residual n s) := by
  induction n generalizing s with
  | zero => exact .refl Sends.refl s
  | succ n ih =>
    cases hx : exchangeOf s uid with
    | none => rw [sendUnits, hx]; exact .refl Sends.refl s
    | some e =>
      obtain ⟨x, cal⟩ := e
      cases hr : x.ranks[src]? with
      | none =>
        rw [sendUnits, hx]
        dsimp only
        rw [hr]
        exact .refl Sends.refl s
      | some lc =>
        rw [sendUnits_succ n hx hr]
        split
        · exact .refl Sends.refl s
        · exact sendNext_partsChange.trans Sends.trans (ih _)

theorem listAt_setAt {l : List Nat} {i : Nat} (h : i < l.length) (v : Nat) : listAt (setAt l i v) i = v := by
  simp [listAt, setAt, h]

/-- A packet with a unit of a source for a receiver, in a calendar segment or in the residual phase. -/
def Carries (launch uid src dst : Nat) (residual : Bool) (gen : Nat) (p : Packet) : Prop :=
  ∃ u, p.unit = some (launch, uid, u) ∧ u.src = src ∧ u.dst = dst ∧ u.residual = residual ∧ u.gen = gen

/-- Units of 256 bytes that hold `left` bytes: with one sent, one fewer. -/
theorem units_of_rest {left n : Nat} (h : left ≠ 0) :
    min n ((left - min 256 left + 255) / 256) + 1 = min (n + 1) ((left + 255) / 256) := by
  omega

/-- A source sends unit after unit until the number asked for is reached or the range is out. -/
theorem sendUnits_sends {uid src dst lc : Nat} {residual : Bool} {x : Exchange} {cal : List XPhase} {n : Nat} {s : State}
    (hx : exchangeOf s uid = some (x, cal)) (hr : x.ranks[src]? = some lc) (ht : (s.getLc lc).xp.team = uid) (hring : hasRing s uid x dst = true)
    (hbytes : dst < (s.getLc lc).xp.bytes.length) (hunits : dst < (s.getLc lc).xp.units.length) :
    ∃ ps, (sendUnits uid src dst residual n s).packets = s.packets ++ ps ∧
      ps.length = min n ((given s uid x src dst - listAt (s.getLc lc).xp.bytes dst + 255) / 256) ∧
      (∀ p ∈ ps, Carries s.launch.id uid src dst residual (s.getLc lc).xp.gen p) ∧
      listAt ((sendUnits uid src dst residual n s).getLc lc).xp.units dst = listAt (s.getLc lc).xp.units dst + ps.length := by
  induction n generalizing s with
  | zero => exact ⟨[], (List.append_nil _).symm, (Nat.zero_min _).symm, nofun, rfl⟩
  | succ n ih =>
    rw [sendUnits_succ n hx hr, hring, xpartOf_same ht]
    by_cases out : given s uid x src dst - listAt (s.getLc lc).xp.bytes dst = 0
    · rw [if_pos (.inl out), out]
      exact ⟨[], (List.append_nil _).symm, by simp, nofun, rfl⟩
    · rw [if_neg (by simpa using out)]
      have changed : PartsChange Sends s (sendNext uid src dst residual x lc s) := sendNext_partsChange
      have now := sendNext_getLc (src := src) (dst := dst) (residual := residual) (x := x) ht
      obtain ⟨p, packets, carried⟩ : ∃ p, (sendNext uid src dst residual x lc s).packets = s.packets ++ [p] ∧
        p.unit = some (s.launch.id, uid, nextUnit uid src dst residual x lc s) := sendNext_packets
      obtain ⟨ps, sent, count, all, units⟩ := ih ((changed.exchangeOf uid).trans hx) (by rw [now]; exact ht)
        ((hasRing_of_sends changed uid x dst).trans hring) (by rw [now]; simpa [XPart.sent, setAt] using hbytes)
        (by rw [now]; simpa [XPart.sent, setAt] using hunits)
      have id : (sendNext uid src dst residual x lc s).launch.id = s.launch.id := by rw [changed.launch]
      have first : Carries s.launch.id uid src dst residual (s.getLc lc).xp.gen p :=
        ⟨_, carried, rfl, rfl, rfl, congrArg XPart.gen (xpartOf_same ht)⟩
      refine ⟨p :: ps, ?_, ?_, ?_, ?_⟩
      · rw [sent, packets, List.append_assoc]; rfl
      · rw [List.length_cons, count, given_of_sends changed, now, ← units_of_rest out, XPart.sent, listAt_setAt hbytes,
          nextByte, xpartOf_same ht, Nat.sub_add_eq]
      · rw [id, now] at all
        exact List.forall_mem_cons.mpr ⟨first, all⟩
      · rw [units, now, XPart.sent, listAt_setAt hunits, List.length_cons]
        omega

/-! EXCHANGE_PHASE_START. -/

/-- The source goes on to its next phase. -/
def passPhase (uid n : Nat) (s : State) : State := modX s uid n fun p => { p with phase := p.phase + 1 }

theorem passPhase_packets (uid n : Nat) (s : State) : (passPhase uid n s).packets = s.packets := State.modLc_packets _ _ _

section
variable {s : State} {uid rank n : Nat} {x : Exchange} {cal : List XPhase} {ph : XPhase} (hx : exchangeOf s uid = some (x, cal))
  (hn : x.ranks[rank]? = some n) (ht : (s.getLc n).xp.team = uid) (hs : (s.getLc n).xp.state = .sending)
  (hg : (s.getLc n).xp.gen = x.gen) (hrun : s.launch.phase = .running) (hhere : (s.getLc n).away = false)
  (hph : cal[(s.getLc n).xp.phase]? = some ph)
include hx hn ht hs hg hrun hhere hph

theorem phaseStart_passes (hno : ph.pairs.find? (·.1 == rank) = none) : phaseStart uid rank s = passPhase uid n s := by
  simp only [phaseStart, hx, hn, xpartOf_same ht, hs, hg, hrun, hhere, hph, hno, ne_eq, not_true_eq_false, Bool.false_eq_true, or_self,
    if_false]
  rfl

theorem phaseStart_sends {r d : Nat} (hpair : ph.pairs.find? (·.1 == rank) = some (r, d))
    (hrecv : phaseReceived s uid x cal (s.getLc n).xp.phase d = true) :
    phaseStart uid rank s = passPhase uid n (sendUnits uid rank d false ph.len s) := by
  simp only [phaseStart, hx, hn, xpartOf_same ht, hs, hg, hrun, hhere, hph, hpair, hrecv, ne_eq, not_true_eq_false, Bool.false_eq_true,
    or_self, if_false, if_true]
  rfl

/-- The units of the phase, or what is left of the range, are on their way. -/
theorem phaseStart_result (hb : (s.getBoard uid).isSome = true) {r d : Nat} (hpair : ph.pairs.find? (·.1 == rank) = some (r, d))
    (hrecv : phaseReceived s uid x cal (s.getLc n).xp.phase d = true) (hring : hasRing s uid x d = true)
    (hbytes : d < (s.getLc n).xp.bytes.length) (hunits : d < (s.getLc n).xp.units.length) {k : Nat}
    (hk : k = min ph.len ((given s uid x rank d - listAt (s.getLc n).xp.bytes d + 255) / 256)) :
    ∃ t ps, exec (.exchangePhaseStart uid rank) s = .next t ∧ t.mem = s.mem ∧
      (t.getLc n).xp.phase = (s.getLc n).xp.phase + 1 ∧ listAt (t.getLc n).xp.units d = listAt (s.getLc n).xp.units d + k ∧
      t.packets = s.packets ++ ps ∧ ps.length = k ∧ ∀ p ∈ ps, Carries s.launch.id uid rank d false x.gen p := by
  obtain ⟨ps, sent, count, all, units⟩ := sendUnits_sends (n := ph.len) (residual := false) hx hn ht hring hbytes hunits
  have changed := sendUnits_partsChange uid rank d false ph.len s
  have source := changed.xp n
  have team : ((sendUnits uid rank d false ph.len s).getLc n).xp.team = uid := by rw [source]; exact ht
  have phase : ((sendUnits uid rank d false ph.len s).getLc n).xp.phase = (s.getLc n).xp.phase := by rw [source]
  have steps : exec (.exchangePhaseStart uid rank) s = .next (passPhase uid n (sendUnits uid rank d false ph.len s)) :=
    (event_onBoard hb _).trans (congrArg _ (phaseStart_sends hx hn ht hs hg hrun hhere hph hpair hrecv))
  have next := getLc_modX team fun p => { p with phase := p.phase + 1 }
  refine ⟨_, ps, steps, (modX_mem _ _ _ _).trans changed.mem, ?_, ?_, (passPhase_packets _ _ _).trans sent, count.trans hk.symm, ?_⟩
  · rw [passPhase, next, phase]
  · rw [passPhase, next, units, count, hk]
  · rw [hg] at all; exact all

end

/-! RESIDUAL_PHASE_START. -/

theorem modXch_getLc (uid : Nat) (f : Exchange → Exchange) (s : State) (n : Nat) : (modXch uid f s).getLc n = s.getLc n :=
  getLc_of_eq rfl rfl rfl n

theorem exchangeOf_modXch (uid : Nat) {f : Exchange → Exchange} (hf : ∀ x, (f x).calendar = x.calendar) (s : State) :
    exchangeOf (modXch uid f s) uid = (exchangeOf s uid).map fun e => (f e.1, e.2) := by
  unfold exchangeOf modXch
  rw [getBoard_modBoard]
  · cases s.getBoard uid with
    | none => rfl
    | some b =>
      obtain none | ⟨x, hx⟩ := Option.eq_none_or_eq_some b.xch
      · simp [*]
      · cases hc : x.calendar with
        | none => simp [hx, hf, hc]
        | some cal => simp [hx, hf, hc]
  · exact fun _ => rfl

/-- The overrun of a source goes on its way, receiver by receiver. -/
def sendOverrun (uid r : Nat) (x : Exchange) (s : State) : State :=
  (List.range x.ranks.length).foldl (fun u d => sendUnits uid r d true (overUnits u uid x r d) u) s

theorem sendOverrun_partsChange (uid r : Nat) (x : Exchange) (s : State) : PartsChange Sends s (sendOverrun uid r x s) :=
  foldl_partsChange Sends.refl Sends.trans (fun _ _ => sendUnits_partsChange _ _ _ _ _ _) _ _

section
variable {s : State} {uid rank n : Nat} {x : Exchange} {cal : List XPhase} (hx : exchangeOf s uid = some (x, cal))
  (hn : x.ranks[rank]? = some n) (hrun : s.launch.phase = .running) (hleft : unitsLeft s uid x = [])
  (hends : ∀ m ∈ x.ranks, (xpartOf s uid m).team = uid → (xpartOf s uid m).segEnded = true ∧ (xpartOf s uid m).gen = x.gen)
  (hnext : nextResidual s uid x (x.residual.getD 0) = some rank)
include hx hn hrun hleft hends hnext

theorem residualStart_sends : residualStart uid s = modXch uid (fun x => { x with residual := some (rank + 1) })
    (modX (sendOverrun uid rank x s) uid n fun p => { p with resEnded := true }) := by
  have ended : ((x.ranks.filter fun m => (xpartOf s uid m).team == uid).any fun m =>
      !(xpartOf s uid m).segEnded || (xpartOf s uid m).gen != x.gen) = false := by
    refine List.any_eq_false.mpr fun m hm => ?_
    obtain ⟨mem, team⟩ := List.mem_filter.mp hm
    obtain ⟨seg, gen⟩ := hends m mem (beq_iff_eq.mp team)
    simp [seg, gen]
  simp only [residualStart, hx, hleft, List.isEmpty_nil, Bool.not_true, Bool.false_eq_true, ended, hrun, ne_eq, not_true_eq_false, or_self,
    if_false, hnext, hn]
  rfl

theorem residualStart_result (hb : (s.getBoard uid).isSome = true) (ht : (s.getLc n).xp.team = uid) :
    ∃ t, exec (.residualPhaseStart uid) s = .next t ∧ (t.getLc n).xp.resEnded = true ∧
      ((exchangeOf t uid).bind fun e => e.1.residual) = some (rank + 1) ∧ t.mem = s.mem := by
  have changed := sendOverrun_partsChange uid rank x s
  have team : ((sendOverrun uid rank x s).getLc n).xp.team = uid := by rw [changed.xp n]; exact ht
  have marked := modX_partsChange (R := fun _ _ => True) (fun _ => trivial) (sendOverrun uid rank x s) uid n
    (f := fun p => { p with resEnded := true }) fun _ => trivial
  refine ⟨_, (event_onBoard hb _).trans (congrArg _ (residualStart_sends hx hn hrun hleft hends hnext)), ?_, ?_, ?_⟩
  · rw [modXch_getLc, getLc_modX team]
  · rw [exchangeOf_modXch, marked.exchangeOf, changed.exchangeOf, hx]
    · rfl
    · exact fun _ => rfl
  · exact (modX_mem _ _ _ _).trans changed.mem

end

end Sys2Proof.Machine
end

section
/-! Bytes that land in a local space (R87, R94): the writes of an engine, line by line. -/

namespace Sys2Proof.Machine

/-- Writes to local spaces change these alone. -/
theorem foldl_setBaseByte_local {cells : List (Nat × Byte)} (h : ∀ c ∈ cells, isLocal c.1 = true) (s : State) :
    (cells.foldl (fun s c => setBaseByte s c.1 c.2) s).launch.lmem = cells.foldl (fun m c => writeCell m c.1 c.2) s.launch.lmem := by
  induction cells generalizing s with
  | nil => rfl
  | cons c l ih =>
    rw [List.foldl_cons, ih fun x hx => h x (List.mem_cons_of_mem c hx), setBaseByte, if_pos (h c List.mem_cons_self)]
    rfl

/-- No record that hardware and software share stands in a local space (R7). -/
theorem recordAccess_local (s : State) {k : Nat} (h : isLocal k = true) : recordAccess s k = none := if_pos h

theorem writeHome_lmem {cells : List (Nat × Byte)} (h : ∀ c ∈ cells, isLocal c.1 = true) (s : State) (p who : Nat) :
    (writeHome s p 0 who cells).launch.lmem = cells.foldl (fun m c => writeCell m c.1 c.2) s.launch.lmem := by
  have written := (writeBytes_rest_same s p 0 who cells (wholeWords cells)).2
  simp only [writeView_tag0] at written
  rw [writeHome_plain fun c hc => recordAccess_local s (h c hc), (madeResident_same _ _ _).2, written, foldl_setBaseByte_local h]

/-- The bytes of cells, without their poison. -/
def cellBytes (cells : List (Nat × Byte × Bool)) : List (Nat × Byte) := cells.map fun c => (c.1, c.2.1)

theorem landLine_lmem {cells : List (Nat × Byte × Bool)} (h : ∀ c ∈ cells, isLocal c.1 = true) (p who : Nat) (s : State) :
    (landLine p 0 who cells s).launch.lmem = (cellBytes cells).foldl (fun m c => writeCell m c.1 c.2) s.launch.lmem := by
  have places : ∀ c ∈ cellBytes cells, isLocal c.1 = true := by
    intro c hc
    obtain ⟨x, hx, rfl⟩ := List.mem_map.mp hc
    exact h x hx
  have words : SameCells (writeHome s p 0 who (cellBytes cells)) (landLine p 0 who cells s) :=
    (foldl_same _ (fun s k => setEmptyView_same s p 0 k false) _ _).trans (foldl_same _ (fun s k => setPoison_same s p 0 k true) _ _)
  rw [words.2, writeHome_lmem places]

theorem landLine_homeFrame (p t who : Nat) (cells : List (Nat × Byte × Bool)) (s : State) : HomeFrame who s (landLine p t who cells s) :=
  ((writeHome_homeFrame who s p t _ _).trans (foldl_homeFrame _ (fun s k => setEmptyView_homeFrame who s p t k false) _ _)).trans
    (foldl_homeFrame _ (fun s k => setPoison_homeFrame who s p t k true) _ _)

theorem landCells_homeFrame (p who : Nat) (cells : List (Nat × Byte × Bool)) (s : State) : HomeFrame who s (landCells p who cells s) :=
  foldl_homeFrame _ (fun s _ => landLine_homeFrame p 0 who _ s) _ _

/-! The last byte given for an address. -/

theorem lastByte_cons (c : Nat × Byte) (cells : List (Nat × Byte)) (k : Nat) (old : Byte) :
    lastByte (c :: cells) k old = lastByte cells k (if c.1 = k then c.2 else old) := rfl

/-- A byte that is given does not depend on the one before. -/
theorem lastByte_given {cells : List (Nat × Byte)} {k : Nat} (h : ∃ c ∈ cells, c.1 = k) (a b : Byte) :
    lastByte cells k a = lastByte cells k b := by
  induction cells generalizing a b with
  | nil => obtain ⟨c, hc, -⟩ := h; cases hc
  | cons c l ih =>
    rw [lastByte_cons, lastByte_cons]
    by_cases later : ∃ c ∈ l, c.1 = k
    · exact ih later _ _
    · have here : c.1 = k := by
        obtain ⟨x, hx, hk⟩ := h
        obtain rfl | hx := List.mem_cons.mp hx
        · exact hk
        · exact absurd ⟨x, hx, hk⟩ later
      rw [if_pos here, if_pos here]

/-- Writing the same cells again changes nothing. -/
theorem lastByte_again (cells : List (Nat × Byte)) (k : Nat) (old : Byte) :
    lastByte cells k (lastByte cells k old) = lastByte cells k old := by
  by_cases h : ∃ c ∈ cells, c.1 = k
  · exact lastByte_given h _ _
  · rw [lastByte_other fun c hc hk => h ⟨c, hc, hk⟩]

/-- The cells of one line decide its bytes. -/
theorem lastByte_line (cells : List (Nat × Byte × Bool)) (l k : Nat) (old : Byte) :
    lastByte (cellBytes (cells.filter fun c => lineOf c.1 == l)) k old = if lineOf k = l then lastByte (cellBytes cells) k old else old := by
  induction cells generalizing old with
  | nil => exact (ite_self old).symm
  | cons c cells ih =>
    have all : lastByte (cellBytes (c :: cells)) k old = lastByte (cellBytes cells) k (if c.1 = k then c.2.1 else old) := rfl
    rw [all, List.filter_cons]
    by_cases here : lineOf c.1 = l
    · have taken : lastByte (cellBytes (c :: cells.filter fun c => lineOf c.1 == l)) k old =
          lastByte (cellBytes (cells.filter fun c => lineOf c.1 == l)) k (if c.1 = k then c.2.1 else old) := rfl
      rw [if_pos (beq_iff_eq.mpr here), taken, ih]
      by_cases line : lineOf k = l
      · rw [if_pos line, if_pos line]
      · have other : c.1 ≠ k := fun e => line (e ▸ here)
        rw [if_neg line, if_neg line, if_neg other]
    · rw [if_neg fun e => here (beq_iff_eq.mp e), ih]
      by_cases line : lineOf k = l
      · have other : c.1 ≠ k := fun e => here (by rw [e, line])
        rw [if_neg other]
      · rw [if_neg line, if_neg line]

/-! The lines of cells, one after another. -/

theorem baseByte_local (s : State) {k : Nat} (h : isLocal k = true) : baseByte s k = readCell s.launch.lmem k := if_pos h

/-- The lines `ls` of cells land. -/
def landLines (p who : Nat) (cells : List (Nat × Byte × Bool)) (ls : List Nat) (s : State) : State :=
  ls.foldl (fun s l => landLine p 0 who (cells.filter fun c => lineOf c.1 == l) s) s

theorem landLines_lmem {cells : List (Nat × Byte × Bool)} (h : ∀ c ∈ cells, isLocal c.1 = true) (p who : Nat) (ls : List Nat) {s : State}
    (hw : Memory.wf s.launch.lmem = true) (k : Nat) : readCell (landLines p who cells ls s).launch.lmem k =
      if lineOf k ∈ ls then lastByte (cellBytes cells) k (readCell s.launch.lmem k) else readCell s.launch.lmem k := by
  induction ls generalizing s with
  | nil => exact (if_neg List.not_mem_nil).symm
  | cons l ls ih =>
    have first := landLine_lmem (cells := cells.filter fun c => lineOf c.1 == l) (fun c hc => h c (List.mem_of_mem_filter hc)) p who s
    have wf : Memory.wf (landLine p 0 who (cells.filter fun c => lineOf c.1 == l) s).launch.lmem = true := by
      rw [first]; exact foldl_writeCell_wf _ _ _ hw
    have step : landLines p who cells (l :: ls) s = landLines p who cells ls (landLine p 0 who (cells.filter fun c => lineOf c.1 == l) s) := rfl
    rw [step, ih wf, first, readCell_foldl_writeCell _ hw, lastByte_line]
    by_cases here : lineOf k = l
    · simp [here, lastByte_again]
    · simp [here]

/-- The bytes of a local space behind cells that land there. -/
theorem landCells_lmem {cells : List (Nat × Byte × Bool)} (h : ∀ c ∈ cells, isLocal c.1 = true) (p who : Nat) {s : State}
    (hw : Memory.wf s.launch.lmem = true) (k : Nat) :
    readCell (landCells p who cells s).launch.lmem k = lastByte (cellBytes cells) k (readCell s.launch.lmem k) := by
  refine (landLines_lmem h p who ((cells.map fun c => lineOf c.1).eraseDups) hw k).trans ?_
  by_cases line : lineOf k ∈ cells.map fun c => lineOf c.1
  · rw [if_pos (List.mem_eraseDups.mpr line)]
  · have other : ∀ c ∈ cellBytes cells, c.1 ≠ k := fun c hc hk => by
      obtain ⟨x, hx, rfl⟩ := List.mem_map.mp hc
      exact line (List.mem_map.mpr ⟨x, hx, congrArg lineOf hk⟩)
    rw [if_neg fun e => line (List.mem_eraseDups.mp e), lastByte_other other]

end Sys2Proof.Machine
end

section
/-! Units that land, segments that end, and the end of an exchange (R150, R153, R154). -/

namespace Sys2Proof.Machine
open Sys2Proof.Claims

/-! The end of an exchange. -/

/-- What the end of an exchange changes of a participant. -/
def Settles (p q : XPart) : Prop := q = { p with state := q.state, last := q.last }

theorem Settles.refl (q : XPart) : Settles q q := rfl
theorem Settles.trans ⦃p q r : XPart⦄ (h : Settles p q) (g : Settles q r) : Settles p r := by
  rw [Settles, g, h]

theorem settle_partsChange (uid : Nat) (s : State) : PartsChange Settles s (settle uid s) := by
  unfold settle
  split
  · exact .refl Settles.refl s
  · dsimp only
    split
    · exact .refl Settles.refl s
    · refine foldl_partsChange Settles.refl Settles.trans (fun u (nw : Nat × List Word) => modX_partsChange Settles.refl u uid nw.1 fun q => ?_) _ _
      rfl

/-! EXCHANGE_SEGMENT_END. -/

section
variable {s : State} {uid rank n : Nat} {x : Exchange} {cal : List XPhase} (hx : exchangeOf s uid = some (x, cal))
  (hn : x.ranks[rank]? = some n) (ht : (s.getLc n).xp.team = uid)
include hx hn ht

/-- A source that has sent the stated units of a receiver leaves no slot void. -/
theorem markVoid_sent {d : Nat} (h : hasRing s uid x d = true → stated s uid x rank d ≤ listAt (s.getLc n).xp.units d) :
    markVoid uid rank d s = (s, true) := by
  cases ring : hasRing s uid x d with
  | false => simp [markVoid, hx, ring]
  | true =>
    have none : stated s uid x rank d - listAt (s.getLc n).xp.units d = 0 := Nat.sub_eq_zero_of_le (h ring)
    simp [markVoid, hx, ring, hn, xpartOf_same ht, none]

/-- The slots of the units that a source never sends, for receivers one after another. -/
def markVoids (uid rank : Nat) (l : List Nat) (r : State × Bool) : State × Bool :=
  l.foldl (fun r d => ((markVoid uid rank d r.1).1, r.2 && (markVoid uid rank d r.1).2)) r

theorem markVoids_sent {l : List Nat} (h : ∀ d ∈ l, hasRing s uid x d = true → stated s uid x rank d ≤ listAt (s.getLc n).xp.units d) :
    markVoids uid rank l (s, true) = (s, true) := by
  induction l with
  | nil => rfl
  | cons d l ih =>
    obtain ⟨first, rest⟩ := List.forall_mem_cons.mp h
    rw [markVoids, List.foldl_cons, markVoid_sent hx hn ht first]
    exact ih rest

/-- A participant whose segment has ended; with overrun left it has its part in the residual phase. -/
def XPart.ended (more : Bool) (p : XPart) : XPart := { p with segEnded := true, state := if more then .residual else .sending }

variable (hs : (s.getLc n).xp.state = .sending) (hopen : (s.getLc n).xp.segEnded = false) (hphase : cal.length ≤ (s.getLc n).xp.phase)
  (hleft : ∀ u ∈ unitsLeft s uid x, u.src ≠ rank)
  (hsent : ∀ d, d < x.ranks.length → hasRing s uid x d = true → stated s uid x rank d ≤ listAt (s.getLc n).xp.units d)
include hs hopen hphase hleft hsent

theorem segmentEnd_settles : segmentEnd uid rank s = settle uid (modX s uid n
    (XPart.ended ((List.range x.ranks.length).any fun d => decide (0 < overUnits s uid x rank d)))) := by
  have landed : (unitsLeft s uid x).any (·.src == rank) = false := List.any_eq_false.mpr fun u hu => by simpa using hleft u hu
  have marks := markVoids_sent hx hn ht (l := List.range x.ranks.length) fun d hd => hsent d (List.mem_range.mp hd)
  rw [markVoids] at marks
  simp only [segmentEnd, hx, hn, xpartOf_same ht, hs, hopen, Nat.not_lt.mpr hphase, landed, ne_eq, not_true_eq_false, Bool.false_eq_true,
    or_self, if_false, marks, Bool.not_true]
  rfl

theorem segmentEnd_result (hb : (s.getBoard uid).isSome = true) :
    ∃ t, exec (.exchangeSegmentEnd uid rank) s = .next t ∧ (t.getLc n).xp.segEnded = true ∧ t.mem = s.mem := by
  refine ⟨_, (event_onBoard hb _).trans (congrArg _ (segmentEnd_settles hx hn ht hs hopen hphase hleft hsent)), ?_, ?_⟩
  · rw [(settle_partsChange uid _).xp n, getLc_modX ht]
    rfl
  · exact (settle_partsChange uid _).mem.trans (modX_mem _ _ _ _)

end

/-! EXCHANGE_UNIT_LANDING. -/

theorem HomeFrame.getHandle {who : Nat} {s t : State} (h : HomeFrame who s t) (n : Nat) (hd : BitVec 3) :
    getHandle t n hd = getHandle s n hd := by
  have lcores : t.launch.lcores = s.launch.lcores := by rw [h.launch]
  unfold Machine.getHandle State.getLc
  rw [h.lc, lcores]
  split
  · rfl
  · cases s.launch.lcores.find? (·.id == n) with
    | none => rfl
    | some lc => rfl
theorem HomeFrame.exchangeOf {who : Nat} {s t : State} (h : HomeFrame who s t) (uid : Nat) : exchangeOf t uid = exchangeOf s uid := by
  have boards : t.launch.boards = s.launch.boards := by rw [h.launch]
  rw [Machine.exchangeOf, Machine.exchangeOf, getBoard_of_boards boards]

theorem markTicket_same (n : Nat) (h : BitVec 3) (t : Nat) (s : State) : SameCells s (markTicket n h t s) :=
  ⟨State.modLc_mem _ _ _, modLc_lmem _ _ _⟩
theorem markTicket_exchangeOf (n : Nat) (h : BitVec 3) (t : Nat) (s : State) (uid : Nat) :
    exchangeOf (markTicket n h t s) uid = exchangeOf s uid := by
  have boards : (markTicket n h t s).launch.boards = s.launch.boards := by rw [markTicket, modHandle, modLc_launch]
  rw [exchangeOf, exchangeOf, getBoard_of_boards boards]
/-- A ticket whose slot is not free yet is marked. -/
theorem markTicket_marks {n : Nat} {h : BitVec 3} {t : Nat} {s : State} (hc : (getHandle s n h).c ≤ t) :
    (getHandle (markTicket n h t s) n h).marks.contains t = true := by
  rw [markTicket, getHandle_modHandle]
  split
  · next marked => exact marked.resolve_right (Nat.not_lt.mpr hc)
  · simp

theorem modXch_lmem (uid : Nat) (f : Exchange → Exchange) (s : State) : (modXch uid f s).launch.lmem = s.launch.lmem := rfl
theorem modXch_getHandle (uid : Nat) (f : Exchange → Exchange) (s : State) (n : Nat) (h : BitVec 3) :
    getHandle (modXch uid f s) n h = getHandle s n h := by
  rw [getHandle, getHandle, modXch_getLc]

theorem placeAddr_local (n off i : Nat) : isLocal (placeAddr n off + i) = true := by
  refine decide_eq_true ?_
  unfold placeAddr
  omega

/-- The address of a ticket's slot. -/
abbrev slotAddr (s : State) (n : Nat) (h : BitVec 3) (t : Nat) : Nat := placeAddr n ((getHandle s n h).slot t)

/-- The cells of a unit from the start of its slot. -/
def unitCells (at_ : Nat) (data : List (Byte × Bool)) : List (Nat × Byte × Bool) :=
  ((List.range data.length).zip data).map fun ib => (at_ + ib.1, ib.2)

theorem cellBytes_unitCells (at_ : Nat) (data : List (Byte × Bool)) :
    cellBytes (unitCells at_ data) = (List.range data.length).map fun i => (at_ + i, ((data[i]?).getD (0, false)).1) := by
  refine List.ext_getElem (by simp [cellBytes, unitCells]) fun i hi hj => ?_
  have inside : i < data.length := by simpa using hj
  simp [cellBytes, unitCells, inside]

/-- What landing a unit in a slot leaves. -/
def landUnit (uid k n : Nat) (h : BitVec 3) (t : Nat) (data : List (Byte × Bool)) (s : State) : State :=
  settle uid (modXch uid (fun x => { x with units := x.units.eraseIdx k }) (markTicket n h t
    (landCells (pkgOf (s.getLc n).core) 0 (unitCells (slotAddr s n h t) data) s)))

section
variable (uid k : Nat) {n : Nat} {h : BitVec 3} {t : Nat} (data : List (Byte × Bool)) {s : State}

theorem landUnit_byte (hw : Memory.wf s.launch.lmem = true) {i : Nat} (hi : i < data.length) :
    baseByte (landUnit uid k n h t data s) (slotAddr s n h t + i) = data[i].1 := by
  have places : ∀ c ∈ unitCells (slotAddr s n h t) data, isLocal c.1 = true := fun c hc => by
    obtain ⟨ib, -, rfl⟩ := List.mem_map.mp hc
    exact placeAddr_local _ _ _
  have lmem : (landUnit uid k n h t data s).launch.lmem =
      (landCells (pkgOf (s.getLc n).core) 0 (unitCells (slotAddr s n h t) data) s).launch.lmem := by
    rw [landUnit, (settle_partsChange uid _).lmem, modXch_lmem, (markTicket_same _ _ _ _).2]
  rw [baseByte_local _ (placeAddr_local _ _ _), lmem, landCells_lmem places _ _ hw, cellBytes_unitCells, lastByte_range,
    if_pos ⟨Nat.le_add_right _ _, Nat.add_lt_add_left hi _⟩, Nat.add_sub_cancel_left, List.getElem?_eq_getElem hi, Option.getD_some]

theorem landUnit_marks (hc : (getHandle s n h).c ≤ t) : (getHandle (landUnit uid k n h t data s) n h).marks.contains t = true := by
  have landed := landCells_homeFrame (pkgOf (s.getLc n).core) 0 (unitCells (slotAddr s n h t) data) s
  rw [landUnit, (settle_partsChange uid _).getHandle, modXch_getHandle, markTicket_marks]
  rw [landed.getHandle]
  exact hc

theorem landUnit_units : ((exchangeOf (landUnit uid k n h t data s) uid).map fun e => e.1.units) =
    ((exchangeOf s uid).map fun e => e.1.units.eraseIdx k) := by
  have landed := landCells_homeFrame (pkgOf (s.getLc n).core) 0 (unitCells (slotAddr s n h t) data) s
  rw [landUnit, (settle_partsChange uid _).exchangeOf, exchangeOf_modXch, markTicket_exchangeOf, landed.exchangeOf, Option.map_map]
  · rfl
  · exact fun _ => rfl

end

theorem unitLanding_lands {s s1 : State} {uid k n : Nat} {x : Exchange} {cal : List XPhase} {u : XUnit} {h : BitVec 3} {t : Nat}
    (hx : exchangeOf s uid = some (x, cal)) (hu : x.units[k]? = some u)
    (hticket : ticketAt uid u.dst (ticketPlace s uid x u.dst u.src u.idx u.residual) s = (s1, some (n, h, t)))
    (hhere : (s1.getLc n).away = false) (hruns : coreHalted (s1.getCore (s1.getLc n).core) = false) (hc : (getHandle s1 n h).c ≤ t)
    (hfresh : (getHandle s1 n h).marks.contains t = false)
    (hheld : heldRange s1 (slotAddr s1 n h t) 256 = false) :
    unitLanding uid k s = landUnit uid k n h t u.data s1 := by
  simp only [unitLanding, hx, hu, hticket, hfresh, Nat.not_lt.mpr hc, hhere, hruns, hheld, Bool.false_eq_true, or_self, if_false]
  rfl

end Sys2Proof.Machine
end

section
open Sys2Proof Sys2Proof.Machine Sys2Proof.Claims

/-- Settles O44, event by event: what each leaves when nothing is in its way. -/
theorem exchangeEventsResult : Obligations.ExchangeEventsResult := by
  unfold Obligations.ExchangeEventsResult
  refine ⟨fun s part c hprimary => ⟨?_, ?_, fun d hp hd => arbiterFailover_result hp hd⟩,
    fun s uid x cal rank n hb hx hn ht => ⟨fun hs => ?_, fun hs hg hrun hhere => ⟨fun ph hph => ⟨fun hno => ?_, ?_⟩, ?_⟩, ?_⟩, ?_⟩
  · exact arbiterHeartbeat_result hprimary true
  · exact arbiterHeartbeat_result hprimary false
  · exact ⟨_, (event_onBoard hb _).trans (congrArg _ (calendarArrival_ready hx hn ht hs)), by rw [getLc_modX ht], modX_mem _ _ _ _⟩
  · exact ⟨_, (event_onBoard hb _).trans (congrArg _ (phaseStart_passes hx hn ht hs hg hrun hhere hph hno)), modX_mem _ _ _ _,
      congrArg LCore.xp (getLc_modX ht _)⟩
  · intro r d left hpair hrecv hring hbytes hunits hleft
    exact phaseStart_result hx hn ht hs hg hrun hhere hph hb hpair hrecv hring hbytes hunits (by rw [hleft])
  · exact fun hopen hphase hleft hsent => segmentEnd_result hx hn ht hs hopen hphase hleft hsent hb
  · exact fun hrun hleft hends hnext => residualStart_result hx hn hrun hleft hends hnext hb ht
  · intro s uid x cal k u s1 n h tk hb hx hu hticket hhere hruns hc hfresh at_ hheld hw
    exact ⟨_, (event_onBoard hb _).trans (congrArg _ (unitLanding_lands hx hu hticket hhere hruns hc hfresh hheld)),
      fun i hi => landUnit_byte uid k u.data hw hi, landUnit_marks uid k u.data hc, landUnit_units uid k u.data⟩

end

section
/-! What a task instruction leaves of everything but its queue, the threads and memory, and where its destination is written. -/

namespace Sys2Proof.Machine
open Sys2Proof.Claims

/-- What decides whether a g operand takes a value, and what its chunk holds, stand (R107, R127, R231). -/
structure IssueFrame (s t : State) : Prop where
  tid : t.cur.tid = s.cur.tid
  seq : t.cur.seq = s.cur.seq
  lcore : t.cur.lcore = s.cur.lcore
  vqueue : t.core.vqueue = s.core.vqueue
  lc : t.lc = s.lc
  lcores : t.launch.lcores = s.launch.lcores
  portq : t.launch.portq = s.launch.portq
  l : t.launch.l = s.launch.l
  w : t.launch.w = s.launch.w
  chunk : t.cur.chunk = s.cur.chunk
  ended : t.cur.ended = s.cur.ended
  rel : t.cur.rel = s.cur.rel

theorem IssueFrame.trans {s t u : State} (h : IssueFrame s t) (k : IssueFrame t u) : IssueFrame s u := by
  constructor
  case tid => rw [k.tid, h.tid]
  case seq => rw [k.seq, h.seq]
  case lcore => rw [k.lcore, h.lcore]
  case vqueue => rw [k.vqueue, h.vqueue]
  case lc => rw [k.lc, h.lc]
  case lcores => rw [k.lcores, h.lcores]
  case portq => rw [k.portq, h.portq]
  case l => rw [k.l, h.l]
  case w => rw [k.w, h.w]
  case chunk => rw [k.chunk, h.chunk]
  case ended => rw [k.ended, h.ended]
  case rel => rw [k.rel, h.rel]

theorem IssueFrame.chunkEmpty {s t : State} (h : IssueFrame s t) (hc : ChunkEmpty s) : ChunkEmpty t := by
  rw [ChunkEmpty, h.chunk, h.ended, h.rel]; exact hc

/-- The FIFOs of a logical core without an entry are empty wherever it stands. -/
theorem IssueFrame.portHeld {s t : State} (h : IssueFrame s t) (n : Nat) (i : Fin 4) : portHeld t n i = portHeld s n i := by
  have fifos : (t.getLc n).ports = (s.getLc n).ports ∧ (t.getLc n).portPops = (s.getLc n).portPops := by
    simp only [State.getLc, h.lc, h.lcores]
    split
    · exact ⟨rfl, rfl⟩
    · cases s.launch.lcores.find? (·.id == n) with
      | none => exact ⟨rfl, rfl⟩
      | some _ => exact ⟨rfl, rfl⟩
  obtain ⟨ports, pops⟩ := fifos
  rw [Machine.portHeld, Machine.portHeld, ports, pops, h.portq]

theorem IssueFrame.canTake {s t : State} (h : IssueFrame s t) {g : GOp} (hg : CanTake g s) : CanTake g t := by
  cases g with
  | reg n => exact hg.imp id fun unmarked => by rw [vectorMarks, h.vqueue, h.tid, h.seq]; exact unmarked
  | port d => rw [CanTake, h.l, h.w, h.lcore, h.portHeld]; exact hg

theorem Translated.issue {s t : State} (h : Translated s t) : IssueFrame s t := by constructor <;> rw [h]
theorem HomeFrame.issue {s t : State} (h : HomeFrame s.cur.tid s t) : IssueFrame s t := by
  constructor
  case lc => exact h.lc
  case vqueue => rw [h.core]
  case tid | seq | lcore | chunk | ended | rel => rw [h.cur rfl]
  case lcores | portq | l | w => rw [h.launch]

theorem canTake_writes {g : GOp} {s : State} (hg : CanTake g s) (hc : ChunkEmpty s) (v : Word) : ∃ t, Writes g v s t := by
  cases g with
  | reg n => exact ⟨_, hg, rfl⟩
  | port d => exact ⟨_, hc, hg, rfl⟩

/-- An instruction between chunks whose body comes to the write of its destination over `u`. -/
theorem gives_of_write {i : Instr} {g : GOp} {v : Word} {s u : State} {body : Run Unit} (steps : exec i s = issue onThread body s)
    (hr : Ready onThread s) (hc : ChunkEmpty s) (hg : CanTake g s) (frame : IssueFrame (closing s) u)
    (hb : body s = writeOp g v u) : Gives i g v s u := by
  have empty : ChunkEmpty u := frame.chunkEmpty hc
  have closed : u.cur.chunk.closed = true := by rw [frame.chunk]; rfl
  obtain ⟨t, hw⟩ := canTake_writes (frame.canTake (s := closing s) hg) empty v
  exact ⟨t, hw, steps.trans (issue_alone hr (hb.trans (writeOp_ok hw)) (writes_tidy hw (.inr empty)) (writes_closed hw closed))⟩

/-- Of the state, the agents, the number of the next thread, the die queues, the order log's counts, the cards under way and the
progress of the thread in front on a card alone may change. -/
def TaskFrame (s t : State) : Prop := t = { s with
  cur := { s.cur with asking := t.cur.asking, spawned := t.cur.spawned, posting := t.cur.posting, dealt0 := t.cur.dealt0 }
  agents := t.agents, nextTid := t.nextTid, dieqs := t.dieqs
  launch := { s.launch with ords := t.launch.ords, sites := t.launch.sites, cards := t.launch.cards } }

theorem TaskFrame.refl (s : State) : TaskFrame s s := rfl
theorem TaskFrame.trans {s t u : State} (h : TaskFrame s t) (k : TaskFrame t u) : TaskFrame s u := by
  unfold TaskFrame at *; rw [k, h]

section
variable {s t : State} (h : TaskFrame s t)
include h

theorem TaskFrame.issue : IssueFrame s t := by constructor <;> rw [h]
theorem TaskFrame.regs : t.cur.regs = s.cur.regs := by rw [h]
theorem TaskFrame.npc : t.cur.npc = s.cur.npc := by rw [h]
theorem TaskFrame.tag : t.cur.tag = s.cur.tag := by rw [h]
theorem TaskFrame.tid : t.cur.tid = s.cur.tid := by rw [h]
theorem TaskFrame.card : t.cur.card = s.cur.card := by rw [h]
theorem TaskFrame.mem : t.mem = s.mem := by rw [h]
theorem TaskFrame.lmem : t.launch.lmem = s.launch.lmem := by rw [h]
theorem TaskFrame.cells : SameCells s t := ⟨h.mem, h.lmem⟩
theorem TaskFrame.heldRange (k n : Nat) : heldRange t k n = heldRange s k n := by rw [h]; rfl
theorem TaskFrame.softByte (k : Nat) (b : Byte) : softByte t k b = softByte s k b := by rw [h]; rfl

end

/-- A change of one die's queue. -/
theorem modDie_taskFrame (s : State) (d : Nat) (f : DieQ → DieQ) : TaskFrame s (s.modDie d f) := by
  unfold State.modDie; split <;> rfl

/-- In FREE mode an event of the order log is counted. -/
theorem logEvent_taskFrame {s : State} (h : s.launch.mode = .free) (lc sq kind site : Nat) (pred : Option Nat) :
    TaskFrame s (logEvent s lc sq kind site pred) := by
  rw [logEvent_free h]; rfl

end Sys2Proof.Machine
end

section
/-! A record in the issuer's view (R127, R136, R158). -/

namespace Sys2Proof.Machine

theorem releaseSteps_state {s t : State} (h : releaseSteps s = .ok ((), t)) : t = s := by
  obtain ⟨_, u, waited, rest⟩ := bind_ok h
  cases releaseOver_state waited
  simp only [run_bind, run_get, run_ite, startWaiting, run_throw, run_pure] at rest
  split at rest
  · cases rest
  · cases rest; rfl

/-- What reading a record leaves, and what it answers: the chunk has closed, the caches may have filled. -/
structure ViewedRecord (va : Addr) (need : Rights) (s s1 : State) (a : Acc) (x : Nat) : Prop where
  reached : ∃ r, reachAligned va 64 need s = .ok (a, r)
  left : Translated (closing s) s1
  value : x = ofBytes (readViewN s1 s1.pkg s1.cur.tag a.key 64)

theorem Translated.closing {s t : State} (h : Translated s t) : Translated (closing s) (Machine.closing t) := by
  unfold Translated Machine.closing State.modCur at *
  rw [h]

theorem viewRecord_viewed {va : Addr} {need : Rights} {rel : Bool} {s s1 : State} {a : Acc} {x : Nat}
    (h : viewRecord va need rel s = .ok ((a, x), s1)) : ViewedRecord va need s s1 a x := by
  obtain ⟨b, r, reached, h⟩ := bind_ok h
  obtain ⟨_, u, closes, h⟩ := bind_ok h
  cases betweenChunks_state closes
  have answers : (do
      let s ← get
      require (!meetsPoison s b.key 64) cUncorrectable va
      return (b, ofBytes (readViewN s s.pkg s.cur.tag b.key 64)) : Run (Acc × Nat)) (Machine.closing r) = .ok ((a, x), s1) := by
    cases rel with
    | false => exact h
    | true =>
      obtain ⟨_, v, released, h⟩ := bind_ok h
      cases releaseSteps_state released
      exact h
  obtain ⟨_, _, got, answers⟩ := bind_ok answers
  cases got
  obtain ⟨_, _, checked, answers⟩ := bind_ok answers
  cases require_state checked
  cases answers
  exact ⟨⟨r, reached⟩, (reachAligned_translated reached).closing, rfl⟩

theorem Translated.getDie {s t : State} (h : Translated s t) (d : Nat) : t.getDie d = s.getDie d := getDie_of_dieqs (by rw [h]) d
theorem Translated.launch {s t : State} (h : Translated s t) : t.launch = s.launch := by rw [h]
theorem Translated.agents {s t : State} (h : Translated s t) : t.agents = s.agents := by rw [h]
theorem Translated.nextTid {s t : State} (h : Translated s t) : t.nextTid = s.nextTid := by rw [h]
theorem Translated.cells {s t : State} (h : Translated s t) : SameCells s t := ⟨translated_mem h, by rw [h]⟩

end Sys2Proof.Machine
end

section
/-! An instruction that runs between chunks in FREE mode, before its effect (R127). -/

namespace Sys2Proof.Machine
open Sys2Proof.Claims

/-- Its chunk has closed and holds nothing, and its caches may have filled. -/
structure Between (s u : State) : Prop where
  left : Translated (closing s) u
  empty : ChunkEmpty u
  mode : u.launch.mode = .free

theorem between_of {s u : State} (left : Translated (closing s) u) (hc : ChunkEmpty s) (hm : s.launch.mode = .free) : Between s u := by
  constructor
  case left => exact left
  case empty => rw [ChunkEmpty, translated_cur left]; exact hc
  case mode => rw [left.launch]; exact hm

section
variable {s u : State} (h : Between s u)
include h

theorem Between.cur : u.cur = (closing s).cur := translated_cur h.left
theorem Between.core : u.cur.core = s.cur.core := by rw [h.cur]; rfl
theorem Between.lcore : u.cur.lcore = s.cur.lcore := by rw [h.cur]; rfl
theorem Between.seq : u.cur.seq = s.cur.seq := by rw [h.cur]; rfl
theorem Between.tid : u.cur.tid = s.cur.tid := by rw [h.cur]; rfl
theorem Between.tag : u.cur.tag = s.cur.tag := by rw [h.cur]; rfl
theorem Between.regs : u.cur.regs = s.cur.regs := by rw [h.cur]; rfl
theorem Between.npc : u.cur.npc = s.cur.npc := by rw [h.cur]; rfl
theorem Between.queue (d : Nat) : u.getDie d = s.getDie d := h.left.getDie d
theorem Between.notQuantum : u.launch.mode ≠ .quantum := by rw [h.mode]; simp
theorem Between.card : u.cur.card = s.cur.card := by rw [h.cur]; rfl
theorem Between.mem : u.mem = s.mem := (translated_mem h.left).trans rfl
theorem Between.lmem : u.launch.lmem = s.launch.lmem := by rw [h.left.launch]; rfl
theorem Between.cells : SameCells s u := h.left.cells
theorem Between.agents : u.agents = s.agents := h.left.agents
theorem Between.nextTid : u.nextTid = s.nextTid := h.left.nextTid
theorem Between.issue : IssueFrame (closing s) u := h.left.issue

end

end Sys2Proof.Machine
end

section
/-! A seed enters the queue of its die (R158, R160, R162). -/

namespace Sys2Proof.Machine
open Sys2Proof.Claims

/-- Nothing waits behind the queue of a die, and `n` seeds find room in it. -/
structure QueueRoom (die n : Nat) (s : State) : Prop where
  ring : (s.getDie die).ring = []
  holding : (s.getDie die).holding = []
  room : (s.getDie die).entries.length + n ≤ 16384

theorem QueueRoom.of_die {die n : Nat} {s t : State} (h : QueueRoom die n s) (ht : t.getDie die = s.getDie die) :
    QueueRoom die n t := by
  obtain ⟨ring, holding, room⟩ := h
  rw [← ht] at ring holding room
  exact ⟨ring, holding, room⟩

/-- A new thread whose seed stands last in the queue of a die. -/
def queuedSpawn (die : Nat) (a : Agent) (s : State) : State :=
  (addSpawned a s).modDie die fun q => { q with entries := q.entries ++ [entryOf s a] }

theorem QueueRoom.placeSeed {die n : Nat} {s : State} (h : QueueRoom die (n + 1) s) (e : QEntry) :
    placeSeed die e s = .placed (s.modDie die fun q => { q with entries := q.entries ++ [e] }) := by
  obtain ⟨ring, holding, room⟩ := h
  have short : (s.getDie die).entries.length < Config.dieQueueSize := Nat.lt_of_lt_of_le (Nat.lt_add_of_pos_right n.succ_pos) room
  have place : roomFor s die = .queue := by
    rw [roomFor, ring, holding]
    exact if_pos ⟨rfl, rfl, short⟩
  rw [Machine.placeSeed, place]

theorem QueueRoom.placeSpawned {die n : Nat} {s : State} (h : QueueRoom die (n + 1) s) (a : Agent) :
    Machine.placeSeed die (entryOf s a) (addSpawned a s) = .placed (queuedSpawn die a s) :=
  (h.of_die (t := addSpawned a s) rfl).placeSeed _

theorem addSpawned_taskFrame (a : Agent) (s : State) : TaskFrame s (addSpawned a s) := rfl
theorem queuedSpawn_taskFrame (die : Nat) (a : Agent) (s : State) : TaskFrame s (queuedSpawn die a s) :=
  (addSpawned_taskFrame a s).trans (modDie_taskFrame _ die _)
theorem queuedSpawn_getDie (die : Nat) (a : Agent) (s : State) :
    (queuedSpawn die a s).getDie die = { s.getDie die with entries := (s.getDie die).entries ++ [entryOf s a] } :=
  getDie_modDie_same (addSpawned a s) die _ fun _ => rfl
theorem queuedSpawn_agents (die : Nat) (a : Agent) (s : State) : (queuedSpawn die a s).agents = s.agents ++ [a] :=
  modDie_agents _ _ _
theorem queuedSpawn_nextTid (die : Nat) (a : Agent) (s : State) : (queuedSpawn die a s).nextTid = s.nextTid + 1 := by
  unfold queuedSpawn State.modDie; split <;> rfl

/-- What the placing of a new thread's seed comes to: the word that its SPAWN writes, and over which state (R158, R294). -/
inductive SeedPlaced (die : Nat) (a : Agent) (s : State) : Word → State → Prop where
  | queued {t : State} (room : ¬ totalRoom s die ≤ (s.getDie die).reserved)
      (place : placeSeed die (entryOf s a) (addSpawned a s) = .placed t) : SeedPlaced die a s 0 t
  | reserved (noRoom : totalRoom s die ≤ (s.getDie die).reserved) : SeedPlaced die a s 1 s
  | full (place : placeSeed die (entryOf s a) (addSpawned a s) = .full) : SeedPlaced die a s 1 s

/-- The low bits of a number are all that a word of that width takes. -/
theorem ofNat_field (x n : Nat) : BitVec.ofNat (n + 1) (field x n 0) = BitVec.ofNat (n + 1) x := by
  apply BitVec.eq_of_toNat_eq
  simp [field]

theorem spawnedAgent_pc (s : State) (x : Nat) (key : Word) : (spawnedAgent s x key).regs.pc = BitVec.ofNat 80 x :=
  ofNat_field x 79

end Sys2Proof.Machine
end

section
open Sys2Proof Sys2Proof.Machine

namespace Sys2Proof.Claims

/-! SPAWN (R158, R294). -/

section
variable {s s1 : State} {p : BitVec 4} {gk : GReg} {g : GOp} {a : Acc} {x : Nat} (hr : Ready onThread s) (hc : ChunkEmpty s)
  (hmode : s.launch.mode = .free) (hask : s.cur.asking = false) (hans : s.cur.answer = none) (hp : PReadable s p)
  (hg : CanTake g s) (hv : viewRecord (pval s p) rR true s = .ok ((a, x), s1)) (hk : Readable s1 gk) (hbad : seedBad x = false)
include hr hc hmode hask hans hp hg hv hk hbad

/-- SPAWN comes to the placing of its seed. -/
theorem spawn_gives {v : Word} {u : State} (placed : SeedPlaced (dieOf s1.cur.core) (spawnedAgent s1 x (gval s1 gk)) s1 v u)
    (frame : TaskFrame s1 u) : Gives (.spawn g gk p) g v s u := by
  have stands := between_of (viewRecord_viewed hv).left hc hmode
  refine gives_of_write rfl hr hc hg (stands.issue.trans frame.issue) ?_
  simp only [run_bind, run_get, hans, hask, Option.isSome_none, Bool.false_eq_true, if_false, readP_ok hp, hv, run_require, hbad,
    Bool.not_false, if_true, readG_ok hk, atQuantum_free stands.notQuantum, run_ite]
  cases placed with
  | queued room place => simp only [room, if_false, place, run_bind, run_set]
  | reserved noRoom => simp only [noRoom, if_true]
  | full place =>
    split
    · rfl
    · simp only [place]

end

end Sys2Proof.Claims
end

section
/-! The workers of a card (R162). -/

namespace Sys2Proof.Machine

theorem workerAgent_pc (s : State) (x : Nat) (card : Addr) (key : Word) (w : Nat) :
    (workerAgent s x card key w).regs.pc = BitVec.ofNat 80 x := ofNat_field x 79

/-- Places of a die's queue are kept for a card, and one of them is given back. -/
def keepPlaces (n : Nat) (q : DieQ) : DieQ := { q with reserved := q.reserved + n }
def giveBackPlace (q : DieQ) : DieQ := { q with reserved := q.reserved - 1 }

/-- One more worker of the card stands in the queue, and the places kept for the card are one fewer. -/
def queuedWorker (die x : Nat) (card : Addr) (key : Word) (s : State) : State :=
  ((queuedSpawn die (workerAgent s x card key s.cur.spawned) s).modDie die giveBackPlace).modCur
    fun a => { a with spawned := a.spawned + 1 }

section
variable (die x : Nat) (card : Addr) (key : Word) (s : State)

theorem queuedWorker_taskFrame : TaskFrame s (queuedWorker die x card key s) :=
  ((queuedSpawn_taskFrame die (workerAgent s x card key s.cur.spawned) s).trans
    (modDie_taskFrame _ die giveBackPlace)).trans rfl
theorem queuedWorker_getDie : (queuedWorker die x card key s).getDie die = { s.getDie die with
    entries := (s.getDie die).entries ++ [entryOf s (workerAgent s x card key s.cur.spawned)]
    reserved := (s.getDie die).reserved - 1 } := by
  refine (getDie_modDie_same (queuedSpawn die (workerAgent s x card key s.cur.spawned) s) die giveBackPlace fun _ => rfl).trans ?_
  rw [queuedSpawn_getDie]
  rfl
theorem queuedWorker_agents :
    (queuedWorker die x card key s).agents = s.agents ++ [workerAgent s x card key s.cur.spawned] :=
  (modDie_agents _ _ _).trans (queuedSpawn_agents die _ s)
theorem queuedWorker_nextTid : (queuedWorker die x card key s).nextTid = s.nextTid + 1 := by
  refine Eq.trans ?_ (queuedSpawn_nextTid die (workerAgent s x card key s.cur.spawned) s)
  unfold queuedWorker State.modDie State.modCur
  dsimp only
  split <;> rfl
theorem queuedWorker_posting : (queuedWorker die x card key s).cur.posting = s.cur.posting := by
  show Agent.posting (State.cur (State.modDie _ _ _)) = _
  rw [modDie_cur, queuedSpawn, modDie_cur]
  rfl

end

/-- Workers of a card stand behind what the queue of a die held, numbered from `tid` on (R162). -/
structure WorkersQueued (die x : Nat) (card : Addr) (key : Word) (n : Nat) (s t : State) (es : List QEntry) (bs : List Agent) : Prop where
  frame : TaskFrame s t
  entries : (t.getDie die).entries = (s.getDie die).entries ++ es
  reserved : (t.getDie die).reserved = (s.getDie die).reserved - n
  agents : t.agents = s.agents ++ bs
  seeds : es.length = n
  threads : bs.length = n
  seed : ∀ k, k < n → (es[k]?).map (·.tid) = some (s.nextTid + k) ∧ (es[k]?).map (·.key) = some key
  thread : ∀ k, k < n → (bs[k]?).map (·.tid) = some (s.nextTid + k) ∧ (bs[k]?).map (·.regs.pc) = some (BitVec.ofNat 80 x) ∧
    (bs[k]?).map (·.card) = some (some (card, s.cur.posting))

theorem WorkersQueued.none (die x : Nat) (card : Addr) (key : Word) (s : State) : WorkersQueued die x card key 0 s s [] [] :=
  ⟨.refl s, (List.append_nil _).symm, rfl, (List.append_nil _).symm, rfl, rfl, fun _ h => absurd h (Nat.not_lt_zero _),
    fun _ h => absurd h (Nat.not_lt_zero _)⟩

/-- A worker, and those after it. -/
theorem WorkersQueued.cons {die x : Nat} {card : Addr} {key : Word} {n : Nat} {s t : State} {es : List QEntry} {bs : List Agent}
    (h : WorkersQueued die x card key n (queuedWorker die x card key s) t es bs) : WorkersQueued die x card key (n + 1) s t
      (entryOf s (workerAgent s x card key s.cur.spawned) :: es) (workerAgent s x card key s.cur.spawned :: bs) := by
  have die' := queuedWorker_getDie die x card key s
  constructor
  case frame => exact (queuedWorker_taskFrame die x card key s).trans h.frame
  case entries => rw [h.entries, die', List.append_assoc]; rfl
  case reserved => rw [h.reserved, die', Nat.sub_sub, Nat.add_comm]
  case agents => rw [h.agents, queuedWorker_agents, List.append_assoc]; rfl
  case seeds => rw [List.length_cons, h.seeds]
  case threads => rw [List.length_cons, h.threads]
  case seed =>
    intro k hk
    cases k with
    | zero => exact ⟨rfl, rfl⟩
    | succ k =>
      obtain ⟨tid, key⟩ := h.seed k (Nat.lt_of_succ_lt_succ hk)
      rw [queuedWorker_nextTid, Nat.add_assoc, Nat.add_comm 1] at tid
      exact ⟨tid, key⟩
  case thread =>
    intro k hk
    cases k with
    | zero => exact ⟨rfl, congrArg some (workerAgent_pc s x card key _), rfl⟩
    | succ k =>
      obtain ⟨tid, pc, card⟩ := h.thread k (Nat.lt_of_succ_lt_succ hk)
      rw [queuedWorker_nextTid, Nat.add_assoc, Nat.add_comm 1] at tid
      rw [queuedWorker_posting] at card
      exact ⟨tid, pc, card⟩

theorem QueueRoom.next {die n : Nat} {s : State} (h : QueueRoom die (n + 1) s) (x : Nat) (card : Addr) (key : Word) :
    QueueRoom die n (queuedWorker die x card key s) := by
  obtain ⟨ring, holding, room⟩ := h
  constructor
  case ring => rw [queuedWorker_getDie]; exact ring
  case holding => rw [queuedWorker_getDie]; exact holding
  case room => rw [queuedWorker_getDie, List.length_append, List.length_singleton]; omega

/-- With room in the queue no worker stalls. -/
theorem spawnWorkers_placed {die n : Nat} {s : State} (h : QueueRoom die n s) (x : Nat) (card : Addr) (key : Word) :
    ∃ t es bs, spawnWorkers die x card key n s = .placed t ∧ WorkersQueued die x card key n s t es bs := by
  induction n generalizing s with
  | zero => exact ⟨s, [], [], rfl, .none die x card key s⟩
  | succ n ih =>
    obtain ⟨t, es, bs, rest, queued⟩ := ih (h.next x card key)
    refine ⟨t, _, _, ?_, queued.cons⟩
    rw [spawnWorkers]
    simp only [h.placeSpawned]
    exact rest

/-- SPAWNB takes a card: its workers' places are kept, and nothing of it is spawned yet (R162). -/
def cardTaken (die n : Nat) (s : State) : State :=
  ((s.modDie die fun q => { q with reserved := q.reserved + n }).modCur
    fun a => { a with asking := true, spawned := 0, posting := s.nextTid }).modLaunch fun l => { l with cards := aset s.nextTid n l.cards }

theorem cardTaken_taskFrame (die n : Nat) (s : State) : TaskFrame s (cardTaken die n s) :=
  (modDie_taskFrame s die (keepPlaces n)).trans rfl
theorem cardTaken_getDie (die n : Nat) (s : State) :
    (cardTaken die n s).getDie die = keepPlaces n (s.getDie die) := getDie_modDie_same s die (keepPlaces n) fun _ => rfl
theorem cardTaken_agents (die n : Nat) (s : State) : (cardTaken die n s).agents = s.agents := modDie_agents _ _ _
theorem cardTaken_nextTid (die n : Nat) (s : State) : (cardTaken die n s).nextTid = s.nextTid := by
  unfold cardTaken State.modDie State.modCur State.modLaunch
  dsimp only
  split <;> rfl

/-- The queue counts in what queue and ring take together. -/
theorem QueueRoom.totalRoom {die n : Nat} {s : State} (h : QueueRoom die n s) : n ≤ totalRoom s die := by
  obtain ⟨ring, holding, room⟩ := h
  have count : n ≤ Config.dieQueueSize - (s.getDie die).entries.length := Nat.le_sub_of_add_le (by rw [Nat.add_comm]; exact room)
  simp only [Machine.totalRoom, ring, holding, List.isEmpty_nil, Bool.and_self, if_true]
  exact Nat.le_trans count (Nat.le_add_right _ _)

theorem modCur_answer {s : State} (h : s.cur.answer = none) : (s.modCur fun a => { a with answer := none }) = s := by
  rw [State.modCur, ← h]

end Sys2Proof.Machine
end

section
open Sys2Proof Sys2Proof.Machine

namespace Sys2Proof.Claims

/-! SPAWNB (R162, R294). -/

section
variable {s s1 : State} {p : BitVec 4} {gk : GReg} {g : GOp} {a : Acc} {x : Nat} (hr : Ready onThread s) (hc : ChunkEmpty s)
  (hmode : s.launch.mode = .free) (hask : s.cur.asking = false) (hans : s.cur.answer = none) (hp : PReadable s p)
  (hg : CanTake g s) (hv : viewRecord (pval s p) rR true s = .ok ((a, x), s1)) (hk : Readable s1 gk) (hbad : cardBad x = false)
include hr hc hmode hask hans hp hg hv hk hbad

/-- Where the queue takes every worker of the card, they all stand in it. -/
theorem spawnb_gives (hroom : QueueRoom (dieOf s.cur.core) (field x 255 240) s1)
    (hres : (s1.getDie (dieOf s.cur.core)).reserved = 0) :
    ∃ t es bs, Gives (.spawnb g gk p) g 0 s t ∧ WorkersQueued (dieOf s.cur.core) x (pval s p) (gval s1 gk) (field x 255 240)
      (cardTaken (dieOf s.cur.core) (field x 255 240) s1) t es bs := by
  have stands := between_of (viewRecord_viewed hv).left hc hmode
  have room : ¬ totalRoom s1 (dieOf s.cur.core) < field x 255 240 := Nat.not_lt.2 hroom.totalRoom
  have taken : QueueRoom (dieOf s.cur.core) (field x 255 240) (cardTaken (dieOf s.cur.core) (field x 255 240) s1) := by
    obtain ⟨ring, holding, room⟩ := hroom
    constructor
    all_goals rw [cardTaken_getDie]; assumption
  have started : (cardTaken (dieOf s.cur.core) (field x 255 240) s1).cur.spawned = 0 := by
    rw [cardTaken, State.modLaunch_cur]; rfl
  obtain ⟨t, es, bs, places, queued⟩ := spawnWorkers_placed taken x (pval s p) (gval s1 gk)
  have ends : TaskFrame t (t.modCur fun a => { a with asking := false, spawned := 0 }) := rfl
  have frame := (cardTaken_taskFrame (dieOf s.cur.core) (field x 255 240) s1).trans (queued.frame.trans ends)
  refine ⟨t.modCur fun a => { a with asking := false, spawned := 0 }, es, bs,
    gives_of_write rfl hr hc hg (stands.issue.trans frame.issue) ?_, ?_⟩
  · simp only [run_bind, run_get, hask, hans, Option.isSome_none, Bool.or_self, Bool.false_and, Bool.false_eq_true, if_false, run_modify,
      modCur_answer hans, readP_ok hp, Bool.not_false, hv, readG_ok hk, run_require, hbad, if_true, atQuantum_free stands.notQuantum,
      stands.core, hres, Nat.add_zero, room, decide_false, Bool.and_false, run_ite]
    rw [← cardTaken]
    simp only [started, Nat.sub_zero, places, run_bind, run_set]
  · exact { queued with
      frame := queued.frame.trans ends, entries := queued.entries, reserved := queued.reserved, agents := queued.agents }

end

end Sys2Proof.Claims
end

section
/-! A write of the issuer that is one event at its home (R128, R159, R163). -/

namespace Sys2Proof.Machine

/-- No reservation of another agent stands in the way where there is none (R128). -/
theorem reservedLine_none {s : State} (h : ∀ b ∈ s.agents, b.reserved = false) (pkg tag line : Nat) :
    reservedLine s pkg tag s.cur.tid line = false := by
  refine List.any_eq_false.mpr fun b hb => ?_
  obtain rfl | hb := List.mem_cons.mp hb
  · simp
  · simp [reserving, h b hb]

theorem unreserved_ok {s : State} {key : Nat} (h : reservedLine s s.pkg s.cur.tag s.cur.tid (lineOf key) = false) :
    unreserved key s = .ok ((), s) := by
  simp only [unreserved, run_bind, run_get, h, Bool.false_eq_true, if_false, run_pure]

/-- What such a write of `bs` at `key` leaves outside views. -/
def writtenHome (key : Nat) (bs : List Byte) (s : State) : State := writeHome s s.pkg 0 s.cur.tid (cellsAt key bs)

theorem writeDirect_ok {s : State} {key : Nat} {bs : List Byte} (hheld : heldRange s key bs.length = false) (htag : s.cur.tag = 0)
    (hfree : reservedLine s s.pkg 0 s.cur.tid (lineOf key) = false) : writeDirect key bs s = .ok ((), writtenHome key bs s) := by
  rw [← htag] at hfree
  simp only [writeDirect, run_bind, rangeFree_ok hheld, roomForLine, run_get, lacksRoom_committed htag, Bool.false_eq_true, if_false,
    run_pure, unreserved_ok hfree, run_modify, htag]
  rfl

theorem writtenHome_homeFrame (key : Nat) (bs : List Byte) (s : State) : HomeFrame s.cur.tid s (writtenHome key bs s) :=
  writeHome_homeFrame _ s _ 0 _ _

/-- Each byte stands as its access code lets it (R7), and every other one as before. -/
theorem writtenHome_byte {s : State} (h : CellsWf s) (key : Nat) (bs : List Byte) (k : Nat) : baseByte (writtenHome key bs s) k =
    if key ≤ k ∧ k < key + bs.length then softByte s k (bs.getD (k - key) 0) else baseByte s k := by
  have newest := lastByte_newest (softByte s) (cellsAt key bs).reverse k (baseByte s k)
  rw [List.reverse_reverse] at newest
  have found := aget_cellsAt key bs [] k
  rw [List.append_nil] at found
  rw [writtenHome, writeHome_byte h, newest, found]
  by_cases inside : key ≤ k ∧ k < key + bs.length
  · have short : k - key < bs.length := by omega
    rw [if_pos inside, if_pos inside, List.getElem?_eq_getElem short, List.getD_eq_getElem _ _ short]
    rfl
  · rw [if_neg inside, if_neg inside]
    rfl

/-- The bytes of a number (R5). -/
theorem toBytes_getD {n i : Nat} (h : i < n) (v : Nat) : (toBytes n v).getD i 0 = BitVec.ofNat 8 (v / 256 ^ i) := by
  induction n generalizing i v with
  | zero => exact absurd h (Nat.not_lt_zero i)
  | succ n ih =>
    cases i with
    | zero => simp [toBytes]
    | succ i =>
      rw [toBytes, List.getD_cons_succ, ih (Nat.lt_of_succ_lt_succ h), Nat.div_div_eq_div_mul, Nat.pow_succ, Nat.mul_comm 256]

end Sys2Proof.Machine
end

section
/-! What TAKE takes (R159). -/

namespace Sys2Proof.Machine

theorem mem_windowOf16 {l : List QEntry} {e : QEntry} (h : e ∈ windowOf16 l) : e ∈ l :=
  (sortByKey_perm l).mem_iff.mp (List.mem_of_mem_take h)

theorem chooseTake_nil (mode : Mode) (cluster : Nat) : chooseTake mode cluster [] = none := by
  unfold chooseTake; split <;> rfl

/-- Where queue and ring hold no seed that may be taken, none is chosen. -/
theorem chooseTake_absent {may : QEntry → Bool} {entries ring : List QEntry} (h : (entries ++ ring).any may = false) (mode : Mode)
    (cluster : Nat) : chooseTake mode cluster ((windowOf16 entries).filter may) = none := by
  have bare : (windowOf16 entries).filter may = [] := List.filter_eq_nil_iff.mpr fun e he =>
    List.any_eq_false.mp h e (List.mem_append_left _ (mem_windowOf16 he))
  rw [bare, chooseTake_nil]

theorem mayTakeOut_closing (s : State) (e : QEntry) : mayTakeOut (closing s) e = mayTakeOut s e := by
  by_cases own : s.cur.tid = e.tid
  · simp [mayTakeOut, State.getAgent, State.allAgents, closing, State.modCur, own]
  · simp [mayTakeOut, State.getAgent, State.allAgents, closing, State.modCur, own]

theorem getAgent_closing {s : State} {i : Nat} (h : i ≠ s.cur.tid) : (closing s).getAgent i = s.getAgent i := by
  have other : (s.cur.tid == i) = false := beq_false_of_ne h.symm
  simp [State.getAgent, State.allAgents, closing, State.modCur, other]

/-- The seed has left its queue, and its thread the machine (R159). -/
def seedOut (die : Nat) (e : QEntry) (s : State) : State :=
  { takeEntry die e s with agents := (takeEntry die e s).agents.filter (·.tid != e.tid) }
/-- The take is an event of the order log (R165). -/
def seedTaken (die : Nat) (e : QEntry) (s : State) : State :=
  logEvent (seedOut die e s) (seedOut die e s).cur.lcore (seqCode (seedOut die e s).cur.seq) 4 (siteTake die) (some e.origin)

theorem takeEntry_taskFrame (die : Nat) (e : QEntry) (s : State) : TaskFrame s (takeEntry die e s) := modDie_taskFrame s die _
theorem seedOut_taskFrame (die : Nat) (e : QEntry) (s : State) : TaskFrame s (seedOut die e s) :=
  have without : TaskFrame (takeEntry die e s) (seedOut die e s) := rfl
  (takeEntry_taskFrame die e s).trans without
theorem takeEntry_entries (die : Nat) (e : QEntry) (s : State) : ∀ f ∈ ((takeEntry die e s).getDie die).entries, f.tid ≠ e.tid := by
  intro f hf
  rw [takeEntry, getDie_modDie_same] at hf
  · obtain ⟨x, hx, rfl⟩ := List.mem_map.mp hf
    have other : x.tid ≠ e.tid := by simpa using List.of_mem_filter hx
    split
    · exact other
    · exact other
  · exact fun _ => rfl

theorem logEvent_agents {s : State} (h : s.launch.mode = .free) (lc sq kind site : Nat) (pred : Option Nat) :
    (logEvent s lc sq kind site pred).agents = s.agents := by rw [logEvent_free h]; rfl
theorem logEvent_dieqs {s : State} (h : s.launch.mode = .free) (lc sq kind site : Nat) (pred : Option Nat) :
    (logEvent s lc sq kind site pred).dieqs = s.dieqs := by rw [logEvent_free h]; rfl

section
variable {s : State} (hm : s.launch.mode = .free) (die : Nat) (e : QEntry)
include hm

theorem seedOut_mode : (seedOut die e s).launch.mode = .free := by rw [seedOut_taskFrame die e s]; exact hm

theorem seedTaken_taskFrame : TaskFrame s (seedTaken die e s) :=
  (seedOut_taskFrame die e s).trans (logEvent_taskFrame (seedOut_mode hm die e) _ _ _ _ _)

theorem seedTaken_agents : (seedTaken die e s).agents = s.agents.filter (·.tid != e.tid) := by
  rw [seedTaken, logEvent_agents (seedOut_mode hm die e), seedOut]
  show List.filter _ (takeEntry die e s).agents = _
  rw [takeEntry, modDie_agents]

theorem seedTaken_entries : ∀ f ∈ ((seedTaken die e s).getDie die).entries, f.tid ≠ e.tid := by
  rw [seedTaken, getDie_of_dieqs (logEvent_dieqs (seedOut_mode hm die e) _ _ _ _ _) die]
  exact takeEntry_entries die e s

end

end Sys2Proof.Machine
end

section
open Sys2Proof Sys2Proof.Machine

namespace Sys2Proof.Claims

/-! TAKE (R159, R294). -/

/-- The seed that TAKE chooses of the queue of its die. -/
def takeChoice (s s1 : State) : Option QEntry :=
  chooseTake .free (s.cur.core / 4) ((windowOf16 (s.getDie (dieOf s.cur.core)).entries).filter (mayTakeOut s1))

theorem seedRecord_length (b : Agent) (st : SeedState) : (seedRecord b st).length = 64 := toBytes_length 64 _

section
variable {s s1 : State} {p : BitVec 4} {a : Acc} (hc : ChunkEmpty s) (hmode : s.launch.mode = .free)
  (hreach : reachAligned (pval s p) 64 rW s = .ok (a, s1))
include hc hmode hreach

theorem between_reached : Between s (closing s1) := between_of (reachAligned_translated hreach).closing hc hmode

/-- A body that reaches its operand and runs between chunks. -/
theorem reach_between (hheld : heldRange s1 a.key 64 = false) (hp : PReadable s p) (rest : Acc → Run Unit) :
    (readP p >>= fun va => reachAligned va 64 rW >>= fun a => hazard a.key 64 >>= fun _ => betweenChunks >>= fun _ =>
      atQuantum >>= fun _ => rest a) s = rest a (closing s1) := by
  have empty : ChunkEmpty s1 := (between_reached hc hmode hreach).empty
  simp only [run_bind, readP_ok hp, hreach, hazard_ok hheld, betweenChunks_ok empty,
    atQuantum_free (between_reached hc hmode hreach).notQuantum]

end

section
variable {s s1 : State} {p : BitVec 4} {g : GOp} {a : Acc} (hr : Ready onThread s) (hc : ChunkEmpty s)
  (hmode : s.launch.mode = .free) (hp : PReadable s p) (hreach : reachAligned (pval s p) 64 rW s = .ok (a, s1))
  (hheld : heldRange s1 a.key 64 = false)
include hr hc hmode hp hreach hheld

theorem take_nothing (hg : CanTake g s)
    (hno : ((s.getDie (dieOf s.cur.core)).entries ++ (s.getDie (dieOf s.cur.core)).ring).any (mayTakeOut s1) = false) :
    Gives (.take g p) g 1 s (logEvent (closing s1) s.cur.lcore (seqCode s.cur.seq) 4 (siteTake (dieOf s.cur.core)) (some noOrigin)) := by
  have stands := between_reached hc hmode hreach
  have may : mayTakeOut (closing s1) = mayTakeOut s1 := funext (mayTakeOut_closing s1)
  have logged := logEvent_taskFrame stands.mode s.cur.lcore (seqCode s.cur.seq) 4 (siteTake (dieOf s.cur.core)) (some noOrigin)
  refine gives_of_write rfl hr hc hg (stands.issue.trans logged.issue) ((reach_between hc hmode hreach hheld hp _).trans ?_)
  simp only [run_bind, run_get, stands.mode, stands.core, stands.queue, may, chooseTake_absent hno, reduceCtorEq, if_false, run_pure,
    Option.map_none, Option.isNone_none, List.any_cons, List.any_nil, hno, Bool.or_false, Bool.and_false, Bool.false_eq_true, run_modify,
    stands.lcore, stands.seq]

theorem take_waits (hbehind : takeChoice s s1 = none)
    (hsome : ((s.getDie (dieOf s.cur.core)).entries ++ (s.getDie (dieOf s.cur.core)).ring).any (mayTakeOut s1) = true) :
    exec (.take g p) s = .next (park (.blocked .spill) s) := by
  have stands := between_reached hc hmode hreach
  have may : mayTakeOut (closing s1) = mayTakeOut s1 := funext (mayTakeOut_closing s1)
  have unchosen : chooseTake .free (clusterOf s.cur.core)
      ((windowOf16 (s.getDie (dieOf s.cur.core)).entries).filter (mayTakeOut s1)) = none := hbehind
  refine issue_wait hr ((reach_between hc hmode hreach hheld hp _).trans ?_)
  simp only [run_bind, run_get, stands.mode, stands.core, stands.queue, may, unchosen, reduceCtorEq, if_false, run_pure,
    Option.map_none, Option.isNone_none, List.any_cons, hsome, Bool.true_or, Bool.and_self, if_true, blocked, run_throw]

section
variable (hg : CanTake g s) (htag : s.cur.tag = 0) {e : QEntry} {b : Agent} (hchoice : takeChoice s s1 = some e)
  (hagent : s1.getAgent e.tid = some b) (hother : e.tid ≠ s.cur.tid) (hres : ∀ b ∈ s1.agents, b.reserved = false)
include hg htag hchoice hagent hother hres

/-- The seed leaves the queue, and its record goes to the pointer. -/
theorem take_gives : Gives (.take g p) g 0 s
    (writtenHome a.key (seedRecord b .ready) (seedTaken (dieOf s.cur.core) e (closing s1))) := by
  have stands := between_reached hc hmode hreach
  have may : mayTakeOut (closing s1) = mayTakeOut s1 := funext (mayTakeOut_closing s1)
  have chosen : chooseTake .free (clusterOf s.cur.core)
      ((windowOf16 (s.getDie (dieOf s.cur.core)).entries).filter (mayTakeOut s1)) = some e := hchoice
  have agent : (closing s1).getAgent e.tid = some b := by
    rw [getAgent_closing, hagent]
    exact fun same => hother (same.trans stands.tid)
  have frame := seedTaken_taskFrame stands.mode (dieOf s.cur.core) e
  have held : heldRange (seedTaken (dieOf s.cur.core) e (closing s1)) a.key (seedRecord b .ready).length = false := by
    rw [frame.heldRange, seedRecord_length]; exact hheld
  have bare : ∀ b ∈ (seedTaken (dieOf s.cur.core) e (closing s1)).agents, b.reserved = false := by
    intro b hb
    rw [seedTaken_agents stands.mode] at hb
    exact hres b (List.mem_of_mem_filter hb)
  have written := writeDirect_ok held (by rw [frame.tag, stands.tag, htag]) (reservedLine_none bare _ _ _)
  have home := writtenHome_homeFrame a.key (seedRecord b .ready) (seedTaken (dieOf s.cur.core) e (closing s1))
  refine gives_of_write rfl hr hc hg (stands.issue.trans (frame.issue.trans home.issue))
    ((reach_between hc hmode hreach hheld hp _).trans ?_)
  rw [seedTaken, seedOut] at written
  simp only [run_bind, run_get, stands.mode, stands.core, stands.queue, may, chosen, reduceCtorEq, if_false, run_pure, Option.map_some,
    agent, run_modify, written]
  rfl

/-- TAKE has taken the seed out of its queue, and its record stands at the pointer. -/
theorem take_takes (hmem : Memory.wf s1.mem = true) (hlmem : Memory.wf s1.launch.lmem = true) :
    ∃ t, Gives (.take g p) g 0 s t ∧ t.cur.regs = s.cur.regs ∧
      (∀ k, baseByte t k =
        if a.key ≤ k ∧ k < a.key + 64 then softByte s1 k ((seedRecord b .ready).getD (k - a.key) 0) else baseByte s k) ∧
      (∀ f ∈ (t.getDie (dieOf s.cur.core)).entries, f.tid ≠ e.tid) ∧ ∀ f ∈ t.agents, f.tid ≠ e.tid := by
  have stands := between_reached hc hmode hreach
  have frame := seedTaken_taskFrame stands.mode (dieOf s.cur.core) e
  have wf : CellsWf (seedTaken (dieOf s.cur.core) e (closing s1)) := frame.cells.wf ⟨hmem, hlmem⟩
  have home := writtenHome_homeFrame a.key (seedRecord b .ready) (seedTaken (dieOf s.cur.core) e (closing s1))
  refine ⟨_, take_gives hr hc hmode hp hreach hheld hg htag hchoice hagent hother hres, ?_, fun k => ?_, ?_, ?_⟩
  · rw [home.cur rfl, frame.regs, stands.regs]
  · rw [writtenHome_byte wf, seedRecord_length, frame.softByte, frame.cells.byte, stands.cells.byte]
    rfl
  · rw [getDie_of_dieqs home.dieqs]
    exact seedTaken_entries stands.mode _ e
  · intro f hf
    have tid := List.mem_map_of_mem (f := Agent.tid) hf
    rw [home.tids, seedTaken_agents stands.mode] at tid
    obtain ⟨c, hc, same⟩ := List.mem_map.mp tid
    rw [← same]
    simpa using List.of_mem_filter hc

end

end

end Sys2Proof.Claims
end

section
/-! The line of an aligned access (R2, R199, R335). -/

namespace Sys2Proof.Machine

/-- The body answers with what meets `P` alone. -/
def Answers {α : Type} (P : α → Prop) (x : Run α) : Prop := ∀ s a t, x s = .ok (a, t) → P a

section
variable {α β : Type} {P : α → Prop}

theorem answers_pure {a : α} (h : P a) : Answers P (pure a : Run α) := fun s b t ok => by cases ok; exact h
theorem answers_throw (e : Stop) : Answers P (throw e : Run α) := fun s b t ok => by cases ok
theorem answers_bind {x : Run β} {f : β → Run α} (hf : ∀ b, Answers P (f b)) : Answers P (x >>= f) := fun s a t ok => by
  obtain ⟨b, u, -, rest⟩ := bind_ok ok
  exact hf b u a t rest
theorem answers_known {x : Run β} {f : β → Run α} {Q : β → Prop} (hx : Answers Q x) (hf : ∀ b, Q b → Answers P (f b)) :
    Answers P (x >>= f) := fun s a t ok => by
  obtain ⟨b, u, first, rest⟩ := bind_ok ok
  exact hf b (hx s b u first) u a t rest
theorem answers_ite {c : Prop} [Decidable c] {x y : Run α} (hx : Answers P x) (hy : Answers P y) : Answers P (if c then x else y) := by
  split
  · exact hx
  · exact hy

end

/-- A translation keeps the place within the smallest page. -/
theorem physOf_mod (n va : Nat) : physOf n va % 64 = va % 64 := by
  have page : ∀ sh, 6 ≤ sh → (field n 83 48 * 65536 / 2 ^ sh * 2 ^ sh + va % 2 ^ sh) % 64 = va % 64 := by
    intro sh hsh
    have lines : 2 ^ sh = 64 * 2 ^ (sh - 6) := by rw [show (64 : Nat) = 2 ^ 6 from rfl, ← Nat.pow_add]; congr 1; omega
    rw [Nat.add_mod, Nat.mod_mod_of_dvd _ ⟨_, lines⟩, lines, Nat.mul_left_comm, Nat.mul_mod_right, Nat.zero_add, Nat.mod_mod]
  unfold physOf
  dsimp only
  split
  · exact page 16 (by omega)
  · split
    · exact page 25 (by omega)
    · exact page 34 (by omega)

theorem physKey_mod (s : State) (va : Nat) : Answers (fun k => k % 64 = va % 64) (physKey s va) := by
  unfold physKey
  split
  · exact answers_throw _
  · exact answers_ite (answers_throw _) (answers_pure (physOf_mod _ _))

/-- The key of an access stands where its address does in a line. -/
theorem reach_mod (va : Addr) (need : Rights) : Answers (fun a => a.key % 64 = va.toNat % 64) (reach va need) := by
  unfold reach
  refine answers_bind fun u => ?_
  dsimp only
  refine answers_ite (answers_throw _) (answers_ite (answers_ite ?_ (answers_throw _)) ?_)
  · exact answers_ite (answers_throw _) (answers_pure rfl)
  have finishes : ∀ e : PlbEntry, Answers (fun a : Acc => a.key % 64 = va.toNat % 64) (do
      let key ← physKey (← get) va.toNat
      let home := homeOf u u.core e va.toNat
      if homeShut u u.core.id home then stalled .answer
      else return { key := key, home := home, pkg := pkgOf (u.getLc home).core } : Run Acc) :=
    fun e => answers_bind fun v => answers_known (physKey_mod v _) fun key hkey => answers_ite (answers_throw _) (answers_pure hkey)
  refine answers_ite (answers_bind ?granted) ?user
  case' user => split
  case' h_1 => refine answers_bind ?_
  case' h_2 => refine answers_bind ?_
  all_goals
    intro lease
    split
    · exact answers_ite (answers_bind fun _ => answers_bind finishes) (answers_bind finishes)
    · split
      · exact answers_bind finishes
      · exact answers_ite (answers_bind fun _ => answers_bind finishes) (answers_bind finishes)

theorem reachAligned_key {va : Addr} {need : Rights} {s t : State} {a : Acc} (h : reachAligned va 64 need s = .ok (a, t)) :
    a.key % 64 = 0 := by
  obtain ⟨_, u, aligned, reached⟩ := bind_ok h
  have zero : va.toNat % 64 = 0 := by
    by_contra off
    rw [run_require, decide_eq_false off] at aligned
    cases aligned
  rw [reach_mod va need u a t reached, zero]

end Sys2Proof.Machine
end

section
/-! What DEAL deals (R163). -/

namespace Sys2Proof.Machine

/-- A part of a line meets a held range only where the line does. -/
theorem heldRange_part {s : State} {key off n : Nat} (hkey : key % 64 = 0) (hoff : off < 64) (hn : off + n ≤ 64)
    (h : heldRange s key 64 = false) : heldRange s (key + off) n = false := by
  have place : isLocal (key + off) = isLocal key := by
    unfold isLocal placeBase; exact decide_eq_decide.mpr (by omega)
  have core : localCore (key + off) = localCore key := by
    unfold localCore field; omega
  unfold heldRange at h ⊢
  rw [place, core]
  refine Bool.and_eq_false_imp.mpr fun here => List.any_eq_false.mpr fun r hr => ?_
  have apart := List.any_eq_false.mp (Bool.and_eq_false_imp.mp h here) r hr
  simp only [Bool.and_eq_true, decide_eq_true_eq] at apart ⊢
  omega

theorem lineOf_part {key off : Nat} (hkey : key % 64 = 0) (hoff : off < 64) : lineOf (key + off) = lineOf key := by
  unfold lineOf; omega

theorem TaskFrame.readViewN {s t : State} (h : TaskFrame s t) (k n : Nat) :
    readViewN t t.pkg t.cur.tag k n = readViewN s s.pkg s.cur.tag k n := by rw [h]; rfl

theorem reservedLine_logEvent {s : State} (h : s.launch.mode = .free) (lc sq kind site : Nat) (pkg tag who line : Nat) :
    reservedLine (logEvent s lc sq kind site) pkg tag who line = reservedLine s pkg tag who line := by rw [logEvent_free h]; rfl

/-- The first index that a card deals next, and the length of its next chunk (R163). -/
theorem dealChunk_eq (x : Nat) : dealChunk x = (x / 2 ^ 256 % 2 ^ 32,
    min (x / 2 ^ 192 % 2 ^ 32 - x / 2 ^ 256 % 2 ^ 32) (max (max 1 (x / 2 ^ 224 % 2 ^ 16))
      ((x / 2 ^ 192 % 2 ^ 32 - x / 2 ^ 256 % 2 ^ 32 + (2 * max 1 (x / 2 ^ 240 % 2 ^ 16) - 1)) / (2 * max 1 (x / 2 ^ 240 % 2 ^ 16))))) := by
  have workers : 1 ≤ 2 * max 1 (x / 2 ^ 240 % 2 ^ 16) := by omega
  rw [← Nat.add_sub_assoc workers]
  rfl

/-- DEAL found nothing left of a card: a worker of that card remembers it (R163). -/
def nothingDealt (card : Addr) (s : State) : State :=
  s.modCur fun t => { t with dealt0 := t.dealt0 || t.card.map (·.1) == some card }
theorem nothingDealt_taskFrame (card : Addr) (s : State) : TaskFrame s (nothingDealt card s) := rfl

/-- What DEAL leaves of a card whose record stands at `key`. -/
def dealt (card : Addr) (key x : Nat) (s : State) : State :=
  if (dealChunk x).2 = 0 then nothingDealt card s
  else writtenHome (key + 32) (toBytes 4 ((dealChunk x).1 + (dealChunk x).2)) s

end Sys2Proof.Machine
end

section
open Sys2Proof Sys2Proof.Machine

namespace Sys2Proof.Claims

/-! DEAL (R163, R294). -/

theorem onThread_seq {q : Seq} (h : onThread.on q = true) : q = .x := by
  cases q
  case x => rfl
  all_goals cases h

/-- DEAL is an event at the line of its card (R165). -/
def dealLogged (a : Acc) (s : State) : State := logEvent s s.cur.lcore 0 2 (siteLine a.key)

section
variable {s s1 : State} {p : BitVec 4} {g : GOp} {a : Acc} {x : Nat} (hr : Ready onThread s) (hc : ChunkEmpty s)
  (hmode : s.launch.mode = .free) (hp : PReadable s p) (hg : CanTake g s) (htag : s.cur.tag = 0)
  (hv : viewRecord (pval s p) (Machine.rR ||| Machine.rW ||| Machine.rA) false s = .ok ((a, x), s1))
  (hown : a.pkg = s1.pkg ∨ ownPosted (pval s p) a.key 64 s1 = .ok (none, s1)) (hheld : heldRange s1 a.key 64 = false)
  (hfree : reservedLine s1 s1.pkg 0 s1.cur.tid (lineOf a.key) = false)

include hr hc hmode hp hg htag hv hown hheld hfree

theorem deal_gives : Gives (.deal g p) g (BitVec.ofNat 64 ((dealChunk x).1 + (dealChunk x).2 * 2 ^ 32)) s
    (dealt (pval s p) a.key x (dealLogged a s1)) := by
  have viewed := viewRecord_viewed hv
  have stands := between_of viewed.left hc hmode
  have tag : s1.cur.tag = 0 := by rw [stands.tag, htag]
  have frame : TaskFrame s1 (dealLogged a s1) := logEvent_taskFrame stands.mode _ _ _ _ _
  have here : a.key % 64 = 0 := by obtain ⟨r, reached⟩ := viewed.reached; exact reachAligned_key reached
  have held : heldRange (dealLogged a s1) (a.key + 32) (toBytes 4 ((dealChunk x).1 + (dealChunk x).2)).length = false := by
    rw [frame.heldRange, toBytes_length]
    exact heldRange_part here (by omega) (by omega) hheld
  have free : reservedLine (dealLogged a s1) (dealLogged a s1).pkg 0 (dealLogged a s1).cur.tid (lineOf (a.key + 32)) = false := by
    have same : (dealLogged a s1).pkg = s1.pkg := by rw [frame]; rfl
    rw [same, frame.tid, lineOf_part here (by omega), dealLogged, reservedLine_logEvent stands.mode]
    exact hfree
  have written := writeDirect_ok held (frame.tag.trans tag) free
  have event := orderEvent_ok (stands.seq.trans (onThread_seq hr.1)) stands.mode 2 (siteLine a.key)
  have value : ofBytes (readViewN (dealLogged a s1) (dealLogged a s1).pkg (dealLogged a s1).cur.tag a.key 64) = x := by
    rw [frame.readViewN]; exact viewed.value.symm
  have bare : unreserved a.key s1 = .ok ((), s1) := unreserved_ok (by rw [tag]; exact hfree)
  refine gives_of_write rfl hr hc hg (stands.issue.trans (frame.issue.trans ?_)) ?_
  · unfold dealt
    split
    · exact (nothingDealt_taskFrame _ _).issue
    · exact (writtenHome_homeFrame _ _ _).issue
  · rw [← dealLogged] at event
    simp only [run_bind, readP_ok hp, hv, hazard_ok hheld, run_get, run_ite, bare, event, value]
    unfold dealt
    rcases hown with same | apart
    · simp only [same, ne_eq, not_true_eq_false, if_false, ite_not, run_modify, written]
      split
      · rfl
      · rfl
    · simp only [apart, Option.isSome_none, Bool.false_eq_true, if_false, bare, event, value, run_modify, written, ite_self, ne_eq,
        ite_not]
      split
      · rfl
      · rfl

/-- DEAL has raised the next index of the card by the chunk that it dealt, or remembers that nothing was left. -/
theorem deal_deals (hmem : Memory.wf s1.mem = true) (hlmem : Memory.wf s1.launch.lmem = true) :
    ∃ t, Gives (.deal g p) g (BitVec.ofNat 64 ((dealChunk x).1 + (dealChunk x).2 * 2 ^ 32)) s t ∧ t.cur.regs = s.cur.regs ∧
      ((dealChunk x).2 = 0 → t.mem = s.mem ∧ t.launch.lmem = s.launch.lmem ∧
        (s.cur.card.map (·.1) = some (pval s p) → t.cur.dealt0 = true)) ∧
      ((dealChunk x).2 ≠ 0 → ∀ k, baseByte t k = if a.key + 32 ≤ k ∧ k < a.key + 36
        then softByte s1 k (BitVec.ofNat 8 (((dealChunk x).1 + (dealChunk x).2) / 256 ^ (k - (a.key + 32)))) else baseByte s k) := by
  have stands := between_of (viewRecord_viewed hv).left hc hmode
  have frame : TaskFrame s1 (dealLogged a s1) := logEvent_taskFrame stands.mode _ _ _ _ _
  refine ⟨_, deal_gives hr hc hmode hp hg htag hv hown hheld hfree, ?_⟩
  by_cases nothing : (dealChunk x).2 = 0
  · have left := frame.trans (nothingDealt_taskFrame (pval s p) (dealLogged a s1))
    rw [dealt, if_pos nothing]
    refine ⟨left.regs.trans stands.regs, fun _ => ⟨left.mem.trans stands.mem, left.lmem.trans stands.lmem,
      fun worker => ?_⟩, fun left => absurd nothing left⟩
    have card : (dealLogged a s1).cur.card = s.cur.card := frame.card.trans stands.card
    show ((dealLogged a s1).cur.dealt0 || (dealLogged a s1).cur.card.map (·.1) == some (pval s p)) = true
    rw [card, worker, beq_self_eq_true, Bool.or_true]
  · have home := writtenHome_homeFrame (a.key + 32) (toBytes 4 ((dealChunk x).1 + (dealChunk x).2)) (dealLogged a s1)
    rw [dealt, if_neg nothing]
    refine ⟨?_, fun zero => absurd zero nothing, fun _ k => ?_⟩
    · rw [home.cur rfl, frame.regs, stands.regs]
    · rw [writtenHome_byte (frame.cells.wf ⟨hmem, hlmem⟩), toBytes_length, frame.softByte, frame.cells.byte, stands.cells.byte,
        Nat.add_assoc]
      split
      · rw [toBytes_getD (by omega)]
      · rfl

end

end Sys2Proof.Claims
end

section
open Sys2Proof Sys2Proof.Machine

namespace Sys2Proof.Claims

/-! What SPAWN and SPAWNB leave of queue, threads and memory (R158, R162), and the whole family. -/

section
variable {s s1 : State} {p : BitVec 4} {gk : GReg} {g : GOp} {a : Acc} {x : Nat} (hr : Ready onThread s) (hc : ChunkEmpty s)
  (hmode : s.launch.mode = .free) (hask : s.cur.asking = false) (hans : s.cur.answer = none) (hp : PReadable s p)
  (hg : CanTake g s) (hv : viewRecord (pval s p) rR true s = .ok ((a, x), s1)) (hk : Readable s1 gk)
include hr hc hmode hask hans hp hg hv hk

/-- With room in its queue the seed stands at its end. -/
theorem spawn_queues (hbad : seedBad x = false) (hroom : QueueRoom (dieOf s.cur.core) 1 s)
    (hplaces : (s.getDie (dieOf s.cur.core)).reserved < totalRoom s1 (dieOf s.cur.core)) :
    ∃ t e b, Gives (.spawn g gk p) g 0 s t ∧
      (t.getDie (dieOf s.cur.core)).entries = (s.getDie (dieOf s.cur.core)).entries ++ [e] ∧
      e.tid = s.nextTid ∧ e.key = gval s1 gk ∧ t.agents = s.agents ++ [b] ∧ b.tid = s.nextTid ∧ b.state = .ready ∧
      b.regs.pc = BitVec.ofNat 80 x ∧ b.key = gval s1 gk ∧ t.mem = s.mem ∧ t.launch.lmem = s.launch.lmem ∧
      t.cur.npc = s.cur.npc ∧ t.cur.regs = s.cur.regs := by
  have stands := between_of (viewRecord_viewed hv).left hc hmode
  have die : dieOf s1.cur.core = dieOf s.cur.core := congrArg dieOf stands.core
  have frame := queuedSpawn_taskFrame (dieOf s.cur.core) (spawnedAgent s1 x (gval s1 gk)) s1
  have placed : SeedPlaced (dieOf s1.cur.core) (spawnedAgent s1 x (gval s1 gk)) s1 0
      (queuedSpawn (dieOf s.cur.core) (spawnedAgent s1 x (gval s1 gk)) s1) := by
    rw [die]
    refine .queued ?_ ((hroom.of_die (stands.queue _)).placeSpawned _)
    rw [stands.queue]
    exact Nat.not_le.2 hplaces
  refine ⟨_, entryOf s1 (spawnedAgent s1 x (gval s1 gk)), spawnedAgent s1 x (gval s1 gk),
    spawn_gives hr hc hmode hask hans hp hg hv hk hbad placed frame, ?_, stands.nextTid, rfl, ?_, stands.nextTid, rfl,
    spawnedAgent_pc _ _ _, rfl, frame.mem.trans stands.mem, frame.lmem.trans stands.lmem,
    frame.npc.trans stands.npc, frame.regs.trans stands.regs⟩
  · rw [queuedSpawn_getDie, stands.queue]
  · rw [queuedSpawn_agents, stands.agents]

/-- Without a place for it SPAWN leaves no seed. -/
theorem spawn_full (hbad : seedBad x = false) (hfull : totalRoom s1 (dieOf s.cur.core) ≤ (s.getDie (dieOf s.cur.core)).reserved ∨
      roomFor (addSpawned (spawnedAgent s1 x (gval s1 gk)) s1) (dieOf s.cur.core) = .full) :
    Gives (.spawn g gk p) g 1 s s1 := by
  have stands := between_of (viewRecord_viewed hv).left hc hmode
  have placed : SeedPlaced (dieOf s1.cur.core) (spawnedAgent s1 x (gval s1 gk)) s1 1 s1 := by
    rw [stands.core]
    rcases hfull with noRoom | full
    · exact .reserved (by rw [stands.queue]; exact noRoom)
    · exact .full (by rw [placeSeed, full])
  exact spawn_gives hr hc hmode hask hans hp hg hv hk hbad placed (.refl s1)

/-- With room in its queue for all of them the workers of a card stand at its end. -/
theorem spawnb_queues (hbad : cardBad x = false) (hroom : QueueRoom (dieOf s.cur.core) (field x 255 240) s)
    (hres : (s.getDie (dieOf s.cur.core)).reserved = 0) :
    ∃ t es bs, Gives (.spawnb g gk p) g 0 s t ∧
      (t.getDie (dieOf s.cur.core)).entries = (s.getDie (dieOf s.cur.core)).entries ++ es ∧
      es.length = field x 255 240 ∧ t.agents = s.agents ++ bs ∧ bs.length = field x 255 240 ∧ t.mem = s.mem ∧
      t.launch.lmem = s.launch.lmem ∧ (t.getDie (dieOf s.cur.core)).reserved = 0 ∧ t.cur.regs = s.cur.regs ∧
      ∀ k, k < field x 255 240 → (es[k]?).map (·.tid) = some (s.nextTid + k) ∧ (es[k]?).map (·.key) = some (gval s1 gk) ∧
        (bs[k]?).map (·.tid) = some (s.nextTid + k) ∧ (bs[k]?).map (·.regs.pc) = some (BitVec.ofNat 80 x) ∧
        (bs[k]?).map (·.card) = some (some (pval s p, s.nextTid)) := by
  have stands := between_of (viewRecord_viewed hv).left hc hmode
  obtain ⟨t, es, bs, gives, queued⟩ := spawnb_gives hr hc hmode hask hans hp hg hv hk hbad (hroom.of_die (stands.queue _))
    (by rw [stands.queue]; exact hres)
  have frame := (cardTaken_taskFrame (dieOf s.cur.core) (field x 255 240) s1).trans queued.frame
  have first : (cardTaken (dieOf s.cur.core) (field x 255 240) s1).nextTid = s.nextTid := by
    rw [cardTaken_nextTid, stands.nextTid]
  have posting : (cardTaken (dieOf s.cur.core) (field x 255 240) s1).cur.posting = s.nextTid := by
    rw [cardTaken, State.modLaunch_cur]; exact stands.nextTid
  refine ⟨t, es, bs, gives, ?_, queued.seeds, ?_, queued.threads, frame.mem.trans stands.mem,
    frame.lmem.trans stands.lmem, ?_, frame.regs.trans stands.regs, fun k hk => ?_⟩
  · rw [queued.entries, cardTaken_getDie, ← stands.queue]; rfl
  · rw [queued.agents, cardTaken_agents, stands.agents]
  · rw [queued.reserved, cardTaken_getDie]
    show (s1.getDie _).reserved + _ - _ = 0
    rw [Nat.add_sub_cancel, stands.queue, hres]
  · obtain ⟨seedTid, seedKey⟩ := queued.seed k hk
    obtain ⟨tid, pc, card⟩ := queued.thread k hk
    rw [first] at seedTid tid
    rw [posting] at card
    exact ⟨seedTid, seedKey, tid, pc, card⟩

end

/-- Settles O45: each instruction runs between chunks, comes to its queue or its record, and writes its destination last. -/
theorem taskInstructionsResult : Obligations.TaskInstructionsResult := by
  unfold Obligations.TaskInstructionsResult
  intro s g p s1 a x hr hc hmode hask hans htag hp hg
  refine ⟨fun hv gk hk => ⟨?spawn, ?spawnFull, ?spawnb⟩, fun hreach hheld => ⟨?takeNothing, ?takeWaits, ?takeTakes⟩, ?deal⟩
  case spawn => exact fun hbad ring holding room => spawn_queues hr hc hmode hask hans hp hg hv hk hbad ⟨ring, holding, room⟩
  case spawnFull => exact spawn_full hr hc hmode hask hans hp hg hv hk
  case spawnb =>
    exact fun hbad ring holding hres room => spawnb_queues hr hc hmode hask hans hp hg hv hk hbad ⟨ring, holding, room⟩ hres
  case takeNothing => exact take_nothing hr hc hmode hp hreach hheld hg
  case takeWaits => exact take_waits hr hc hmode hp hreach hheld
  case takeTakes =>
    exact fun e b hchoice hagent hother hmem hlmem hres =>
      take_takes hr hc hmode hp hreach hheld hg htag hchoice hagent hother hres hmem hlmem
  case deal =>
    intro hv hown hheld hmem hlmem hfree
    have deals := deal_deals hr hc hmode hp hg htag hv hown hheld hfree hmem hlmem
    rw [dealChunk_eq] at deals
    exact deals

end Sys2Proof.Claims
end

section
/-! A well-formed instruction with more extension words than a chain may hold (R178, R192, R351). -/

namespace Sys2Proof

/-- CRRD to a port, of a control register whose number takes three immediate extensions. -/
noncomputable def overlongCrrd : Instr := .crrd (.port .west) 0x400000

theorem wellFormed_overlongCrrd : wellFormed overlongCrrd = true := rfl

/-- Five extension words before the base word: the page, the port as the source of A, and the three immediates. -/
theorem encode_overlongCrrd : encode overlongCrrd = some [0xFC06, 0xFE00, 0xF801, 0xF800, 0xF800, 0x0D81] := by decide

/-- A chain has at most four extension words (R178): the decoder refuses the fifth. -/
theorem decode_overlongCrrd : decode [0xFC06, 0xFE00, 0xF801, 0xF800, 0xF800, 0x0D81] = .error .shape := rfl

end Sys2Proof
end

section
open Sys2Proof

/-- Refutes O59: a control register may be named by 31 bits also where CRRD or CRWR has a port as its operand. A number of 2^22 or
more then takes a fifth extension word, and the decoder refuses the words that the encoder gives. -/
theorem not_decodeEncode : ¬ Obligations.DecodeEncode := by
  unfold Obligations.DecodeEncode
  intro inverse
  obtain ⟨ws, encoded, -, -, decodes⟩ := inverse overlongCrrd wellFormed_overlongCrrd
  cases encoded.symm.trans encode_overlongCrrd
  obtain ⟨ch, decoded, -⟩ := decodes []
  cases decoded.symm.trans decode_overlongCrrd

end

section
/-! A turn that takes the agent in front away: its release fails the rival whose A program it is (R20, R71, R136, R275). -/

namespace Sys2Proof.Machine

/-- The core has the page entry `n` of an address, in its buffer and in the unit's cache. -/
def withPage (va n : Nat) (s : State) : State :=
  { cacheEntry s s.core.id va n with core := fillPlb s.core (plbOf (va / 65536) (some 0) n) }

/-- A page entry as `placeEntry`, but with the last frame that an entry can name: no memory lies there. -/
def lastFrameEntry : Nat := placeEntry + (2 ^ 36 - 2) * 2 ^ 48

/-- The A program of `crampedRelease`, with that release under way, stands before a NOP; the next word of its thread lies in a frame
without memory. -/
def crampedTurn : State :=
  withPage 0x10000 placeEntry (withPage 0x20000 lastFrameEntry { crampedRelease with
    cur := { crampedRelease.cur with rel := some [], regs := { Regs.zero with pc := 0x10000 } }
    agents := crampedRelease.agents.map fun a => { a with regs := { a.regs with pc := 0x20000 } }
    launch := { crampedRelease.launch with phase := .running, image := writeCell [] 0x10000 1 }
    packages := [{ Package.new 0 with inReset := false, tagLines := 0 }] })

/-- An agent may issue loads while its release is under way (R136), and X's order of slots does not bind A (R20). -/
theorem issues_crampedTurn :
    mayIssue crampedTurn crampedTurn.cur = true ∧ isTurn crampedTurn crampedTurn.cur = true := by decide +kernel

theorem decode_nopWord : decode [0x0001] = .ok (.nop, { Chain.start with base := 0x0001 }, []) := rfl

/-- Also after the turn has begun, the words at the A program's pc are those of the NOP, which runs. -/
theorem fetchChain_crampedTurn : ∃ t, fetchChain 5 crampedTurn.cur.regs.pc (takeTurn crampedTurn) = .ok ([0x0001], t) ∧
    ∃ u, exec .nop (t.modCur fun a => { a with base := 0x10000, npc := 0x10002 }) = .next u := ⟨_, rfl, _, rfl⟩

/-- The turn has put the thread in front, and the step fetches at that one's pc. -/
theorem step_crampedTurn : ∃ pa, step crampedTurn = .fault (.noMemory pa) := ⟨_, rfl⟩

end Sys2Proof.Machine
end

section
open Sys2Proof Sys2Proof.Machine

/-- Refutes O58: at the start of a turn the release under way of the agent goes on. Where its store finds no room in the view the
rival fails and its A program, the agent in front, goes; the step then fetches for the thread that stands in front instead, and not
at the pc that the statement names. -/
theorem not_stepRunsDecoded : ¬ Obligations.StepRunsDecoded := by
  unfold Obligations.StepRunsDecoded
  rintro ⟨-, -, runs, -⟩
  obtain ⟨may, turn⟩ := issues_crampedTurn
  obtain ⟨t, fetched, u, issued⟩ := fetchChain_crampedTurn
  obtain ⟨decoded, -⟩ := runs crampedTurn _ t rfl may turn fetched
  obtain ⟨goesOn, -⟩ := decoded _ _ _ decode_nopWord
  obtain ⟨pa, stops⟩ := step_crampedTurn
  cases (goesOn u issued).symm.trans stops

end
